-- ==== Sys2Proof/Word.lean ====
section
/-! DEFINITION. The words the module's registers and records are made of, the numbers that name its parts,
and the one sparse form in which the model keeps everything the spec numbers. -/

namespace Sys2Proof

/-- A byte of a store, an image, a record or a message. -/
abbrev Byte := BitVec 8

/-- A 32-bit register or dword (registers are 32 bits wide, 00_scope). -/
abbrev Word := BitVec 32

/-- Cadence time: the lap in [55:16] and the tick in [15:0] (R23). -/
abbrev Time := BitVec 56

/-- A PCIe port: 0 is H0, 1 is H1 (R303). -/
abbrev Port := Fin 2

/-- A pavilion, dies 0 to 3 (R9). -/
abbrev Pav := Fin 4

/-- A gatehouse, dies 4 and 5 (R9). -/
abbrev Gh := Fin 2

/-- A module spoke number, 0 to 35 (R11). -/
abbrev Spoke := Fin 36

/-- A module allotment number (R117). -/
abbrev Allot := Fin 16

/-- A logical array index 16G + q (R78). -/
abbrev ArrayIx := Fin 256

/-- A mover of the module: 16p + m on pavilion p, and 64 + 8h + m on gatehouse h (R100, Table 5-2). -/
abbrev MoverIx := Fin 80

/-- A turnstile number (R128). -/
abbrev Trn := Fin 8192

/-- A scratchpad bank of the module, 48p + b (R77). -/
abbrev Bank := Fin 192

/-- A strobe group (R314). -/
abbrev Sgrp := Fin 16

/-- A ring: 0 and 1 are the port rings of H0 and H1, 2 + n is the ring of allotment n (R319). -/
abbrev RingIx := Fin 18

/-- A collection that the spec numbers, kept as the pairs (number, entry) with the numbers strictly rising
and no entry equal to what an unlisted number reads as. -/
abbrev Sparse (α : Type) := List (Nat × α)

end Sys2Proof
end

