-- ==== Sys2Proof/Config.lean ====
section
/-! DEFINITION. What one unit fixes and what the spec leaves open: the free values (constants with no body, so
that nothing can be proved of the value they take) and the cryptographic functions that the spec names by the standard
that defines them. -/

namespace Sys2Proof.Config

/-- FREE VALUE. The byte that a word of HBM4 or DDR5 reads as before it is written under its owner's key (R195): the first
argument numbers the memory key, the second is the module memory address. DESIGN CHOICE: assumption 5. -/
opaque unwritten : Nat → Nat → Byte

/-- FREE VALUE. Byte i of the n-th request of the lodge's random generator (R334). DESIGN CHOICE: assumption 9. -/
opaque drbg : Nat → Nat → Byte

/-- FREE VALUE. The rounding of an exact lap figure into the integer that a latched register shows: R36 and the register
tables give the unit, not the rounding. The first argument is the exact figure in units of the register. DESIGN CHOICE:
assumptions 12, 115. -/
opaque latchRound : Rat → Nat

/-- FREE VALUE. The voltage of the rails VHBM0 to VHBM3 in mV, of which Table 10-2 says "as HBM4 requires". DESIGN CHOICE:
assumption 11. -/
opaque vhbmMv : Nat

/-- FREE VALUE. M / E_raw of R288 in a lap whose E_raw is 0, which the spec does not state; the argument is M in W.
DESIGN CHOICE: assumptions 11, 115. -/
opaque ratioOpen : Rat → Rat

/-- FREE VALUE. The bytes of a bank word beyond the end of a vector's output blocks, which an edge unit writes with the whole
word (R184), by scratchpad address; and the bytes of an activation vector that no join carries, by array, entry, vector number and
byte. DESIGN CHOICE: assumption 24. -/
opaque outputPad : Nat → Byte
opaque unjoined : Nat → Nat → Nat → Nat → Byte

/-- FREE VALUE. The array cycle of its tick in which the hub's write of a packet's or an engine's word reaches the port of a bank, by
time and word: the order of R98 holds within one cycle, and no rule gives the cycle. DESIGN CHOICE: assumption 123. -/
opaque hubCycle : Nat → Nat → BitVec 4

/-- FREE VALUE. Whether a COPY_CRC descriptor between two spaces appends check words or checks them: Table 4-5 names both and
no field chooses. And the POSITION that an appended check word carries, by mover and descriptor. DESIGN CHOICE: assumption
25. -/
opaque crcAppends : BitVec 4 → BitVec 4 → Bool
opaque crcPosition : Nat → Nat → BitVec 16

/-- FREE VALUE. The unit's serial number, 16 ASCII bytes (Table 13-5). DESIGN CHOICE: assumption 111. -/
opaque unitSerial : BitVec 128

/-- FREE VALUE. The unit's manufacture day (Table 13-5). DESIGN CHOICE: assumption 111. -/
opaque unitMfgDay : BitVec 32

/-- FREE VALUE. The root secret that the PUF and the helper data give at the boots of this unit (R332). DESIGN CHOICE: assumption
111. -/
opaque rootSecret : List Byte

/-- FREE VALUE. What manufacture has put into the unit's flash: the endorsement (R333), the repair map with its signature pair
(R384), and the pieces of the bundle in bank 0. DESIGN CHOICE: assumptions 111, 117. -/
opaque endorsement : List Byte
opaque repairMap : List Byte
opaque factoryBundle : List (Nat × List Byte)

/-- FREE VALUE. Which way a reading that lies exactly between two steps of a coarsened scale goes (R289 says nearest).
DESIGN CHOICE: assumptions 13, 115. -/
opaque tieUp : Rat → Bool

/-- FREE VALUE. The mailbox status of GET_CREDENTIAL before S5 has signed a credential: Table 12-9 names none for it.
DESIGN CHOICE: assumption 91. -/
opaque earlyCredential : BitVec 8

/-- RSASSA-PSS with RSA-3072, SHA-384, MGF1-SHA-384 and a 48-byte salt (R330): the verdict on a signature of 384 bytes, by
modulus and message. DESIGN CHOICE: assumption 10. -/
opaque rsaVerify : List Byte → List Byte → List Byte → Bool

/-- SLH-DSA-SHA2-192s in pure mode with an empty context (R330): the verdict on a signature of 16,224 bytes, by public key and
message. DESIGN CHOICE: assumption 10. -/
opaque slhVerify : List Byte → List Byte → List Byte → Bool

/-- The two signatures with the key pair generated from a seed, by seed, random salt and message (R330, R332). DESIGN CHOICE:
assumption 10. -/
opaque rsaSign : List Byte → List Byte → List Byte → List Byte
opaque slhSign : List Byte → List Byte → List Byte → List Byte

/-- The RSA modulus and the SLH-DSA public key of the pairs that R332 generates from a seed. DESIGN CHOICE: assumption 10. -/
opaque rsaModulus : List Byte → List Byte
opaque slhPublic : List Byte → List Byte

/-- FREE VALUE. The Solansen public key pairs in the lodge's boot ROM, 432 bytes each (R331): 0 firmware, 1 repair maps, 2
endorsements. DESIGN CHOICE: assumption 111. -/
opaque solansenKey : Nat → List Byte

/-- The public ML-KEM-1024 key of the pair made from random request n (R335). -/
opaque kemPublic : Nat → List Byte

/-- The public P-384 point of the pair made from random request n (R335). -/
opaque ecdhPublic : Nat → List Byte

/-- ML-KEM-1024 encapsulation to a public key with random request n: the ciphertext. -/
opaque kemCipher : List Byte → Nat → List Byte

/-- ML-KEM-1024 encapsulation to a public key with random request n: the shared secret. DESIGN CHOICE: assumption 10. -/
opaque kemSecret : List Byte → Nat → List Byte

/-- ML-KEM-1024 decapsulation with the pair of random request n. -/
opaque kemDecap : Nat → List Byte → List Byte

/-- ECDH P-384 of the private key of random request n and a public point. DESIGN CHOICE: assumption 10. -/
opaque ecdh : Nat → List Byte → List Byte

/-- FREE VALUE. The settings record in flash, whose bytes the spec does not give: lease laps, lapse cap and CONF_ALWAYS (R335,
R409). DESIGN CHOICE: assumption 112. -/
opaque settingsRecord : BitVec 16 → BitVec 16 → Bool → List Byte

/-- FREE VALUE. The certificate chain of SPDM slot 0, from the Solansen root to the unit's RSA identity certificate, whose bytes the
spec does not give (R354). DESIGN CHOICE: assumption 60. -/
opaque certChain : List Byte

/-- FREE VALUE. The HMAC that the FINISH request of a secure session carries, from the shared secret of its key exchange (R354); SPDM
makes it from a transcript that the spec does not give. DESIGN CHOICE: assumption 60. -/
opaque finishMac : List Byte → List Byte

/-- FREE VALUE. The AES-256-GCM key and the nonce of one way of a secure session (R354), from its shared secret: 0 and 1 for the records
to and from the responder until FINISH, 2 and 3 after it; SPDM makes them from a transcript that the spec does not give. DESIGN CHOICE:
assumption 60. -/
opaque sessionKey : List Byte → Nat → List Byte

/-- The bytes of a response whose layout a standard outside the spec gives (PLDM, MCTP, SPDM), beyond the values that the spec
states: the protocol's type and command. PRESUMED: assumption 60. -/
opaque protocolBytes : Nat → Nat → List Byte

end Sys2Proof.Config
end

