-- ==== Sys2Proof/Syntax.lean ====
section
/-! DEFINITION. The commands: one constructor of Instr for each row of spec/opcode_table.json, with the operands
that the outside world supplies when the operation or event takes place. The types before Instr are those operands. -/

namespace Sys2Proof

/-- What has happened to one stored word that a command reads: its store (0 module memory, 1 scratchpad, 2 weight slots,
3 staging memories), its number there (the address divided by 32), the error pattern of its 36 symbols (R182, data symbols
first) and, on DDR5, whether the address tag differs (R185). -/
structure Noise where
  store : Fin 4
  word : Nat
  err  : List Byte
  tag  : Bool
  deriving DecidableEq, Repr

/-- A port of the pergola or of a bridge at which a transfer arrives (Table 7-5): region 4r + port of a pavilion,
or a bridge's receiving end at a die. -/
inductive FabricPort where
  | pergola (p : Pav) (regionPort : BitVec 4)
  | bridge (die : Fin 6) (index : BitVec 4)
  deriving DecidableEq, Repr

/-- What has happened to one word of a transfer on its way (R184, Table 7-3): the port at which it is decoded, the number of the
word in the transfer, and the error pattern of its 36 symbols. -/
structure PathNoise where
  port : FabricPort
  word : Nat
  err  : List Byte
  deriving DecidableEq, Repr

/-- What has happened to the words that a command reads and carries: where they are stored, and on their way. -/
structure Passage where
  noise : List Noise
  path  : List PathNoise
  deriving DecidableEq, Repr

/-- A station of a transit ring at which a packet hops, and what happens to the packet's payload words on a bridge where the hop
registers it in a pavilion or a stack behind one. -/
structure RingHop where
  station : Fin 22
  path    : List PathNoise
  deriving DecidableEq, Repr

/-- A segment of a stage, and what happens to the words of its output on their way to OUT_BUF. -/
structure SegmentOut where
  seg  : Fin 256
  path : List PathNoise
  deriving DecidableEq, Repr

/-- The same of the word of a mover, with the array cycle of the tick in which a bank takes the word. -/
structure WordPassage where
  noise : List Noise
  path  : List PathNoise
  cycle : BitVec 4
  deriving DecidableEq, Repr

/-- The results of a vector: the array, the output tile index of R63, for each join that carries the output the word of its bank at
which the output's words begin, the array cycle of the tick in which the banks take them, and what has happened to the words on
their way. DESIGN CHOICE: assumption 24. -/
structure VectorResult where
  x      : ArrayIx
  tile   : BitVec 32
  places : List (BitVec 17)
  cycle  : BitVec 4
  path   : List PathNoise
  deriving DecidableEq, Repr

/-- What a transfer brings to a port: the slice tag that its destination is bound to, and what has happened to its word. -/
structure ArrivingWord where
  bound : BitVec 12
  err   : List Byte
  deriving DecidableEq, Repr

/-- One sample of the power controller at a brake point (R266). Voltages in mV, currents in mA, temperatures in
thousandths of a degree, flow in units of 0.01 L/min. railI holds the currents of VGH0, VGH1, VPHY, VHBM0 to VHBM3 and VAUX
(Table 10-2). -/
structure PowerSample where
  vin    : Nat
  iin    : Nat
  vcore  : List Nat
  icore  : List Nat
  railI  : List Nat
  diodes : List Int
  stackT : List Int
  tIn    : Int
  tOut   : Int
  flow   : Nat
  leak   : Bool
  deriving DecidableEq, Repr

/-- The lap figures that the power controller's activity counts give and whose energies the spec does not state: E_raw (R288)
and the headroom power S_h (R271), both in mW. DESIGN CHOICE: assumption 11. -/
structure LapMeasure where
  eRaw : Nat
  sH   : Nat
  deriving DecidableEq, Repr

/-- What memory training reports for one stack or channel (R197 to R199). -/
inductive TrainResult where
  | stack (site : Fin 12) (present trained : Bool) (lanesRepaired : BitVec 8) (exhausted : Bool)
  | channel (ch : Fin 8) (present ecc speed : Bool) (gib : BitVec 9) (trained : Bool)
  deriving DecidableEq, Repr

/-- The units of one known-answer run (Table 14-3, rows 0 to 4). -/
inductive KatUnit where
  | array (x : ArrayIx)
  | edge (x : ArrayIx)
  | decoder (die : Fin 8)
  | mover (m : MoverIx)
  | lodge
  deriving DecidableEq, Repr

/-- Why a port is reset (R327, R425). -/
inductive PortResetCause where
  | linkDown | hotReset | flr | perst
  deriving DecidableEq, Repr

/-- What a PCIe link comes up with: its SPEED code and the level of the port's PERST_N (R425). -/
structure LinkTrained where
  speed : BitVec 3
  perst : Bool
  deriving DecidableEq, Repr

/-- The roles that an active and a standby unit serve (R372). -/
inductive Role where
  | warden | power | lodge
  deriving DecidableEq, Repr

/-- The error of a gatehouse error signal, with the code it carries (Table 13-6). -/
inductive ErrSrc where
  | localMemory | busProtocol | exception | vghRail | controlPll
  deriving DecidableEq, Repr

/-- A fabric packet: the header of Table 8-7 field by field, and its payload. -/
structure Packet where
  cls     : BitVec 4
  ver     : Bool
  long    : Bool
  trnEn   : Bool
  key     : Bool
  slice   : BitVec 12
  hops    : BitVec 3
  words   : BitVec 9
  rsv1    : Bool
  trnIdx  : BitVec 13
  dst     : BitVec 18
  rsv2    : BitVec 14
  src     : BitVec 18
  buf     : BitVec 16
  trnInc  : BitVec 16
  offset  : BitVec 32
  tag     : BitVec 96
  payload : List Byte
  deriving DecidableEq, Repr

/-- What the receiving end finds of a packet's passage: whether the whole packet came in, whether its whole header
did, whether a header or a payload word was uncorrectable, and how many words the decoder corrected. -/
structure RxState where
  whole       : Bool
  headerWhole : Bool
  headerUe    : Bool
  payloadUe   : Bool
  corrected   : Nat
  deriving DecidableEq, Repr

/-- A scrubbing unit (R191). -/
inductive ScrubUnit where
  | stack (site : Fin 12)
  | channel (ch : Fin 8)
  deriving DecidableEq, Repr

/-- The unit a pergola or bridge transfer was started by. -/
inductive TransferSource where
  | mover (m : MoverIx)
  | array (x : ArrayIx)
  deriving DecidableEq, Repr

/-- SPDM and TDISP requests over DOE (R354, R355): versions, capabilities, algorithms, the digest and a part of the certificate chain of
slot 0, a challenge, a measurement block, signed where a nonce comes with it, the key exchange of a secure session with the requester's
P-384 point, its FINISH with the requester's HMAC, its end, the lock and start of the interface, an IDE key of one of the port's two
streams, a sealed record of the session, which holds a request, and any other request by its code. -/
inductive SpdmRequest where
  | version
  | capabilities
  | algorithms
  | digests
  | certificate (offset length : BitVec 16)
  | challenge (nonce : List Byte)
  | measurement (index : BitVec 8) (nonce : Option (List Byte))
  | keyExchange (nonce point : List Byte)
  | finish (mac : List Byte)
  | endSession
  | lockInterface
  | startInterface
  | ideKeys (stream : Fin 2) (key : List Byte)
  | secured (record : List Byte)
  | other (code : BitVec 8)
  deriving DecidableEq, Repr

/-- A PLDM request for a version (R363): of a type's version, or any request that no row of the table is, by its type and command. -/
inductive PldmQuery where
  | version (type : BitVec 8)
  | other (type cmd : BitVec 8)
  deriving DecidableEq, Repr

/-- One way of a spoke. -/
inductive Direction where
  | send | receive
  deriving DecidableEq, Repr

/-- A delivery path of the firmware update (R397). -/
inductive UpdPath where
  | host | tray
  deriving DecidableEq, Repr

/-- The commands of the block, in the order of spec/opcode_table.json. -/
inductive Instr where
  | firstLapMark
  | lapBoundary (mark : Bool) (m : LapMeasure)
  | misplacedLapMark
  | cadrefStop
  | syncArmSet (p : Port) (spoke : BitVec 6)
  | syncArmAdopt (p : Port) (spoke : BitVec 6)
  | syncCancel (p : Port)
  | lapBeaconSend
  | lapBeaconReceive (k : Spoke) (lap : BitVec 40) (synced : Bool)
  | idlePllLock (p : Pav)
  | pllLockCheck
  | gearShift
  | recoveryRampStep
  | rampStep
  | restRampStart (a : Allot)
  | runRampStart (a : Allot)
  | brakeLevelEval
  | powerSample (x : PowerSample)
  | leaseRenew (p : Port)
  | hostCapWrite (p : Port) (data : Word)
  | rollCallSample
  | rollCallDecision
  | holdBegin
  | brakeReleaseSample
  | holdRelease
  | vinLowDetect
  | vinLowClear
  | holdupSave (vin : BitVec 16)
  | savePageDone
  | undervoltageLockout
  | thermalTrip (p : Pav) (diode : Fin 16)
  | powerGood (slot : BitVec 2)
  | vauxStart
  | bootAdvance (p : Port) (n : BitVec 4)
  | bootStepDone (n : BitVec 4) (ms : BitVec 16)
  | stepTimeout (ms : BitVec 16)
  | memoryTrainingDone (r : TrainResult)
  | knownAnswerRunDone (u : KatUnit) (g5 : Bool) (crc expected : BitVec 64)
  | bootReset (p : Port) (key : BitVec 16)
  | railOffElapsed (hot : Bool)
  | allotReset (p : Port) (mask : BitVec 16)
  | allotResetQuiesced (a : Allot)
  | allotResetDone (a : Allot)
  | bankZeroingDone (b : Bank)
  | ringPoll (r : RingIx)
  | submissionFetch (r : RingIx) (cqHead : BitVec 32) (entries : List (List Byte))
  | run (a : Allot) (entry : List Byte)
  | runStart (a : Allot)
  | loadLayout (p : Port) (entry : List Byte)
  | loadReadDone (image : List Byte)
  | start (p : Port) (entry : List Byte)
  | allotmentStartLap (a : Allot)
  | release (p : Port) (entry : List Byte)
  | releaseKeyRemoval (a : Allot)
  | give (p : Port) (entry : List Byte)
  | take (p : Port) (entry : List Byte)
  | completionWrite (r : RingIx)
  | interruptHoldoffEnd (r : RingIx)
  | eventMessage (p : Port)
  | stewardGive (p : Port)
  | stewardClaim (p : Port)
  | ringEnable (p : Port) (r : RingIx) (data : Word)
  | ringDisable (p : Port) (r : RingIx) (data : Word)
  | portReset (p : Port) (cause : PortResetCause)
  | hostAccessTimeout (m : MoverIx)
  | stagingWindowMap (p : Port) (a : Allot) (data : Word)
  | allotSchedWrite (p : Port) (a : Allot) (data : Word)
  | stagingWindowRead (p : Port) (offset : BitVec 28) (bytes : BitVec 13) (way : Passage)
  | stagingWindowWrite (p : Port) (offset : BitVec 28) (data : List Byte) (way : Passage)
  | indirectDataAccess (p : Port) (write : Option Word)
  | strobeApply (p : Port) (g : Sgrp)
  | strobeArm (p : Port) (g : Sgrp)
  | strobeCancel (p : Port) (g : Sgrp)
  | armedStrobeDue (g : Sgrp)
  | registerWrite (p : Port) (offset : BitVec 26) (data : Word)
  | unitStart (a : Allot) (noise : List (Nat × List Byte))
  | ttIssue (a : Allot)
  | vectorAdmit (x : ArrayIx) (places : List (BitVec 17)) (way : Passage)
  | vectorResultReady (r : VectorResult)
  | ttMove (a : Allot)
  | moverWordTransfer (m : MoverIx) (host : List Byte) (word : WordPassage)
  | descriptorComplete (m : MoverIx)
  | pergolaTransferArrive (at_ : FabricPort) (src : TransferSource) (word : ArrivingWord)
  | ttShadow (a : Allot)
  | shadowLoadDone (a : Allot) (way : Passage)
  | planeSwap (a : Allot)
  | ttStrobe (a : Allot)
  | ttComplete (a : Allot)
  | ttPhaseEnd (a : Allot)
  | ttTrnArm (a : Allot)
  | turnstileDeadline (t : Trn)
  | ttCollective (a : Allot)
  | segmentSendStart (a : Allot) (plan : Fin 256) (stage : Fin 4) (seg : Fin 256) (way : Passage)
  | segmentCompletionStep (a : Allot) (plan : Fin 256) (stage : Fin 4) (seg : Fin 256) (way : Passage)
  | segmentReductionDone (a : Allot) (plan : Fin 256) (stage : Fin 4) (seg : SegmentOut)
  | scrubWord (u : ScrubUnit) (noise : List Noise)
  | spokeTrainingStart (k : Spoke)
  | farEndSignal (k : Spoke)
  | equalisationComplete (k : Spoke)
  | alignMeasurementDone (k : Spoke) (good : Bool)
  | identityRecordSend (k : Spoke)
  | identityRecordReceive (k : Spoke) (record : List Byte)
  | identityAckReceive (k : Spoke)
  | trainingAttemptTimeout (k : Spoke)
  | lossOfSignal (k : Spoke)
  | spkSelfWrite (p : Port) (data : Word)
  | planOpen (p : Port)
  | planClose (p : Port)
  | recheck (p : Port)
  | packetSend (k : Spoke)
  | egressLate (k : Spoke)
  | transitRingHop (g : Gh) (station : RingHop)
  | packetReceive (k : Spoke) (pkt : Packet) (rx : RxState)
  | linkWordReceive (k : Spoke) (ret0 ret1 ret2 : BitVec 5) (ack epoch : Bool)
  | routingSwitch
  | linkKeyCred (k : Spoke) (cred : List Byte)
  | linkKeyEncap (k : Spoke) (ct : List Byte)
  | linkKeyConfirm (k : Spoke) (mac : List Byte)
  | linkKeyAbort (k : Spoke)
  | linkKeyStepTimeout (k : Spoke)
  | linkKeyRetry (k : Spoke)
  | linkEpochAdvance (k : Spoke) (d : Direction)
  | getReport (p : Port)
  | openSession (p : Port)
  | releaseKey (p : Port)
  | getTelemetry (p : Port)
  | closeSession (p : Port)
  | getCredential (p : Port)
  | entropy (test : BitVec 16)
  | spdmMessage (p : Port) (req : SpdmRequest)
  | stopInterface (p : Port)
  | unitErrorSignal (g : Gh) (role : Role) (src : ErrSrc)
  | unitResyncDone (g : Gh) (role : Role)
  | odometerUpdate
  | ibiRepeat
  | i3cTargetReset
  | getpid
  | getbcr
  | getdcr
  | getstatus
  | getmwl
  | getmrl
  | setmwl (n : BitVec 16)
  | setmrl (n : BitVec 16)
  | entdaa (addr : BitVec 7)
  | rstdaa
  | enec
  | disec
  | getmodstat
  | modreset (data : List Byte)
  | setEndpointId (write : List Byte)
  | getEndpointId
  | getMctpVersionSupport
  | getMessageTypeSupport
  | getTid
  | setTid (tid : BitVec 8)
  | getPldmVersion (query : PldmQuery)
  | getPldmTypes
  | getPldmCommands (type : BitVec 8)
  | getPdrRepositoryInfo
  | getPdr (handle : BitVec 32)
  | getSensorReading (id : BitVec 16)
  | getStateSensorReadings (id : BitVec 16)
  | getNumericEffecterValue (id : BitVec 16)
  | getStateEffecterStates (id : BitVec 16)
  | trayCap (v : BitVec 16)
  | trayGearMax (v : BitVec 16)
  | leaseRenewal (st : BitVec 8)
  | leaseLaps (v : BitVec 16)
  | lapseCap (v : BitVec 16)
  | confAlways (v : BitVec 8)
  | moduleResetEffecter (st : BitVec 8)
  | pollForPlatformEventMessage (ack : Option (BitVec 32))
  | eventMessageBufferSize (n : BitVec 16)
  | getFruRecordTableMetadata
  | getFruRecordTable
  | queryDeviceIdentifiers
  | getFirmwareParameters
  | requestUpdate (maxTransfer : BitVec 32)
  | passComponentTable (classification identifier : BitVec 16)
  | updateComponent (classification identifier : BitVec 16) (size : BitVec 32)
  | requestFirmwareData (offset : BitVec 32) (data : List Byte)
  | activateFirmware
  | getStatus
  | cancelUpdateComponent
  | cancelUpdate
  | pieceSubmit (p : Port) (piece : BitVec 15)
  | pieceProgramDone (readBack : Option (List Byte))
  | bundleVerifyDone (changed : List (BitVec 15 × List Byte))
  | updArm (p : Port)
  | updCancel (p : Port)
  | pcieLinkUp (p : Port) (width : BitVec 4) (speed : LinkTrained)
  | settingRecordCommit
  | tripWaitEnd
  deriving DecidableEq, Repr

end Sys2Proof
end

