-- ==== Sys2Proof/Machine/State.lean ====
section
/-! DEFINITION. The module as plain data: every register, counter, queue, store and mode that the spec gives it, the
queue of waiting commands, and what the module has put on its outside connections. The defaults of the fields are the
values after reset; the assumption log names those the spec does not state. -/

namespace Sys2Proof.Machine

/-- Why a command stops the machine. -/
inductive Fault where
  /-- Raised by a command that carries a byte string of a length that no such command has (Sys2Proof/WellFormed.lean): a
  64-byte ring entry, a 4,096-byte piece, a sample of the wrong number of diodes. Safe: no such command exists. -/
  | illFormed
  deriving DecidableEq, Repr

/-- Why a command has no meaning. -/
inductive Refusal where
  /-- Raised by an arm of exec whose meaning is not written. Safe. -/
  | notModelled (mnemonic : String)
  deriving DecidableEq, Repr

/-! ### Cadence, clocks and gears -/

/-- Cadence time and its synchronisation (02_cadence): the registers CAD_STATUS, CAD_SYNC_CTL, CAD_SYNC_LAP,
CAD_MARK_ERR and CAD_LATCH_LAP are views of these fields. -/
structure Cad where
  lap         : BitVec 40 := 0
  tick        : BitVec 16 := 0
  aligned     : Bool := false
  /-- CADREF has stopped; only a module reset leaves this (R43). -/
  stopped     : Bool := false
  synced      : Bool := false
  fixedLock   : Bool := false
  /-- Bit s: the latest beacon of spoke s disagreed (R29). -/
  mismatch    : BitVec 36 := 0
  markFault   : Bool := false
  /-- A mark error is registered in the lap that runs (R22). -/
  markErrLap  : Bool := false
  markErr     : Word := 0
  syncMode    : BitVec 2 := 0
  syncSpoke   : BitVec 6 := 0
  syncArmed   : Bool := false
  syncRefused : Bool := false
  syncLapLo   : Word := 0
  syncLapHi   : BitVec 8 := 0
  latchLap    : Word := 0
  deriving DecidableEq, Repr

/-- The two array-domain PLLs of a pavilion (R32): active is false for PLL A; ratio is what the idle PLL is programmed to. -/
structure Pll where
  active     : Bool := false
  activeLock : Bool := false
  idleLock   : Bool := false
  ratio      : BitVec 5 := 0
  deriving DecidableEq, Repr

/-- A ROLL_CALL message counted for the roll call in progress: job slice, rank and gear (R282). -/
structure RollMsg where
  slice : BitVec 12
  rank  : BitVec 16
  gear  : BitVec 3
  deriving DecidableEq, Repr

/-- VCORE of a pavilion as the module sets it (R268): it moves from one level to another, in mV, from the given tick. -/
structure Slew where
  fromMv : Rat := 0
  toMv   : Rat := 0
  at_    : Time := 0
  deriving DecidableEq, Repr

/-- The gear and the roll call (10_power_and_cooling). -/
structure GearSt where
  gear       : BitVec 3 := 0
  decided    : BitVec 3 := 0
  /-- The gear the idle PLLs are programmed for, 0 when for none. -/
  programmed : BitVec 3 := 0
  /-- A shift is due at the next lap boundary that R170 lets take one. -/
  shiftDue   : Bool := false
  /-- The lowest pavilion whose idle PLL failed the lock check of this lap (R34). -/
  lockFailed : Option (BitVec 2) := none
  /-- A PLL_LOCK fault has been recorded since module reset (R34). -/
  pllFault   : Bool := false
  /-- VCORE of each pavilion (R268). -/
  slews      : Sparse Slew := []
  /-- The tick of the next step of the ramps that are under way (R273). -/
  rampNext   : Time := 0
  /-- The own permitted gear sampled at the roll-call tick, and the lap of that tick (R281). -/
  sampled    : BitVec 3 := 0
  sampledLap : Option (BitVec 40) := none
  msgs       : List RollMsg := []
  ignored    : Nat := 0
  rcLap      : Word := 0
  rcMissRank : BitVec 11 := 0x7FF
  rcIgnored  : BitVec 5 := 0
  rcReceived : BitVec 11 := 0
  rcJob      : Option (BitVec 12) := none
  rcIncomplete : Bool := false
  deriving DecidableEq, Repr

/-- A buffered field (R6, R313): the value in effect, the buffered value, the value that was buffered before the writes
of the tick given, and that tick. -/
structure Rb (w : Nat) where
  eff  : BitVec w
  buf  : BitVec w
  old  : BitVec w
  at_  : Option Time := none
  deriving DecidableEq, Repr

/-! ### Power and cooling -/

/-- The basis of the power prediction (R278). -/
structure Basis where
  pGov  : Rat := 420
  sH    : Rat := 0
  gear  : BitVec 3 := 1
  level : Rat := 16
  deriving DecidableEq, Repr

/-- Caps, lease, brake level, permitted gear and the latched power figures. -/
structure Pwr where
  hostGear  : BitVec 3 := 5
  hostCap   : BitVec 16 := 0xFFFF
  trayGear  : BitVec 3 := 5
  trayCap   : BitVec 16 := 0xFFFF
  leaseLeft : BitVec 16 := 0
  lapsed    : Bool := true
  leaseLaps : BitVec 16 := 0x6FC3
  lapseCap  : BitVec 16 := 0x0BB8
  /-- EN in [19], GEAR_MAX in [18:16], CAP_W in [15:0] of PWR_HOST_SCHED. -/
  sched     : Rb 20 := ⟨0x5FFFF, 0x5FFFF, 0x5FFFF, none⟩
  capUnmet  : Bool := false
  vinLow    : Bool := false
  calFlag   : Bool := false
  permitted : BitVec 3 := 0
  brake     : Nat := 16
  /-- A cap, a ceiling or the lease has changed and the brake level is not evaluated yet (R272). -/
  brakeDue  : Bool := false
  basis     : Basis := {}
  /-- The calibration factor K, exact (R288). -/
  k         : Rat := 1
  vinL      : Rat := 0
  powerL    : Rat := 0
  estL      : Rat := 0
  vcoreL    : List Rat := [0, 0, 0, 0]
  icoreL    : List Rat := [0, 0, 0, 0]
  /-- The lap means of the currents of VGH0, VGH1, VPHY, VHBM0 to VHBM3 and VAUX (R266). -/
  railsL    : List Rat := [0, 0, 0, 0, 0, 0, 0, 0]
  /-- P_gov of the last laps, newest first, at most 64 (Table 10-7). -/
  history   : List Rat := []
  deriving DecidableEq, Repr

/-- The ramp of one array group (R273, R274). -/
structure Ramp where
  level   : Nat := 0
  target  : Nat := 0
  /-- On the recovery ramp of an upshift (R269). -/
  recover : Bool := false
  deriving DecidableEq, Repr

/-- A threshold of Table 10-4 with its clearing count of laps. -/
structure Band where
  on     : Bool := false
  okLaps : Nat := 0
  deriving DecidableEq, Repr

/-- A temperature ceiling: the gear, the lap in which it was last set, and the laps counted towards its rise. -/
structure TempCeil where
  gear   : BitVec 3 := 5
  setAt  : Option (BitVec 40) := none
  okLaps : Nat := 0
  deriving DecidableEq, Repr

/-- Temperature, coolant, leak and trip. -/
structure Thm where
  trip      : Bool := false
  leak      : Bool := false
  flowSubst : Bool := false
  flowLow   : Bool := false
  inletHigh : Bool := false
  thermal   : Bool := false
  /-- The governing temperatures of the latest sample (R290), in thousandths of a degree. -/
  tp        : List Rat := [0, 0, 0, 0]
  pavCeil   : TempCeil := {}
  hbmCeil   : TempCeil := {}
  flow60    : Band := {}
  flow45    : Band := {}
  inlet40   : Band := {}
  inlet45   : Band := {}
  /-- Failed diodes of each pavilion, and for diode 16p + d the laps in a row that R291 has found it implausible. -/
  failed    : List (BitVec 16) := [0, 0, 0, 0]
  badLaps   : Sparse Nat := []
  tgovL     : List Rat := [0, 0, 0, 0]
  stackL    : List Rat := [0, 0, 0, 0, 0, 0, 0, 0, 0, 0, 0, 0]
  tInL      : Rat := 0
  tOutL     : Rat := 0
  flowL     : Rat := 0
  rawL      : Rat := 0
  deriving DecidableEq, Repr

/-- The sums of the lap that runs (R266, R278, R288). -/
structure LapAcc where
  n       : Nat := 0
  sVI     : Nat := 0
  sV      : Nat := 0
  sVc     : List Nat := [0, 0, 0, 0]
  sIc     : List Nat := [0, 0, 0, 0]
  /-- The power of every rail, in µW, and the eight currents of Table 10-2 beside VCORE. -/
  sRails  : Nat := 0
  sRailI  : List Nat := [0, 0, 0, 0, 0, 0, 0, 0]
  sDiode  : List Int := []
  tpMax   : List Rat := [0, 0, 0, 0]
  stkMax  : List Int := [0, 0, 0, 0, 0, 0, 0, 0, 0, 0, 0, 0]
  sIn     : Int := 0
  sOut    : Int := 0
  sFlow   : Rat := 0
  sRaw    : Nat := 0
  open_   : Bool := true
  closed  : Bool := true
  /-- Brake level times ticks up to lvlFrom, the tick of the latest change of level. -/
  lvlSum  : Nat := 0
  lvlFrom : Nat := 0
  held    : Bool := false
  shifted : Bool := false
  deriving DecidableEq, Repr

/-- The latest release: its tick, when the hold had begun, and H and the end of the held lap as they were before it. -/
structure Resumed where
  at_    : Time
  from_  : Time
  h      : Nat
  lapEnd : Time
  deriving DecidableEq, Repr

/-- The hold (R286, R287) and H (R169). -/
structure HoldSt where
  hold      : Bool := false
  at_       : Time := 0
  /-- The release brake point, once BRAKE has been sampled low. -/
  releaseAt : Option Time := none
  h         : Nat := 0
  /-- Where the held timetable lap ends in cadence time. -/
  lapEnd    : Time := 0
  /-- BRAKE sampled high in the tick of the release itself takes the release back (R287). -/
  resumed   : Option Resumed := none
  deriving DecidableEq, Repr

/-! ### Boot, faults and resets -/

/-- What supplies the module: nothing, VAUX alone, the 100 ms rail-off of a module reset, every rail, or the saved state
of a hold-up save. -/
inductive Supply where
  | off | aux | railOff | on | saved
  deriving DecidableEq, Repr

/-- BOOT_KAT of one pavilion. -/
structure Kat where
  run    : Bool := false
  groups : BitVec 4 := 0
  first  : BitVec 8 := 0
  deriving DecidableEq, Repr

/-- The boot steps, the booted firmware, the identity and the repair map. -/
structure Boot where
  supply    : Supply := .on
  step      : BitVec 4 := 0
  /-- 0 running, 1 done, 2 failed. -/
  state     : BitVec 2 := 0
  refused   : Bool := false
  ms        : BitVec 16 := 0
  elapsed   : Word := 0
  tripWait  : Bool := false
  fallback  : Bool := false
  bank      : Bool := false
  debug     : Bool := false
  identity  : Bool := false
  uniqueId  : BitVec 64 := 0
  idPub     : List Byte := []
  fwset     : BitVec 64 := 0
  svn       : Word := 0
  fmt       : Word := 0
  variant   : BitVec 8 := 0
  repair    : List Byte := []
  slot      : BitVec 2 := 0
  kats      : Sparse Kat := []
  /-- The known-answer runs that have been done (R386): the unit, whether at G5, and the CRC-64 of its outputs. -/
  katRuns   : List (KatUnit × Bool × BitVec 64) := []
  katFailed : Bool := false
  deriving DecidableEq, Repr

/-- A fault record (R389). -/
structure FaultRec where
  seq   : Word := 0
  code  : Word := 0
  ctx   : BitVec 64 := 0
  stamp : Time := 0
  deriving DecidableEq, Repr

/-- The fault store (R388). -/
structure Frc where
  recs     : Sparse FaultRec := []
  seq      : Word := 0
  /-- The tick of the latest record, and how many records arose in it. -/
  tickAt   : Time := 0
  inTick   : Nat := 0
  saved    : Bool := false
  restored : Bool := false
  deriving DecidableEq, Repr

/-- The reset of an allotment (R395). -/
inductive ResetPhase where
  | none | draining | boundary | zeroing
  deriving DecidableEq, Repr

/-! ### Host ports -/

/-- The TDI of a port (R355). -/
inductive Tdi where
  | unlocked | locked | run | error
  deriving DecidableEq, Repr

/-- An MSI-X table entry and its pending bit. -/
structure Msix where
  addrLo  : Word := 0
  addrHi  : Word := 0
  data    : Word := 0
  masked  : Bool := true
  pending : Bool := false
  deriving DecidableEq, Repr

/-- The lodge mailbox of a port (R338). -/
structure Mailbox where
  request  : Sparse Word := []
  reqWords : BitVec 11 := 0
  busy     : Bool := false
  status   : BitVec 8 := 0
  response : List Byte := []
  page     : BitVec 3 := 0
  deriving DecidableEq, Repr

/-- The SPDM responder of a port (R354): the shared secret of the latest key exchange, whether its session is finished, and the sealed
records it has taken and sent under the keys in use. -/
structure Spdm where
  secret : Option (List Byte) := none
  secure : Bool := false
  rx     : BitVec 64 := 0
  tx     : BitVec 64 := 0
  deriving DecidableEq, Repr

/-- One PCIe port: its link, its port-banked registers and its security states. -/
structure PortSt where
  linkUp   : Bool := false
  /-- PERST_N is low, as it is seen at the latest event that shows it; unconnected it is low (R425). -/
  perst    : Bool := true
  width    : BitVec 4 := 0
  speed    : BitVec 3 := 0
  nsWrites : BitVec 12 := 0
  downLaps : BitVec 12 := 0
  /-- The link was down at the boundary that opened this lap, so the lap may count as a whole lap down. -/
  downLap  : Bool := false
  indSpace : BitVec 4 := 0
  indInc   : Bool := false
  indErr   : Bool := false
  indWord  : BitVec 16 := 0
  evtVec   : BitVec 11 := 0
  evtEn    : BitVec 8 := 0
  /-- An enabled cause has risen in HST_EVT and its message is not sent yet (R326). -/
  evtDue   : Bool := false
  msix     : Sparse Msix := []
  mailbox  : Mailbox := {}
  tdi      : Tdi := .unlocked
  /-- The keys of the port's two IDE streams (R355). -/
  ide      : Sparse (List Byte) := []
  spdm     : Spdm := {}
  /-- Allotments whose reset this port asked for and is not done (R395). -/
  resetting : BitVec 16 := 0
  deriving DecidableEq, Repr

/-- A strobe group (R314, R315). -/
structure Strobe where
  owner   : Option (BitVec 4) := none
  refused : Bool := false
  armed   : Option Time := none
  /-- A write of APPLY = 1 takes effect in the next tick (R315). -/
  due     : Bool := false
  atLo    : Word := 0
  atHi    : BitVec 24 := 0
  deriving DecidableEq, Repr

/-- A completion entry waiting for its ring (Table 11-3). -/
structure Completion where
  kind   : Byte
  status : Byte
  sqHead : BitVec 16
  tag    : Word
  stamp  : Time
  step   : BitVec 64
  detail : Word
  allot  : Byte
  deriving DecidableEq, Repr

/-- A ring block and its engine (Table 11-6, R319 to R325). -/
structure Ring where
  sqLo     : BitVec 20 := 0
  sqHi     : Word := 0
  size     : BitVec 4 := 0
  cqLo     : BitVec 20 := 0
  cqHi     : Word := 0
  enable   : Bool := false
  holdoff  : BitVec 12 := 0
  vector   : BitVec 11 := 0
  sqHead   : BitVec 16 := 0
  cqTail   : BitVec 16 := 0
  sqPhase  : Bool := true
  cqPhase  : Bool := true
  lost     : BitVec 16 := 0
  lostFlag : Bool := false
  cqHead   : BitVec 16 := 0
  /-- A poll's read is outstanding. -/
  reading  : Bool := false
  pend     : List Completion := []
  lastMsg  : Option Time := none
  owed     : Bool := false
  deriving DecidableEq, Repr

/-! ### Layouts, allotments, runs -/

/-- An array configuration record (Table 5-7). -/
structure ArrCfg where
  array     : BitVec 8 := 0
  mode      : BitVec 2 := 0
  wFmt      : BitVec 4 := 0
  aFmt      : BitVec 4 := 0
  outFmt    : BitVec 4 := 0
  qmode     : Bool := false
  accInit   : Bool := false
  tensor    : Word := 0
  uses      : BitVec 7 := 0
  tileWords : BitVec 12 := 0
  accReg    : BitVec 6 := 0
  progLen   : BitVec 6 := 0
  ii        : BitVec 6 := 0
  deriving DecidableEq, Repr

/-- An edge operation word (Table 5-8). -/
structure EdgeOp where
  opc   : BitVec 6 := 0
  dst   : BitVec 7 := 0
  srcA  : BitVec 7 := 0
  srcB  : BitVec 7 := 0
  srcC  : BitVec 7 := 0
  start : BitVec 8 := 0
  slot  : BitVec 2 := 0
  deriving DecidableEq, Repr

/-- An edge program: its operation words and its 16 constants (R123). -/
structure EdgeProg where
  ops    : List EdgeOp := []
  consts : List Word := []
  deriving DecidableEq, Repr

/-- A pergola join record (Table 5-9). -/
structure Join where
  src   : BitVec 16
  dst   : BitVec 16
  mask  : BitVec 16
  path  : Byte
  words : Byte
  deriving DecidableEq, Repr

/-- A mover descriptor (Table 4-4). -/
structure Desc where
  op        : BitVec 4 := 0
  srcSp     : BitVec 4 := 0
  dstSp     : BitVec 4 := 0
  fmt       : BitVec 4 := 0
  trnEn     : Bool := false
  nextEn    : Bool := false
  slice     : BitVec 12 := 0
  src       : BitVec 48 := 0
  dst       : BitVec 48 := 0
  rows      : BitVec 16 := 0
  rowWords  : BitVec 16 := 0
  srcStride : Word := 0
  dstStride : Word := 0
  trnInc    : BitVec 16 := 0
  trnIdx    : BitVec 13 := 0
  keySlot   : BitVec 8 := 0
  coord     : BitVec 18 := 0
  next      : BitVec 9 := 0
  deriving DecidableEq, Repr

/-- One phase's configuration of an allotment's arrays, crossbars and movers (R140). The descriptor tables are listed
by module mover number. -/
structure Plane where
  phase : BitVec 3
  cfgs  : List ArrCfg
  progs : List EdgeProg
  joins : List Join
  descs : Sparse (List Desc)
  deriving DecidableEq, Repr

/-- The shadow plane: a load in progress or stopped, or a complete plane (R140, R141). The entry that started the load is
named where an entry did (R145). -/
structure Shadow where
  phase    : BitVec 3
  doneAt   : Time
  stopped  : Bool := false
  byEntry  : Option (BitVec 24) := none
  plane    : Option Plane := none
  deriving DecidableEq, Repr

/-- A section of the configuration store (R120): type, phase, mover where it is scoped to one, place in module memory,
records, and the pavilion of each record where it holds joins. -/
structure CfgSec where
  type  : BitVec 16
  phase : BitVec 8
  mover : BitVec 8
  addr  : BitVec 48
  count : Nat
  pavs  : List Nat
  deriving DecidableEq, Repr

/-- What a timetable entry does (Table 6-4). -/
inductive EntryKind where
  | issue (switch cohort : Bool) (group : Byte) (mask vectors slotMask stride : BitVec 16)
  | move (mover desc : BitVec 16)
  | collective (plan : BitVec 16)
  | trnArm (trn deadline : BitVec 16) (target : Word)
  | shadow (phase : Byte)
  | strobe (group : Byte)
  | complete (tag : Word)
  | phaseEnd (next : Byte)
  deriving DecidableEq, Repr

/-- A timetable entry (Table 6-3). -/
structure TtEntry where
  offset : BitVec 16
  kind   : EntryKind
  deriving DecidableEq, Repr

/-- A unit record (Table 6-2). -/
structure TtUnit where
  first  : Nat
  count  : Nat
  length : Nat
  deriving DecidableEq, Repr

/-- A timetable of one phase, gear and regroup variant (Table 6-1). -/
structure Timetable where
  phase     : BitVec 3
  gear      : BitVec 3
  regroup   : BitVec 3
  swapback  : Bool
  loop      : Option (Nat × Nat)
  units     : List TtUnit
  entries   : List TtEntry
  deriving DecidableEq, Repr

/-- A run, as its submission entry gives it (R158), with its fetch. -/
structure Run where
  firstPhase : BitVec 8
  regroup    : BitVec 8
  tag        : Word
  start      : BitVec 64
  stepBase   : BitVec 64
  iters      : List Word
  fetchedAt  : Time
  sqHead     : BitVec 16
  deriving DecidableEq, Repr

/-- Where a running run stands in its timetables. free is the first timetable tick at which the next unit may start. -/
structure RunPos where
  phase     : BitVec 3
  unit      : Nat := 0
  /-- Executions of the loop that are still to begin. -/
  loops     : Nat := 0
  /-- The step count of the unit that runs, and the unit executions of each phase so far (R161). -/
  step      : BitVec 64
  execs     : Sparse Nat := []
  free      : Time
  /-- The unit that runs: its start in cadence time, its gear and its next entry. -/
  running   : Option (Time × BitVec 3 × Nat) := none
  /-- The phase has ended, and this is the NEXT of its PHASE_END. -/
  ended     : Option Byte := none
  /-- The tick before which the ended phase's last unit still occupies the timetable. -/
  lastTick  : Time := 0
  deriving DecidableEq, Repr

/-- A key bound to a key slot (R347). -/
structure KeySlot where
  slot  : Byte
  keyId : BitVec 64
  key   : List Byte
  deriving DecidableEq, Repr

/-- A segment's work of a collective plan that has started: its plan, stage, segment and the tick its sends begin. -/
structure PlanRun where
  plan    : BitVec 16
  at_     : Time
  entry   : BitVec 24
  /-- The engine of the plan has met an uncorrectable word (Table 7-4): no later segment is sent or reduced. -/
  halted  : Bool := false
  /-- Stage and segment pairs whose sends have begun, and those whose reduction runs with the tick it ends in. -/
  sent    : List (Nat × Nat) := []
  reduces : List (Nat × Nat × Time × List Byte) := []
  done    : List (Nat × Nat) := []
  deriving DecidableEq, Repr

/-- The blocks of an output tile emitted so far in a step (R63): tensor number, tile index, step count, blocks. -/
structure TileCount where
  tensor : Word
  tile   : BitVec 32
  step   : BitVec 64
  blocks : Nat
  deriving DecidableEq, Repr

/-- An allotment that exists (05_layout_image, 06_timetable_and_phases, 11_host_interface). -/
structure AllotSt where
  port       : Bool := false
  image      : Nat := 0
  localIx    : BitVec 8 := 0
  slice      : BitVec 12 := 0
  groups     : BitVec 16 := 0
  ghMovers   : BitVec 16 := 0
  /-- The ALLOTMENT record's partition of the configuration store and the store's place. -/
  cfgSecs    : List CfgSec := []
  ttPages    : Nat := 0
  /-- Granules: the module memory address of the first byte divided by 2^30, and their number. -/
  parts      : List (Nat × Nat) := []
  poll       : Rb 13 := ⟨64, 64, 64, none⟩
  sgrp       : BitVec 4 := 0
  winEn      : Bool := false
  winBase    : BitVec 24 := 0
  tables     : List Timetable := []
  front      : Option Plane := none
  shadow     : Option Shadow := none
  /-- The lap named for the start, once it is, and whether the allotment has started (R138). -/
  startLap   : Option (BitVec 40) := none
  started    : Bool := false
  /-- The start of the allotment, and that of its pending run, is named for the tick 00000 that runs: it takes place at the end of
  the tick, unless a hold begins in it (R170, R410). -/
  startDue   : Bool := false
  runDue     : Bool := false
  run        : Option Run := none
  pos        : Option RunPos := none
  pendRun    : Option Run := none
  /-- A swap to this phase is due at the first lap boundary at or after this time that R170 lets take it (R143). -/
  swapDue    : Option (BitVec 3 × Time) := none
  /-- Front and shadow have exchanged an odd number of times (ARR_STATUS.FRONT). -/
  planeBit   : Bool := false
  /-- Tick 00004 of the latest swap: the allotment's pavilion movers are held for its three ticks (R143). -/
  swapAt     : Option Time := none
  stopped    : Bool := false
  /-- What stopped it was a fault (Table 12-5). -/
  faulted    : Bool := false
  /-- The output tiles of the running run (R63). -/
  tiles      : List TileCount := []
  variant    : BitVec 8 := 0
  plans      : List PlanRun := []
  /-- The lap at which the arrays ramp to rest after a run's end (R274). -/
  restLap    : Option (BitVec 40) := none
  keyId      : Nat := 0
  memKey     : List Byte := []
  commitAt   : Time := 0
  session    : Option (BitVec 64) := none
  keys       : List KeySlot := []
  outKey     : List Byte := []
  sealSeq    : BitVec 64 := 0
  reset      : ResetPhase := .none
  deriving DecidableEq, Repr

/-- A plan record (Table 9-6). -/
structure Plan where
  fmt        : Byte
  nStages    : Nat
  firstStage : Nat
  segments   : Nat
  segBytes   : Nat
  inBuf      : BitVec 16
  deriving DecidableEq, Repr

/-- A stage record (Table 9-7). -/
structure Stage where
  level   : Byte
  method  : Byte
  check   : Bool
  recvBuf : BitVec 16
  outBuf  : BitVec 16
  trn     : BitVec 16
  start   : Nat
  period  : Nat
  deriving DecidableEq, Repr

/-- A staging buffer (Table 5-11). -/
structure StagingBuf where
  id    : BitVec 16
  allot : Byte
  pool  : Byte
  addr  : BitVec 64
  bytes : Nat
  deriving DecidableEq, Repr

/-- A routing entry (Table 8-10). -/
structure Route where
  valid  : Bool := true
  slice  : BitVec 12
  dst    : BitVec 15
  egress : BitVec 6
  deriving DecidableEq, Repr

/-- What the loaded allotments of one image share. -/
structure ImageSt where
  port       : Bool := false
  phases     : BitVec 8 := 0
  gears      : BitVec 8 := 0
  regroups   : BitVec 8 := 0
  confidential : Bool := false
  longMode   : Bool := false
  jobSeed    : BitVec 64 := 0
  jobId      : BitVec 64 := 0
  members    : Nat := 1
  rank       : Nat := 0
  coord      : BitVec 18 := 0
  digest     : BitVec 384 := 0
  /-- Member coordinates in ascending rank, by regroup variant 0 to 4. -/
  rosters    : List (List (BitVec 18)) := []
  plans      : List Plan := []
  stages     : List Stage := []
  staging    : List StagingBuf := []
  cablingUsed : BitVec 36 := 0
  jobSlice   : BitVec 12 := 0
  deriving DecidableEq, Repr

/-- A load in progress (R133, R134). -/
structure LoadSt where
  port       : Bool
  tag        : Word
  addr       : BitVec 64
  length     : Word
  start      : BitVec 64
  resultAddr : BitVec 64
  at_        : Time
  sqHead     : BitVec 16
  deriving DecidableEq, Repr

/-- An allotment under a RELEASE that is not complete (R195, R323): the command, its allotments, whether the allotment's
resources are free already, and the number of its memory key. -/
structure Dying where
  port   : Bool
  tag    : Word
  sqHead : BitVec 16
  mask   : BitVec 16
  freed  : Bool
  keyId  : Nat
  deriving DecidableEq, Repr

/-! ### Arrays, movers, turnstiles -/

/-- A vector in flight in an array (R83): its activation bytes, the tile image it met, its entry, its number in the entry,
the step count it draws from (R63), and when its results are ready. -/
structure Flight where
  bytes   : List Byte
  weights : List Byte
  entry   : BitVec 24
  vector  : Nat
  step    : BitVec 64
  readyAt : Time
  deriving DecidableEq, Repr

/-- An ISSUE entry at work on an array (R153). -/
structure Issue where
  entry    : BitVec 24
  at_      : Time
  total    : Nat
  admitted : Nat := 0
  slotMask : BitVec 16
  stride   : Nat
  switch   : Bool
  cohort   : Bool
  cpt      : Nat
  step     : BitVec 64
  deriving DecidableEq, Repr

/-- A logical array. -/
structure ArrSt where
  slot     : Bool := false
  full0    : Bool := false
  full1    : Bool := false
  /-- The ISSUE entries at work on it, oldest first; they may interleave (R153). -/
  issues   : List Issue := []
  /-- Weight-streaming: vectors the active tile still serves; and the active slot has been released (R85). -/
  usesLeft : Nat := 0
  released : Bool := false
  flights  : List Flight := []
  /-- The output blocks of the latest vector, which a join may carry to activation inputs (R93). -/
  lastOut  : List Byte := []
  /-- The ISSUE entry of the vector whose output that is (Table 7-4). -/
  outEntry : Option (BitVec 24) := none
  /-- Lane register r of lane n at 64n + r; unlisted ones hold 0 (R99). -/
  lanes    : Sparse Word := []
  deriving DecidableEq, Repr

/-- A started descriptor: its index, its copied contents, the MOVE entry of its chain, and the words moved. -/
structure Xfer where
  index : BitVec 9
  desc  : Desc
  entry : BitVec 24
  moved : Nat := 0
  /-- Bytes held for a chunk or a sealed row that is not complete; bytes that wait for their packet to be whole, and the bytes
  whose packets have been sent (R216). -/
  held  : List Byte := []
  outbox : List Byte := []
  sent  : Nat := 0
  /-- A check word has failed, so the increment is withheld (R255). -/
  bad   : Bool := false
  deriving DecidableEq, Repr

/-- A mover (R100 to R106). -/
structure MoverSt where
  active  : Option Xfer := none
  pending : Option Xfer := none
  stopped : Bool := false
  last    : BitVec 9 := 0
  deriving DecidableEq, Repr

/-- A turnstile (Table 9-2), with its roster (R245), its TRN_MISS and what a completion in the running tick left. -/
structure TrnSt where
  owner    : Option (BitVec 4) := none
  count    : Word := 0
  target   : Word := 0
  deadline : Time := 0
  /-- 0 IDLE, 1 ARMED, 2 DONE, 3 MISSED. -/
  st       : BitVec 2 := 0
  link     : Option (BitVec 10) := none
  /-- The plan of the linked stage and the segment the turnstile counts. -/
  plan     : BitVec 16 := 0
  seg      : Nat := 0
  roster   : Sparse Nat := []
  entry    : BitVec 24 := 0
  doneAt   : Option Time := none
  /-- The tick of the latest early increments and how many it registered (R242). -/
  earlyAt  : Option (Time × Nat) := none
  miss     : Option (BitVec 5 × BitVec 18) := none
  deriving DecidableEq, Repr

/-! ### Memory controllers -/

/-- An HBM4 controller by site (R177, R197, R198). -/
structure Hbm where
  present : Bool := false
  trained : Bool := false
  hot     : Bool := false
  logical : BitVec 4 := 0
  lanes   : BitVec 8 := 0
  fail    : BitVec 4 := 0
  ueAddr  : Option (BitVec 48) := none
  scrub   : Nat := 0
  passes  : Word := 0
  /-- Words scrubbed in the running lap (R191). -/
  scrubbed : Nat := 0
  deriving DecidableEq, Repr

/-- A DDR5 channel (R179, R199). -/
structure Ddr where
  present : Bool := false
  trained : Bool := false
  gib     : BitVec 9 := 0
  fail    : BitVec 4 := 0
  ueAddr  : Option (BitVec 48) := none
  scrub   : Nat := 0
  passes  : Word := 0
  scrubbed : Nat := 0
  deriving DecidableEq, Repr

/-- A write that a bank's port has taken in the running tick (R98): the word, the tick and its array cycle, and the place of its
source in the port's fixed order. -/
structure BankWrite where
  word  : Nat
  at_   : Time
  cycle : BitVec 4
  rank  : Nat
  deriving DecidableEq, Repr

/-! ### Fabric -/

/-- A packet in a queue: when it came there, and the spoke 0 to 35 by which it leaves, or 62 where it stays on this module
(R218, R225). -/
structure Queued where
  pkt    : Packet
  since  : Time
  egress : BitVec 6
  late   : Bool := false
  /-- The mover whose descriptor sends it (R105). -/
  mover  : Option Nat := none
  /-- It has passed the receive checks at its ingress spoke (R228), and its increment is withheld (R229). -/
  checked  : Bool := false
  withheld : Bool := false
  /-- The spoke and the class of the control buffer that the packet still occupies (R222). -/
  back   : Option (Nat × Nat) := none
  deriving DecidableEq, Repr

/-- A spoiled source (R229): slice and source coordinate. -/
structure Spoil where
  slice : BitVec 12
  src   : BitVec 18
  deriving DecidableEq, Repr

/-- The spoiled marks of one way in (R229): the whole of it, or single sources. -/
structure Marks where
  all     : Bool := false
  sources : List Spoil := []
  deriving DecidableEq, Repr

/-- How far the link key exchange of a spoke has come (Table 12-3). -/
inductive KeyStep where
  | idle | cred | encap | confirm | keyed | failed
  deriving DecidableEq, Repr

/-- A link key message that is coming in by fragments (R340): MSG, the fragment count, and the data of the fragments so far. -/
structure KeyMsgIn where
  msg   : Byte
  count : Nat
  parts : List (List Byte)
  deriving DecidableEq, Repr

/-- The link keys of a spoke (R340, R341). -/
structure LinkKey where
  step     : KeyStep := .idle
  since    : Time := 0
  drbgN    : Nat := 0
  farCred  : List Byte := []
  ownCt    : List Byte := []
  farCt    : List Byte := []
  ls       : List Byte := []
  txEpoch  : Word := 0
  rxEpoch  : Word := 0
  txCount  : BitVec 64 := 0
  rxCount  : BitVec 64 := 0
  /-- Packets counted under the epoch after rxEpoch, and whether its key has been derived (R341). -/
  rxNext   : BitVec 64 := 0
  rxDerived : Bool := true
  /-- The message that comes in, and the whole messages, MSG and bytes, that the lodge has not taken yet, oldest first. -/
  part     : Option KeyMsgIn := none
  inbox    : List (Byte × List Byte) := []
  deriving DecidableEq, Repr

/-- A spoke (08_spokes_and_routing). -/
structure SpokeSt where
  state    : BitVec 3 := 0
  keyed    : Bool := false
  farValid : Bool := false
  far      : List Byte := []
  /-- In the attempt that runs, the far record has come and the own record is acknowledged (Table 8-3). -/
  recIn    : Bool := false
  ownAck   : Bool := false
  outcome  : BitVec 4 := 0
  pair     : BitVec 6 := 0x3F
  /-- The tick in which a check made the spoke MATCH: it carries packets from the next tick on (R213). -/
  matchAt  : Option Time := none
  /-- The far end of the latest check: module number, spoke and UNIT_ID (R208). -/
  checked  : Option (BitVec 15 × Byte × BitVec 64) := none
  wasUp    : Bool := false
  cred0    : BitVec 5 := 0
  cred1    : BitVec 4 := 0
  cred2    : BitVec 4 := 0
  rxCause  : BitVec 4 := 0
  rxSlice  : BitVec 12 := 0
  rxTick   : BitVec 16 := 0
  rxSrc    : BitVec 18 := 0
  ups      : BitVec 16 := 0
  attempts : BitVec 16 := 0
  authLap  : Nat := 0
  marks    : Marks := {}
  ingress  : List Queued := []
  ctl      : List Queued := []
  data     : List Queued := []
  lastCtl  : Bool := false
  /-- The key epoch that the latest link word carried (R202). -/
  farEpoch : Bool := false
  key      : LinkKey := {}
  deriving DecidableEq, Repr

/-- A station of a transit ring (R218): its ring buffer and the packets that wait to enter the ring at it. -/
structure Station where
  ring  : List Queued := []
  entry : List Queued := []
  deriving DecidableEq, Repr

/-- The coordinate (SPK_SELF), the rack plan and its control (R204, R209, R213). -/
structure SelfSt where
  set      : Bool := false
  rack     : BitVec 8 := 0
  tray     : BitVec 5 := 0
  slot     : BitVec 2 := 0
  training : Bool := false
  planOpen : Bool := false
  kept     : BitVec 6 := 0
  plan     : Sparse Word := []
  /-- SPK_HOLD of gatehouses 0 and 1. -/
  hold0    : Rb 18 := ⟨0, 0, 0, none⟩
  hold1    : Rb 18 := ⟨0, 0, 0, none⟩
  deriving DecidableEq, Repr

/-- The routing tables (R225 to R227): entries of gatehouse h, version v at index 2h + v, in index order. -/
structure Rte where
  cur       : Bool := false
  pending   : Option Nat := none
  draining  : Bool := false
  /-- The lap at which the pending switch is to take effect, once it is named (R227). -/
  switchLap : Option (BitVec 40) := none
  /-- RTE_SWITCH_LAP as it reads when no switch is pending. -/
  lastLap   : Word := 0
  tables    : Sparse (List Route) := []
  deriving DecidableEq, Repr

/-! ### The lodge -/

/-- A weight key released into a session (R346). -/
structure RelKey where
  keyId  : BitVec 64
  key    : List Byte
  digest : List Byte
  deriving DecidableEq, Repr

/-- A tenant session (R344, R345). -/
structure Session where
  sid   : BitVec 64
  jobId : BitVec 64
  ktm   : List Byte
  kmt   : List Byte
  prk   : List Byte
  rx    : BitVec 64
  tx    : BitVec 64
  keys  : List RelKey
  deriving DecidableEq, Repr

/-- The ephemeral pair of a port's latest report (R343): its nonce, the random request it comes from and the body. -/
structure Eph where
  nonce : List Byte
  drbgN : Nat
  body  : List Byte
  deriving DecidableEq, Repr

/-- One unit of a redundant pair (R372 to R375). -/
structure UnitSt where
  inStep  : Bool := true
  fails   : Nat := 0
  retired : Bool := false
  /-- ERR_SRC of the unit's latest error. -/
  src     : BitVec 4 := 0
  deriving DecidableEq, Repr

/-- The lodges, and the pairs of all three roles. -/
structure Lodge where
  /-- Confidential mode lasts to the end of this lap after the last confidential release (R353). -/
  confUntil : Option (BitVec 40) := none
  sessions  : List Session := []
  ephs      : Sparse Eph := []
  /-- Ports whose requests wait, in the order GO was registered (R338). -/
  waiting   : List Nat := []
  bootKey   : List Byte := []
  /-- The root secret, from S2 until it is destroyed at S8 (Table 12-1). -/
  root      : Option (List Byte) := none
  /-- prk_id (R332), from which the identity pair and the flash key follow; rebuilt each boot. -/
  prk       : List Byte := []
  credN     : Nat := 0
  cred      : List Byte := []
  linkFails : BitVec 16 := 0
  linkLast  : BitVec 6 := 0x3F
  entropyDead : Bool := false
  /-- The active gatehouse of warden, power controller and lodge. -/
  actWarden : Bool := false
  actPower  : Bool := false
  actLodge  : Bool := false
  /-- Unit of role r (0 warden, 1 power, 2 lodge) in gatehouse g at 2r + g. -/
  units     : Sparse UnitSt := []
  pairLost  : Bool := false
  lastDetail : BitVec 16 := 0
  lastTick  : BitVec 16 := 0
  deriving DecidableEq, Repr

/-! ### Management, flash and firmware update -/

/-- An event record (Table 13-4). -/
structure Event where
  seq   : Word
  type  : BitVec 16
  flags : Byte
  stamp : Time
  code  : Word
  ctx   : BitVec 64
  deriving DecidableEq, Repr

/-- The counters of the odometer (Table 13-5); energy in mJ. -/
structure Odo where
  powered   : BitVec 64 := 0
  gearLaps  : List (BitVec 64) := [0, 0, 0, 0, 0, 0]
  energy    : Nat := 0
  cycles    : Word := 0
  saves     : Word := 0
  trips     : Word := 0
  failovers : List Word := [0, 0, 0]
  leaks     : Word := 0
  maxTj     : Nat := 0
  maxInlet  : Nat := 0
  ueWords   : Word := 0
  activations : Word := 0
  /-- CAP_GIB at the last S4 (DDR_GIB). -/
  ddrGib    : BitVec 16 := 0
  deriving DecidableEq, Repr

/-- The management port (13_management_and_failover). -/
structure Mgmt where
  addr     : Option (BitVec 7) := none
  eid      : BitVec 8 := 0
  tid      : BitVec 8 := 0
  mwl      : BitVec 16 := 256
  mrl      : BitVec 16 := 256
  ibiEn    : Bool := true
  ibiLap   : Option (BitVec 40) := none
  nacks    : Word := 0
  events   : List Event := []
  evSeq    : Word := 0
  evLost   : BitVec 16 := 0
  /-- Records discarded since the last EVENTS_LOST record, and the stamp of the first. -/
  lostRun  : Nat := 0
  lostAt   : Time := 0
  /-- The record a poll has returned and no later poll has acknowledged. -/
  polled   : Option Word := none
  bufSize  : BitVec 16 := 0
  /-- The tray's update agent has the module in update mode, and the bundle component is being transferred (R404). -/
  updMode  : Bool := false
  updXfer  : Bool := false
  odo      : Odo := {}
  /-- The odometer has been read from the flash since power-on. -/
  odoRead  : Bool := false
  /-- The odometer as last updated, which MGT_INV shows (R370, R371). -/
  inv      : Odo := {}
  /-- Settings whose flash record is being written: effecter and value, oldest first (R365). -/
  setting  : List (BitVec 8 × BitVec 16) := []
  deriving DecidableEq, Repr

/-- A save slot (Table 10-7): what the pages hold, the pages programmed, and the commit word. -/
structure Save where
  recs   : Sparse FaultRec
  seq    : Word
  events : List Event
  odo    : Odo
  pwr    : Pwr
  at_    : Time
  pages  : Nat
  commit : Bool
  /-- A boot has replayed it or reported it as lost (R298, R368). -/
  told   : Bool := false
  /-- Its fault records have been in the store of a later boot, which a further power-on does not restore again (R388). -/
  restored : Bool := false
  /-- The HMAC of a committed save under the flash key (R335). -/
  mac    : List Byte := []
  deriving DecidableEq, Repr

/-- A firmware bank (R396): its bundle byte for byte, by pieces of 4,096 bytes, and false where an open session has marked the
bank invalid (R399). -/
structure Bank where
  pieces : Sparse (List Byte) := []
  valid  : Bool := false
  deriving DecidableEq, Repr

/-- A copy of the odometer in flash, with its HMAC under the flash key (R370). -/
structure OdoCopy where
  odo : Odo
  mac : List Byte
  deriving DecidableEq, Repr

/-- The serial flash: settings, odometer copies, save slots, active-bank word, floor, banks, and what manufacture has put into
it. Settings and floor carry the HMAC of R335. The bundle, the repair map and the endorsement of a new unit are its own:
DESIGN CHOICE: assumption 117. -/
structure Flash where
  leaseLaps  : BitVec 16 := 28611
  lapseCap   : BitVec 16 := 3000
  confAlways : Bool := false
  settingsMac : List Byte := []
  odo0       : Option OdoCopy := none
  odo1       : Option OdoCopy := none
  odoNext    : Bool := false
  /-- The two save slots, of which the one that is not named is written next (R298). -/
  save0      : Option Save := none
  save1      : Option Save := none
  lastSave   : Bool := true
  active     : Bool := false
  floor      : Word := 0
  floorMac   : List Byte := []
  bank0      : Bank := ⟨Config.factoryBundle, true⟩
  bank1      : Bank := {}
  /-- The repair map, body and signature pair (R384), and the endorsement: UNIT_ID, identity public key and signature pair
  (R333). -/
  repair     : List Byte := Config.repairMap
  endorsement : List Byte := Config.endorsement
  /-- An activation wrote the active-bank word and S6 has not confirmed it (R408). -/
  activating : Bool := false
  deriving DecidableEq, Repr

/-- The bundle a session is open for (R399). -/
structure Bundle where
  fwset    : BitVec 64
  svn      : Word
  svnFloor : Word
  fmt      : Word
  pieces   : Nat
  table    : Nat
  digest   : List Byte
  deriving DecidableEq, Repr

/-- The firmware update (15_firmware_update). -/
structure Upd where
  /-- 0 IDLE, 1 RECEIVING, 2 VERIFYING, 3 VERIFIED; ARMED is shown while an activation is armed (R406). -/
  state     : BitVec 4 := 0
  result    : BitVec 4 := 0
  settingsReset : Bool := false
  path      : Bool := false
  bundle    : Option Bundle := none
  /-- The bank that the session's bundle goes to. -/
  bank      : Bool := false
  /-- Pieces 0 to 5 of the open session, as they passed the header check. -/
  head      : List (List Byte) := []
  /-- The pieces whose present bit is set, with the bytes that were accepted; and those whose started bit is set. -/
  present   : Sparse (List Byte) := []
  started   : List Nat := []
  verifyFails : BitVec 16 := 0
  tableOk   : Bool := false
  /-- The sectors of the bank erased since the session opened (R402). -/
  erased    : List Nat := []
  /-- The pieces accepted and not yet programmed, the one being programmed first: number, bytes, whether they came by the tray
  path, and the tick of the acceptance (R402). -/
  busy      : List (Nat × List Byte × Bool × Time) := []
  actLo     : Word := 0
  actHi     : BitVec 8 := 0
  armed     : Option (BitVec 40) := none
  armRefused : Bool := false
  piece     : BitVec 15 := 0
  last      : BitVec 4 := 0
  window    : Sparse Word := []
  deriving DecidableEq, Repr

/-! ### Outside connections -/

/-- A link word, the first slot of a link frame (R202): the control credits of each class that return (R222), the
acknowledgement of the far end's record (R207), the epoch of the sending key (R341), and in tick 00008 the lap beacon, a lap and
SYNCED (R25). -/
structure LinkWord where
  ret0   : BitVec 5 := 0
  ret1   : BitVec 5 := 0
  ret2   : BitVec 5 := 0
  ack    : Bool := false
  epoch  : Bool := false
  beacon : Option (BitVec 40 × Bool) := none
  deriving DecidableEq, Repr

/-- What the module puts on an outside connection. DESIGN CHOICE: assumption 8. -/
inductive Out where
  /-- A packet leaves a spoke's egress. -/
  | packet (k : Nat) (pkt : Packet)
  /-- An identity record leaves on a spoke (R207). -/
  | identity (k : Nat) (record : List Byte)
  /-- A link word leaves on a spoke (R202). -/
  | linkWord (k : Nat) (w : LinkWord)
  /-- A read request for a ring (R321): port and ring, the host address of the 64-byte header, and those of the first entry and the
  number of entries. -/
  | ringRead (p : Bool) (r : Nat) (header entries : BitVec 64) (n : Nat)
  /-- A read request for a layout image. -/
  | imageRead (p : Bool) (addr : BitVec 64) (length : Word)
  /-- A write to host memory through a port. -/
  | hostWrite (p : Bool) (addr : BitVec 64) (bytes : List Byte)
  /-- An MSI-X message: port and vector, with the table's address and data. -/
  | msi (p : Bool) (vector : BitVec 11) (addr : BitVec 64) (data : Word)
  /-- Read data returned to a host, and the Poisoned bit (R436). -/
  | readData (p : Bool) (bytes : List Byte) (poisoned : Bool)
  /-- The answer to an I3C CCC (R360, R362). -/
  | ccc (bytes : List Byte)
  /-- A transfer or CCC is not acknowledged. -/
  | nack
  /-- An in-band interrupt with its mandatory byte (R367). -/
  | ibi (byte : Byte)
  /-- An MCTP control response: command, completion code, data. -/
  | mctp (cmd cc : Byte) (data : List Byte)
  /-- A PLDM response: type, command, completion code, data. -/
  | pldm (type cmd cc : Byte) (data : List Byte)
  /-- The module as firmware device asks the agent for a piece, or reports a stage (R404). -/
  | fwRequest (offset length : Word)
  | fwReport (cmd : Byte) (result : Byte)
  /-- An SPDM or TDISP response over DOE. -/
  | spdm (p : Bool) (code : Byte) (data : List Byte)
  /-- A sealed record of a port's SPDM session. -/
  | secured (p : Bool) (record : List Byte)
  deriving DecidableEq, Repr

/-! ### The whole state -/

/-- The state of the module. -/
structure State where
  cad      : Cad := {}
  plls     : Sparse Pll := []
  gear     : GearSt := {}
  pwr      : Pwr := {}
  ramps    : Sparse Ramp := []
  /-- PGL_REST.LEVEL of each pavilion; unlisted ones hold 1. -/
  rests    : Sparse (Rb 2) := []
  thm      : Thm := {}
  acc      : LapAcc := {}
  hold     : HoldSt := {}
  boot     : Boot := {}
  frc      : Frc := {}
  /-- The steward port: false for H0. -/
  steward  : Bool := false
  ports    : Sparse PortSt := []
  sgrpSel  : BitVec 28 := 0
  strobes  : Sparse Strobe := []
  rings    : Sparse Ring := []
  allots   : Sparse AllotSt := []
  images   : Sparse ImageSt := []
  nextImage : Nat := 0
  load     : Option LoadSt := none
  dying    : Sparse Dying := []
  /-- Banks that are being zeroed (R99). -/
  zeroing  : List Nat := []
  /-- The writes of the running tick at the bank ports (R98). -/
  bankWrites : List BankWrite := []
  /-- The bridges that are trained, by receiving pavilion (PGL_STATUS.BRIDGE_UP). -/
  bridges  : List (BitVec 5) := [0, 0, 0, 0]
  arrays   : Sparse ArrSt := []
  movers   : Sparse MoverSt := []
  trns     : Sparse TrnSt := []
  /-- The CRC of a chunk's data words as registered so far (R255): allotment × 2^48 + buffer × 2^32 + the chunk's first byte. -/
  chunkCrcs : Sparse (BitVec 64) := []
  hbms     : Sparse Hbm := []
  ddrs     : Sparse Ddr := []
  capGib   : BitVec 9 := 0
  self     : SelfSt := {}
  spokes   : Sparse SpokeSt := []
  /-- The spoiled marks of the packets that gatehouse g sends to this module itself, at g (R225, R229). -/
  ownMarks : Sparse Marks := []
  /-- Station j of gatehouse h at 22h + j. -/
  stations : Sparse Station := []
  /-- THE MODEL'S OWN. The tick and the station of the latest entry into the ring of each gatehouse (R220). -/
  ringAt   : Sparse (Time × Nat) := []
  rte      : Rte := {}
  lodge    : Lodge := {}
  mgmt     : Mgmt := {}
  flash    : Flash := {}
  upd      : Upd := {}
  /-- HBM4 and DDR5 by module memory address: the bytes written under the owner's key (R193). -/
  mem      : List Host.Cell := []
  /-- Scratchpad by scratchpad address (R97). -/
  scr      : List Host.Cell := []
  /-- Weight slots: slot s of array x at (2x + s) × 81,920 (R82). -/
  wslots   : List Host.Cell := []
  /-- Staging memories: gatehouse h at h × 2^24 (R129). -/
  stage    : List Host.Cell := []
  /-- Error patterns that words hold (36 symbols, then a nonzero byte where a DDR5 address tag differs), by store and word:
  store × 2^48 + address div 32, stores 0 to 3 as above; those of timetable entries are store 4 (Machine/Timetable.lean). -/
  upset    : Sparse (List Byte) := []
  /-- Live and latched per-lap counters, by the numbers of Machine/Counters.lean (R36). -/
  live     : Sparse Word := []
  latched  : Sparse Word := []
  /-- HST_EVT as the warden last recorded it, so that a rise or a clearing queues one event (R366). -/
  evtSeen  : BitVec 8 := 0
  /-- HST_EVT as it stood at the latest change, so that a rise owes one message (R326). -/
  evtMsg   : BitVec 8 := 0
  out      : List Out := []
  /-- THE MODEL'S OWN. The number of the next random request (R334) and memory key. -/
  fresh    : Nat := 0
  /-- The commands that wait, first in, first out. -/
  pending  : List Instr := []
  deriving DecidableEq, Repr

/-- The module right after reset: every register at its reset value, stores empty, no command waiting. -/
def State.reset : State := {}

end Sys2Proof.Machine
end

