-- ==== Sys2Proof/Decode.lean ====
section
/-! DEFINITION. No row of spec/opcode_table.json gives a bit: a command of this block is an operation or an event
with its operands, and no word spells one. -/

namespace Sys2Proof

/-- The command that a word spells by the bits of spec/opcode_table.json: none, for no row gives bits. DESIGN CHOICE:
assumption 1. -/
def decodeTableWord (_nbits _w : Nat) : Option Instr := none

end Sys2Proof
end

