-- ==== Sys2Proof/Machine/Operands.lean ====
section
/-! DEFINITION. The fields of registers, records, messages and images: bit ranges of a word and little-endian fields of
a byte string (R111; Tables 5-1 to 5-12, 8-7, 11-2). -/

namespace Sys2Proof.Machine

/-- The field of width len at bit lo. -/
def fld {n : Nat} (w : BitVec n) (lo len : Nat) : BitVec len := w.extractLsb' lo len

/-- One bit of a word. -/
def bit {n : Nat} (w : BitVec n) (i : Nat) : Bool := w.getLsbD i

/-- A bit as a word of the given width. -/
def ofBit (n : Nat) (b : Bool) : BitVec n := if b then 1 else 0

/-- A value placed at bit lo of a register. -/
def put32 {n : Nat} (v : BitVec n) (lo : Nat) : Word := (v.setWidth 32) <<< lo

/-- Byte i of a byte string, 0 beyond its end. -/
def byteAt (b : List Byte) (i : Nat) : Byte := b.getD i 0

/-- The bytes from offset i, n of them, 0 beyond the end. -/
def bytesAt (b : List Byte) (i n : Nat) : List Byte :=
  (List.range n).map (fun j => byteAt b (i + j))

/-- The little-endian number of a byte string. -/
def leNat (b : List Byte) : Nat :=
  match b with
  | [] => 0
  | x :: t => x.toNat + 256 * leNat t

/-- The little-endian field of n bytes at offset i, as a word of the given width. DEDUCED: assumption 7. -/
def le (w : Nat) (b : List Byte) (i n : Nat) : BitVec w := BitVec.ofNat w (leNat (bytesAt b i n))

/-- The n bytes of a number, least significant first. DEDUCED: assumption 7. -/
def leBytes (n v : Nat) : List Byte :=
  match n with
  | 0 => []
  | k + 1 => BitVec.ofNat 8 v :: leBytes k (v / 256)

/-- The n bytes of a word, least significant first. DEDUCED: assumption 7. -/
def bytesOf {w : Nat} (n : Nat) (v : BitVec w) : List Byte := leBytes n v.toNat

/-- Every byte of offsets i to i + n - 1 is 0. -/
def zeroAt (b : List Byte) (i n : Nat) : Bool := (bytesAt b i n).all (· == 0)

/-- A byte string cut or padded with zeros to n bytes. -/
def fit (n : Nat) (b : List Byte) : List Byte := bytesAt b 0 n

/-- Pieces of n bytes of a byte string; fuel is its length. -/
def chunks (n : Nat) (fuel : Nat) (b : List Byte) : List (List Byte) :=
  match fuel with
  | 0 => []
  | f + 1 => if b.isEmpty then [] else b.take n :: chunks n f (b.drop n)

/-- The numbers below n whose bit is set in a mask. -/
def setBits {w : Nat} (m : BitVec w) : List Nat := (List.range w).filter (fun i => m.getLsbD i)

/-- The mask with the bits of the given numbers set. -/
def maskOf (w : Nat) (l : List Nat) : BitVec w :=
  l.foldl (fun m i => m ||| BitVec.twoPow w i) 0

/-- The number of set bits. -/
def popcount {w : Nat} (m : BitVec w) : Nat := (setBits m).length

/-- A word raised by n, held at its greatest value. -/
def satAdd {w : Nat} (v : BitVec w) (n : Nat) : BitVec w :=
  if 2 ^ w ≤ v.toNat + n then BitVec.allOnes w else BitVec.ofNat w (v.toNat + n)

end Sys2Proof.Machine
end

