-- ==== Sys2Proof/Machine/Sparse.lean ====
section
/-! DEFINITION. The operations on the one sparse form in which the model keeps what the spec numbers: strictly rising
numbers, and, for a collection with a default, no entry equal to it. -/

namespace Sys2Proof.Machine

/-- The entry of number k, where one is listed. -/
def sfind {α : Type} (m : Sparse α) (k : Nat) : Option α :=
  match m with
  | [] => none
  | (j, v) :: t => if j = k then some v else sfind t k

/-- The collection with v listed at number k. -/
def sset {α : Type} (m : Sparse α) (k : Nat) (v : α) : Sparse α :=
  match m with
  | [] => [(k, v)]
  | (j, w) :: t =>
    if j < k then (j, w) :: sset t k v
    else if j = k then (k, v) :: t
    else (k, v) :: (j, w) :: t

/-- The collection with nothing listed at number k. -/
def sdel {α : Type} (m : Sparse α) (k : Nat) : Sparse α :=
  m.filter (fun e => !(e.1 == k))

/-- What number k reads as, in a collection whose unlisted numbers read as d. -/
def sget {α : Type} (d : α) (m : Sparse α) (k : Nat) : α :=
  (sfind m k).getD d

/-- A collection whose unlisted numbers read as d, with number k reading as v. -/
def sput {α : Type} [DecidableEq α] (d : α) (m : Sparse α) (k : Nat) (v : α) : Sparse α :=
  if v = d then sdel m k else sset m k v

/-- A collection whose unlisted numbers read as d, with what number k reads as changed by f. -/
def smod {α : Type} [DecidableEq α] (d : α) (m : Sparse α) (k : Nat) (f : α → α) : Sparse α :=
  sput d m k (f (sget d m k))

/-- The collection with its listed entry of number k, where there is one, changed by f. -/
def sadj {α : Type} (m : Sparse α) (k : Nat) (f : α → α) : Sparse α :=
  match sfind m k with
  | none => m
  | some v => sset m k (f v)

/-- Every listed entry changed by f. -/
def smap {α : Type} (f : α → α) (m : Sparse α) : Sparse α :=
  m.map (fun e => (e.1, f e.2))

/-- Every listed entry of a collection whose unlisted numbers read as d changed by f, which leaves d as it is. -/
def smapD {α : Type} [DecidableEq α] (d : α) (f : α → α) (m : Sparse α) : Sparse α :=
  (smap f m).filter (fun e => !decide (e.2 = d))

/-- The canonical form's order: numbers strictly rising. -/
def rising {α : Type} (m : Sparse α) : Bool :=
  match m with
  | [] => true
  | [_] => true
  | a :: b :: t => decide (a.1 < b.1) && rising (b :: t)

end Sys2Proof.Machine
end

