-- ==== Sys2Proof/Machine/Ops.lean ====
section
/-! DEFINITION. What every family of commands shares: cadence time, who is served, access to the numbered parts of the
state, the fault record, the event queue, completion entries, and the stop of a timetable. -/

namespace Sys2Proof.Machine

/-- The outcome of a command. -/
abbrev Res := Host.Outcome State Fault Refusal

/-! ### Time -/

/-- Cadence time (R23): the lap count in [55:16] and the tick in [15:0]. -/
def State.now (s : State) : Time := s.cad.lap ++ s.cad.tick

/-- The cadence time of a lap and tick, as a number. -/
def timeNat (lap tick : Nat) : Nat := lap * 65536 + tick

/-- A number of ticks as a cadence time. -/
def timeOf (n : Nat) : Time := BitVec.ofNat 56 n

/-- The lap of a cadence time. -/
def lapOf (t : Time) : BitVec 40 := fld t 16 40

/-- The tick of a cadence time. -/
def tickOf (t : Time) : BitVec 16 := fld t 0 16

/-- Cadence time advances: rails up, CADREF running, aligned (R21, R41, R437). DESIGN CHOICE: assumption 3. -/
def State.timed (s : State) : Bool :=
  decide (s.boot.supply = .on) && !s.cad.stopped && s.cad.aligned

/-- The module runs on CADREF. DESIGN CHOICE: assumption 3. -/
def State.clocked (s : State) : Bool := decide (s.boot.supply = .on) && !s.cad.stopped

/-- A hold-up save is under way: begun, and its commit word not yet programmed (R296). -/
def State.saving (s : State) : Bool :=
  decide (s.boot.supply = .saved) && (match if s.flash.lastSave then s.flash.save1 else s.flash.save0 with
    | some sv => !sv.commit
    | none => false)

/-- Laps are counted: while the module runs on CADREF, and during a hold-up save, which R407 puts laps in. DESIGN CHOICE:
assumption 121. -/
def State.counting (s : State) : Bool :=
  (decide (s.boot.supply = .on) || s.saving) && !s.cad.stopped && s.cad.aligned

/-- The tick that runs is the given one, and it is counted. DESIGN CHOICE: assumption 3. -/
def State.atTick (s : State) (t : Nat) : Bool := s.timed && decide (s.cad.tick.toNat = t)

/-- A brake point: every 64th tick (R285). -/
def State.brakePoint (s : State) : Bool := s.timed && decide (s.cad.tick.toNat % 64 = 0)

/-! ### Who is served -/

/-- Wardens and power controllers run: S2 is done (Table 14-1). -/
def State.fwUp (s : State) : Bool :=
  decide (2 < s.boot.step.toNat) || (decide (s.boot.step = 2) && decide (s.boot.state = 1))

/-- The control units act: clocked, released from reset, no pair lost (R376). DESIGN CHOICE: assumption 3. -/
def State.ctl (s : State) : Bool := s.clocked && s.fwUp && !s.lodge.pairLost

/-- The entry of a port. -/
def State.port (s : State) (p : Port) : PortSt := sget {} s.ports p.val

/-- A change to a port's entry. -/
def State.modPort (s : State) (p : Port) (f : PortSt → PortSt) : State :=
  { s with ports := smod {} s.ports p.val f }

/-- Host accesses through a port take effect: its link is up, the module runs and no pair is lost (R42, R376). -/
def State.hears (s : State) (p : Port) : Bool :=
  s.clocked && (s.port p).linkUp && !s.lodge.pairLost

/-- The port is the steward (R309). -/
def State.isSteward (s : State) (p : Port) : Bool := s.steward == decide (p.val = 1)

/-- The port number of a Bool: false is H0. -/
def portOf (b : Bool) : Port := if b then 1 else 0

/-- A write to global state from a port that is not the steward is ignored and counted (R309). -/
def countNs (p : Port) (s : State) : State :=
  s.modPort p (fun x => { x with nsWrites := satAdd x.nsWrites 1 })

/-- A host write through a port: nothing where the port is not served. DESIGN CHOICE: assumption 3. -/
def hostWrite (p : Port) (f : State → State) (s : State) : State :=
  if s.hears p then f s else s

/-- A host write to global state (R309). -/
def stewardWrite (p : Port) (f : State → State) (s : State) : State :=
  hostWrite p (fun s => if s.isSteward p then f s else countNs p s) s

/-! ### The numbered parts -/

def State.ring (s : State) (r : Nat) : Ring := sget {} s.rings r
def State.modRing (s : State) (r : Nat) (f : Ring → Ring) : State := { s with rings := smod {} s.rings r f }
def State.allot (s : State) (n : Nat) : Option AllotSt := sfind s.allots n
def State.modAllot (s : State) (n : Nat) (f : AllotSt → AllotSt) : State := { s with allots := sadj s.allots n f }
def State.image (s : State) (i : Nat) : ImageSt := (sfind s.images i).getD {}
def State.arr (s : State) (x : Nat) : ArrSt := sget {} s.arrays x
def State.modArr (s : State) (x : Nat) (f : ArrSt → ArrSt) : State := { s with arrays := smod {} s.arrays x f }
def State.mover (s : State) (m : Nat) : MoverSt := sget {} s.movers m
def State.modMover (s : State) (m : Nat) (f : MoverSt → MoverSt) : State :=
  { s with movers := smod {} s.movers m f }
def State.trn (s : State) (t : Nat) : TrnSt := sget {} s.trns t
def State.modTrn (s : State) (t : Nat) (f : TrnSt → TrnSt) : State := { s with trns := smod {} s.trns t f }
def State.hbm (s : State) (i : Nat) : Hbm := sget {} s.hbms i
def State.modHbm (s : State) (i : Nat) (f : Hbm → Hbm) : State := { s with hbms := smod {} s.hbms i f }
def State.ddr (s : State) (i : Nat) : Ddr := sget {} s.ddrs i
def State.modDdr (s : State) (i : Nat) (f : Ddr → Ddr) : State := { s with ddrs := smod {} s.ddrs i f }
def State.spk (s : State) (k : Nat) : SpokeSt := sget {} s.spokes k
def State.modSpk (s : State) (k : Nat) (f : SpokeSt → SpokeSt) : State := { s with spokes := smod {} s.spokes k f }
def State.station (s : State) (i : Nat) : Station := sget {} s.stations i
def State.modStation (s : State) (i : Nat) (f : Station → Station) : State :=
  { s with stations := smod {} s.stations i f }
def State.strobe (s : State) (g : Nat) : Strobe := sget {} s.strobes g
def State.modStrobe (s : State) (g : Nat) (f : Strobe → Strobe) : State :=
  { s with strobes := smod {} s.strobes g f }
def State.pll (s : State) (p : Nat) : Pll := sget {} s.plls p
def State.modPll (s : State) (p : Nat) (f : Pll → Pll) : State := { s with plls := smod {} s.plls p f }
def State.ramp (s : State) (g : Nat) : Ramp := sget {} s.ramps g
def State.modRamp (s : State) (g : Nat) (f : Ramp → Ramp) : State := { s with ramps := smod {} s.ramps g f }
def State.unit (s : State) (i : Nat) : UnitSt := sget {} s.lodge.units i
def State.modUnit (s : State) (i : Nat) (f : UnitSt → UnitSt) : State :=
  { s with lodge := { s.lodge with units := smod {} s.lodge.units i f } }

/-- What PGL_REST of a pavilion holds after reset: level 1 (R274). -/
def rest0 : Rb 2 := ⟨1, 1, 1, none⟩
def State.rest (s : State) (p : Nat) : Rb 2 := sget rest0 s.rests p
def State.modRest (s : State) (p : Nat) (f : Rb 2 → Rb 2) : State := { s with rests := smod rest0 s.rests p f }

/-- What the module puts on an outside connection, after all it has put there before. DESIGN CHOICE: assumption 8. -/
def State.emit (s : State) (o : Out) : State := { s with out := s.out ++ [o] }

/-- The numbers of the allotments that exist. -/
def State.allotNums (s : State) : List Nat := s.allots.map (·.1)

/-- The allotment that owns an array group (R117). -/
def State.groupOwner (s : State) (g : Nat) : Option Nat :=
  (s.allots.find? (fun e => e.2.groups.getLsbD g)).map (·.1)

/-! ### Counters of a lap (R36) -/

/-- A live per-lap counter raised by n, held at its greatest value (its number is Machine/Counters.lean's). -/
def State.bump (s : State) (k n : Nat) : State :=
  { s with live := smod 0 s.live k (fun v => satAdd v n) }

/-! ### Event queue and fault store -/

/-- An event record placed in the queue; the first record of an empty queue is announced by an IBI (R366, R367). DEDUCED:
assumption 43. -/
def pushEvent (type : BitVec 16) (flags : Byte) (stamp : Time) (code : Word) (ctx : BitVec 64) (s : State) : State :=
  let m := s.mgmt
  let seq := m.evSeq + 1
  let announce := m.events.isEmpty && m.ibiEn && m.addr.isSome && s.ctl
  let m' := { m with events := m.events ++ [⟨seq, type, flags, stamp, code, ctx⟩], evSeq := seq,
                     ibiLap := if announce then some s.cad.lap else m.ibiLap }
  { s with mgmt := m', out := if announce then s.out ++ [.ibi 0xAE] else s.out }

/-- A new event record of cadence time t is queued, after the EVENTS_LOST record where one is owed, or discarded and counted
(R368). DEDUCED: assumption 43. -/
def queueEventAt (t : Time) (type : BitVec 16) (flags : Byte) (code : Word) (ctx : BitVec 64) (s : State) : State :=
  let m := s.mgmt
  if m.lostRun = 0 then
    if m.events.length < 256 then pushEvent type flags t code ctx s
    else { s with mgmt := { m with evLost := satAdd m.evLost 1, lostRun := 1, lostAt := t } }
  else if m.events.length < 255 then
    let s := pushEvent 0x0008 0 m.lostAt (BitVec.ofNat 32 m.lostRun) 0 s
    pushEvent type flags t code ctx { s with mgmt := { s.mgmt with lostRun := 0 } }
  else { s with mgmt := { m with evLost := satAdd m.evLost 1, lostRun := m.lostRun + 1 } }

/-- A new event record of the running tick. -/
def queueEvent (type : BitVec 16) (flags : Byte) (code : Word) (ctx : BitVec 64) (s : State) : State :=
  queueEventAt s.now type flags code ctx s

/-- A fault code (R389): class, cause, detail. -/
def faultCode (cls : BitVec 4) (cause : BitVec 12) (detail : BitVec 16) : Word := cls ++ cause ++ detail

/-- A fault context (Table 14-4). -/
def faultCtx (slice : BitVec 12) (die : BitVec 3) (array : Byte) (entry : Option (BitVec 24)) (tick : BitVec 16) :
    BitVec 64 :=
  slice ++ die ++ array ++ ofBit 1 entry.isSome ++ entry.getD 0 ++ tick

/-- S1 is done, so that stamps hold cadence time (R389). -/
def State.s1Done (s : State) : Bool :=
  decide (1 < s.boot.step.toNat) || (decide (s.boot.step = 1) && decide (s.boot.state = 1))

/-- The slot of record q (R388). -/
def slotOf (q : Word) : Nat := (q - 1).toNat % 32

/-- The place of a record among those of its tick: ascending unit class, then ascending die (R388). -/
def FaultRec.rank (r : FaultRec) : Nat := 8 * (fld r.code 28 4).toNat + (fld r.ctx 49 3).toNat

/-- Record r, the newest, is stored at sequence number q, or before those of the n records of its tick that stand right before it
and come after it (R388). -/
def settle (r : FaultRec) (recs : Sparse FaultRec) (q : Word) : Nat → Sparse FaultRec
  | 0 => sput {} recs (slotOf q) { r with seq := q }
  | n + 1 =>
    let before := sget {} recs (slotOf (q - 1))
    if r.rank < before.rank then settle r (sput {} recs (slotOf q) { before with seq := q }) (q - 1) n
    else sput {} recs (slotOf q) { r with seq := q }

/-- The records of tick t that stand last in the store, of which at most 31 still stand beside a new one; before S1 is done no
tick runs. -/
def State.ofTick (s : State) (t : Time) : Nat := if s.s1Done && decide (s.frc.tickAt = t) then min 31 s.frc.inTick else 0

/-- A fault record of tick t is written, and its event is queued (R388, R389, R366). -/
def writeFaultAt (t : Time) (code : Word) (slice : BitVec 12) (die : BitVec 3) (array : Byte) (entry : Option (BitVec 24))
    (s : State) : State :=
  let seq := s.frc.seq + 1
  let ctx := faultCtx slice die array entry (tickOf t)
  let rec_ : FaultRec := ⟨seq, code, ctx, if s.s1Done then t else 0⟩
  let recs := settle rec_ s.frc.recs seq (s.ofTick t)
  queueEventAt t 0x0001 0 code ctx
    { s with frc := { s.frc with recs := recs, seq := seq, tickAt := t, inTick := s.ofTick t + 1 } }

/-- A fault record of the running tick. -/
def writeFault (code : Word) (slice : BitVec 12) (die : BitVec 3) (array : Byte) (entry : Option (BitVec 24))
    (s : State) : State :=
  writeFaultAt s.now code slice die array entry s

/-! ### Stops -/

/-- An allotment that a fault has stopped (Table 12-5). -/
def AllotSt.fault (a : AllotSt) : AllotSt := { a with stopped := true, faulted := true }

/-- A fault stops an allotment's timetable (R174; Table 14-5). DESIGN CHOICE: assumption 53. -/
def stopAllot (n : Nat) (s : State) : State := s.modAllot n AllotSt.fault

/-- Every timetable of the module stops by a fault. -/
def stopAll (s : State) : State := { s with allots := smap AllotSt.fault s.allots }

/-- The slice tag of an allotment, 0 where there is none (Table 14-4). -/
def State.sliceOf (s : State) (n : Nat) : BitVec 12 := match s.allot n with
  | none => 0
  | some a => a.slice

/-- A fault of an allotment is recorded and its timetable stops. DESIGN CHOICE: assumption 53. -/
def allotFault (n : Nat) (code : Word) (die : BitVec 3) (array : Byte) (entry : Option (BitVec 24)) (s : State) :
    State :=
  stopAllot n (writeFault code (s.sliceOf n) die array entry s)

/-! ### Completions -/

/-- A completion entry takes a pending slot of its ring: 1,008 of the 1,024 slots serve kind TIMETABLE, and an entry that
finds none is discarded and counted (R323). -/
def complete (r : Nat) (c : Completion) (s : State) : State :=
  s.modRing r (fun g =>
    if g.pend.length < (if c.kind = 0x01 then 1008 else 1024) then { g with pend := g.pend ++ [c] }
    else { g with lost := satAdd g.lost 1, lostFlag := true })

/-- The entry that answers a port ring's command (Table 11-3). -/
def commandDone (p : Port) (tag : Word) (status : Byte) (detail : Word) (head : BitVec 16) (s : State) : State :=
  complete p.val ⟨0x04, status, head, tag, s.now, 0, detail, 0xFF⟩ s

/-! ### Buffered fields -/

/-- A write to a buffered field (R313): reads return it at once; a strobe of a later tick applies it. -/
def Rb.write {w : Nat} (f : Rb w) (t : Time) (v : BitVec w) : Rb w :=
  { f with buf := v, old := if f.at_ = some t then f.old else f.buf, at_ := some t }

/-- What a strobe in tick t applies of a buffered field: the value buffered before tick t. DEDUCED: assumption 54. -/
def Rb.applied {w : Nat} (f : Rb w) (t : Time) : BitVec w := if f.at_ = some t then f.old else f.buf

/-- A strobe copies the buffered value into effect (R313). -/
def Rb.strobe {w : Nat} (f : Rb w) (t : Time) : Rb w := { f with eff := f.applied t }

end Sys2Proof.Machine
end

