-- ==== Sys2Proof/Machine/Counters.lean ====
section
/-! DEFINITION. The per-lap counters by number (R36): State.live holds the running lap's counts and State.latched the
ended lap's. -/

namespace Sys2Proof.Machine

/-- Counter k of array x (Table 4-7). -/
def cArr (x k : Nat) : Nat := 16 * x + k
/-- Descriptors completed and words moved by mover m (MOV_DONE, MOV_WORDS). -/
def cMovDone (m : Nat) : Nat := 4096 + m
def cMovWords (m : Nat) : Nat := 4192 + m
/-- HBM_CE, HBM_UE of site i. -/
def cHbmCe (i : Nat) : Nat := 4300 + i
def cHbmUe (i : Nat) : Nat := 4320 + i
/-- DDR_CE, DDR_UE, DDR_TAG of channel c. -/
def cDdrCe (c : Nat) : Nat := 4340 + c
def cDdrUe (c : Nat) : Nat := 4350 + c
def cDdrTag (c : Nat) : Nat := 4360 + c
/-- DDR_STAGE_CE of gatehouse h, SCR_CE and PGL_CE of pavilion p. -/
def cStage (h : Nat) : Nat := 4370 + h
def cScr (p : Nat) : Nat := 4372 + p
def cPgl (p : Nat) : Nat := 4376 + p
/-- SPK_CNT n of spoke k. -/
def cSpk (k n : Nat) : Nat := 4400 + 16 * k + n
/-- RTE_MISS of gatehouse h. -/
def cMiss (h : Nat) : Nat := 4980 + h
/-- TRN_CNT k of gatehouse h (Table 9-12). -/
def cTrn (h k : Nat) : Nat := 4990 + 8 * h + k

/-- Packets of a confidential slice sent (0) and received (1) on spoke k, which only the tenant's report shows (R235, R353).
DEDUCED: assumption 108. -/
def cSlice (slice : BitVec 12) (k dir : Nat) : Nat := 65536 + 72 * slice.toNat + 2 * k + dir
/-- COMPLETED, EARLY, REDUCED and SAT_ACC of a confidential allotment, by its slice (R264, R353). DEDUCED: assumption 108. -/
def cOwn (slice : BitVec 12) (k : Nat) : Nat := 16384 + 8 * slice.toNat + k

/-- The allotment is of a confidential image. -/
def State.isConf (s : State) (n : Nat) : Bool := match s.allot n with
  | none => false
  | some a => (s.image a.image).confidential

/-- The slice is that of a confidential allotment. -/
def State.confSlice (s : State) (slice : BitVec 12) : Bool :=
  s.allots.any (fun e => decide (e.2.slice = slice) && (s.image e.2.image).confidential)

/-- The counter of an allotment's share in counter k of a gatehouse: its own where it is confidential (R264). DEDUCED:
assumption 108. -/
def State.trnCounter (s : State) (n gh k : Nat) : Nat := if s.isConf n then cOwn (s.sliceOf n) k else cTrn gh k

/-- A packet counted for its slice, where that is confidential (R353). -/
def bumpSlice (slice : BitVec 12) (k dir : Nat) (s : State) : State :=
  if s.confSlice slice then s.bump (cSlice slice k dir) 1 else s

/-- The statistics latch (R36): every live counter is copied to its latched register and restarts from 0. -/
def latchCounters (s : State) : State := { s with latched := s.live, live := [] }

end Sys2Proof.Machine
end

