-- ==== Sys2Proof/Machine/Numbers.lean ====
section
/-! DEFINITION. Number formats and exact arithmetic (03_number_formats): the codes of every format, block sums, FP32
accumulation, the edge-unit functions (R90) and reductions (R73). Quantising stands in Machine/Quantise.lean. -/

namespace Sys2Proof.Machine

/-- The value of a floating-point code: NaN, an infinity, or m × 2^e with the sign kept apart (a zero has one too). -/
inductive Num where
  | nan
  | inf (neg : Bool)
  | fin (neg : Bool) (m : Nat) (e : Int)
  deriving DecidableEq, Repr

/-! ### Rounding -/

/-- A power of two as numerator and denominator. -/
def pow2 (e : Int) : Nat × Nat := if 0 ≤ e then (2 ^ e.toNat, 1) else (1, 2 ^ (-e).toNat)

/-- The floor of the binary logarithm of num / den, both positive. -/
def log2Rat (num den : Nat) : Int :=
  let g : Int := (Nat.log2 num : Int) - (Nat.log2 den : Int)
  let (a, b) := pow2 g
  if den * a ≤ num * b then g else g - 1

/-- num / den in units of 2^q, cut to a whole number n, with twice the rest compared to a unit: n, rest, unit. -/
def cutAt (num den : Nat) (q : Int) : Nat × Nat × Nat :=
  let (a, b) := pow2 q
  let d := den * a
  ((num * b) / d, (num * b) % d, d)

/-- Round to nearest, ties to even. -/
def rne (n rest unit : Nat) : Nat :=
  if 2 * rest < unit then n else if unit < 2 * rest then n + 1 else if n % 2 = 0 then n else n + 1

/-- The exponent of the last place that a format with mb mantissa bits and smallest normal exponent emin gives a
positive value. -/
def lastPlace (mb : Nat) (emin : Int) (num den : Nat) : Int :=
  max (log2Rat num den) emin - mb

/-- The code, without sign, of n units of 2^q in such a format; a carry out of the mantissa raises the exponent. -/
def codeOf (mb : Nat) (emin q : Int) (n : Nat) : Nat := (q - (emin - mb)).toNat * 2 ^ mb + n

/-- num / den rounded to nearest even in a format, as a code without sign; the exponent range has no upper limit. -/
def roundCode (mb : Nat) (emin : Int) (num den : Nat) : Nat :=
  if num = 0 then 0 else
  let q := lastPlace mb emin num den
  let (n, rest, unit) := cutAt num den q
  codeOf mb emin q (rne n rest unit)

/-- A code with its sign bit. -/
def withSign (w : Nat) (neg : Bool) (c : Nat) : BitVec w := BitVec.ofNat w (c + if neg then 2 ^ (w - 1) else 0)

/-- num / den as FP32, rounded once (R58): the word, and whether it overflowed to the largest finite value. -/
def toFp32 (neg : Bool) (num den : Nat) : Word × Bool :=
  let c := roundCode 23 (-126) num den
  if 0x7F800000 ≤ c then (withSign 32 neg 0x7F7FFFFF, true) else (withSign 32 neg c, false)

/-- num / den as BF16, rounded once (R73). -/
def toBf16 (neg : Bool) (num den : Nat) : BitVec 16 × Bool :=
  let c := roundCode 7 (-126) num den
  if 0x7F80 ≤ c then (withSign 16 neg 0x7F7F, true) else (withSign 16 neg c, false)

/-! ### Decoding -/

/-- A sign, exponent and mantissa with eb and mb bits as m × 2^e (R47): subnormals take the smallest normal exponent. -/
def fields (eb mb : Nat) (bias : Int) (c : Nat) : Bool × Nat × Int :=
  let man := c % 2 ^ mb
  let ex := (c / 2 ^ mb) % 2 ^ eb
  let neg := (c / 2 ^ (mb + eb)) % 2 = 1
  if ex = 0 then (neg, man, 1 - bias - mb) else (neg, man + 2 ^ mb, (ex : Int) - bias - mb)

def decFp32 (w : Word) : Num :=
  let c := w.toNat
  if (c / 2 ^ 23) % 256 = 255 then (if c % 2 ^ 23 = 0 then .inf (decide (2 ^ 31 ≤ c)) else .nan)
  else let (n, m, e) := fields 8 23 127 c; .fin n m e

def decBf16 (w : BitVec 16) : Num :=
  let c := w.toNat
  if (c / 2 ^ 7) % 256 = 255 then (if c % 2 ^ 7 = 0 then .inf (decide (2 ^ 15 ≤ c)) else .nan)
  else let (n, m, e) := fields 8 7 127 c; .fin n m e

/-- An E4M3 code: 0x7F and 0xFF are NaN, there is no infinity (Table 3-4). -/
def decE4M3 (c : Nat) : Num :=
  if c % 128 = 127 then .nan else let (n, m, e) := fields 4 3 7 c; .fin n m e

/-- An E5M2 code (Table 3-4). -/
def decE5M2 (c : Nat) : Num :=
  if c % 128 = 0x7C then .inf (decide (128 ≤ c)) else if 0x7C < c % 128 then .nan
  else let (n, m, e) := fields 5 2 15 c; .fin n m e

def decE2M1 (c : Nat) : Num := let (n, m, e) := fields 2 1 1 c; .fin n m e
def decE3M2 (c : Nat) : Num := let (n, m, e) := fields 3 2 3 c; .fin n m e
def decE2M3 (c : Nat) : Num := let (n, m, e) := fields 2 3 1 c; .fin n m e

/-- An MXINT8 byte k has the value k × 2^-6 (R47). -/
def decInt8 (c : Nat) : Num := if 128 ≤ c then .fin true (256 - c) (-6) else .fin false c (-6)

/-! ### Blocks (R49 to R54) -/

/-- The formats of Table 3-1: elements per block and bytes per block. -/
def blockElems (f : Nat) : Nat := match f with
  | 7 => 64 | 8 => 64 | 9 => 64 | _ => 32

def blockBytes (f : Nat) : Nat := match f with
  | 0 => 64 | 1 => 33 | 2 => 33 | 3 => 25 | 4 => 25 | 5 => 33 | 6 => 17 | 7 => 35 | 8 => 39 | 9 => 17 | _ => 128

/-- A block as read: its shared scale (none is NaN), its elements before the shared scale, and what R54 counts. -/
structure Block where
  scale : Option (Bool × Nat × Int)
  elems : List Num
  rsv   : Nat
  dup   : Bool
  deriving DecidableEq, Repr

/-- An E8M0 scale (R48). -/
def decE8M0 (c : Nat) : Option (Bool × Nat × Int) := if c = 255 then none else some (false, 1, (c : Int) - 127)

/-- A finite value scaled by 2^k. -/
def scaleNum (k : Int) (x : Num) : Num := match x with
  | .fin n m e => .fin n m (e + k)
  | y => y

/-- A signed integer m × 2^e of a finite value. -/
def signedOf (neg : Bool) (m : Nat) : Int := if neg then -(m : Int) else m

/-- The exact sum of two finite values as signed mantissa and exponent. -/
def addExact (a : Int × Int) (b : Int × Int) : Int × Int :=
  let e := min a.2 b.2
  (a.1 * 2 ^ (a.2 - e).toNat + b.1 * 2 ^ (b.2 - e).toNat, e)

/-- A signed mantissa and exponent as a value. -/
def numOf (a : Int × Int) : Num := .fin (decide (a.1 < 0)) a.1.natAbs a.2

/-- An element with what a pannier adds to it (R53): NaN where the pannier is. -/
def addNum (x y : Num) : Num := match x, y with
  | .fin n m e, .fin n' m' e' => numOf (addExact (signedOf n m, e) (signedOf n' m', e'))
  | _, _ => .nan

/-- Element i of a packed field of w-bit elements whose bytes are b (R49). -/
def packed (w : Nat) (v i : Nat) : Nat := (v / 2 ^ (w * i)) % 2 ^ w

/-- A block of a format, from its bytes. -/
def decBlock (f : Nat) (b : List Byte) : Block :=
  let v := leNat (b.drop 1)
  let mx := fun (w : Nat) (dec : Nat → Num) =>
    ({ scale := decE8M0 (byteAt b 0).toNat, elems := (List.range 32).map (fun i => dec (packed w v i)), rsv := 0,
       dup := false } : Block)
  match f with
  | 0 => { scale := some (false, 1, 0), rsv := 0, dup := false,
           elems := (List.range 32).map (fun i => decBf16 (le 16 b (2 * i) 2)) }
  | 1 => mx 8 decE4M3
  | 2 => mx 8 decE5M2
  | 3 => mx 6 decE3M2
  | 4 => mx 6 decE2M3
  | 5 => mx 8 decInt8
  | 6 => mx 4 decE2M1
  | 9 => { scale := (match decE4M3 (byteAt b 0).toNat with
             | .fin n m e => some (n, m, e)
             | _ => none),
           elems := (List.range 64).map (fun i => match packed 2 v i with
             | 1 => .fin false 1 0
             | 3 => .fin true 1 0
             | _ => .fin false 0 0),
           rsv := ((List.range 64).filter (fun i => packed 2 v i == 2)).length, dup := false }
  | _ =>
    let micro := leNat (bytesAt b 1 2)
    let body := leNat (b.drop 3)
    let base := (List.range 64).map (fun i =>
      scaleNum (-(packed 2 micro (i / 8) : Int)) (decE2M1 (packed 4 body i)))
    let pans := if f = 8 then [leNat (bytesAt b 35 2), leNat (bytesAt b 37 2)].filter (fun p => 32768 ≤ p) else []
    let add := fun (l : List Num) (p : Nat) =>
      let i := (p / 256) % 64
      l.set i (addNum (l.getD i .nan) (decE4M3 (p % 256)))
    { scale := decE8M0 (byteAt b 0).toNat, elems := pans.foldl add base, rsv := 0,
      dup := match pans with
        | [p, q] => (p / 256) % 64 == (q / 256) % 64
        | _ => false }

/-! ### Block sums (R55 to R58) -/

/-- What a block pair gives: its FP32 sum and its counters (Table 3-8: SAT_ACC, WINDOW_LOSS, SPECIAL_IN, HT2_RSV,
PANNIER_DUP). -/
structure BlockSum where
  bits    : Word
  sat     : Nat
  loss    : Nat
  special : Nat
  rsv     : Nat
  dup     : Nat
  deriving DecidableEq, Repr

def Num.isNan (x : Num) : Bool := match x with | .nan => true | _ => false
def Num.isInf (x : Num) : Bool := match x with | .inf _ => true | _ => false
def Num.isZero (x : Num) : Bool := match x with | .fin _ 0 _ => true | _ => false
def Num.neg (x : Num) : Bool := match x with | .fin n _ _ => n | .inf n => n | .nan => false

/-- Windowed pairs are the MXFP8 and BF16 ones (Table 3-2). -/
def windowed (f : Nat) : Bool := f == 0 || f == 1 || f == 2

/-- The mantissa bits of a windowed format. -/
def manBits (f : Nat) : Int := match f with | 0 => 7 | 1 => 3 | _ => 2

/-- The exact product of two finite elements. -/
def prodOf (x y : Num) : Int × Int := match x, y with
  | .fin n m e, .fin n' m' e' => (signedOf (n != n') (m * m'), e + e')
  | _, _ => (0, 0)

/-- The sum of exact products in the window of R57: the sum, its exponent, and whether a nonzero bit was cut. -/
def windowSum (shift : Int) (ps : List (Int × Int)) : (Int × Int) × Bool :=
  let nz := ps.filter (fun p => p.1 != 0)
  match nz with
  | [] => ((0, 0), false)
  | p0 :: t =>
    -- the exponent q_j of a product is its exponent plus the mantissa bits of both elements
    let qmax := t.foldl (fun q p => max q p.2) p0.2 + shift
    let u := qmax - 24
    let part := fun (p : Int × Int) =>
      let (n, rest, _) := cutAt (p.1.natAbs * (pow2 p.2).1) (pow2 p.2).2 u
      (signedOf (decide (p.1 < 0)) n, decide (rest ≠ 0))
    let cut := nz.map part
    ((cut.foldl (fun s c => s + c.1) 0, u), cut.any (·.2))

/-- The block sum of a pair (R55 to R58). A nonzero S under a shared scale of zero gives +0.0, which R58 states for S = 0 only.
DESIGN CHOICE: assumption 118. -/
def blockSum (fw fa : Nat) (w a : Block) : BlockSum :=
  let base : BlockSum := ⟨0, 0, 0, 0, w.rsv + a.rsv, (if w.dup then 1 else 0) + (if a.dup then 1 else 0)⟩
  let pairs := w.elems.zip a.elems
  let els := w.elems ++ a.elems
  match w.scale, a.scale with
  | some (ns, ms, es), some (na, ma, ea) =>
    if els.any (fun x => x.isNan || x.isInf) then
      let infs := pairs.filter (fun p => p.1.isInf || p.2.isInf)
      let bad := els.any Num.isNan || infs.any (fun p => p.1.isZero || p.2.isZero)
        || (infs.any (fun p => p.1.neg != p.2.neg) && infs.any (fun p => p.1.neg == p.2.neg))
      let sign := infs.any (fun p => p.1.neg != p.2.neg)
      { base with special := 1, bits := if bad then 0x7FC00000 else withSign 32 sign 0x7F800000 }
    else
      let ps := pairs.map (fun p => prodOf p.1 p.2)
      let (sum, loss) := if windowed fw then windowSum (manBits fw + manBits fa) ps
        else (ps.foldl addExact (0, 0), false)
      let m := sum.1 * signedOf (ns != na) (ms * ma)
      let (num, den) := pow2 (sum.2 + es + ea)
      let (bits, sat) := if m = 0 then (0, false) else toFp32 (decide (m < 0)) (m.natAbs * num) den
      { base with bits := bits, sat := if sat then 1 else 0, loss := if loss then 1 else 0 }
  | _, _ => { base with special := 1, bits := 0x7FC00000 }

/-! ### FP32 addition (R59) -/

/-- A finite value as a fraction of naturals with its sign. -/
def ratOf (m : Int) (e : Int) : Bool × Nat × Nat :=
  let (num, den) := pow2 e
  (decide (m < 0), m.natAbs * num, den)

/-- The sum of two values rounded by rnd into a format: nan, inf are the format's words (R59, R73). -/
def addWith {n : Nat} (nan : BitVec n) (inf : Bool → BitVec n) (rnd : Bool → Nat → Nat → BitVec n × Bool)
    (x y : Num) : BitVec n × Bool := match x, y with
  | .nan, _ => (nan, false)
  | _, .nan => (nan, false)
  | .inf a, .inf b => if a = b then (inf a, false) else (nan, false)
  | .inf a, _ => (inf a, false)
  | _, .inf b => (inf b, false)
  | .fin a m e, .fin b k f =>
    let (v, g) := addExact (signedOf a m, e) (signedOf b k, f)
    if v = 0 then (if m = 0 ∧ k = 0 ∧ a ∧ b then (withSign n true 0, false) else (0, false))
    else let (neg, num, den) := ratOf v g; rnd neg num den

/-- FP32 addition of R59: the sum, and whether it saturated. -/
def fpAdd (x y : Word) : Word × Bool :=
  addWith 0x7FC00000 (fun s => withSign 32 s 0x7F800000) toFp32 (decFp32 x) (decFp32 y)

/-- BF16 addition of R73. -/
def bfAdd (x y : BitVec 16) : BitVec 16 × Bool :=
  addWith 0x7FC0 (fun s => withSign 16 s 0x7F80) toBf16 (decBf16 x) (decBf16 y)

/-- INT32 addition of R73: two's complement, held at the ends of the range. -/
def intAdd (x y : Word) : Word × Bool :=
  let v := x.toInt + y.toInt
  if 0x7FFFFFFF < v then (0x7FFFFFFF, true) else if v < -0x80000000 then (0x80000000, true)
  else (BitVec.ofInt 32 v, false)

/-- Block sums added to an initial value in order (R59): the accumulator and its saturations. -/
def accumulate (init : Word) (l : List Word) : Word × Nat :=
  l.foldl (fun (a, n) b => let (c, s) := fpAdd a b; (c, if s then n + 1 else n)) (init, 0)

/-- One reduction step on the bytes of two words in FP32, BF16 or INT32 (codes 0xA, 0x0, 0xB; R73): the bytes and the
saturations. -/
def reduceBytes (fmt : Nat) (x y : List Byte) : List Byte × Nat :=
  let step := fun (n : Nat) (op : List Byte → List Byte → List Byte × Bool) =>
    (List.range (x.length / n)).foldl (fun (acc, k) i =>
      let (r, s) := op (bytesAt x (n * i) n) (bytesAt y (n * i) n)
      (acc ++ r, if s then k + 1 else k)) (([] : List Byte), 0)
  match fmt with
  | 0 => step 2 (fun a b => let (r, s) := bfAdd (le 16 a 0 2) (le 16 b 0 2); (bytesOf 2 r, s))
  | 11 => step 4 (fun a b => let (r, s) := intAdd (le 32 a 0 4) (le 32 b 0 4); (bytesOf 4 r, s))
  | _ => step 4 (fun a b => let (r, s) := fpAdd (le 32 a 0 4) (le 32 b 0 4); (bytesOf 4 r, s))

/-! ### Edge-unit functions (R90) -/

/-- The integer square root, bit by bit from the given place down. -/
def isqrtFrom (n : Nat) (i acc : Nat) : Nat := match i with
  | 0 => if (acc + 1) * (acc + 1) ≤ n then acc + 1 else acc
  | k + 1 =>
    let c := acc + 2 ^ (k + 1)
    isqrtFrom n k (if c * c ≤ n then c else acc)

def isqrt (n : Nat) : Nat := isqrtFrom n (Nat.log2 n / 2 + 1) 0

def nanW : Word := 0x7FC00000
def infW (neg : Bool) : Word := withSign 32 neg 0x7F800000

/-- RCP: 1/x. -/
def rcp (x : Word) : Word × Bool := match decFp32 x with
  | .nan => (nanW, false)
  | .inf n => (withSign 32 n 0, false)
  | .fin n 0 _ => (infW n, false)
  | .fin n m e => let (num, den) := pow2 (-e); toFp32 n num (den * m)

/-- RSQRT: 1/√x. The root is taken to 64 places beyond the last, and a rest stands for every place below them. -/
def rsqrt (x : Word) : Word × Bool := match decFp32 x with
  | .nan => (nanW, false)
  | .inf n => if n then (nanW, false) else (0, false)
  | .fin n 0 _ => (infW n, false)
  | .fin n m e =>
    if n then (nanW, false) else
    let (num, den) := pow2 (-e)
    let sh := 2 ^ 400
    let v := num * sh / (den * m)
    let r := isqrt v
    let exact := decide (r * r * (den * m) = num * sh)
    toFp32 false (if exact then 2 * r else 2 * r + 1) (2 * 2 ^ 200)

/-- 2^(2^-j) for j = 1, 2, …, n in units of 2^-160. -/
def rootsOfTwo (n : Nat) (t : Nat) : List Nat := match n with
  | 0 => []
  | k + 1 => let r := isqrt (t * 2 ^ 160); r :: rootsOfTwo k r

/-- 2^(f / 2^64) in units of 2^-160, f below 2^64. -/
def exp2Frac (f : Nat) : Nat :=
  ((rootsOfTwo 64 (2 * 2 ^ 160)).zipIdx).foldl
    (fun acc (r, j) => if (f / 2 ^ (63 - j)) % 2 = 1 then acc * r / 2 ^ 160 else acc) (2 ^ 160)

/-- EXP2: 2^x. A value of x below 2^-26 in magnitude gives 1; for every other x the fraction has at most 50 places, and no
FP32 argument brings 2^x as near a rounding boundary as the 100 places kept. -/
def exp2 (x : Word) : Word × Bool := match decFp32 x with
  | .nan => (nanW, false)
  | .inf n => if n then (0, false) else (infW false, false)
  | .fin _ 0 _ => (0x3F800000, false)
  | .fin n m e =>
    if (Nat.log2 m : Int) + e < -26 then (0x3F800000, false)
    else if 8 < (Nat.log2 m : Int) + e then (if n then (0, false) else (withSign 32 false 0x7F7FFFFF, true))
    else
      let (num, den) := pow2 (e + 64)
      let v : Int := signedOf n (m * num / den)
      let i := v / 2 ^ 64
      let f := (v % 2 ^ 64).toNat
      let (a, b) := pow2 i
      if f = 0 then toFp32 false a b
      else toFp32 false ((2 * exp2Frac f + 1) * a) (2 ^ 161 * b)

/-- The first n places of log2 y, for y in [1, 2) in units of 2^-400, as a whole number. -/
def log2Bits (n : Nat) (y acc : Nat) : Nat := match n with
  | 0 => acc
  | k + 1 =>
    let s := y * y / 2 ^ 400
    if 2 * 2 ^ 400 ≤ s then log2Bits k (s / 2) (2 * acc + 1) else log2Bits k s (2 * acc)

/-- LOG2: log2 x, from 128 places of the fraction. -/
def log2 (x : Word) : Word × Bool := match decFp32 x with
  | .nan => (nanW, false)
  | .inf n => if n then (nanW, false) else (infW false, false)
  | .fin _ 0 _ => (infW true, false)
  | .fin n m e =>
    if n then (nanW, false) else
    let ex : Int := (Nat.log2 m : Int) + e
    let y := m * 2 ^ 400 / 2 ^ (Nat.log2 m)
    if y = 2 ^ 400 then (if ex = 0 then (0, false) else toFp32 (decide (ex < 0)) ex.natAbs 1)
    else
      let v : Int := 2 * (ex * 2 ^ 128 + log2Bits 128 y 0) + 1
      toFp32 (decide (v < 0)) v.natAbs (2 * 2 ^ 128)

/-- The order of two finite FP32 values. -/
def fpLt (x y : Num) : Bool := match x, y with
  | .fin a m e, .fin b k f => decide ((addExact (signedOf a m, e) (-(signedOf b k), f)).1 < 0)
  | .inf a, .inf b => a && !b
  | .inf a, _ => a
  | _, .inf b => !b
  | _, _ => false

/-- MAX: NaN if either is, and +0 for +0 against -0. -/
def fpMax (x y : Word) : Word :=
  let a := decFp32 x
  let b := decFp32 y
  if a.isNan || b.isNan then nanW
  else if a.isZero && b.isZero then (if a.neg && b.neg then x else 0)
  else if fpLt a b then y else x

/-- SCALE: x × a + b, rounded once. -/
def fpScale (x a b : Word) : Word × Bool :=
  let p := decFp32 x
  let q := decFp32 a
  let prod : Num := match p, q with
    | .nan, _ => .nan
    | _, .nan => .nan
    | .inf s, y => if y.isZero then .nan else .inf (s != y.neg)
    | y, .inf s => if y.isZero then .nan else .inf (s != y.neg)
    | .fin s m e, .fin t k f => .fin (s != t) (m * k) (e + f)
  addWith nanW infW toFp32 prod (decFp32 b)

/-- A lane reduction's fixed binary tree over 128 lanes (R91): the value and the saturations of its seven levels. -/
def treeFold (op : Word → Word → Word × Bool) (fuel : Nat) (l : List Word) : Word × Nat := match fuel with
  | 0 => (l.headD 0, 0)
  | f + 1 =>
    let pairs := (List.range (l.length / 2)).map (fun j => op (l.getD (2 * j) 0) (l.getD (2 * j + 1) 0))
    let (r, n) := treeFold op f (pairs.map (·.1))
    (r, n + (pairs.filter (·.2)).length)

end Sys2Proof.Machine
end

