-- ==== Sys2Proof/Machine/Flags.lean ====
section
/-! DEFINITION. The status flags that stand outside one unit: the causes of HST_EVT, the pin ALERT_N, the events and
messages that a change of a cause brings. -/

namespace Sys2Proof.Machine

/-- HST_EVT: MARK_FAULT, CAP_UNMET, VIN_LOW, LEAK, THERMAL, FLOW_LOW, INLET_HIGH, TRIP from bit 7 down to bit 0. DEDUCED:
assumption 18. -/
def evtBits (s : State) : BitVec 8 :=
  ofBit 1 s.cad.markFault ++ ofBit 1 s.pwr.capUnmet ++ ofBit 1 s.pwr.vinLow ++ ofBit 1 s.thm.leak ++
  ofBit 1 s.thm.thermal ++ ofBit 1 s.thm.flowLow ++ ofBit 1 s.thm.inletHigh ++ ofBit 1 s.thm.trip

/-- ALERT_N is driven low: a cause of HST_EVT (Table 10-8, R22), a save (Table 10-8), a PLL lock fault (R34), a failed
boot step (R378) or a lost pair (R376). -/
def alertLow (s : State) : Bool :=
  decide (evtBits s ≠ 0) || s.frc.saved || s.gear.pllFault || decide (s.boot.state = 2) || s.lodge.pairLost

/-- The event of one cause of HST_EVT that has risen or cleared since the warden last recorded it (R366). DEDUCED: assumption
18. -/
def alertEvent (new : BitVec 8) (i : Nat) (s : State) : State :=
  if bit new i = bit s.evtSeen i then s
  else queueEvent 0x0002 (if bit new i then 0 else 0x02) (BitVec.ofNat 32 i) 0 s

/-- The message that a rise of an enabled cause makes a port owe (R326). DEDUCED: assumption 18. -/
def owePort (rise : BitVec 8) (x : PortSt) : PortSt :=
  if x.evtEn &&& rise = 0 then x else { x with evtDue := true }

/-- The messages that the enabled rises of HST_EVT owe (R326). DEDUCED: assumption 18. -/
def alertMessages (s : State) : State :=
  let new := evtBits s
  let rise := new &&& ~~~s.evtMsg
  { (s.modPort 0 (owePort rise)).modPort 1 (owePort rise) with evtMsg := new }

/-- What every change of the causes of HST_EVT brings: an ALERT event for each (R366), and the messages that enabled rises owe
(R326). DEDUCED: assumption 18. -/
def alertEvents (s : State) : State :=
  let new := evtBits s
  let s := (List.range 8).foldl (fun s i => alertEvent new i s) s
  alertMessages { s with evtSeen := new }

end Sys2Proof.Machine
end

