-- ==== Sys2Proof/Machine/Power.lean ====
section
/-! DEFINITION. Power and cooling (10_power_and_cooling): the prediction, caps, lease, ceilings, permitted gear, brake
level, the samples of a brake point and what a lap boundary makes of them, the ramps, the hold, the trip. The gear and the
roll call stand in Machine/Gears.lean. -/

namespace Sys2Proof.Machine

/-! ### Gears and prediction -/

/-- Array cycles per tick of a gear (Table 10-3); 0 before the array domains start. -/
def cptOf (g : Nat) : Nat := match g with
  | 5 => 16 | 4 => 14 | 3 => 12 | 2 => 10 | 1 => 8 | _ => 0

/-- F of a gear, in W (Table 10-3). -/
def dynOf (g : Nat) : Rat := match g with
  | 5 => 3780 | 4 => 3130 | 3 => 2580 | 2 => 2130 | 1 => 1730 | _ => 0

/-- VCORE of a gear, in mV (Table 10-3). -/
def coreMv (g : Nat) : Nat := match g with
  | 5 => 750 | 4 => 700 | 3 => 660 | 2 => 620 | 1 => 580 | _ => 0

/-- The offered gears, highest first: those set in GEARS of every loaded image (R268). -/
def State.offered (s : State) : List Nat :=
  [5, 4, 3, 2, 1].filter (fun g => s.images.all (fun e => e.2.gears.getLsbD g))

/-- The next offered gear above a gear; the gear itself where there is none. -/
def nextAbove (off : List Nat) (c : Nat) : Nat :=
  (off.reverse.find? (fun g => decide (c < g))).getD c

/-- One offered gear below a gear, never below G1. -/
def nextBelow (off : List Nat) (c : Nat) : Nat :=
  (off.find? (fun g => decide (g < c))).getD 1

/-- The highest offered gear at or below a gear (R282); G1 is offered by every image (R115). -/
def offeredAtMost (off : List Nat) (g : Nat) : Nat := (off.find? (fun x => decide (x ≤ g))).getD 1

/-- The prediction P(g, L) of R278, in W. -/
def predict (b : Basis) (g level : Nat) : Rat :=
  let r := dynOf g / dynOf b.gear.toNat
  let pFull := b.pGov + b.sH * (16 - b.level) / 2
  420 + (pFull - 420) * r - b.sH * r * (16 - level) / 2

/-- A cap of 0xFFFF sets none (R275). -/
def capOf (w : BitVec 16) : Option Nat := if w = 0xFFFF then none else some w.toNat

/-- The lower of two caps. -/
def capMin (a b : Option Nat) : Option Nat := match a, b with
  | none, b => b
  | a, none => a
  | some x, some y => some (min x y)

/-- The effective cap: the lowest of the host cap, the tray cap and, while the lease has lapsed, the lapse cap (R275). -/
def effCap (p : Pwr) : Option Nat :=
  capMin (capMin (capOf p.hostCap) (capOf p.trayCap)) (if p.lapsed then some p.lapseCap.toNat else none)

/-- A power fits under a fraction of a cap. -/
def fits (x : Rat) (cap : Option Nat) (part : Rat) : Bool := match cap with
  | none => true
  | some c => decide (x ≤ part * c)

/-! ### Ceilings (Table 10-4) -/

/-- The diode ceiling: more than 4 failed diodes on a pavilion set G2 (R291). -/
def diodeCeil (t : Thm) : Nat := if t.failed.any (fun f => decide (4 < popcount f)) then 2 else 5

def flowCeil (t : Thm) : Nat := if t.flow45.on then 1 else if t.flow60.on then 3 else 5
def inletCeil (t : Thm) : Nat := if t.inlet45.on then 1 else if t.inlet40.on then 3 else 5

/-- THM_STATUS.CEIL: the lowest of the temperature, diode, coolant and leak ceilings. -/
def thermCeil (t : Thm) : Nat :=
  min (min (min t.pavCeil.gear.toNat t.hbmCeil.gear.toNat) (min (diodeCeil t) (flowCeil t)))
    (min (inletCeil t) (if t.leak then 1 else 5))

/-- The ceiling: the lowest of Table 10-4 (R277). -/
def State.ceiling (s : State) : Nat :=
  min (min s.pwr.hostGear.toNat s.pwr.trayGear.toNat) (thermCeil s.thm)

/-! ### Permitted gear and brake level -/

/-- The permitted gear of R279: the highest offered gear under the ceiling whose prediction fits, with the margin of 0.97
above the gear in force. -/
def permittedOf (off : List Nat) (ceil c : Nat) (cap : Option Nat) (b : Basis) : Nat :=
  (off.find? (fun g => decide (g ≤ ceil) && fits (predict b g 16) cap (if c < g then 97 / 100 else 1))).getD 1

/-- The recompute of PERMITTED and CAP_UNMET (R279), with the events that a change of CAP_UNMET brings. DEDUCED: assumption
86. -/
def recompute (s : State) : State :=
  if s.ctl then
    let cap := effCap s.pwr
    let g := permittedOf s.offered s.ceiling s.gear.gear.toNat cap s.pwr.basis
    alertEvents { s with pwr := { s.pwr with permitted := BitVec.ofNat 3 g,
                                             capUnmet := !fits (predict s.pwr.basis 1 14) cap 1,
                                             brakeDue := true } }
  else s

/-- The brake level of R272 and R280. -/
def brakeOf (s : State) : Nat :=
  if s.pwr.capUnmet || s.thm.tp.any (fun t => decide (100000 ≤ t)) then 14
  else ([16, 15, 14].find? (fun l => fits (predict s.pwr.basis s.gear.gear.toNat l) (effCap s.pwr) 1)).getD 14

/-- The brake level changes; the lap's mean level keeps its weights by ticks (R278). -/
def setBrake (l : Nat) (s : State) : State :=
  let t := s.cad.tick.toNat
  { s with pwr := { s.pwr with brake := l, brakeDue := false },
           acc := { s.acc with lvlSum := s.acc.lvlSum + s.pwr.brake * (t - s.acc.lvlFrom), lvlFrom := t } }

/-- No timetable is held and H is 0, so that a shift, swap, start or routing switch may take place (R170). -/
def State.clear (s : State) : Bool := !s.hold.hold && decide (s.hold.h = 0)

/-- The shift of this lap takes place (R33, R170): it is due, and nothing lets it wait. -/
def State.shiftComes (s : State) : Bool := s.ctl && s.timed && s.gear.shiftDue && s.clear && !s.thm.trip

/-- The array domains are stopped for a shift: ticks 00001 to 00003 of its lap (R33). -/
def State.domainsStopped (s : State) : Bool :=
  s.shiftComes && decide (1 ≤ s.cad.tick.toNat) && decide (s.cad.tick.toNat ≤ 3)

/-- A shift that comes first in tick 00004 has not taken place yet (R410). -/
def State.shiftNow (s : State) : Bool := s.shiftComes && decide (s.cad.tick = 4)

/-- S6 makes its known-answer runs, with the brake at 14/16 (R386). -/
def State.inS6 (s : State) : Bool := decide (s.boot.step = 6) && decide (s.boot.state ≠ 1)

/-- BRAKE_LEVEL_EVAL (R272): at tick 00004 of every lap, after any shift, and after a change of a cap, a ceiling or the lease; in S6 the
brake stays where its runs have it. -/
def execBrakeLevelEval (s : State) : Res :=
  .next (if s.ctl && s.timed && (s.pwr.brakeDue || decide (s.cad.tick = 4)) && !s.shiftNow && !s.inS6 then setBrake (brakeOf s) s
    else s)

/-! ### Caps and the lease -/

/-- A cap value of PWR_HOST_CAP, PWR_HOST_SCHED and effecter 1: 420 to 4,200, or 0xFFFF. -/
def capOk (w : BitVec 16) : Bool := decide (w = 0xFFFF) || (decide (420 ≤ w.toNat) && decide (w.toNat ≤ 4200))

/-- A gear limit: 1 to 5. -/
def gearOk (g : BitVec 3) : Bool := decide (1 ≤ g.toNat) && decide (g.toNat ≤ 5)

/-- A steward write to PWR_HOST_CAP, ignored whole where a value is out of range (R301). -/
def writeHostCap (gear : BitVec 3) (cap : BitVec 16) (s : State) : State :=
  if gearOk gear && capOk cap then recompute { s with pwr := { s.pwr with hostGear := gear, hostCap := cap } } else s

/-- HOST_CAP_WRITE (R275, R301). -/
def execHostCapWrite (p : Port) (data : Word) (s : State) : Res :=
  .next (stewardWrite p (writeHostCap (fld data 16 3) (fld data 0 16)) s)

/-- A renewal of the cap lease (R276): LEFT takes LEASE_LAPS and LAPSED clears. -/
def renewLease (s : State) : State :=
  recompute { s with pwr := { s.pwr with leaseLeft := s.pwr.leaseLaps, lapsed := false } }

/-- LEASE_RENEW (R276): a steward write of 1 to PWR_CAP_LEASE.RENEW. -/
def execLeaseRenew (p : Port) (s : State) : Res := .next (stewardWrite p renewLease s)

/-! ### Samples (R266, R290, R293) -/

/-- The highest reading of a pavilion's valid diodes. -/
def hottest (failed : BitVec 16) (d : List Int) : Option Int :=
  ((List.range 16).filter (fun i => !failed.getLsbD i)).foldl
    (fun m i => match m with
      | none => some (d.getD i 0)
      | some x => some (max x (d.getD i 0))) none

/-- T_p of a pavilion (R290): the larger of the highest valid diode reading and T_in + 0.050 °C/W × P_core. -/
def governing (x : PowerSample) (failed : BitVec 16) (p : Nat) : Rat :=
  let core : Rat := (x.vcore.getD p 0 : Rat) * (x.icore.getD p 0 : Rat) / 1000000
  let model : Rat := (x.tIn : Rat) + 50 * core
  match hottest failed ((x.diodes.drop (16 * p)).take 16) with
  | none => model
  | some d => max (d : Rat) model

/-- The used flow of a sample, in units of 0.01 L/min, and whether the reading is replaced (R293). That every sample is judged by itself,
by the latest latched P_gov, is a DESIGN CHOICE: assumption 123. -/
def usedFlow (pGov : Rat) (x : PowerSample) : Rat × Bool :=
  let dt : Rat := ((x.tOut - x.tIn : Int) : Rat) / 1000
  if decide (1500 ≤ pGov) && decide (2 ≤ dt) then
    let heat := 100 * (60 * pGov / (4000 * dt))
    let read : Rat := x.flow
    if decide (read < 3 / 4 * heat) || decide (5 / 4 * heat < read) then (3 / 4 * heat, true) else (read, false)
  else (x.flow, false)

/-- The lists of a sample added entry by entry. -/
def addList (a b : List Nat) : List Nat := List.zipWith (· + ·) a b

/-- The power of every rail of Table 10-2 in a sample, in µW. -/
def railPower (x : PowerSample) : Nat :=
  let mv := x.vcore ++ [750, 750, 900, Config.vhbmMv, Config.vhbmMv, Config.vhbmMv, Config.vhbmMv, 3300]
  (List.zipWith (· * ·) mv (x.icore ++ x.railI)).sum

/-- The sums of the running lap with one more sample. -/
def addSample (x : PowerSample) (tp : List Rat) (flow : Rat) (a : LapAcc) : LapAcc :=
  { a with
    n := a.n + 1
    sVI := a.sVI + x.vin * x.iin
    sV := a.sV + x.vin
    sVc := addList a.sVc x.vcore
    sIc := addList a.sIc x.icore
    sRails := a.sRails + railPower x
    sRailI := addList a.sRailI x.railI
    sDiode := if a.n = 0 then x.diodes else List.zipWith (· + ·) a.sDiode x.diodes
    tpMax := if a.n = 0 then tp else List.zipWith max a.tpMax tp
    stkMax := if a.n = 0 then x.stackT else List.zipWith max a.stkMax x.stackT
    sIn := a.sIn + x.tIn
    sOut := a.sOut + x.tOut
    sFlow := a.sFlow + flow
    sRaw := a.sRaw + x.flow
    open_ := a.open_ && x.leak
    closed := a.closed && !x.leak }

/-- The stack readings of a sample: a site without a trained stack has none, and stands at 0. DEDUCED: assumption 109. -/
def stackReadings (x : PowerSample) (s : State) : List Int :=
  (List.range 12).map (fun i => if (s.hbm i).trained then x.stackT.getD i 0 else 0)

/-- A trained stack above 85 °C refreshes at twice the normal rate (R181). DEDUCED: assumption 109. -/
def hotStacks (l : List Int) (s : State) : State :=
  (List.range 12).foldl (fun s i =>
    if (s.hbm i).trained then s.modHbm i (fun h => { h with hot := decide (85000 < l.getD i 0) }) else s) s

/-- What a sample at a brake point leaves. A crossing of 100 °C calls for an evaluation of the brake level (R272). DEDUCED:
assumption 109. -/
def takeSample (x : PowerSample) (s : State) : State :=
  let stk := stackReadings x s
  let x := { x with stackT := stk }
  let tp := (List.range 4).map (fun p => governing x (s.thm.failed.getD p 0) p)
  let (flow, subst) := usedFlow (s.pwr.history.headD s.pwr.basis.pGov) x
  let hot := fun (l : List Rat) => l.any (fun t => decide (100000 ≤ t))
  let s' := { s with
    acc := addSample x tp flow s.acc
    thm := { s.thm with
      tp := tp
      thermal := tp.any (fun t => decide (105000 ≤ t))
      flowSubst := subst
      flowLow := decide (flow < 300)
      inletHigh := decide (45000 < x.tIn) }
    pwr := { s.pwr with brakeDue := s.pwr.brakeDue || (hot tp != hot s.thm.tp) } }
  alertEvents (hotStacks stk s')

/-- A sample holds four pavilions, eight other rails, 64 diodes and 12 stacks. -/
def sampleOk (x : PowerSample) : Bool :=
  decide (x.vcore.length = 4) && decide (x.icore.length = 4) && decide (x.diodes.length = 64)
  && decide (x.stackT.length = 12) && decide (x.railI.length = 8)

/-- POWER_SAMPLE (R266): at every brake point. -/
def execPowerSample (x : PowerSample) (s : State) : Res :=
  if sampleOk x then .next (if s.ctl && s.brakePoint then takeSample x s else s)
  else .fault .illFormed

/-! ### What a lap boundary makes of the samples -/

/-- A sum of a lap's samples as its mean. -/
def meanOf (sum : Rat) (n : Nat) : Rat := sum / n

/-- The neighbours of a diode in the 4 × 4 grid (R290). -/
def neighbours (d : Nat) : List Nat :=
  (List.range 16).filter (fun e => decide (e ≠ d)
    && decide (e / 4 ≤ d / 4 + 1) && decide (d / 4 ≤ e / 4 + 1)
    && decide (e % 4 ≤ d % 4 + 1) && decide (d % 4 ≤ e % 4 + 1))

/-- A number placed in a rising list. -/
def placeIn (x : Int) (l : List Int) : List Int := match l with
  | [] => [x]
  | y :: t => if x ≤ y then x :: y :: t else y :: placeIn x t

/-- Twice the median of a list: an even count takes the two middle values (R291). -/
def median2 (l : List Int) : Int :=
  let m := l.foldl (fun m x => placeIn x m) []
  m.getD ((m.length - 1) / 2) 0 + m.getD (m.length / 2) 0

/-- The lap mean of a diode is implausible (R291): more than 8 °C below the median of its valid neighbours, skipped below
two of them, or below T_in. The sums of n samples stand for the means. -/
def implausible (failed : BitVec 16) (sums : List Int) (sIn : Int) (n d : Nat) : Bool :=
  let nb := (neighbours d).filter (fun e => !failed.getLsbD e)
  let x := sums.getD d 0
  (decide (2 ≤ nb.length) && decide (2 * x + 16000 * n < median2 (nb.map (fun e => sums.getD e 0))))
  || decide (x < sIn)

/-- The diode check of a lap (R291): 8 laps in a row declare a diode failed, until module reset. -/
def diodeCheck (a : LapAcc) (t : Thm) : Thm :=
  if a.n = 0 then t else
  (List.range 64).foldl (fun u i =>
    let p := i / 16
    let d := i % 16
    let f := t.failed.getD p 0
    if f.getLsbD d then u
    else if implausible f ((a.sDiode.drop (16 * p)).take 16) a.sIn a.n d then
      let k := sget 0 t.badLaps i + 1
      if 8 ≤ k then { u with failed := u.failed.set p (u.failed.getD p 0 ||| BitVec.twoPow 16 d), badLaps := sput 0 u.badLaps i 0 }
      else { u with badLaps := sput 0 u.badLaps i k }
    else { u with badLaps := sput 0 u.badLaps i 0 }) t

/-- A threshold of Table 10-4: set by a lap mean beyond it, cleared after 256 consecutive laps on the other side. -/
def bandStep (beyond : Bool) (b : Band) : Band :=
  if beyond then ⟨true, 0⟩
  else if b.on then (if 255 ≤ b.okLaps then ⟨false, 0⟩ else ⟨true, b.okLaps + 1⟩) else b

/-- A temperature ceiling of Table 10-4 at the end of a lap: set one offered gear below the current gear, at most once per
4 laps; raised one offered gear after 256 consecutive cool laps. -/
def ceilStep (off : List Nat) (c : Nat) (lap : BitVec 40) (hot cool : Bool) (t : TempCeil) : TempCeil :=
  if hot then
    let may := match t.setAt with
      | none => true
      | some l => decide (l.toNat + 4 ≤ lap.toNat)
    if may then ⟨BitVec.ofNat 3 (min t.gear.toNat (nextBelow off c)), some lap, 0⟩ else { t with okLaps := 0 }
  else if cool && decide (t.gear ≠ 5) then
    if 255 ≤ t.okLaps then
      let up := nextAbove off t.gear.toNat
      { t with gear := if up = t.gear.toNat then 5 else BitVec.ofNat 3 up, okLaps := 0 }
    else { t with okLaps := t.okLaps + 1 }
  else { t with okLaps := 0 }

/-- The ceilings of the lap just latched (R277, R291, R294). lap is the lap that has ended. -/
def ceilings (lap : BitVec 40) (s : State) : State :=
  let a := s.acc
  if a.n = 0 then s else
  let t := diodeCheck a s.thm
  let off := s.offered
  let c := s.gear.gear.toNat
  let flow := meanOf a.sFlow a.n
  let inlet : Rat := meanOf a.sIn a.n
  let anyT := fun (k : Rat) => a.tpMax.any (fun x => decide (k ≤ x))
  let anyS := fun (k : Int) => a.stkMax.any (fun x => decide (k ≤ x))
  let leak := if a.open_ then true else if a.closed then false else t.leak
  let rose := leak && !t.leak
  let t' := { t with
    pavCeil := ceilStep off c lap (anyT 100000) (a.tpMax.all (fun x => decide (x ≤ 92000))) t.pavCeil
    hbmCeil := ceilStep off c lap (anyS 95000) (a.stkMax.all (fun x => decide (x ≤ 88000))) t.hbmCeil
    flow60 := bandStep (decide (flow < 600)) t.flow60
    flow45 := bandStep (decide (flow < 450)) t.flow45
    inlet40 := bandStep (decide (40000 < inlet)) t.inlet40
    inlet45 := bandStep (decide (45000 < inlet)) t.inlet45
    leak := leak
    tgovL := a.tpMax
    stackL := a.stkMax.map (fun x => (x : Rat))
    tInL := inlet
    tOutL := meanOf a.sOut a.n
    flowL := flow
    rawL := meanOf a.sRaw a.n }
  { s with thm := t',
           mgmt := { s.mgmt with odo := { s.mgmt.odo with
             leaks := if rose then s.mgmt.odo.leaks + 1 else s.mgmt.odo.leaks } } }

/-- The calibration of a lap (R288) and the basis of the prediction (R278). A lap with no sample changes nothing.
DESIGN CHOICE: assumption 11. -/
def calibrate (m : LapMeasure) (s : State) : State :=
  let a := s.acc
  if a.n = 0 then s else
  let p := s.pwr
  let meas : Rat := meanOf a.sVI a.n / 1000000
  let raw : Rat := (m.eRaw : Rat) / 1000
  let est := p.k * raw
  let near := decide (|est - meas| ≤ 15 / 100 * meas)
  let pGov := if near then meas else max meas est
  let rails : Rat := meanOf a.sRails a.n / 1000000
  let level : Rat := ((a.lvlSum + p.brake * (65536 - a.lvlFrom) : Nat) : Rat) / 65536
  let quot := if m.eRaw = 0 then Config.ratioOpen meas else meas / raw
  { s with pwr := { p with
    calFlag := !near || decide (102 / 100 * meas < rails)
    k := if near then p.k + (quot - p.k) / 8 else p.k
    vinL := meanOf a.sV a.n
    powerL := meas
    estL := est
    vcoreL := a.sVc.map (fun x => meanOf x a.n)
    icoreL := a.sIc.map (fun x => meanOf x a.n)
    railsL := a.sRailI.map (fun x => meanOf x a.n)
    history := (pGov :: p.history).take 64
    basis := if a.held || a.shifted then p.basis
      else ⟨pGov, (m.sH : Rat) / 1000, if s.gear.gear = 0 then p.basis.gear else s.gear.gear, level⟩ } }

/-- The lease at a lap boundary (R276): LEFT falls by 1, and where it reaches 0 the lease lapses, with its event (R366). -/
def leaseStep (s : State) : State :=
  if s.pwr.leaseLeft = 0 then s
  else if s.pwr.leaseLeft = 1 then
    queueEvent 0x0006 0 0 0 { s with pwr := { s.pwr with leaseLeft := 0, lapsed := true } }
  else { s with pwr := { s.pwr with leaseLeft := s.pwr.leaseLeft - 1 } }

/-! ### Ramps (R273, R274) -/

/-- The level a group's ramp moves to: 0 during a hold whose release is not under way, else its target (R286, R287). -/
def rampGoal (hold : HoldSt) (r : Ramp) : Nat := if hold.hold && hold.releaseAt.isNone then 0 else r.target

/-- One step of a ramp toward its goal. -/
def rampOne (goal : Nat) (r : Ramp) : Ramp :=
  if r.recover then r
  else if r.level < goal then { r with level := r.level + 1 }
  else if goal < r.level then { r with level := r.level - 1 }
  else r

/-- The fill level of an array group in a window of 16 array cycles that admits the given number of real vectors (R271): the
lower of the brake level and the ramp level, never below the real vectors. -/
def State.fillLevel (s : State) (g real : Nat) : Nat := max (min s.pwr.brake (s.ramp g).level) real

/-- The slots of such a window that carry freewheel work, and the cycles of it that are quiet (R271). -/
def State.freewheelSlots (s : State) (g real : Nat) : Nat := s.fillLevel g real - real
def State.quietCycles (s : State) (g real : Nat) : Nat := 16 - s.fillLevel g real

/-- A ramp is under way in some group. -/
def State.ramping (s : State) : Bool :=
  s.ramps.any (fun e => !e.2.recover && decide (e.2.level ≠ rampGoal s.hold e.2))

/-- A ramp begins: where none is under way, its first step is due 15 ticks on and a further one every 16 ticks, so that 16 steps
take 256 ticks. DEDUCED: assumption 19. -/
def startRamps (f : State → State) (s : State) : State :=
  let was := s.ramping
  let s := f s
  if was then s else { s with gear := { s.gear with rampNext := timeOf (s.now.toNat + 15) } }

/-- The tick that runs is one in which the ramps that are under way take a step. DEDUCED: assumption 19. -/
def State.rampTick (s : State) : Bool :=
  decide (s.gear.rampNext.toNat ≤ s.now.toNat) && decide ((s.now.toNat - s.gear.rampNext.toNat) % 16 = 0)

/-- RAMP_STEP (R273): every 16 ticks of a ramp the level of every array moves by 1 toward its goal. DEDUCED: assumption 19. -/
def execRampStep (s : State) : Res :=
  .next (if s.ctl && s.timed && s.ramping && s.rampTick then
    { s with ramps := smapD {} (fun r => rampOne (rampGoal s.hold r) r) s.ramps } else s)

/-- RECOVERY_RAMP_STEP (R269): every 256 ticks after the upshift of a lap the level rises by 1 back to 16. DEDUCED: assumption
19. -/
def execRecoveryRampStep (s : State) : Res :=
  .next (if s.ctl && s.timed && decide (260 ≤ s.cad.tick.toNat) && decide ((s.cad.tick.toNat - 4) % 256 = 0) then
    { s with ramps := smapD {} (fun r =>
        if r.recover then { r with level := r.level + 1, recover := decide (r.level + 1 < 16) } else r) s.ramps }
    else s)

/-- The ramps of an allotment's groups take a target; a target below 16 ends a recovery ramp (R274). -/
def retarget (groups : BitVec 16) (f : Nat → Nat) (s : State) : State :=
  (setBits groups).foldl (fun s g =>
    s.modRamp g (fun r => { r with target := f g, recover := r.recover && decide (f g = 16) })) s

/-- The rest level of an array group: PGL_REST.LEVEL of its pavilion, 0, 1 or 2 (R274). -/
def State.restLevel (s : State) (g : Nat) : Nat := (s.rest (g / 4)).eff.toNat

/-- REST_RAMP_START (R274): at commit or allotment reset, and 16 laps after a run ends with none pending. -/
def execRestRampStart (a : Allot) (s : State) : Res :=
  .next (match s.allot a.val with
    | none => s
    | some x =>
      if s.ctl && s.timed && x.run.isNone && x.pendRun.isNone
          && (match x.restLap with | none => false | some l => decide (l.toNat ≤ s.cad.lap.toNat)) then
        startRamps (retarget x.groups s.restLevel) (s.modAllot a.val (fun x => { x with restLap := none }))
      else s)

/-- RUN_RAMP_START (R274): the ramp to 16 before a run. -/
def execRunRampStart (a : Allot) (s : State) : Res :=
  .next (match s.allot a.val with
    | none => s
    | some x =>
      if s.ctl && s.timed && (x.run.isSome || x.pendRun.isSome) then
        startRamps (retarget x.groups (fun _ => 16)) (s.modAllot a.val (fun x => { x with restLap := none }))
      else s)

/-! ### The BRAKE line (R285 to R287, R168, R169) -/

/-- The ramps leave the recovery ramp when a hold begins. -/
def fallRamps (s : State) : State :=
  { s with ramps := smapD {} (fun r => { r with recover := false }) s.ramps }

/-- A cadence time moved later, and earlier, by n ticks. DEDUCED: assumption 19. -/
def later (n : Nat) (t : Time) : Time := timeOf (t.toNat + n)
def earlier (n : Nat) (t : Time) : Time := timeOf (t.toNat - n)

/-- Where a run stands, with its ticks moved (R169). DEDUCED: assumption 22. -/
def movePos (f : Time → Time) (p : RunPos) : RunPos :=
  { p with free := f p.free, lastTick := f p.lastTick, running := p.running.map (fun (t, g, i) => (f t, g, i)) }

/-- The deadline of a turnstile is still to come in a hold that began at a time: it is armed, or it has completed and its
segment's completion step waits for the deadline (R169, R256). DEDUCED: assumption 22. -/
def deadlineHeld (at_ : Time) (t : TrnSt) : Bool := decide (t.st = 1) || (decide (t.st = 2) && decide (at_.toNat ≤ t.deadline.toNat))

/-- What is still to come of every timetable is moved: unit and entry ticks, admissions, segment starts and the deadlines still to come
at a time (R169). DEDUCED: assumption 22. -/
def moveAll (f : Time → Time) (at_ : Time) (s : State) : State :=
  { s with
    allots := smap (fun a => { a with pos := a.pos.map (movePos f),
                                      plans := a.plans.map (fun p => { p with at_ := f p.at_ }) }) s.allots
    arrays := smapD {} (fun a => { a with issues := a.issues.map (fun i => { i with at_ := f i.at_ }) }) s.arrays
    trns := smapD {} (fun t => if deadlineHeld at_ t then { t with deadline := f t.deadline } else t) s.trns }

/-- A hold begins at this brake point (R286). -/
def beginHold (s : State) : State :=
  startRamps (fun s => fallRamps { s with hold := { s.hold with hold := true, at_ := s.now, releaseAt := none },
                                          acc := { s.acc with held := true } }) s

/-- The release of this very tick is cancelled: the timetables have not resumed, and stand where the hold left them (R287). -/
def unrelease (r : Resumed) (s : State) : State :=
  startRamps (fun s => { moveAll (earlier (r.at_.toNat - r.from_.toNat)) r.at_ s with
    hold := { hold := true, at_ := r.from_, h := r.h, lapEnd := r.lapEnd }, acc := { s.acc with held := true } }) s

/-- HOLD_BEGIN (R286, R287): BRAKE sampled high at a brake point begins a hold, or cancels its release, up to and including the release
brake point. -/
def execHoldBegin (s : State) : Res :=
  .next (if s.ctl && s.brakePoint then
    if s.hold.hold then
      if s.hold.releaseAt.isSome then
        startRamps (fun s => { s with hold := { s.hold with releaseAt := none } }) s
      else s
    else match s.hold.resumed with
      | some r => if r.at_ = s.now then unrelease r s else beginHold s
      | none => beginHold s
   else s)

/-- BRAKE_RELEASE_SAMPLE (R287): BRAKE sampled low during a hold sets the release brake point 320 ticks on. -/
def execBrakeReleaseSample (s : State) : Res :=
  .next (if s.ctl && s.brakePoint && s.hold.hold && s.hold.releaseAt.isNone then
    startRamps (fun s => { s with hold := { s.hold with releaseAt := some (timeOf (s.now.toNat + 320)) } }) s
   else s)

/-- HOLD_RELEASE (R287, R169): at the release brake point the timetables resume, delayed by the hold's length. DEDUCED:
assumption 22. -/
def execHoldRelease (s : State) : Res :=
  .next (if s.timed && s.hold.hold && decide (s.hold.releaseAt = some s.now) then
    let n := s.now.toNat - s.hold.at_.toNat
    let h' := s.hold.h + n
    let waiting := decide (s.hold.h ≠ 0) && decide (s.hold.lapEnd.toNat ≤ s.hold.at_.toNat)
    let lapEnd := if waiting then s.hold.lapEnd else timeOf (((s.hold.at_.toNat - s.hold.h) / 65536 + 1) * 65536 + h')
    moveAll (later n) s.hold.at_ { s with hold := { s.hold with
      hold := false, releaseAt := none, h := h', lapEnd := lapEnd, resumed := some ⟨s.now, s.hold.at_, s.hold.h, s.hold.lapEnd⟩ } }
   else s)

/-- H at a lap boundary (R169): it returns to 0 at the first one after the held timetable has ended its lap. DEDUCED:
assumption 22. -/
def holdStep (s : State) : State :=
  if !s.hold.hold && decide (s.hold.lapEnd.toNat ≤ s.now.toNat) then { s with hold := { s.hold with h := 0 } } else s

/-! ### Input voltage and the trip -/

/-- VIN_LOW_DETECT (R265): 64 ticks in a row below 52.0 V. -/
def execVinLowDetect (s : State) : Res :=
  .next (if s.ctl then alertEvents { s with pwr := { s.pwr with vinLow := true } } else s)

/-- VIN_LOW_CLEAR (R265): 64 ticks in a row at or above 53.0 V. -/
def execVinLowClear (s : State) : Res :=
  .next (if s.ctl then alertEvents { s with pwr := { s.pwr with vinLow := false } } else s)

/-- The VCORE regulators open (R295, R376). DEDUCED: assumption 42. -/
def openCore (s : State) : State :=
  (List.range 4).foldl (fun s p => { s with gear := { s.gear with slews := sput {} s.gear.slews p ⟨0, 0, s.now⟩ } }) s

/-- THERMAL_TRIP (R295, R300): the comparators, armed with VAUX (R419), open the VCORE regulators and the trip latches; the active warden,
where one runs, records the fault and stops every timetable. A message that a port owes for the rise needs no warden (R326). -/
def execThermalTrip (p : Pav) (diode : Fin 16) (s : State) : Res :=
  .next (if decide (s.boot.supply ≠ .off) && !s.thm.trip then
    let odo := { s.mgmt.odo with trips := s.mgmt.odo.trips + 1 }
    let s := openCore { s with thm := { s.thm with trip := true }, mgmt := { s.mgmt with odo := odo } }
    if s.ctl then
      alertEvents (stopAll (writeFault (faultCode 0x7 0x002
        (BitVec.ofNat 16 (256 * p.val + diode.val))) 0 (BitVec.ofNat 3 p.val) 0xFF none s))
    else alertMessages s
   else s)

end Sys2Proof.Machine
end

