-- ==== Sys2Proof/Machine/Quantise.lean ====
section
/-! DEFINITION. The quantise algorithm (R61 to R69): random values, element rounding, and blocks of every output
format. -/

namespace Sys2Proof.Machine

/-! ### Random values (R63) -/

def mix64 (z : BitVec 64) : BitVec 64 :=
  let z := (z ^^^ (z >>> 30)) * 0xBF58476D1CE4E5B9#64
  let z := (z ^^^ (z >>> 27)) * 0x94D049BB133111EB#64
  z ^^^ (z >>> 31)

/-- What a quantise operation draws its random values from: job seed, tensor, tile, step. -/
structure Draw where
  seed   : BitVec 64
  tensor : Word
  tile   : Word
  step   : BitVec 64
  deriving DecidableEq, Repr

/-- random16 of R63. -/
def random16 (d : Draw) (block i : Nat) : Nat :=
  let s := mix64 d.seed
  let s := mix64 (s + d.tensor.setWidth 64)
  let s := mix64 (s + d.tile.setWidth 64)
  let s := mix64 (s + d.step)
  let s := mix64 (s + BitVec.ofNat 64 block)
  (mix64 (s + BitVec.ofNat 64 i) >>> 48).toNat

/-! ### Counters -/

/-- What quantising counts (Table 3-8). -/
structure QCount where
  satElem : Nat := 0
  satAcc  : Nat := 0
  scale   : Nat := 0
  micro   : Nat := 0
  special : Nat := 0
  panOut  : Nat := 0
  panSat  : Nat := 0
  panOvf  : Nat := 0
  deriving DecidableEq, Repr

def QCount.add (a b : QCount) : QCount :=
  ⟨a.satElem + b.satElem, a.satAcc + b.satAcc, a.scale + b.scale, a.micro + b.micro, a.special + b.special,
   a.panOut + b.panOut, a.panSat + b.panSat, a.panOvf + b.panOvf⟩

/-! ### Element rounding (R61, R62, R64) -/

/-- Stochastic rounding of a cut value: t = floor(f × 2^16), and the next magnitude where t + r reaches 2^16 (R62). -/
def stochastic (r n rest unit : Nat) : Nat :=
  if rest = 0 then n else if 2 ^ 16 ≤ rest * 2 ^ 16 / unit + r then n + 1 else n

/-- Rounding to nearest even, or stochastically with the given random value. -/
def roundBy (rnd : Option Nat) (n rest unit : Nat) : Nat := match rnd with
  | none => rne n rest unit
  | some r => stochastic r n rest unit

/-- An element type: mantissa bits, smallest normal exponent, code and value of its largest finite magnitude, code
width. INT8 has no exponent. -/
structure ElemType where
  mb      : Nat
  emin    : Int
  maxCode : Nat
  maxNum  : Nat
  maxDen  : Nat
  width   : Nat
  int8    : Bool
  deriving DecidableEq, Repr

def e2m1 : ElemType := ⟨1, 0, 7, 6, 1, 4, false⟩
def e3m2 : ElemType := ⟨2, -2, 31, 28, 1, 6, false⟩
def e2m3 : ElemType := ⟨3, 0, 31, 15, 2, 6, false⟩
def e4m3 : ElemType := ⟨3, -6, 0x7E, 448, 1, 8, false⟩
def e5m2 : ElemType := ⟨2, -14, 0x7B, 57344, 1, 8, false⟩
def int8 : ElemType := ⟨6, 0, 127, 127, 64, 8, true⟩
def bf16 : ElemType := ⟨7, -126, 0x7F7F, 0xFF * 2 ^ 120, 1, 16, false⟩

/-- A magnitude num / den as a code of a type, and whether it saturated (R61, R64). -/
def elemCode (t : ElemType) (rnd : Option Nat) (num den : Nat) : Nat × Bool :=
  if t.maxNum * den < num * t.maxDen then (t.maxCode, true)
  else if num = 0 then (0, false)
  else if t.int8 then
    let (n, rest, unit) := cutAt num den (-6)
    (roundBy rnd n rest unit, false)
  else
    let q := lastPlace t.mb t.emin num den
    let (n, rest, unit) := cutAt num den q
    (codeOf t.mb t.emin q (roundBy rnd n rest unit), false)

/-- A signed element: no negative zero is written (R64). -/
def elemWord (t : ElemType) (rnd : Option Nat) (neg : Bool) (num den : Nat) : Nat × Bool :=
  let (c, s) := elemCode t rnd num den
  (if c = 0 then 0 else if neg then (if t.int8 then 256 - c else c + 2 ^ (t.width - 1)) else c, s)

/-- The magnitude of a finite FP32 word, in units of 2^-149. -/
def magOf (w : Word) : Nat := match decFp32 w with
  | .fin _ m e => m * 2 ^ (e + 149).toNat
  | _ => 0

/-- floor(log2 x) of a nonzero magnitude in units of 2^-149. -/
def logMag (m : Nat) : Int := (Nat.log2 m : Int) - 149

/-- A magnitude in units of 2^-149 divided by 2^x. -/
def ratMag (m : Nat) (x : Int) : Nat × Nat := let (a, b) := pow2 (x + 149); (m * b, a)

def negOf (w : Word) : Bool := w.getLsbD 31

/-- A list of values of w bits as bytes, the first in the lowest bits. -/
def packBytes (w n : Nat) (l : List Nat) : List Byte :=
  leBytes n (l.foldr (fun x acc => x + 2 ^ w * acc) 0)

/-- Any NaN or infinity among the inputs of a block (R65). -/
def anySpecial (x : List Word) : Bool := x.any (fun w => (decFp32 w).isNan || (decFp32 w).isInf)

/-- An element rounded at a power-of-two scale, with its random value where the mode is stochastic. -/
def elemAt (t : ElemType) (sr : Option (Nat → Nat)) (x : Int) (i : Nat) (w : Word) : Nat × Bool :=
  let (num, den) := ratMag (magOf w) x
  elemWord t (sr.map (fun r => r i)) (negOf w) num den

/-! ### Blocks -/

/-- An MX block of 32 values (R66). -/
def quantMx (t : ElemType) (emax : Int) (sr : Option (Nat → Nat)) (x : List Word) : List Byte × QCount :=
  let n := 4 * t.width
  if anySpecial x then (0xFF :: List.replicate n 0, { special := 1 }) else
  let amax := x.foldl (fun m w => max m (magOf w)) 0
  if amax = 0 then (0x00 :: List.replicate n 0, {}) else
  let x0 := logMag amax - emax
  let xs := if x0 < -127 then -127 else x0
  let el := x.zipIdx.map (fun (w, i) => elemAt t sr xs i w)
  (BitVec.ofInt 8 (xs + 127) :: packBytes t.width n (el.map (·.1)),
   { satElem := (el.filter (·.2)).length, scale := if x0 < -127 then 1 else 0 })

/-- The index of the largest magnitude among the given indices, ties to the lower index. -/
def largest (mags : List Nat) (ix : List Nat) : Nat :=
  ix.foldl (fun b i => if mags.getD b 0 < mags.getD i 0 then i else b) (ix.headD 0)

/-- The indices of the four largest magnitudes of 64 (R67). -/
def topFour (mags : List Nat) : Nat × Nat × Nat × Nat :=
  let l0 := List.range 64
  let a := largest mags l0
  let l1 := l0.filter (· ≠ a)
  let b := largest mags l1
  let l2 := l1.filter (· ≠ b)
  let c := largest mags l2
  (a, b, c, largest mags (l2.filter (· ≠ c)))

/-- The panniers of an HF4P block and whether a third outlier found none (R67, R68). -/
def panniers (mags : List Nat) : List Nat × Bool :=
  let (a, b, c, d) := topFour mags
  let m := fun i => mags.getD i 0
  if 0 < m b ∧ 4 * m c ≤ m b then ([a, b], decide (0 < m c ∧ 4 * m d ≤ m c))
  else if 0 < m a ∧ 4 * m b ≤ m a then ([a], false) else ([], false)

/-- An HF4 or HF4P block of 64 values (R67, R68). -/
def quantHf (pan : Bool) (sr : Option (Nat → Nat)) (x : List Word) : List Byte × QCount :=
  let tail := if pan then 4 else 0
  if anySpecial x then (0xFF :: List.replicate (34 + tail) 0, { special := 1 }) else
  let mags := x.map magOf
  let (p, ovf) := if pan then panniers mags else ([], false)
  let out := mags.zipIdx.map (fun (m, i) => if p.contains i then 0 else m)
  let amax := out.foldl max 0
  let pmax := (p.map (fun i => mags.getD i 0)).foldl max 0
  let x0 : Int := if 0 < amax then logMag amax - 2 else if p.isEmpty then -127 else logMag pmax - 8
  let xs := if x0 < -127 then -127 else x0
  let micro := (List.range 8).map (fun g =>
    let gm := ((out.drop (8 * g)).take 8).foldl max 0
    if gm = 0 then (0, false) else
    let m := (xs - (logMag gm - 2)).toNat
    if 3 < m then (3, true) else (m, false))
  let el := x.zipIdx.map (fun (w, i) =>
    if p.contains i then (0, false) else elemAt e2m1 sr (xs - ((micro.getD (i / 8) (0, false)).1 : Int)) i w)
  let sorted := (List.range 64).filter (fun i => p.contains i)
  let pans := sorted.zipIdx.map (fun (i, n) =>
    let (c, s) := elemAt e4m3 (sr.map (fun (r : Nat → Nat) _ => r (64 + n))) xs i (x.getD i 0)
    (32768 + 256 * i + c, s))
  (BitVec.ofInt 8 (xs + 127) :: packBytes 2 2 (micro.map (·.1)) ++ packBytes 4 32 (el.map (·.1))
     ++ (if pan then packBytes 16 4 (pans.map (·.1)) else []),
   { satElem := (el.filter (·.2)).length, scale := if x0 < -127 then 1 else 0,
     micro := (micro.filter (·.2)).length, panOut := p.length, panSat := (pans.filter (·.2)).length,
     panOvf := if ovf then 1 else 0 })

/-- An HT2 block of 64 values (R69). -/
def quantHt2 (x : List Word) : List Byte × QCount :=
  if anySpecial x then (0x7F :: List.replicate 16 0, { special := 1 }) else
  let (sum, sat) := accumulate 0 (x.map (fun w => w &&& 0x7FFFFFFF))
  let (num, den) := ratMag (magOf sum) 6
  let (code, clamp) := elemCode e4m3 none num den
  let s : Nat × Nat := match decE4M3 code with
    | .fin _ m e => let (a, b) := pow2 e; (m * a, b)
    | _ => (0, 1)
  let t := x.map (fun w =>
    let (n, d) := ratMag (magOf w) 0
    if s.1 ≠ 0 ∧ s.1 * d ≤ 2 * (n * s.2) then (if negOf w then 3 else 1) else 0)
  (BitVec.ofNat 8 code :: packBytes 2 16 t, { satAcc := sat, scale := if clamp then 1 else 0 })

/-- One FP32 value as BF16 (R65): the sign of a zero result is kept. -/
def quantBf16 (rnd : Option Nat) (w : Word) : BitVec 16 × Bool := match decFp32 w with
  | .nan => (0x7FC0, false)
  | .inf n => (withSign 16 n 0x7F80, false)
  | .fin n _ _ =>
    let (num, den) := ratMag (magOf w) 0
    let (c, s) := elemCode bf16 rnd num den
    (withSign 16 n c, s)

/-- Pieces of n values. -/
def wordChunks (n fuel : Nat) (l : List Word) : List (List Word) := match fuel with
  | 0 => []
  | k + 1 => if l.isEmpty then [] else l.take n :: wordChunks n k (l.drop n)

/-- QUANT (R91): the 128 lanes as consecutive blocks of the output format. draw gives the random value of a block and
element, where the mode is stochastic; the first block of the vector has index b0. -/
def quantLanes (f : Nat) (draw : Option (Nat → Nat → Nat)) (b0 : Nat) (x : List Word) : List Byte × QCount :=
  let n := blockElems f
  ((wordChunks n 128 x |>.zipIdx).foldl (fun (acc, c) (blk, j) =>
    let sr := draw.map (fun d => d (b0 + j))
    let (bytes, k) : List Byte × QCount := match f with
      | 1 => quantMx e4m3 8 sr blk
      | 2 => quantMx e5m2 15 sr blk
      | 3 => quantMx e3m2 4 sr blk
      | 4 => quantMx e2m3 2 sr blk
      | 5 => quantMx int8 0 sr blk
      | 6 => quantMx e2m1 2 sr blk
      | 7 => quantHf false sr blk
      | 8 => quantHf true sr blk
      | 9 => quantHt2 blk
      | _ =>
        let el := blk.zipIdx.map (fun (w, i) => quantBf16 (sr.map (fun (r : Nat → Nat) => r i)) w)
        (el.flatMap (fun e => bytesOf 2 e.1), { satElem := (el.filter (·.2)).length })
    (acc ++ bytes, c.add k)) (([] : List Byte), ({} : QCount)))

end Sys2Proof.Machine
end

