-- ==== Sys2Proof/Machine/Hash.lean ====
section
/-! DEFINITION. SHA-384 and HMAC-SHA-384, which R112 and R330 name by the standards that define them: FIPS 180-4, RFC 2104 with
that hash. -/

namespace Sys2Proof.Machine

/-- The n bytes of a number, most significant first. -/
def beBytes (n v : Nat) : List Byte := (leBytes n v).reverse

/-! ### The constants (4.2.3, 5.3.4): they are computed from what the standard says they are -/

/-- The first primes: those below 410 are 80. -/
def shaPrimes : List Nat :=
  (List.range 410).filter (fun n => decide (2 ≤ n) && (List.range' 2 19).all (fun d => decide (d = n) || decide (n % d ≠ 0)))

/-- The largest of r, r + 1, ..., r + 2^n - 1 whose power k is at most a bound. -/
def rootFrom (k bound : Nat) : Nat → Nat → Nat
  | 0, r => r
  | n + 1, r => rootFrom k bound n (if (r + 2 ^ n) ^ k ≤ bound then r + 2 ^ n else r)

/-- The first 64 bits of the fractional part of the k-th root of a prime. -/
def rootBits (k p : Nat) : BitVec 64 := BitVec.ofNat 64 (rootFrom k (p * 2 ^ (64 * k)) 70 0)

/-- The constants of the 80 rounds come from cube roots; the value before the first block from the square roots of the ninth to the
sixteenth prime. -/
def shaSteps : List (BitVec 64) := shaPrimes.map (rootBits 3)
def shaStart : List (BitVec 64) := ((shaPrimes.drop 8).take 8).map (rootBits 2)

/-! ### The compression of a block (6.4.2) -/

/-- A word over itself at several rotations. -/
def spins (l : List Nat) (x : BitVec 64) : BitVec 64 := l.foldl (fun y n => y ^^^ x.rotateRight n) 0

/-- One round: the hash registers are two chains of four, each of which takes in one word and drops its oldest; mix is the round's
constant and schedule word. -/
def shaStep (regs : List (BitVec 64)) (mix : BitVec 64) : List (BitVec 64) :=
  let up := regs.take 4
  let low := regs.drop 4
  let at_ := fun (l : List (BitVec 64)) (i : Nat) => l.getD i 0
  let pick := at_ low 2 ^^^ (at_ low 0 &&& (at_ low 1 ^^^ at_ low 2))
  let most := (at_ up 0 &&& at_ up 1) ||| (at_ up 2 &&& (at_ up 0 ||| at_ up 1))
  let into := mix + at_ low 3 + pick + spins [14, 18, 41] (at_ low 0)
  ((into + most + spins [28, 34, 39] (at_ up 0)) :: up.take 3) ++ ((into + at_ up 3) :: low.take 3)

/-- The schedule word that follows sixteen others, oldest first. -/
def shaNext (l : List (BitVec 64)) : BitVec 64 :=
  let old := l.getD 1 0
  let late := l.getD 14 0
  l.getD 0 0 + l.getD 9 0 + (spins [1, 8] old ^^^ old >>> 7) + (spins [19, 61] late ^^^ late >>> 6)

/-- The rounds that are left, with the sixteen schedule words from the next one on. -/
def shaRun : List (BitVec 64) → List (BitVec 64) → List (BitVec 64) → List (BitVec 64)
  | [], _, regs => regs
  | c :: cs, words, regs => shaRun cs (words.tail ++ [shaNext words]) (shaStep regs (c + words.headD 0))

/-- A word of a block, most significant byte first. -/
def shaWord (b : List Byte) (i : Nat) : BitVec 64 := BitVec.ofNat 64 (leNat (bytesAt b (8 * i) 8).reverse)

/-- The hash value after one more block of 128 bytes. -/
def shaBlock (h : List (BitVec 64)) (b : List Byte) : List (BitVec 64) :=
  List.zipWith (· + ·) h (shaRun shaSteps ((List.range 16).map (shaWord b)) h)

/-- A message with its padding (5.1.2): 0x80, zeros, and its length in bits in 16 bytes. -/
def shaPad (m : List Byte) : List Byte :=
  m ++ [0x80] ++ List.replicate ((239 - m.length % 128) % 128) 0 ++ beBytes 16 (8 * m.length)

/-- SHA-384 (FIPS 180-4), the leftmost 384 bits of the last hash value. -/
@[irreducible] def sha384 (m : List Byte) : BitVec 384 :=
  let p := shaPad m
  let h := (chunks 128 p.length p).foldl shaBlock shaStart
  BitVec.ofNat 384 ((h.take 6).foldl (fun n x => n * 2 ^ 64 + x.toNat) 0)

/-- A digest as its 48 bytes. -/
def digestBytes (d : BitVec 384) : List Byte := beBytes 48 d.toNat

/-- The key of an HMAC in one block of 128 bytes, over a byte. -/
def hmacPad (key : List Byte) (x : Byte) : List Byte :=
  (fit 128 (if 128 < key.length then digestBytes (sha384 key) else key)).map (· ^^^ x)

/-- HMAC-SHA-384, key first (R330). -/
def hmac384 (key msg : List Byte) : BitVec 384 :=
  sha384 (hmacPad key 0x5C ++ digestBytes (sha384 (hmacPad key 0x36 ++ msg)))

end Sys2Proof.Machine
end

