-- ==== Sys2Proof/Machine/Aes.lean ====
section
/-! DEFINITION. AES-256 (FIPS 197) with the two modes that the spec names by their standards: GCM (R232, R345, R349) and XTS
(R193). A block is 16 bytes in the order in which they stand in a message. -/

namespace Sys2Proof.Machine

/-! ### The cipher (FIPS 197) -/

/-- SubBytes, a quarter of the table each, and its inverse. -/
def aesSub0 : List Byte := [
  0x63, 0x7c, 0x77, 0x7b, 0xf2, 0x6b, 0x6f, 0xc5, 0x30, 0x01, 0x67, 0x2b, 0xfe, 0xd7, 0xab, 0x76,
  0xca, 0x82, 0xc9, 0x7d, 0xfa, 0x59, 0x47, 0xf0, 0xad, 0xd4, 0xa2, 0xaf, 0x9c, 0xa4, 0x72, 0xc0,
  0xb7, 0xfd, 0x93, 0x26, 0x36, 0x3f, 0xf7, 0xcc, 0x34, 0xa5, 0xe5, 0xf1, 0x71, 0xd8, 0x31, 0x15,
  0x04, 0xc7, 0x23, 0xc3, 0x18, 0x96, 0x05, 0x9a, 0x07, 0x12, 0x80, 0xe2, 0xeb, 0x27, 0xb2, 0x75]
def aesSub1 : List Byte := [
  0x09, 0x83, 0x2c, 0x1a, 0x1b, 0x6e, 0x5a, 0xa0, 0x52, 0x3b, 0xd6, 0xb3, 0x29, 0xe3, 0x2f, 0x84,
  0x53, 0xd1, 0x00, 0xed, 0x20, 0xfc, 0xb1, 0x5b, 0x6a, 0xcb, 0xbe, 0x39, 0x4a, 0x4c, 0x58, 0xcf,
  0xd0, 0xef, 0xaa, 0xfb, 0x43, 0x4d, 0x33, 0x85, 0x45, 0xf9, 0x02, 0x7f, 0x50, 0x3c, 0x9f, 0xa8,
  0x51, 0xa3, 0x40, 0x8f, 0x92, 0x9d, 0x38, 0xf5, 0xbc, 0xb6, 0xda, 0x21, 0x10, 0xff, 0xf3, 0xd2]
def aesSub2 : List Byte := [
  0xcd, 0x0c, 0x13, 0xec, 0x5f, 0x97, 0x44, 0x17, 0xc4, 0xa7, 0x7e, 0x3d, 0x64, 0x5d, 0x19, 0x73,
  0x60, 0x81, 0x4f, 0xdc, 0x22, 0x2a, 0x90, 0x88, 0x46, 0xee, 0xb8, 0x14, 0xde, 0x5e, 0x0b, 0xdb,
  0xe0, 0x32, 0x3a, 0x0a, 0x49, 0x06, 0x24, 0x5c, 0xc2, 0xd3, 0xac, 0x62, 0x91, 0x95, 0xe4, 0x79,
  0xe7, 0xc8, 0x37, 0x6d, 0x8d, 0xd5, 0x4e, 0xa9, 0x6c, 0x56, 0xf4, 0xea, 0x65, 0x7a, 0xae, 0x08]
def aesSub3 : List Byte := [
  0xba, 0x78, 0x25, 0x2e, 0x1c, 0xa6, 0xb4, 0xc6, 0xe8, 0xdd, 0x74, 0x1f, 0x4b, 0xbd, 0x8b, 0x8a,
  0x70, 0x3e, 0xb5, 0x66, 0x48, 0x03, 0xf6, 0x0e, 0x61, 0x35, 0x57, 0xb9, 0x86, 0xc1, 0x1d, 0x9e,
  0xe1, 0xf8, 0x98, 0x11, 0x69, 0xd9, 0x8e, 0x94, 0x9b, 0x1e, 0x87, 0xe9, 0xce, 0x55, 0x28, 0xdf,
  0x8c, 0xa1, 0x89, 0x0d, 0xbf, 0xe6, 0x42, 0x68, 0x41, 0x99, 0x2d, 0x0f, 0xb0, 0x54, 0xbb, 0x16]
def aesInv0 : List Byte := [
  0x52, 0x09, 0x6a, 0xd5, 0x30, 0x36, 0xa5, 0x38, 0xbf, 0x40, 0xa3, 0x9e, 0x81, 0xf3, 0xd7, 0xfb,
  0x7c, 0xe3, 0x39, 0x82, 0x9b, 0x2f, 0xff, 0x87, 0x34, 0x8e, 0x43, 0x44, 0xc4, 0xde, 0xe9, 0xcb,
  0x54, 0x7b, 0x94, 0x32, 0xa6, 0xc2, 0x23, 0x3d, 0xee, 0x4c, 0x95, 0x0b, 0x42, 0xfa, 0xc3, 0x4e,
  0x08, 0x2e, 0xa1, 0x66, 0x28, 0xd9, 0x24, 0xb2, 0x76, 0x5b, 0xa2, 0x49, 0x6d, 0x8b, 0xd1, 0x25]
def aesInv1 : List Byte := [
  0x72, 0xf8, 0xf6, 0x64, 0x86, 0x68, 0x98, 0x16, 0xd4, 0xa4, 0x5c, 0xcc, 0x5d, 0x65, 0xb6, 0x92,
  0x6c, 0x70, 0x48, 0x50, 0xfd, 0xed, 0xb9, 0xda, 0x5e, 0x15, 0x46, 0x57, 0xa7, 0x8d, 0x9d, 0x84,
  0x90, 0xd8, 0xab, 0x00, 0x8c, 0xbc, 0xd3, 0x0a, 0xf7, 0xe4, 0x58, 0x05, 0xb8, 0xb3, 0x45, 0x06,
  0xd0, 0x2c, 0x1e, 0x8f, 0xca, 0x3f, 0x0f, 0x02, 0xc1, 0xaf, 0xbd, 0x03, 0x01, 0x13, 0x8a, 0x6b]
def aesInv2 : List Byte := [
  0x3a, 0x91, 0x11, 0x41, 0x4f, 0x67, 0xdc, 0xea, 0x97, 0xf2, 0xcf, 0xce, 0xf0, 0xb4, 0xe6, 0x73,
  0x96, 0xac, 0x74, 0x22, 0xe7, 0xad, 0x35, 0x85, 0xe2, 0xf9, 0x37, 0xe8, 0x1c, 0x75, 0xdf, 0x6e,
  0x47, 0xf1, 0x1a, 0x71, 0x1d, 0x29, 0xc5, 0x89, 0x6f, 0xb7, 0x62, 0x0e, 0xaa, 0x18, 0xbe, 0x1b,
  0xfc, 0x56, 0x3e, 0x4b, 0xc6, 0xd2, 0x79, 0x20, 0x9a, 0xdb, 0xc0, 0xfe, 0x78, 0xcd, 0x5a, 0xf4]
def aesInv3 : List Byte := [
  0x1f, 0xdd, 0xa8, 0x33, 0x88, 0x07, 0xc7, 0x31, 0xb1, 0x12, 0x10, 0x59, 0x27, 0x80, 0xec, 0x5f,
  0x60, 0x51, 0x7f, 0xa9, 0x19, 0xb5, 0x4a, 0x0d, 0x2d, 0xe5, 0x7a, 0x9f, 0x93, 0xc9, 0x9c, 0xef,
  0xa0, 0xe0, 0x3b, 0x4d, 0xae, 0x2a, 0xf5, 0xb0, 0xc8, 0xeb, 0xbb, 0x3c, 0x83, 0x53, 0x99, 0x61,
  0x17, 0x2b, 0x04, 0x7e, 0xba, 0x77, 0xd6, 0x26, 0xe1, 0x69, 0x14, 0x63, 0x55, 0x21, 0x0c, 0x7d]

/-- An entry of a table cut in quarters. -/
def tableAt (t0 t1 t2 t3 : List Byte) (x : Byte) : Byte :=
  let i := x.toNat % 64
  (if x.toNat < 64 then t0 else if x.toNat < 128 then t1 else if x.toNat < 192 then t2 else t3).getD i 0

def subByte (x : Byte) : Byte := tableAt aesSub0 aesSub1 aesSub2 aesSub3 x
def invSubByte (x : Byte) : Byte := tableAt aesInv0 aesInv1 aesInv2 aesInv3 x

/-- A byte times x in GF(2^8), modulo x^8 + x^4 + x^3 + x + 1. -/
def xtime (a : Byte) : Byte := if a.getLsbD 7 then a <<< 1 ^^^ 0x1B else a <<< 1

/-- A product in that field; n is how many bits of the second factor are left. -/
def aesMulFrom (n : Nat) (a b : Byte) : Byte := match n with
  | 0 => 0
  | k + 1 => (if b.getLsbD 0 then a else 0) ^^^ aesMulFrom k (xtime a) (b >>> 1)
def aesMul (a b : Byte) : Byte := aesMulFrom 8 a b

/-- Two byte strings over one another, as long as the first. -/
def xorBytes (a b : List Byte) : List Byte := a.zipIdx.map (fun e => e.1 ^^^ byteAt b e.2)

/-- The key schedule, newest word first; n words are still to come, and i is the number of the next one (5.2). -/
def aesExpand (n i : Nat) (rcon : Byte) (ws : List (List Byte)) : List (List Byte) := match n with
  | 0 => ws
  | k + 1 =>
    let prev := ws.getD 0 []
    let back := ws.getD 7 []
    let t := if i % 8 = 0 then xorBytes ((prev.tail ++ prev.take 1).map subByte) [rcon]
      else if i % 8 = 4 then prev.map subByte else prev
    aesExpand k (i + 1) (if i % 8 = 0 then xtime rcon else rcon) (xorBytes back t :: ws)

/-- The 15 round keys of a 32-byte key. -/
def aesKeys (key : List Byte) : List (List Byte) :=
  let ws := (aesExpand 52 8 1 ((List.range 8).map (fun i => bytesAt key (4 * i) 4)).reverse).reverse
  (List.range 15).map (fun r => (List.range 4).flatMap (fun c => ws.getD (4 * r + c) []))

/-- ShiftRows and its inverse; byte 4c + r stands in row r of column c. -/
def shiftRows (b : List Byte) : List Byte := (List.range 16).map (fun i => byteAt b ((i + 4 * (i % 4)) % 16))
def invShiftRows (b : List Byte) : List Byte := (List.range 16).map (fun i => byteAt b ((i + 12 * (i % 4)) % 16))

/-- MixColumns, with the coefficients of a row. -/
def mixWith (m0 m1 m2 m3 : Byte) (b : List Byte) : List Byte :=
  (List.range 16).map (fun i =>
    let at_ := fun (j : Nat) => byteAt b (i / 4 * 4 + (i + j) % 4)
    aesMul (at_ 0) m0 ^^^ aesMul (at_ 1) m1 ^^^ aesMul (at_ 2) m2 ^^^ aesMul (at_ 3) m3)
def mixColumns (b : List Byte) : List Byte := mixWith 2 3 1 1 b
def invMixColumns (b : List Byte) : List Byte := mixWith 14 11 13 9 b

/-- The rounds after the first round key. -/
def aesRounds (ks : List (List Byte)) (b : List Byte) : List Byte := match ks with
  | [] => b
  | [k] => xorBytes (shiftRows (b.map subByte)) k
  | k :: t => aesRounds t (xorBytes (mixColumns (shiftRows (b.map subByte))) k)

/-- The cipher on one block. -/
def aesBlock (key b : List Byte) : List Byte :=
  let ks := aesKeys key
  aesRounds ks.tail (xorBytes (fit 16 b) (ks.getD 0 []))

/-- The inverse rounds, from the last round key on. -/
def aesInvRounds (ks : List (List Byte)) (b : List Byte) : List Byte := match ks with
  | [] => b
  | [k] => xorBytes ((invShiftRows b).map invSubByte) k
  | k :: t => aesInvRounds t (invMixColumns (xorBytes ((invShiftRows b).map invSubByte) k))

/-- The inverse cipher on one block. -/
def aesInvBlock (key b : List Byte) : List Byte :=
  let ks := (aesKeys key).reverse
  aesInvRounds ks.tail (xorBytes (fit 16 b) (ks.getD 0 []))

/-! ### GCM (SP 800-38D) -/

/-- A block as a number, most significant byte first. -/
def blockNat (b : List Byte) : BitVec 128 := BitVec.ofNat 128 (leNat (fit 16 b).reverse)

/-- The product in GF(2^128) of GCM; n bits of x are left, the highest first. -/
def gcmMulFrom (n : Nat) (x z v : BitVec 128) : BitVec 128 := match n with
  | 0 => z
  | k + 1 => gcmMulFrom k (x <<< 1) (if x.getLsbD 127 then z ^^^ v else z)
      (if v.getLsbD 0 then v >>> 1 ^^^ 0xE1000000000000000000000000000000 else v >>> 1)
def gcmMul (x h : BitVec 128) : BitVec 128 := gcmMulFrom 128 x 0 h

/-- GHASH over blocks. -/
def ghash (h : BitVec 128) (l : List (List Byte)) : BitVec 128 := l.foldl (fun y b => gcmMul (y ^^^ blockNat b) h) 0

/-- The key stream of n blocks from counter c on, under a 12-byte nonce. -/
def gcmStream (key nonce : List Byte) (c n : Nat) : List Byte :=
  (List.range n).flatMap (fun i => aesBlock key (fit 12 nonce ++ beBytes 4 (c + i)))

/-- AES-256-GCM encryption, which is its own inverse: key, nonce, text. -/
@[irreducible] def gcmCrypt (key nonce text : List Byte) : List Byte :=
  xorBytes text (gcmStream key nonce 2 ((text.length + 15) / 16))

/-- The tag of additional data and ciphertext. -/
@[irreducible] def gcmTag (key nonce aad cipher : List Byte) : BitVec 128 :=
  let h := blockNat (aesBlock key (List.replicate 16 0))
  let len := beBytes 8 (8 * aad.length) ++ beBytes 8 (8 * cipher.length)
  ghash h (chunks 16 aad.length aad ++ chunks 16 cipher.length cipher ++ [len]) ^^^
    blockNat (aesBlock key (fit 12 nonce ++ [0, 0, 0, 1]))

/-! ### XTS (IEEE 1619) -/

/-- The tweak of the next block: times x in GF(2^128), least significant byte first. -/
def xtsNext (t : List Byte) : List Byte :=
  let n := 2 * leNat (fit 16 t)
  leBytes 16 (if n < 2 ^ 128 then n else Nat.xor (n - 2 ^ 128) 0x87)

/-- The blocks of a data unit through a block function, each over its tweak. -/
def xtsBlocks (f : List Byte → List Byte) (t : List Byte) (l : List (List Byte)) : List Byte := match l with
  | [] => []
  | b :: r => xorBytes (f (xorBytes (fit 16 b) t)) t ++ xtsBlocks f (xtsNext t) r

/-- A data unit of whole blocks under a 64-byte key, encrypted and decrypted; unit is its number. -/
@[irreducible] def xtsSeal (key : List Byte) (unit : Nat) (b : List Byte) : List Byte :=
  xtsBlocks (aesBlock (key.take 32)) (aesBlock (key.drop 32) (leBytes 16 unit)) (chunks 16 b.length b)
@[irreducible] def xtsOpen (key : List Byte) (unit : Nat) (b : List Byte) : List Byte :=
  xtsBlocks (aesInvBlock (key.take 32)) (aesBlock (key.drop 32) (leBytes 16 unit)) (chunks 16 b.length b)

end Sys2Proof.Machine
end

