-- ==== Sys2Proof/Machine/Trellis.lean ====
section
/-! DEFINITION. The trellis code (R182, R183): arithmetic in GF(2^8), the encoder, and the decoder on the error pattern
of a word; with the two CRCs of the spec (R185, R255). -/

namespace Sys2Proof.Machine

/-! ### GF(2^8) with 0x11D -/

/-- A symbol times α. -/
def gfDouble (a : Byte) : Byte := (a <<< 1) ^^^ (if a.getLsbD 7 then 0x1D else 0)

/-- The product of two symbols, from the bits of the second. -/
def gfMulFrom (a b : Byte) (i : Nat) (acc : Byte) : Byte := match i with
  | 0 => acc
  | k + 1 => gfMulFrom a b k (gfDouble acc ^^^ (if b.getLsbD k then a else 0))

def gfMul (a b : Byte) : Byte := gfMulFrom a b 8 0

/-- A power of a symbol. -/
def gfPow (a : Byte) (n : Nat) : Byte := match n with
  | 0 => 1
  | k + 1 => gfMul a (gfPow a k)

/-- The inverse of a nonzero symbol. -/
def gfInv (a : Byte) : Byte := gfPow a 254

/-! ### Encoder -/

/-- One data symbol into the remainder of the division by g(x) (R182). -/
def encodeStep (r : Byte × Byte × Byte × Byte) (d : Byte) : Byte × Byte × Byte × Byte :=
  let f := d ^^^ r.1
  (r.2.1 ^^^ gfMul f 0x0F, r.2.2.1 ^^^ gfMul f 0x36, r.2.2.2 ^^^ gfMul f 0x78, gfMul f 0x40)

/-- The check symbols c_0 to c_3 of 32 data symbols (R182). -/
def checkSymbols (d : List Byte) : List Byte :=
  let r := d.foldl encodeStep (0, 0, 0, 0)
  [r.1, r.2.1, r.2.2.1, r.2.2.2]

/-! ### Decoder -/

/-- The locator of symbol i of a codeword: α^(35 - i). -/
def locator (i : Nat) : Byte := gfPow 2 (35 - i)

/-- Syndrome j of an error pattern. -/
def syndrome (e : List Byte) (j : Nat) : Byte :=
  e.foldl (fun s x => gfMul s (gfPow 2 j) ^^^ x) 0

/-- What the decoder takes for the error of a word (R183): none where no codeword lies within 2 symbols. -/
def findError (e : List Byte) : Option (List (Nat × Byte)) :=
  let s0 := syndrome e 0
  let s1 := syndrome e 1
  let s2 := syndrome e 2
  let s3 := syndrome e 3
  if s0 = 0 ∧ s1 = 0 ∧ s2 = 0 ∧ s3 = 0 then some []
  else
    let det := gfMul s0 s2 ^^^ gfMul s1 s1
    if det = 0 then
      (if s0 = 0 then none else
        match (List.range 36).find? (fun i =>
            decide (gfMul s0 (locator i) = s1) && decide (gfMul s1 (locator i) = s2)
              && decide (gfMul s2 (locator i) = s3)) with
        | none => none
        | some i => some [(i, s0)])
    else
      let inv := gfInv det
      let a := gfMul (gfMul s0 s3 ^^^ gfMul s1 s2) inv
      let b := gfMul (gfMul s1 s3 ^^^ gfMul s2 s2) inv
      match (List.range 36).filter (fun i =>
          decide (gfMul (locator i) (locator i) ^^^ gfMul a (locator i) ^^^ b = 0)) with
      | [i, j] =>
        let m := gfMul (gfMul s0 (locator j) ^^^ s1) (gfInv (locator i ^^^ locator j))
        some [(i, m), (j, s0 ^^^ m)]
      | _ => none

/-- The outcome of a decode, with the error that a miscorrection leaves in the 32 data symbols. -/
inductive Decoded where
  | clean
  | corrected (left : List Byte)
  | uncorrectable
  deriving DecidableEq, Repr

/-- The decode of a word whose 36 symbols differ from its codeword by e (R183). -/
def trellisDecode (e : List Byte) : Decoded := match findError e with
  | none => .uncorrectable
  | some [] => .clean
  | some l => .corrected ((l.foldl (fun e x => e.set x.1 (e.getD x.1 0 ^^^ x.2)) (fit 36 e)).take 32)

/-! ### CRC-32C and CRC-64 -/

/-- One byte into a reflected CRC, bit by bit. -/
def crcByte {n : Nat} (poly : BitVec n) (c : BitVec n) (b : Byte) : BitVec n :=
  (List.range 8).foldl (fun c _ => (c >>> 1) ^^^ (if c.getLsbD 0 then poly else 0)) (c ^^^ b.setWidth n)

/-- CRC-32C (R185): polynomial 0x1EDC6F41 reflected, initial value and final XOR all ones. -/
def crc32c (b : List Byte) : BitVec 32 :=
  b.foldl (crcByte 0x82F63B78#32) (BitVec.allOnes 32) ^^^ BitVec.allOnes 32

/-- The address tag of a DDR5 word (R185). -/
def ddrTag (channel word : Nat) : BitVec 32 := crc32c (leBytes 8 (channel * 2 ^ 36 + word))

end Sys2Proof.Machine
end

