-- ==== Sys2Proof/Machine/Store.lean ====
section
/-! DEFINITION. The stores (04, 07): where an address lies, reads and writes of whole words under the trellis code, and
zeroing. Stores are numbered 0 module memory, 1 scratchpad, 2 weight slots, 3 staging memories. -/

namespace Sys2Proof.Machine

/-! ### Where an address lies -/

/-- Sites populated on a variant, in logical order (Table 7-2). -/
def popSites (variant : Nat) : List Nat := match variant with
  | 3 => List.range 12
  | 2 => [0, 1, 2, 3, 4, 5, 6, 7, 9, 10]
  | 1 => [0, 1, 3, 4, 6, 7, 9, 10]
  | _ => []

/-- S of the variant in force. -/
def State.nStacks (s : State) : Nat := (popSites s.boot.variant.toNat).length

/-- Module memory is DDR5 where bit 47 is set (R176). -/
def isDdr (a : Nat) : Bool := decide (2 ^ 47 ≤ a)

/-- The granule of an address in its tier, with bit 47 (R176): the address over 2^30, which names it alone. -/
def granuleOf (a : Nat) : Nat := a / 2 ^ 30

/-- The logical stack of an HBM4 address (R178). -/
def State.stackOf (s : State) (a : Nat) : Nat := (a / 2 ^ 30) % (max 1 s.nStacks)

/-- The site of an HBM4 address. -/
def State.siteOf (s : State) (a : Nat) : Nat := (popSites s.boot.variant.toNat).getD (s.stackOf a) 0

/-- The address within its stack of an HBM4 address (R178): granule n of the tier lies at (n div S) × 2^30. -/
def State.stackAddr (s : State) (a : Nat) : Nat := a / 2 ^ 30 / max 1 s.nStacks * 2 ^ 30 + a % 2 ^ 30

/-- The stripe of a stack address, the pseudo-channel of 64 and the channel of 32 it falls in, and the address within the
pseudo-channel (R178). -/
def stripeOf (b : Nat) : Nat := b / 256
def pseudoChannelOf (b : Nat) : Nat := stripeOf b % 64
def hbmChannelOf (b : Nat) : Nat := pseudoChannelOf b / 2
def pseudoAddr (b : Nat) : Nat := stripeOf b / 64 * 256 + b % 256

/-- The channel of a DDR5 address (R179). -/
def channelOf (a : Nat) : Nat := ((a - 2 ^ 47 - 2 ^ 36) / 2 ^ 30) % 8

/-- The scratchpad bank 48p + b of an address (R97): group G has banks 12G to 12G + 11. -/
def bankOf (a : Nat) : Nat := 12 * (a / 2 ^ 26) + (a % 2 ^ 26) / 2048 % 12

/-- The bytes of an array's two weight slots (R82). -/
def slotBytes : Nat := 81920

/-- The place of a weight slot's byte. -/
def slotAddr (x : Nat) (slot : Bool) (off : Nat) : Nat := (2 * x + if slot then 1 else 0) * slotBytes + off

/-- The place of a staging byte of gatehouse h (R129). -/
def stageAddr (h off : Nat) : Nat := h * 2 ^ 24 + off

/-! ### Bytes -/

/-- The allotment that owns a granule of module memory. -/
def State.granuleOwner (s : State) (g : Nat) : Option Nat :=
  (s.allots.find? (fun e => e.2.parts.any (fun p => decide (p.1 ≤ g) && decide (g < p.1 + p.2)))).map (·.1)

/-- The number of the memory key that covers an address (R194). -/
def State.keyOf (s : State) (a : Nat) : Nat :=
  match s.granuleOwner (granuleOf a) with
  | none => 0
  | some n => (match s.allot n with
    | none => 0
    | some x => x.keyId)

/-- The memory key that covers an address (R194). -/
def State.memKeyOf (s : State) (a : Nat) : List Byte :=
  match (s.granuleOwner (granuleOf a)).bind s.allot with
  | none => []
  | some x => x.memKey

/-- A byte of a store. A byte of module memory that has not been written under its owner's key is open (R195). DESIGN CHOICE:
assumptions 5, 6. -/
def State.byte (s : State) (st a : Nat) : Byte := match st with
  | 0 => (sfind s.mem a).getD (Config.unwritten (s.keyOf a) a)
  | 1 => sget 0 s.scr a
  | 2 => sget 0 s.wslots a
  | _ => sget 0 s.stage a

/-- The store with one byte written. DESIGN CHOICE: assumptions 5, 6. -/
def State.setByte (s : State) (st a : Nat) (b : Byte) : State := match st with
  | 0 => { s with mem := sset s.mem a b }
  | 1 => { s with scr := sput 0 s.scr a b }
  | 2 => { s with wslots := sput 0 s.wslots a b }
  | _ => { s with stage := sput 0 s.stage a b }

/-- Bytes of a store as they stand, whatever the trellis decoder would say. -/
def State.bytes (s : State) (st a n : Nat) : List Byte := (List.range n).map (fun i => s.byte st (a + i))

/-- Bytes written one after another. -/
def State.setBytes (s : State) (st a : Nat) (b : List Byte) : State :=
  b.zipIdx.foldl (fun s (x, i) => s.setByte st (a + i) x) s

/-! ### Words -/

/-- The place of a word's error pattern. -/
def upsetKey (st w : Nat) : Nat := st * 2 ^ 48 + w

/-- Two error patterns over one another. -/
def xorPattern (a b : List Byte) : List Byte :=
  (List.range 37).map (fun i => byteAt a i ^^^ byteAt b i)

/-- What has happened to the words that a command is to read comes into the store (R183, R185). DESIGN CHOICE: assumption
27. -/
def applyNoise (noise : List Noise) (s : State) : State :=
  noise.foldl (fun s n =>
    let e := fit 36 n.err ++ [if n.tag then 1 else 0]
    let cur := sget [] s.upset (upsetKey n.store.val n.word)
    let tagged := (xorPattern cur (fit 36 n.err)).take 36 ++ [if n.tag || (byteAt cur 36 != 0) then 1 else 0]
    let v := if cur.isEmpty then e else tagged
    { s with upset := sput [] s.upset (upsetKey n.store.val n.word) (if v.all (· == 0) then [] else v) }) s

/-- A read of one word. -/
inductive Rd where
  | good (b : List Byte)
  | ue
  | tagBad
  deriving DecidableEq, Repr

/-- Two byte strings of 32 bytes over one another. -/
def xor32 (a b : List Byte) : List Byte := (List.range 32).map (fun i => byteAt a i ^^^ byteAt b i)

/-- The stored word of HBM4 or DDR5 (R193): AES-256-XTS under the memory key, the tweak the module memory address over 32. -/
def State.cipherWord (s : State) (w : Nat) : List Byte := xtsSeal (s.memKeyOf (32 * w)) w (s.bytes 0 (32 * w) 32)

/-- What the errors that a decoder leaves in a stored word make of it: in the encrypted tiers they stand in the ciphertext (R183,
R193). DESIGN CHOICE: assumption 26. -/
def State.miscorrected (s : State) (st w : Nat) (left : List Byte) : List Byte :=
  if zeroAt left 0 32 then s.bytes st (32 * w) 32
  else if st = 0 then xtsOpen (s.memKeyOf (32 * w)) w (xor32 (s.cipherWord w) left)
  else xor32 (s.bytes st (32 * w) 32) left

/-- The counter of corrections of a word's store (Table 7-3). -/
def State.ceCounter (s : State) (st w : Nat) : Nat := match st with
  | 0 => if isDdr (32 * w) then cDdrCe (channelOf (32 * w)) else cHbmCe (s.siteOf (32 * w))
  | 1 => cScr (bankOf (32 * w) / 48)
  | 2 => cScr (32 * w / slotBytes / 2 / 64)
  | _ => cStage (32 * w / 2 ^ 24)

/-- An uncorrectable word of HBM4 or DDR5 is counted and its address kept (R188); every one is counted in the odometer
(Table 13-5). -/
def noteUe (st w : Nat) (tag : Bool) (s : State) : State :=
  let s := { s with mgmt := { s.mgmt with odo := { s.mgmt.odo with ueWords := s.mgmt.odo.ueWords + 1 } } }
  let a := 32 * w
  if st = 0 then
    if isDdr a then
      let c := channelOf a
      let s := (s.modDdr c (fun x => { x with ueAddr := some (BitVec.ofNat 48 a) })).bump (cDdrUe c) 1
      if tag then s.bump (cDdrTag c) 1 else s
    else
      let i := s.siteOf a
      (s.modHbm i (fun x => { x with ueAddr := some (BitVec.ofNat 48 a) })).bump (cHbmUe i) 1
  else s

/-- The read of word w of a store (R183 to R186): the state with what the read counts, and the word. A DDR5 word that is both
trellis-uncorrectable and tag-mismatched has the cause MEM_UE, and one that is corrected before its tag mismatches counts in DDR_CE
too. DESIGN CHOICE: assumptions 26, 27, 123. -/
def readWord (st w : Nat) (s : State) : State × Rd :=
  let e := sget [] s.upset (upsetKey st w)
  if e.isEmpty then (s, .good (s.bytes st (32 * w) 32))
  else
    let tag := byteAt e 36 != 0 && st == 0 && isDdr (32 * w)
    match trellisDecode (e.take 36) with
    | .uncorrectable => (noteUe st w tag s, .ue)
    | .clean => if tag then (noteUe st w true s, .tagBad) else (s, .good (s.miscorrected st w (e.take 32)))
    | .corrected left =>
      let s := s.bump (s.ceCounter st w) 1
      if tag then (noteUe st w true s, .tagBad) else (s, .good (s.miscorrected st w left))

/-- The write of a whole word, which replaces whatever stood there (R184, R188). DESIGN CHOICE: assumption 27. -/
def writeWord (st w : Nat) (b : List Byte) (s : State) : State :=
  { s.setBytes st (32 * w) (fit 32 b) with upset := sdel s.upset (upsetKey st w) }

/-- The words from byte a on, n bytes: good with all bytes, or the first word that is not. -/
def readWords (st : Nat) (ws : List Nat) (s : State) : State × (List Byte) × Option (Nat × Rd) :=
  ws.foldl (fun (s, acc, bad) w => match bad with
    | some b => (s, acc, some b)
    | none =>
      let (s, r) := readWord st w s
      (match r with
      | .good b => (s, acc ++ b, none)
      | r => (s, acc, some (w, r)))) (s, [], none)

/-- The numbers of the words that n bytes from a touch. -/
def wordsOf (a n : Nat) : List Nat :=
  if n = 0 then [] else (List.range ((a + n - 1) / 32 - a / 32 + 1)).map (fun i => a / 32 + i)

/-! ### Bank ports (R98) -/

/-- A write of a word at a bank port from the source of the given place in the fixed order: of two writes to one address in one
array cycle the later source's value stays. -/
def bankWrite (rank : Nat) (cycle : BitVec 4) (w : Nat) (b : List Byte) (s : State) : State :=
  let l := s.bankWrites.filter (fun x => decide (x.at_ = s.now))
  if l.any (fun x => decide (x.word = w) && decide (x.cycle = cycle) && decide (rank < x.rank)) then { s with bankWrites := l }
  else writeWord 1 w b { s with bankWrites := l ++ [⟨w, s.now, cycle, rank⟩] }

/-- The places in the fixed order of R98: edge units by site, the movers of the bank's pavilion by number, the hub. The output of an
edge unit of another pavilion has its site's place too, and of two words from the hub in one cycle the later command's stays: DESIGN
CHOICE: assumption 123. -/
def edgeRank (x : Nat) : Nat := x % 64
def hubRank : Nat := 80
def moverRank (m bank : Nat) : Nat := if m < 64 ∧ m / 16 = bank / 48 then 64 + m % 16 else hubRank

/-- A word of a packet or of a collective engine is written: at a bank's port it comes from the hub (R98). DESIGN CHOICE: assumption
123. -/
def hubWrite (st w : Nat) (b : List Byte) (s : State) : State :=
  if st = 1 then bankWrite hubRank (Config.hubCycle s.now.toNat w) w b s else writeWord st w b s

/-! ### Paths (R12, R95, R184) -/

/-- The receiving end of the bridge from one die to another: the bridges of a pavilion are those to the other pavilions in ascending
number and to gatehouses 0 and 1, those of a gatehouse the ones to the four pavilions (PGL_STATUS, Table 7-5). Between the two
gatehouses Tables 1-1 and 4-3 give no bridge and Table 7-1 no path, so that a word on that way meets no decoder: DESIGN CHOICE:
assumption 123. -/
def bridgeEnd (src dst : Nat) : Option (Nat × Nat) :=
  if src = dst ∨ (4 ≤ src ∧ 4 ≤ dst) then none
  else if 4 ≤ dst then some (dst, src)
  else if 4 ≤ src then some (dst, src - 1)
  else some (dst, if src < dst then src else src - 1)

/-- The decode points of a path over the given dies: the pergola ports of its pavilions and the receiving ends of its bridges. -/
def onPath (dies : List Nat) (p : FabricPort) : Bool := match p with
  | .pergola q _ => dies.contains q.val
  | .bridge d i => (dies.zip dies.tail).any (fun e => decide (bridgeEnd e.1 e.2 = some (d.val, i.toNat)))

/-- The counter of corrections at a port (Table 7-3), and its location and number (Table 7-5). -/
def portCounter (p : FabricPort) : Nat := match p with
  | .pergola q _ => cPgl q.val
  | .bridge d _ => if d.val < 4 then cPgl d.val else cStage (d.val - 4)
def portPlace (p : FabricPort) : Nat × Nat := match p with
  | .pergola _ r => (5, r.toNat)
  | .bridge _ i => (6, i.toNat)

/-- A word as it comes out of the decoder of a port, or none where it is uncorrectable (R183, R186). -/
def portDecode (p : FabricPort) (err b : List Byte) (s : State) : State × Option (List Byte) :=
  match trellisDecode (fit 36 err) with
  | .uncorrectable =>
    ({ s with mgmt := { s.mgmt with odo := { s.mgmt.odo with ueWords := s.mgmt.odo.ueWords + 1 } } }, none)
  | .clean => (s, some (if zeroAt err 0 32 then b else xor32 b err))
  | .corrected left => (s.bump (portCounter p) 1, some (if zeroAt left 0 32 then b else xor32 b left))

/-- What a path has made of a word, or the place where it was uncorrectable. -/
structure Carried where
  state : State
  word  : List Byte
  bad   : Option (Nat × Nat) := none

/-- Word k of a transfer passes a path over the given dies and is decoded at each port of it (R184, R187). -/
def carry (dies : List Nat) (path : List PathNoise) (k : Nat) (b : List Byte) (s : State) : Carried :=
  (path.filter (fun e => decide (e.word = k) && onPath dies e.port)).foldl (fun c e =>
    if c.bad.isSome then c
    else match portDecode e.port e.err c.word c.state with
      | (s, some b) => ⟨s, b, none⟩
      | (s, none) => ⟨s, c.word, some (portPlace e.port)⟩) ⟨s, b, none⟩

/-- The die that holds a word of a store. -/
def State.dieOf (s : State) (st w : Nat) : Nat := match st with
  | 0 => if isDdr (32 * w) then 4 + channelOf (32 * w) / 4 else s.siteOf (32 * w) / 3
  | 1 => bankOf (32 * w) / 48
  | 2 => 32 * w / slotBytes / 2 / 64
  | _ => 4 + 32 * w / 2 ^ 24

/-! ### Zeroing -/

/-- A store whose unlisted bytes read 0, with n bytes from a zeroed. -/
def zeroCells (m : List Host.Cell) (a n : Nat) : List Host.Cell :=
  m.filter (fun c => !(decide (a ≤ c.1) && decide (c.1 < a + n)))

/-- Error patterns of the words of a range are gone. DESIGN CHOICE: assumption 27. -/
def clearUpsets (st a n : Nat) (s : State) : State :=
  { s with upset := s.upset.filter (fun e =>
      !(decide (upsetKey st (a / 32) ≤ e.1) && decide (e.1 < upsetKey st ((a + n + 31) / 32)))) }

/-- The scratchpad of group g is zeroed (R99). -/
def zeroGroup (g : Nat) (s : State) : State :=
  clearUpsets 1 (g * 2 ^ 26) (2 ^ 26) { s with scr := zeroCells s.scr (g * 2 ^ 26) (2 ^ 26) }

/-- The weight slots and lane registers of array x are zeroed (R352, R395). -/
def zeroArray (x : Nat) (s : State) : State :=
  let s := clearUpsets 2 (slotAddr x false 0) (2 * slotBytes)
    { s with wslots := zeroCells s.wslots (slotAddr x false 0) (2 * slotBytes) }
  s.modArr x (fun a => { a with lanes := [], full0 := false, full1 := false })

/-- A range of a staging memory is zeroed. -/
def zeroStage (h off n : Nat) (s : State) : State :=
  clearUpsets 3 (stageAddr h off) n { s with stage := zeroCells s.stage (stageAddr h off) n }

/-- Every scratchpad, weight slot, lane register and staging memory holds zeros (R99). -/
def zeroAll (s : State) : State :=
  { s with scr := [], wslots := [], stage := [], zeroing := [],
           upset := s.upset.filter (fun e => decide (e.1 < 2 ^ 48)),
           arrays := smapD {} (fun a => { a with lanes := [], full0 := false, full1 := false }) s.arrays }

/-! ### Fault detail of memory (Table 7-5) -/

/-- Location and number of a stored word. -/
def State.placeOf (s : State) (st w : Nat) : Nat × Nat := match st with
  | 0 => if isDdr (32 * w) then (2, channelOf (32 * w)) else (1, s.stackOf (32 * w))
  | 1 => (3, bankOf (32 * w))
  | 2 => (4, 32 * w / slotBytes / 2)
  | _ => (7, 32 * w / 2 ^ 24)

/-- The fault code of an uncorrectable word at a place; a tag mismatch has its own cause. -/
def memFault (tag : Bool) (place : Nat × Nat) : Word :=
  faultCode 0x5 (if tag then 0x002 else 0x001) (BitVec.ofNat 16 (4096 * place.1 + place.2 % 4096))

end Sys2Proof.Machine
end

