-- ==== Sys2Proof/Machine/Array.lean ====
section
/-! DEFINITION. The arrays (03, 04): tile geometry, the admission of vectors, the edge unit and its programs. -/

namespace Sys2Proof.Machine

/-! ### Tile geometry (Tables 3-2 and 4-1) -/

/-- The operand pairs of Table 3-2. -/
def pairOk (fw fa : Nat) : Bool := match fw with
  | 9 => fa == 7 | 6 => fa == 6 | 7 => fa == 7 | 8 => fa == 7
  | 3 => fa == 3 || fa == 4 || fa == 5 | 4 => fa == 3 || fa == 4 || fa == 5 | 5 => fa == 3 || fa == 4 || fa == 5
  | 1 => fa == 1 || fa == 2 | 2 => fa == 1 || fa == 2
  | 0 => fa == 0
  | _ => false

/-- K per tile. -/
def kOf (fw : Nat) : Nat := match fw with
  | 9 => 2048 | 6 => 1024 | 7 => 1024 | 8 => 1024 | 0 => 256 | _ => 512

/-- Blocks per column. -/
def blocksOf (fw : Nat) : Nat := kOf fw / blockElems fw

/-- Tile bytes. -/
def tileBytes (fw : Nat) : Nat := 128 * blocksOf fw * blockBytes fw

/-- Activation bytes per vector. -/
def vectorBytes (fw fa : Nat) : Nat := kOf fw / blockElems fa * blockBytes fa

/-! ### The configuration in front -/

/-- The front configuration record and edge program of an array of an allotment (R121, R140). -/
def AllotSt.arrayCfg (a : AllotSt) (x : Nat) : Option (ArrCfg × EdgeProg) := match a.front with
  | none => none
  | some p => (p.cfgs.zip p.progs).find? (fun e => decide (e.1.array.toNat = x))

/-- The allotment of an array, and the array's configuration. -/
def State.arrayOf (s : State) (x : Nat) : Option (Nat × AllotSt × ArrCfg × EdgeProg) :=
  match s.groupOwner (x / 16) with
  | none => none
  | some n => match s.allot n with
    | none => none
    | some a => (a.arrayCfg x).map (fun c => (n, a, c.1, c.2))

/-! ### Admission (R82 to R86, R153) -/

/-- The n-th set bit of a slot mask. -/
def nthBit (m : BitVec 16) (n : Nat) : Nat := (setBits m).getD n 0

/-- The array cycle, counted from the entry's first, of the v-th vector of an ISSUE entry (R153). -/
def slotCycle (i : Issue) (v : Nat) : Nat :=
  let n := max 1 (popcount i.slotMask)
  16 * (v / n * i.stride) + nthBit i.slotMask (v % n)

/-- The tick that is a number of array cycles after an ISSUE entry of an array; a cohort is 2 ticks per place (R153). -/
def issueTick (x : Nat) (i : Issue) (cycle : Nat) : Time :=
  later ((if i.cohort then 2 * (x % 8) else 0) + cycle / max 1 i.cpt) i.at_

/-- The array cycle in which the next vector of an ISSUE entry enters, counted from lap 0. -/
def Issue.cycle (x : Nat) (i : Issue) : Nat :=
  (i.at_.toNat + if i.cohort then 2 * (x % 8) else 0) * max 1 i.cpt + slotCycle i i.admitted

/-- The ISSUE entry whose vector enters an array next: of entries that interleave, the one with the earliest slot (R153). -/
def ArrSt.nextIssue (x : Nat) (a : ArrSt) : Option Issue :=
  a.issues.foldl (fun best i => match best with
    | none => some i
    | some b => if i.cycle x < b.cycle x then some i else some b) none

/-- A vector of an ISSUE entry has entered: the entry ends with its last one. -/
def ArrSt.admitted (i : Issue) (a : ArrSt) : ArrSt :=
  { a with issues := a.issues.flatMap (fun j =>
      if j ≠ i then [j] else if i.admitted + 1 < i.total then [{ i with admitted := i.admitted + 1 }] else []) }

/-- A slot of an array is full. -/
def ArrSt.full (a : ArrSt) (slot : Bool) : Bool := if slot then a.full1 else a.full0

/-- A slot of an array becomes full or not. -/
def ArrSt.setFull (a : ArrSt) (slot : Bool) (b : Bool) : ArrSt := if slot then { a with full1 := b } else { a with full0 := b }

/-- The array switches to its other slot, with the uses of the tile there (R84, R85). -/
def ArrSt.switch (uses : Nat) (a : ArrSt) : ArrSt := { a with slot := !a.slot, usesLeft := uses, released := false }

/-- A vector that switches slots: the entry's first with SWITCH set, or in weight-streaming the first after the last use of
a tile. -/
def mustSwitch (c : ArrCfg) (i : Issue) (a : ArrSt) : Bool :=
  (i.switch && decide (i.admitted = 0)) || (decide (c.mode = 2) && decide (a.usesLeft = 0))

/-- The last use of a tile in weight-streaming releases its slot, and the array switches where the other slot is full (R85). Where it
is not full the array waits for the slot to fill, up to its next vector: DESIGN CHOICE: assumption 123. -/
def lastUse (c : ArrCfg) (a : ArrSt) : ArrSt :=
  if c.mode = 2 ∧ a.usesLeft ≤ 1 then
    let a := { a.setFull a.slot false with usesLeft := 0, released := true }
    if a.full (!a.slot) then a.switch c.uses.toNat else a
  else { a with usesLeft := a.usesLeft - 1 }

/-- The fault of an array's issue: it issues nothing further, the record names the array and the ISSUE entry, and the allotment's
timetable stops (R86, R187). -/
def arrayFault (n x : Nat) (code : Word) (entry : BitVec 24) (s : State) : State :=
  allotFault n code (BitVec.ofNat 3 (x / 64)) (BitVec.ofNat 8 (x % 64)) (some entry)
    (s.modArr x (fun a => { a with issues := [] }))

/-! ### Joins (R93, R125) -/

/-- The scratchpad address of byte o of a bank (R97). -/
def bankByte (bank o : Nat) : Nat :=
  bank / 12 * 2 ^ 26 + (o / 2048 * 12 + bank % 12) * 2048 + o % 2048

/-- The front joins that carry words to the activation input of array x, in record order: MASK names the positions of the group
that receive, so that one word may reach up to 16 inputs. -/
def AllotSt.inJoins (a : AllotSt) (x : Nat) : List Join := match a.front with
  | none => []
  | some p => p.joins.filter (fun j => decide (j.dst.toNat / 4096 = 1) && decide (j.dst.toNat % 4096 / 16 = x / 16)
      && j.mask.getLsbD (x % 16))

/-- The front joins that carry the output of array x to a bank's write port, in record order. -/
def AllotSt.outJoins (a : AllotSt) (x : Nat) : List Join := match a.front with
  | none => []
  | some p => p.joins.filter (fun j => decide (j.src = BitVec.ofNat 16 (0x2000 + x)) && decide (j.dst.toNat / 4096 = 4))

/-- The join that carries word k of a vector, its place in the list, and which of the join's words that is: in every array cycle
each join brings its WORDS words, in record order. DESIGN CHOICE: assumption 24. -/
def joinWord (js : List Join) (k : Nat) : Option (Join × Nat × Nat) :=
  let l := js.zipIdx.flatMap (fun (j, i) => (List.range j.words.toNat).map (fun r => (j, i, r)))
  (l[k % l.length]?).map (fun (j, i, r) => (j, i, k / l.length * j.words.toNat + r))

/-- Word k of the vector that arrives at the activation input of array x: from a bank at the place given for the join, or from the
output blocks of an array; decoded at the bank and at the ports on the way. DESIGN CHOICE: assumption 24. -/
def actWord (x : Nat) (a : AllotSt) (i : Issue) (places : List (BitVec 17)) (path : List PathNoise) (k : Nat) (s : State) :
    Carried :=
  match joinWord (a.inJoins x) k with
  | none => ⟨s, (List.range 32).map (fun b => Config.unjoined x i.entry.toNat i.admitted (32 * k + b)), none⟩
  | some (j, p, r) =>
    let src := j.src.toNat % 4096
    if j.src.toNat / 4096 = 3 then
      let w := bankByte src (32 * (((places.getD p 0).toNat + r) % 131072)) / 32
      match readWord 1 w s with
      | (s, .good b) => carry [src / 48, x / 64] path k b s
      | (s, _) => ⟨s, [], some (3, src)⟩
    else carry [src / 64, x / 64] path k (bytesAt (s.arr src).lastOut (32 * r) 32) s

/-- The first n words of a vector, or the place of the first that is uncorrectable. -/
def gather (x : Nat) (a : AllotSt) (i : Issue) (places : List (BitVec 17)) (path : List PathNoise) (n : Nat) (s : State) :
    Carried :=
  (List.range n).foldl (fun c k =>
    if c.bad.isSome then c
    else
      let r := actWord x a i places path k c.state
      ⟨r.state, c.word ++ r.word, r.bad⟩) ⟨s, [], none⟩

/-- The vector enters and meets the active tile; an uncorrectable word of the tile stops the array before it is used
(R83, R187). -/
def enter (n x : Nat) (c : ArrCfg) (i : Issue) (vector : List Byte) (s : State) : State :=
  let a := s.arr x
  let fw := c.wFmt.toNat
  let (s, tile, bad) := readWords 2 (wordsOf (slotAddr x a.slot 0) (tileBytes fw)) s
  match bad with
  | some _ => arrayFault n x (memFault false (4, x)) i.entry s
  | none =>
    let v : Flight := { bytes := fit (vectorBytes fw c.aFmt.toNat) vector, weights := tile, entry := i.entry,
                        vector := i.admitted, step := i.step, readyAt := issueTick x i (slotCycle i i.admitted + 160) }
    (s.modArr x (fun a => lastUse c ({ a with flights := a.flights ++ [v] }.admitted i))).bump (cArr x 12) 1

/-- A vector is gathered from the joins and enters; an uncorrectable word on its way stops the array (R187). -/
def takeVector (n x : Nat) (al : AllotSt) (c : ArrCfg) (i : Issue) (places : List (BitVec 17)) (path : List PathNoise) (s : State) :
    State :=
  let r := gather x al i places path ((vectorBytes c.wFmt.toNat c.aFmt.toNat + 31) / 32) s
  match r.bad with
  | some p => arrayFault n x (memFault false p) i.entry r.state
  | none => enter n x c i r.word r.state

/-- VECTOR_ADMIT (R153, R83 to R86, R93): the next vector of the array's ISSUE entries enters in its tick, carried by the front
joins. places holds, for each join in record order, the word of its bank at which the vector's words begin, which no field of the
layout states; way is what has happened to the words read and carried. DESIGN CHOICE: assumption 24. -/
def execVectorAdmit (x : ArrayIx) (places : List (BitVec 17)) (way : Passage) (s : State) : Res :=
  .next (match s.arrayOf x.val, (s.arr x.val).nextIssue x.val with
    | some (n, al, c, _), some i =>
      if s.timed && !s.hold.hold && !al.stopped && !s.thm.trip && !s.domainsStopped && decide (c.mode ≠ 0)
          && decide (s.now = issueTick x.val i (slotCycle i i.admitted)) then
        let s := applyNoise way.noise s
        let a := s.arr x.val
        if mustSwitch c i a then
          if a.full (!a.slot) then takeVector n x.val al c i places way.path (s.modArr x.val (ArrSt.switch c.uses.toNat))
          else arrayFault n x.val (faultCode 0x2 0x001 0) i.entry s
        else takeVector n x.val al c i places way.path s
      else s
    | _, _ => s)

/-! ### The edge unit (R88 to R91, R123) -/

/-- Lane register r of every lane. DESIGN CHOICE: assumption 6. -/
def ArrSt.reg (a : ArrSt) (r : Nat) : List Word := (List.range 128).map (fun n => sget 0 a.lanes (64 * n + r))

/-- Lane register r written in every lane. -/
def ArrSt.setReg (a : ArrSt) (r : Nat) (v : List Word) : ArrSt :=
  { a with lanes := v.zipIdx.foldl (fun l (w, n) => sput 0 l (64 * n + r) w) a.lanes }

/-- A source of an edge operation (R123). -/
def edgeSource (a : ArrSt) (acc : List Word) (p : EdgeProg) (code : Nat) : List Word :=
  if code < 64 then a.reg code
  else if code = 64 then acc
  else List.replicate 128 (p.consts.getD (code - 80) 0)

/-- Latency of an operation (Table 4-2). -/
def edgeLatency (opc : Nat) : Nat := match opc with
  | 1 => 6 | 2 => 6 | 3 => 5 | 4 => 5 | 5 => 1 | 6 => 8 | 7 => 4 | 8 => 29 | 9 => 4 | _ => 12

/-- A function applied in every lane, with its saturations. -/
def lanewise (f : Nat → Word × Bool) : List Word × Nat :=
  let r := (List.range 128).map f
  (r.map (·.1), (r.filter (·.2)).length)

/-- One edge operation but QUANT on the lanes (R90, R91). DEDUCED: assumption 28. -/
def edgeResult (opc : Nat) (a b c : List Word) : List Word × Nat :=
  let x := fun n => a.getD n (0 : Word)
  let y := fun n => b.getD n (0 : Word)
  match opc with
  | 1 => lanewise (fun n => exp2 (x n))
  | 2 => lanewise (fun n => log2 (x n))
  | 3 => lanewise (fun n => rcp (x n))
  | 4 => lanewise (fun n => rsqrt (x n))
  | 5 => lanewise (fun n => (fpMax (x n) (y n), false))
  | 6 =>
    let (r, k) := treeFold (fun u v => (fpMax u v, false)) 7 a
    (List.replicate 128 r, k)
  | 7 => lanewise (fun n => fpAdd (x n) (y n))
  | 8 =>
    let (r, k) := treeFold fpAdd 7 a
    (List.replicate 128 r, k)
  | _ => lanewise (fun n => fpScale (x n) (y n) (c.getD n 0))

/-- What an edge program has done so far: the array, the writes still to come, the output, the saturations, the counts. -/
structure EdgeRun where
  arr   : ArrSt
  due   : List (Nat × Nat × List Word)
  out   : List Byte
  sat   : Nat
  count : QCount

/-- One array cycle of an edge program: the writes that end in it, then the operations that issue in it (R123). -/
def edgeCycle (c : ArrCfg) (draw : Option (Nat → Nat → Nat)) (b0 : Nat) (p : EdgeProg) (acc : List Word) (t : Nat)
    (r : EdgeRun) : EdgeRun :=
  let arr := (r.due.filter (fun d => d.1 == t)).foldl (fun a d => a.setReg d.2.1 d.2.2) r.arr
  let r := { r with arr := arr, due := r.due.filter (fun d => !(d.1 == t)) }
  ((p.ops.take c.progLen.toNat).filter (fun o => o.start.toNat == t)).foldl (fun r o =>
    let a := edgeSource r.arr acc p o.srcA.toNat
    if o.opc.toNat = 10 then
      let (b, k) := quantLanes c.outFmt.toNat draw b0 a
      { r with out := r.out ++ b, count := r.count.add k }
    else
      let (v, k) := edgeResult o.opc.toNat a (edgeSource r.arr acc p o.srcB.toNat) (edgeSource r.arr acc p o.srcC.toNat)
      { r with due := r.due ++ [(t + edgeLatency o.opc.toNat, o.dst.toNat, v)], sat := r.sat + k }) r

/-- The block sums of column n of a vector against its tile, in increasing block index (R80, R81). -/
def columnSums (fw fa : Nat) (v : Flight) (acts : List Block) (n : Nat) : List BlockSum :=
  acts.zipIdx.map (fun (blk, j) =>
    blockSum fw fa (decBlock fw (bytesAt v.weights ((n * blocksOf fw + j) * blockBytes fw) (blockBytes fw))) blk)

/-- The blocks of an output tile that have been emitted in a step. -/
def AllotSt.emitted (a : AllotSt) (tensor : Word) (tile : BitVec 32) (step : BitVec 64) : Nat :=
  match a.tiles.find? (fun t => decide (t.tensor = tensor) && decide (t.tile = tile) && decide (t.step = step)) with
  | none => 0
  | some t => t.blocks

/-- Blocks of an output tile are emitted: the next ones count on from them (R63). -/
def AllotSt.emit (a : AllotSt) (tensor : Word) (tile : BitVec 32) (step : BitVec 64) (n : Nat) : AllotSt :=
  let rest := a.tiles.filter (fun t => !(decide (t.tensor = tensor) && decide (t.tile = tile) && decide (t.step = step)))
  { a with tiles := rest ++ [⟨tensor, tile, step, a.emitted tensor tile step + n⟩] }

/-- The output of a vector is registered in a bank: whole words from the place given, each decoded at the bank's port, the last one
filled up with open bytes (R98, R184). DESIGN CHOICE: assumption 24. -/
def putOutput (x bank place : Nat) (cycle : BitVec 4) (path : List PathNoise) (out : List Byte) (s : State) :
    State × Option (Nat × Nat) :=
  (chunks 32 out.length out).zipIdx.foldl (fun (s, bad) (b, i) => match bad with
    | some p => (s, some p)
    | none =>
      let a := bankByte bank (32 * ((place + i) % 131072))
      let word := b ++ (List.range (32 - b.length)).map (fun j => Config.outputPad (a + b.length + j))
      let r := carry [x / 64, bank / 48] path i word s
      match r.bad with
      | some p => (r.state, some p)
      | none => (bankWrite (edgeRank x) cycle (a / 32) r.word r.state, none)) (s, none)

/-- The output blocks of a vector go to every bank that a front join names; an uncorrectable word at a port stops the array whose
output it is (Table 7-4). -/
def putOutputs (n x : Nat) (al : AllotSt) (places : List (BitVec 17)) (cycle : BitVec 4) (path : List PathNoise)
    (entry : BitVec 24) (out : List Byte) (s : State) : State :=
  let (s, bad) := (al.outJoins x).zipIdx.foldl (fun (s, bad) (j, i) => match bad with
    | some p => (s, some p)
    | none => putOutput x (j.dst.toNat % 4096) (places.getD i 0).toNat cycle path out s) (s, none)
  match bad with
  | some p => arrayFault n x (memFault false p) entry s
  | none => s

/-- What the results of a vector bring: the accumulation, the edge program, the counters and the output blocks. DEDUCED:
assumption 28. -/
def edgeRun (n x : Nat) (al : AllotSt) (c : ArrCfg) (p : EdgeProg) (v : Flight) (tile : BitVec 32) (s : State) :
    State × List Byte :=
  let fw := c.wFmt.toNat
  let fa := c.aFmt.toNat
  let acts := (List.range (kOf fw / blockElems fa)).map (fun j => decBlock fa (bytesAt v.bytes (j * blockBytes fa) (blockBytes fa)))
  let cols := (List.range 128).map (columnSums fw fa v acts)
  let all := cols.flatten
  let a := s.arr x
  let init := if c.accInit then a.reg c.accReg.toNat else List.replicate 128 0
  let accs := (cols.zip init).map (fun e => accumulate e.2 (e.1.map (·.bits)))
  let acc := accs.map (·.1)
  let d : Draw := ⟨(s.image al.image).jobSeed, c.tensor, tile, v.step⟩
  let draw := if c.qmode then some (random16 d) else none
  let r := (List.range 300).foldl (fun r t => edgeCycle c draw (al.emitted c.tensor tile v.step) p acc t r) ⟨a, [], [], 0, {}⟩
  let total := fun (f : BlockSum → Nat) => (all.map f).sum
  let sat := total (·.sat) + (accs.map (·.2)).sum + r.sat + r.count.satAcc
  let s := s.modArr x (fun a =>
    { a with lanes := r.arr.lanes, flights := a.flights.drop 1, lastOut := r.out, outEntry := some v.entry })
  let s := [(0, r.count.satElem), (1, sat), (2, r.count.scale), (3, r.count.micro), (4, total (·.loss)),
    (5, total (·.special)), (6, r.count.special), (7, total (·.rsv)), (8, r.count.panOut), (9, r.count.panSat),
    (10, r.count.panOvf), (11, total (·.dup))].foldl (fun s e => s.bump (cArr x e.1) e.2) s
  (s.modAllot n (fun a => a.emit c.tensor tile v.step (128 / blockElems c.outFmt.toNat)), r.out)

/-- VECTOR_RESULT_READY (R83, R89, R93): 160 array cycles after a vector entered, its results are accumulated, its edge program
runs, and its output goes where the front joins carry it. The tile index of R63, the places of the joins' words and the array cycle at
the banks' ports come with the command, for no field of the layout states them. DESIGN CHOICE: assumption 24. -/
def execVectorResultReady (r : VectorResult) (s : State) : Res :=
  .next (match s.arrayOf r.x.val, (s.arr r.x.val).flights with
    | some (n, al, c, p), v :: _ =>
      if s.timed && !s.thm.trip && decide (s.now = v.readyAt) then
        let (s, out) := edgeRun n r.x.val al c p v r.tile s
        putOutputs n r.x.val al r.places r.cycle r.path v.entry out s
      else s
    | _, _ => s)

end Sys2Proof.Machine
end

