-- ==== Sys2Proof/Machine/Cadence.lean ====
section
/-! DEFINITION. Cadence (02_cadence): mark errors, the loss of CADREF, synchronisation and lap beacons. The first lap mark and
LAP_BOUNDARY stand in Machine/Lap.lean. -/

namespace Sys2Proof.Machine

/-- A mark error is registered in the tick that runs (R22). -/
def markError (s : State) : State :=
  alertEvents { s with cad := { s.cad with markErr := satAdd s.cad.markErr 1, markErrLap := true, markFault := true } }

/-- MISPLACED_LAP_MARK (R22): a mark at any tick but 00000 is counted; the count of time does not move. -/
def execMisplacedLapMark (s : State) : Res :=
  .next (if s.timed && decide (s.cad.tick ≠ 0) then markError s else s)

/-- CADREF_STOP (R41, R42): cadence time is frozen, every synthesised clock stops or loses lock, the host links fail. A hold-up save that
is under way ends there. -/
def execCadrefStop (s : State) : Res :=
  .next (if s.clocked || (decide (s.boot.supply = .saved) && !s.cad.stopped) then
    let s := { s with cad := { s.cad with stopped := true, fixedLock := false },
                      plls := smapD {} (fun x => { x with activeLock := false, idleLock := false }) s.plls }
    (s.modPort 0 (fun x => { x with linkUp := false })).modPort 1 (fun x => { x with linkUp := false })
   else s)

/-- A spoke that is no longer trained disagrees with nothing (R29). -/
def dropMismatch (k : Nat) (s : State) : State :=
  { s with cad := { s.cad with mismatch := s.cad.mismatch &&& ~~~BitVec.twoPow 36 k } }

/-! ### Synchronisation -/

/-- A strobe or an activation is armed (R27). -/
def timedArmed (s : State) : Bool := s.strobes.any (fun e => e.2.armed.isSome) || s.upd.armed.isSome

/-- The arm of CAD_SYNC_CTL is refused (R27); an arm before ALIGNED (R437), and a SET whose lap boundary is less than 2 ticks
away (R38), are refused like every arm that names a time. DEDUCED: assumption 16. -/
def syncRefuses (mode : BitVec 2) (s : State) : Bool :=
  !s.cad.aligned || s.allots.any (fun e => !e.2.tables.isEmpty) || timedArmed s
  || decide (mode = 0) || decide (mode = 3)
  || (decide (mode = 1) && (decide (0x80 ≤ s.cad.syncLapHi.toNat) || decide (s.cad.tick.toNat = 65535)))

/-- A steward write of CAD_SYNC_CTL: MODE and SPOKE are stored; ARM = 1 arms or is refused, ARM = 0 cancels (R26, R27). -/
def syncWrite (mode : BitVec 2) (spoke : BitVec 6) (arm : Bool) (s : State) : State :=
  let c := { s.cad with syncMode := mode, syncSpoke := spoke }
  if arm then
    if syncRefuses mode s then { s with cad := { c with syncArmed := false, syncRefused := true } }
    else { s with cad := { c with syncArmed := true, syncRefused := false } }
  else { s with cad := { c with syncArmed := false } }

/-- SYNC_ARM_SET (R26, R27): the steward arms SET. -/
def execSyncArmSet (p : Port) (spoke : BitVec 6) (s : State) : Res :=
  .next (stewardWrite p (syncWrite 1 spoke true) s)

/-- SYNC_ARM_ADOPT (R26, R27): the steward arms ADOPT from a spoke. -/
def execSyncArmAdopt (p : Port) (spoke : BitVec 6) (s : State) : Res :=
  .next (stewardWrite p (syncWrite 2 spoke true) s)

/-- SYNC_CANCEL (R26): the steward writes ARM = 0. -/
def execSyncCancel (p : Port) (s : State) : Res :=
  .next (stewardWrite p (fun s => syncWrite s.cad.syncMode s.cad.syncSpoke false s) s)

/-! ### Lap beacons -/

/-- The spokes that are UP. -/
def State.spokesUp (s : State) : List Nat := (List.range 36).filter (fun k => decide ((s.spk k).state = 5))

/-- The epoch that the link words of a spoke carry: bit 0 of the sending key's epoch, 0 on a spoke without link keys (R202,
R341). -/
def State.linkEpoch (s : State) (k : Nat) : Bool := (s.spk k).keyed && (s.spk k).key.txEpoch.getLsbD 0

/-- LAP_BEACON_SEND (R25): in tick 00008 a beacon with the lap and SYNCED leaves on every trained spoke, in a link word. -/
def execLapBeaconSend (s : State) : Res :=
  .next (if s.atTick 8 then
    { s with out := s.out ++ s.spokesUp.map (fun k =>
      .linkWord k { epoch := s.linkEpoch k, beacon := some (s.cad.lap, s.cad.synced) }) } else s)

/-- An armed ADOPT takes the beacon's lap (R26). -/
def adopt (k : Nat) (lap : BitVec 40) (synced : Bool) (s : State) : State :=
  if s.cad.syncArmed && decide (s.cad.syncMode = 2) && decide (s.cad.syncSpoke.toNat = k) && synced then
    { s with cad := { s.cad with lap := lap, synced := true, syncArmed := false } }
  else s

/-- A synchronised module compares the beacon of a synchronised far end with its own lap (R29). A beacon with SYNCED = 0, which
the spec compares with nothing, takes the spoke's disagreement back. DESIGN CHOICE: assumption 118. -/
def compareBeacon (k : Nat) (lap : BitVec 40) (synced : Bool) (s : State) : State :=
  if s.cad.synced then
    let b := BitVec.twoPow 36 k
    let m := if synced && decide (lap ≠ s.cad.lap) then s.cad.mismatch ||| b else s.cad.mismatch &&& ~~~b
    { s with cad := { s.cad with mismatch := m } }
  else s

/-- LAP_BEACON_RECEIVE (R25, R26, R29): used in ticks 00008 to 32767 only, on a trained spoke. -/
def execLapBeaconReceive (k : Spoke) (lap : BitVec 40) (synced : Bool) (s : State) : Res :=
  .next (if s.timed && decide (8 ≤ s.cad.tick.toNat) && decide (s.cad.tick.toNat ≤ 32767)
      && decide ((s.spk k.val).state = 5) then
    compareBeacon k.val lap synced (adopt k.val lap synced s) else s)

end Sys2Proof.Machine
end

