-- ==== Sys2Proof/Machine/Crypto.lean ====
section
/-! DEFINITION. The key derivations and signature verdicts of 12_security: HKDF-SHA-384, random requests, labels. -/

namespace Sys2Proof.Machine

/-- HMAC-SHA-384 as bytes. -/
def hmac (key msg : List Byte) : List Byte := digestBytes (hmac384 key msg)

/-- HKDF-Extract. -/
def hkdfExtract (salt ikm : List Byte) : List Byte := hmac salt ikm

/-- The blocks of HKDF-Expand from block i on. -/
def expandFrom (prk info : List Byte) (n i : Nat) (prev : List Byte) : List Byte := match n with
  | 0 => []
  | k + 1 =>
    let b := hmac prk (prev ++ info ++ leBytes 1 i)
    b ++ expandFrom prk info k (i + 1) b

/-- HKDF-Expand to n bytes. -/
def hkdfExpand (prk info : List Byte) (n : Nat) : List Byte := (expandFrom prk info ((n + 47) / 48) 1 []).take n

/-- The bytes of an ASCII label. -/
def label (s : String) : List Byte := s.toList.map (fun c => BitVec.ofNat 8 c.toNat)

/-- Bytes of the random request of number n (R334). DESIGN CHOICE: assumption 9. -/
def drbgBytes (n len : Nat) : List Byte := (List.range len).map (fun i => Config.drbg n i)

/-- The state with the next random request taken, and its number. DESIGN CHOICE: assumption 9. -/
def takeRandom (s : State) : State × Nat := ({ s with fresh := s.fresh + 1 }, s.fresh)

/-- The verdict on a signature pair (R330): an RSA signature of 384 bytes and an SLH-DSA signature of 16,224 bytes over the same
message, by a key pair of 384 and 48 bytes; it is accepted only when both verify. -/
def verifyPair (key msg sig : List Byte) : Bool :=
  decide (sig.length = 16608) && Config.rsaVerify (key.take 384) msg (sig.take 384)
    && Config.slhVerify (key.drop 384) msg (sig.drop 384)

/-- The identity pair that the lodge derives from the root secret (R332): prk_id and the two seeds. -/
def prkId (root : List Byte) (debug : Bool) : List Byte :=
  hkdfExtract (label "Solansen Molper H4 id") (root ++ [ofBit 8 debug])
def seedRsa (prk : List Byte) : List Byte := hkdfExpand prk (label "H4 id rsa") 48
def seedSlh (prk : List Byte) : List Byte := hkdfExpand prk (label "H4 id slh") 72

/-- The flash key (Table 12-1) and the HMAC under it that the settings, the odometer, the save slots and the counter block carry
(R335). -/
def flashKeyOf (prk : List Byte) : List Byte := hkdfExpand prk (label "H4 flash") 48
def flashMac (prk bytes : List Byte) : List Byte := hmac (flashKeyOf prk) bytes

/-- The identity public key (R332): the RSA modulus and the SLH-DSA public key. -/
def identityKey (prk : List Byte) : List Byte :=
  fit 384 (Config.rsaModulus (seedRsa prk)) ++ fit 48 (Config.slhPublic (seedSlh prk))

/-- The signature pair of the identity over a message (R330), with the random salt given. -/
def signPair (prk salt msg : List Byte) : List Byte :=
  fit 384 (Config.rsaSign (seedRsa prk) salt msg) ++ fit 16224 (Config.slhSign (seedSlh prk) salt msg)

/-- UNIT_ID (R332): the first 8 bytes of the digest of the identity public key. -/
def unitIdOf (idPub : List Byte) : BitVec 64 := le 64 (digestBytes (sha384 idPub)) 0 8

/-- UNIT_ID and the identity digest of an identity public key (R332). -/
def idDigest (idPub : List Byte) : List Byte := digestBytes (sha384 idPub)

end Sys2Proof.Machine
end

