-- ==== Sys2Proof/Machine/Flash.lean ====
section
/-! DEFINITION. The records of the serial flash (R298, R335, R356, R370, R396, R398): bundles in their banks, and the
settings, the floor, the odometer copies and the save slots with the HMAC they carry. -/

namespace Sys2Proof.Machine

/-! ### Bundles (R398, Tables 15-1 to 15-3) -/

/-- T of a number of pieces. -/
def tablePieces (n : Nat) : Nat := (n + 127) / 128

/-- The first piece and the length in bytes of manifest entry i of piece 0. -/
def componentAt (h : List Byte) (i : Nat) : Nat × Nat :=
  (leNat (bytesAt h (0x104 + 64 * i) 4), leNat (bytesAt h (0x108 + 64 * i) 4))

/-- The pieces of a component: the first and their number. -/
def componentPieces (h : List Byte) (i : Nat) : Nat × Nat := ((componentAt h i).1, ((componentAt h i).2 + 4095) / 4096)

/-- A manifest entry by itself: a known unit, reserved bytes 0, at least one byte, inside the components' pieces. -/
def componentOk (h : List Byte) (t n i : Nat) : Bool :=
  let u := (byteAt h (0x100 + 64 * i)).toNat
  let (first, k) := componentPieces h i
  decide (1 ≤ u) && decide (u ≤ 5) && zeroAt h (0x101 + 64 * i) 1 && zeroAt h (0x10C + 64 * i) 4 && decide (1 ≤ k)
  && decide (6 + t ≤ first) && decide (first + k ≤ n)

/-- The number of manifest entries of piece 0. -/
def componentCount (h : List Byte) : Nat := leNat (bytesAt h 0x32 2)

/-- No two manifest entries overlap. -/
def componentsApart (h : List Byte) : Bool :=
  (List.range (componentCount h)).all (fun i => (List.range i).all (fun j =>
    let a := componentPieces h i
    let b := componentPieces h j
    decide (a.1 + a.2 ≤ b.1) || decide (b.1 + b.2 ≤ a.1)))

/-- The header is well formed (the first row of Table 15-4). DEDUCED: assumption 104. -/
def headerOk (h sig : List Byte) : Bool :=
  let n := leNat (bytesAt h 0x2C 4)
  let t := leNat (bytesAt h 0x30 2)
  let c := componentCount h
  decide (le 32 h 0 4 = 0x31595452) && decide (le 16 h 4 2 = 1)
  && decide (byteAt h 8 &&& 0xF1 = 0) && zeroAt h 0x09 7 && zeroAt h 0x34 12 && zeroAt h 0x70 144
  && decide (le 64 h 0x18 8 ≠ 0) && decide (199 ≤ n) && decide (n ≤ 24576) && decide (t = tablePieces n)
  && decide (1 ≤ c) && decide (c ≤ 32) && (List.range c).all (componentOk h t n) && componentsApart h
  && zeroAt h (0x100 + 64 * c) (0xF00 - 64 * c) && zeroAt sig 16608 (20480 - 16608)

/-- The bundle that piece 0 describes. -/
def bundleOf (h : List Byte) : Bundle :=
  { fwset := le 64 h 0x18 8, svn := le 32 h 0x20 4, svnFloor := le 32 h 0x24 4, fmt := le 32 h 0x28 4,
    pieces := leNat (bytesAt h 0x2C 4), table := leNat (bytesAt h 0x30 2), digest := bytesAt h 0x40 48 }

/-- The signature pair over piece 0, from pieces 1 to 5 (Table 15-1). -/
def pairOf (sig : List Byte) : List Byte := sig.take 16608

/-! ### Banks (R331, R396) -/

/-- Piece i of a bank; an erased one reads as ones. PRESUMED: assumption 117. -/
def Bank.piece (b : Bank) (i : Nat) : List Byte := (sfind b.pieces i).getD (List.replicate 4096 0xFF)

/-- The header of a bank's bundle. -/
def Bank.header (b : Bank) : Bundle := bundleOf (b.piece 0)

/-- FW_DIGEST (R398): the SHA-384 of piece 0. -/
def Bank.digest (b : Bank) : BitVec 384 := sha384 (b.piece 0)

/-- Both signatures over piece 0 verify under the Solansen firmware key (R331). -/
def Bank.signed (b : Bank) : Bool :=
  verifyPair (Config.solansenKey 0) (b.piece 0) (pairOf ([1, 2, 3, 4, 5].flatMap b.piece))

/-- The firmware set of a bank: 0 while it holds no verified bundle (R396). -/
def Bank.set (b : Bank) : BitVec 64 := if b.valid then b.header.fwset else 0

/-- The 64 KiB sector of a piece is erased (R402). -/
def Bank.erase (i : Nat) (b : Bank) : Bank := { b with pieces := b.pieces.filter (fun e => decide (e.1 / 16 ≠ i / 16)) }

/-- A piece is programmed, 4,096 bytes. -/
def Bank.program (i : Nat) (p : List Byte) (b : Bank) : Bank := { b with pieces := sset b.pieces i (fit 4096 p) }

/-- The bank of a number, and a change to it. -/
def Flash.bank (f : Flash) (n : Bool) : Bank := if n then f.bank1 else f.bank0
def Flash.modBank (n : Bool) (g : Bank → Bank) (f : Flash) : Flash :=
  if n then { f with bank1 := g f.bank1 } else { f with bank0 := g f.bank0 }

/-! ### Endorsement, repair map and debug grant (R331 to R333, R357, R384) -/

/-- The fields of the endorsement (R333): UNIT_ID, the identity public key and the signature pair over both. -/
def Flash.endorsedUnit (f : Flash) : BitVec 64 := le 64 f.endorsement 0 8
def Flash.endorsedKey (f : Flash) : List Byte := bytesAt f.endorsement 8 432
def Flash.endorsePair (f : Flash) : List Byte := bytesAt f.endorsement 440 16608

/-- The derived identity public key is the one that the endorsement names; an endorsement that fails either signature is absent
(R331, R333). -/
def Flash.endorses (f : Flash) (idPub : List Byte) : Bool :=
  verifyPair (Config.solansenKey 2) (f.endorsement.take 440) f.endorsePair && decide (f.endorsedKey = idPub)

/-- The repair map in flash: its body and signature pair (R384), verified under the Solansen repair key (R331). -/
def Flash.mapBody (f : Flash) : List Byte := f.repair.take 512
def Flash.mapSigned (f : Flash) : Bool :=
  decide (f.repair.length = 512 + 16608) && verifyPair (Config.solansenKey 1) f.mapBody (f.repair.drop 512)

/-- UNIT_ID of this unit (R332): that of the identity which the root gives with the test access port closed. -/
def ownUnit : BitVec 64 := unitIdOf (identityKey (prkId Config.rootSecret false))

/-- The repair map carries a debug grant bound to UNIT_ID (R357). DEDUCED: assumption 48. -/
def Flash.debugGrant (f : Flash) : Bool :=
  f.mapSigned && bit (byteAt f.mapBody 0x14) 0 && decide (le 64 f.mapBody 8 8 = ownUnit)

/-- prk_id as a boot makes it from the root and the debug byte (R332, R357). -/
def Flash.prk (f : Flash) : List Byte := prkId Config.rootSecret f.debugGrant

/-! ### Settings and floor (R335, R356, R409) -/

/-- The HMAC that the settings record carries. -/
def Flash.settingsTag (prk : List Byte) (f : Flash) : List Byte :=
  flashMac prk (Config.settingsRecord f.leaseLaps f.lapseCap f.confAlways)

/-- The settings record is written with its HMAC. -/
def Flash.sealSettings (prk : List Byte) (f : Flash) : Flash := { f with settingsMac := f.settingsTag prk }

/-- The settings return to their defaults (R409). -/
def defaultSettings (f : Flash) : Flash := { f with leaseLaps := 28611, lapseCap := 3000, confAlways := false }

/-- The settings that the module reads: a record that does not verify is absent, which leaves the defaults (R335). -/
def Flash.readSettings (prk : List Byte) (f : Flash) : Flash :=
  if f.settingsMac = f.settingsTag prk then f else defaultSettings f

/-- The floor of the replay-protected counter: a block that does not verify is absent (R335, R356). -/
def Flash.floorIn (prk : List Byte) (f : Flash) : Word := if f.floorMac = flashMac prk (bytesOf 4 f.floor) then f.floor else 0

/-- The counter block is written with a floor. -/
def Flash.setFloor (prk : List Byte) (v : Word) (f : Flash) : Flash :=
  { f with floor := v, floorMac := flashMac prk (bytesOf 4 v) }

/-! ### The odometer (R370, Table 13-5) -/

/-- The counters of the record, from POWERED_LAPS to ACTIVATIONS. -/
def Odo.counters (o : Odo) : List Byte :=
  bytesOf 8 o.powered ++ (List.range 6).flatMap (fun i => bytesOf 8 (o.gearLaps.getD i 0)) ++ leBytes 8 (o.energy / 3600000) ++
  bytesOf 4 o.cycles ++ bytesOf 4 o.saves ++ bytesOf 4 o.trips ++
  (List.range 3).flatMap (fun i => bytesOf 4 (o.failovers.getD i 0)) ++ bytesOf 4 o.leaks ++ leBytes 2 o.maxTj ++
  leBytes 2 o.maxInlet ++ bytesOf 4 o.ueWords ++ bytesOf 4 o.activations

/-- The odometer as flash holds it: the counters, and DDR_GIB. -/
def Odo.bytes (o : Odo) : List Byte := o.counters ++ bytesOf 2 o.ddrGib

/-- The copy of an odometer that the flash takes. -/
def odoCopy (prk : List Byte) (o : Odo) : OdoCopy := ⟨o, flashMac prk o.bytes⟩

/-- The odometer of a copy that verifies. -/
def OdoCopy.read (prk : List Byte) (c : OdoCopy) : Option Odo := if c.mac = flashMac prk c.odo.bytes then some c.odo else none

/-- The odometer is written to the copy of flash that is due. -/
def Flash.writeOdo (prk : List Byte) (o : Odo) (f : Flash) : Flash :=
  if f.odoNext then { f with odo1 := some (odoCopy prk o), odoNext := false }
  else { f with odo0 := some (odoCopy prk o), odoNext := true }

/-- Counts that came about before the odometer was read are added to it. DEDUCED: assumption 51. -/
def Odo.add (a b : Odo) : Odo :=
  { powered := a.powered + b.powered, gearLaps := (List.range 6).map (fun i => a.gearLaps.getD i 0 + b.gearLaps.getD i 0),
    energy := a.energy + b.energy, cycles := a.cycles + b.cycles, saves := a.saves + b.saves, trips := a.trips + b.trips,
    failovers := (List.range 3).map (fun i => a.failovers.getD i 0 + b.failovers.getD i 0), leaks := a.leaks + b.leaks,
    maxTj := max a.maxTj b.maxTj, maxInlet := max a.maxInlet b.maxInlet, ueWords := a.ueWords + b.ueWords,
    activations := a.activations + b.activations, ddrGib := if b.ddrGib = 0 then a.ddrGib else b.ddrGib }

/-! ### Save slots (R298, Table 10-7) -/

/-- The slot written last, and a change to it. -/
def Flash.save (f : Flash) : Option Save := if f.lastSave then f.save1 else f.save0
def Flash.setSave (v : Option Save) (f : Flash) : Flash := if f.lastSave then { f with save1 := v } else { f with save0 := v }

/-- A save begins in the slot that was not written last, which is erased. -/
def Flash.beginSave (v : Save) (f : Flash) : Flash := { f with lastSave := !f.lastSave }.setSave (some v)

/-- The save written last is absent: its slot is erased, and the other one is again the slot written last (R298). -/
def Flash.dropSave (f : Flash) : Flash := { f.setSave none with lastSave := !f.lastSave }

/-- The fault records of the save written last are in the store. -/
def Flash.markRestored (f : Flash) : Flash := f.setSave (f.save.map (fun v => { v with restored := true }))

/-- The slot that was not written last is erased. -/
def Flash.eraseOther (f : Flash) : Flash := if f.lastSave then { f with save0 := none } else { f with save1 := none }

/-- An exact figure as the whole number a register shows: itself where it is one, else as Config.latchRound takes it.
DESIGN CHOICE: assumption 12. -/
def toUnits (x : Rat) : Nat := if x.den = 1 ∧ 0 ≤ x.num then x.num.toNat else Config.latchRound x

/-- A fault record and an event record (Table 13-4) as bytes. -/
def FaultRec.bytes (r : FaultRec) : List Byte := bytesOf 4 r.seq ++ bytesOf 4 r.code ++ bytesOf 8 r.ctx ++ bytesOf 8 r.stamp
def eventBytes (e : Event) : List Byte :=
  bytesOf 4 e.seq ++ bytesOf 2 e.type ++ [e.flags, 0] ++ bytesOf 8 e.stamp ++ bytesOf 4 e.code ++ bytesOf 8 e.ctx ++
  [0, 0, 0, 0]

/-- What the pages of a save hold, of which Table 10-7 gives the contents and no layout. DESIGN CHOICE: assumption 45. -/
def Save.bytes (v : Save) : List Byte :=
  bytesOf 8 v.at_ ++ bytesOf 4 v.seq ++ v.recs.flatMap (fun e => e.2.bytes) ++ v.events.flatMap eventBytes ++
  v.odo.bytes ++ bytesOf 2 v.pwr.hostCap ++ bytesOf 2 v.pwr.trayCap ++ bytesOf 2 v.pwr.leaseLeft ++
  v.pwr.history.flatMap (fun x => leBytes 4 (toUnits x))

/-- A save counts where its commit word is written, and after S2 where its HMAC verifies too (R298, R335). -/
def Save.verifies (prk : List Byte) (v : Save) : Bool := v.commit && decide (v.mac = flashMac prk v.bytes)

/-- The odometers that the flash holds and that verify: the two copies, and page 19 of the saves. -/
def Flash.odos (prk : List Byte) (f : Flash) : List Odo :=
  (f.odo0.bind (OdoCopy.read prk)).toList ++ (f.odo1.bind (OdoCopy.read prk)).toList ++
  ([f.save0, f.save1].filterMap (fun v => (v.filter (fun v => v.verifies prk)).map (·.odo)))

/-- The verifying copy with the highest POWERED_LAPS (R370). -/
def Flash.bestOdo (prk : List Byte) (f : Flash) : Odo :=
  (f.odos prk).foldl (fun a b => if a.powered.toNat < b.powered.toNat then b else a) {}

end Sys2Proof.Machine
end

