-- ==== Sys2Proof/Machine/Mailbox.lean ====
section
/-! DEFINITION. The lodge's mailboxes (R338): what a request is, the order in which requests wait, and the answer to one that is
malformed. -/

namespace Sys2Proof.Machine

/-- A change to the mailbox of a port. -/
def modMailbox (p : Port) (f : Mailbox → Mailbox) (s : State) : State :=
  s.modPort p (fun x => { x with mailbox := f x.mailbox })

/-- The request of a mailbox: words 16 to 15 + REQ_WORDS. -/
def Mailbox.bytes (m : Mailbox) : List Byte :=
  (List.range m.reqWords.toNat).flatMap (fun i => bytesOf 4 (sget 0 m.request (16 + i)))

/-- The opcode of a request that has a valid length and an opcode of the six (Table 12-9). DEDUCED: assumption 87. -/
def Mailbox.opcode (m : Mailbox) : Option Nat :=
  let o := (byteAt m.bytes 0).toNat
  if decide (1 ≤ m.reqWords.toNat) && decide (m.reqWords.toNat ≤ 2032) && decide (1 ≤ o) && decide (o ≤ 6) then some o else none

/-- The response is complete: status and bytes. -/
def answer (p : Port) (status : BitVec 8) (response : List Byte) (s : State) : State :=
  modMailbox p (fun m => { m with busy := false, status := status, response := response }) s

/-- The request whose turn has come leaves the queue. -/
def popRequest (s : State) : State := { s with lodge := { s.lodge with waiting := s.lodge.waiting.tail } }

/-- A running lodge whose next request has no opcode or a wrong length answers it BAD_REQUEST (Table 12-9). -/
def answerOneBad (s : State) : State := match s.lodge.waiting.head? with
  | none => s
  | some n =>
    let p : Port := if n = 0 then 0 else 1
    if s.ctl && (s.port p).mailbox.opcode.isNone then answer p 0x01 [] (popRequest s) else s

/-- The malformed requests at the front of the queue, which holds at most one request of each port, are answered in their turn. DEDUCED:
assumption 87. -/
def answerBad (s : State) : State := answerOneBad (answerOneBad s)

/-- A write of LDG_MBX_CTL: REQ_WORDS is stored, and GO submits the request; while BUSY is 1 a request is under way already. DEDUCED:
assumption 87. -/
def mailboxControl (p : Port) (data : Word) (s : State) : State :=
  let s := modMailbox p (fun m => { m with reqWords := fld data 0 11 }) s
  if bit data 31 && !(s.port p).mailbox.busy then
    let s := modMailbox p (fun m => { m with busy := true }) s
    answerBad { s with lodge := { s.lodge with waiting := s.lodge.waiting ++ [p.val] } }
  else s

end Sys2Proof.Machine
end

