-- ==== Sys2Proof/Machine/Turnstile.lean ====
section
/-! DEFINITION. Groups and positions, the sizes of a plan's stages, and the turnstiles (R238 to R252). -/

namespace Sys2Proof.Machine

/-! ### Groups (R239, Table 9-1) -/

/-- The module number of a coordinate: rack [17:10], tray [9:5], slot [4:3]. -/
def modNum (c : BitVec 18) : BitVec 15 := fld c 3 15

/-- A module number with a die. -/
def withDie (m : BitVec 15) (die : Nat) : BitVec 18 := m ++ BitVec.ofNat 3 die

/-- The group of a stage's level, by position: coordinates of members, or this module's with the die of a pavilion. -/
def groupOf (roster : List (BitVec 18)) (groups : BitVec 16) (own : BitVec 18) (level : Nat) : List (BitVec 18) :=
  match level with
  | 0 => ((List.range 4).filter (fun p => fld groups (4 * p) 4 != 0)).map (withDie (modNum own))
  | 1 => roster.filter (fun c => fld c 5 13 == fld own 5 13)
  | 2 => roster.filter (fun c => fld c 10 8 == fld own 10 8 && fld c 3 2 == fld own 3 2)
  | _ => roster.filter (fun c => fld c 5 5 == fld own 5 5 && fld c 3 2 == fld own 3 2)

/-- The position of a coordinate in a group: by die at PACKAGE level, by module otherwise. -/
def posOf (group : List (BitVec 18)) (level : Nat) (c : BitVec 18) : Option Nat :=
  group.findIdx? (fun g => if level = 0 then g == c else modNum g == modNum c)

/-! ### Sizes of a stage (R250 to R252) -/

/-- What the module knows of a stage of a plan: its record, its group, its input bytes of a segment. -/
structure StageInfo where
  stage : Stage
  group : List (BitVec 18)
  size  : Nat

/-- The records of a plan's stages. -/
def planStages (im : ImageSt) (p : Plan) : List Stage := (im.stages.drop p.firstStage).take p.nStages

/-- The stages of a plan with the input bytes of each: a stage's output is the next one's input. -/
def stageInfos (groups : Nat → List (BitVec 18)) (size : Nat) (l : List Stage) : List StageInfo := match l with
  | [] => []
  | st :: t =>
    let g := groups st.level.toNat
    ⟨st, g, size⟩ :: stageInfos groups (if st.method = 1 then size / max 1 g.length else size) t

/-- n of R239. -/
def StageInfo.n (i : StageInfo) : Nat := i.group.length

/-- C: the size of one contribution. -/
def StageInfo.contribution (i : StageInfo) : Nat :=
  if i.stage.method = 1 ∨ i.stage.method = 3 then i.size / max 1 i.n else i.size

/-- c: increments per contribution. -/
def StageInfo.chunkCount (i : StageInfo) : Nat := if i.stage.check then (i.contribution + 65503) / 65504 else 1

/-- B: the slot length. -/
def StageInfo.slotLen (i : StageInfo) : Nat :=
  if i.stage.check then i.contribution + 32 * i.chunkCount else i.contribution

/-- The output of a segment. -/
def StageInfo.outLen (i : StageInfo) : Nat := if i.stage.method = 1 then i.size / max 1 i.n else i.size

/-- TARGET of the stage's turnstiles (Table 9-8). -/
def StageInfo.target (i : StageInfo) : Nat :=
  if i.stage.level = 0 then i.n * i.chunkCount else (i.n - 1) * i.chunkCount

/-- The group of an allotment at a level, in its current membership. -/
def State.groupAt (s : State) (a : AllotSt) (level : Nat) : List (BitVec 18) :=
  let im := s.image a.image
  groupOf (im.rosters.getD a.variant.toNat []) a.groups im.coord level

/-- The stages of plan number p of an allotment's image. -/
def State.planInfo (s : State) (a : AllotSt) (p : Nat) : List StageInfo :=
  let im := s.image a.image
  match im.plans[p]? with
  | none => []
  | some pl => stageInfos (s.groupAt a) pl.segBytes (planStages im pl)

/-- The stage that a linked turnstile gates, with its sizes. -/
def State.linkInfo (s : State) (t : TrnSt) : Option (AllotSt × StageInfo) := match t.owner, t.link with
  | some n, some k =>
    (match s.allot n.toNat with
    | none => none
    | some a =>
      let im := s.image a.image
      match im.plans[t.plan.toNat]? with
      | none => none
      | some pl => ((s.planInfo a t.plan.toNat)[k.toNat - pl.firstStage]?).map (fun i => (a, i)))
  | _, _ => none

/-! ### The turnstile store (R240 to R248) -/

/-- Die of the gatehouse that holds a turnstile. -/
def trnDie (t : Nat) : BitVec 3 := BitVec.ofNat 3 (4 + t / 4096)

/-- Where turnstile t is counted in counter k (Table 9-12): COMPLETED and EARLY of a confidential allotment are its own
(R264). -/
def State.trnPlace (s : State) (t k : Nat) : Nat := match (s.trn t).owner with
  | none => cTrn (t / 4096) k
  | some n => if k = 0 ∨ k = 2 then s.trnCounter n.toNat (t / 4096) k else cTrn (t / 4096) k

/-- A latched turnstile counter raised by 1 (Table 9-12). -/
def countTrn (t k : Nat) (s : State) : State := s.bump (s.trnPlace t k) 1

/-- What a completion leaves of a turnstile: COUNT and roster 0, DONE (R243). -/
def TrnSt.completed (now : Time) (t : TrnSt) : TrnSt := { t with count := 0, roster := [], st := 2, doneAt := some now }

/-- An overcount of an unlinked turnstile (R246). -/
def overcount (t : Nat) (s : State) : State :=
  match (s.trn t).owner with
  | none => s
  | some n => allotFault n.toNat (faultCode 0x6 0x002 (BitVec.ofNat 16 t)) (trnDie t) 0xFF (some (s.trn t).entry) s

/-- The completion test of an ARMED turnstile (R243). was is COUNT before the tick's change. -/
def completionTest (t : Nat) (was : Option Nat) (s : State) : State :=
  let x := s.trn t
  if x.st = 1 then
    if x.count = x.target ∨ (x.link.isSome ∧ x.target.toNat ≤ x.count.toNat) then
      countTrn t 0 (s.modTrn t (TrnSt.completed s.now))
    else if x.target.toNat < x.count.toNat ∧ (match was with | none => true | some c => decide (c ≤ x.target.toNat)) = true then
      overcount t s
    else s
  else s

/-- TRN_ARM on a turnstile: TARGET and DEADLINE are loaded and COUNT is kept; increments of the same tick that came first are
not early ones (R242, R243). DEDUCED: assumption 30. -/
def armTrn (t : Nat) (target : Word) (deadline : Time) (entry : BitVec 24) (s : State) : State :=
  let early := match (s.trn t).earlyAt with
    | some (w, n) => if w = s.now then n else 0
    | none => 0
  let s := { s with live := smod 0 s.live (s.trnPlace t 2) (fun v => v - BitVec.ofNat 32 early) }
  completionTest t none (s.modTrn t (fun x =>
    { x with target := target, deadline := deadline, entry := entry, st := 1, doneAt := none, earlyAt := none }))

/-- The roster limit of a position (R245): 0 for the member's own position except at PACKAGE level. -/
def rosterLimit (own : BitVec 18) (i : StageInfo) (pos : Nat) : Nat :=
  if i.stage.level.toNat ≠ 0 ∧ posOf i.group i.stage.level.toNat own = some pos then 0 else i.chunkCount

/-- The position whose roster count takes an increment from a source, and how much the count still lacks, where the roster lets
the increment pass (R245). -/
def rosterPlace (s : State) (x : TrnSt) (src : BitVec 18) : Option (Nat × Nat) :=
  match s.linkInfo x with
  | none => none
  | some (a, i) =>
    match posOf i.group i.stage.level.toNat src with
    | none => none
    | some p =>
      let room := rosterLimit (s.image a.image).coord i p - sget 0 x.roster p
      if room = 0 then none else some (p, room)

/-- An increment that the roster lets pass is added, and counted where it is early (R243). DEDUCED: assumption 30. -/
def addIncrement (t n : Nat) (place : Option Nat) (s : State) : State :=
  let x := s.trn t
  let early := decide (x.st = 0) || decide (x.st = 2)
  let s' := s.modTrn t (fun x => { x with
    count := satAdd x.count n
    roster := match place with
      | none => x.roster
      | some p => smod 0 x.roster p (· + n)
    earlyAt := if early then some (s.now, (match x.earlyAt with
      | some (w, k) => if w = s.now then k + 1 else 1
      | none => 1)) else x.earlyAt })
  if early then countTrn t 2 s' else completionTest t (some x.count.toNat) s'

/-- A further increment in the tick in which a turnstile completed: together with those before it, it would have been one too
many, so it is withheld on a linked turnstile and an overcount on another (R242, R245, R246). DEDUCED: assumption 30. -/
def secondInTick (t n : Nat) (s : State) : State :=
  let x := s.trn t
  if x.link.isSome then countTrn t 3 s
  else
    let s := { s with live := smod 0 s.live (s.trnPlace t 0) (fun v => v - 1) }
    overcount t (s.modTrn t (fun x => { x with st := 1, count := satAdd x.target n, doneAt := none }))

/-- A tick is over for timetable times, which a hold keeps where they stood when it began (R169, R242). -/
def State.over (s : State) (t : Time) : Bool := decide (t.toNat < (if s.hold.hold then s.hold.at_ else s.now).toNat)

/-- The turnstile has missed its deadline: it is MISSED, or still ARMED when the deadline tick is over (R242, R247). -/
def State.missed (s : State) (x : TrnSt) : Bool := decide (x.st = 3) || (decide (x.st = 1) && s.over x.deadline)

/-- An increment of n reaches the turnstile store from a source coordinate (R241 to R245). Where a position lacks less than n, the
rest is surplus, which is withheld and counted in STRAY. DEDUCED: assumption 30. -/
def increment (t n : Nat) (src : BitVec 18) (s : State) : State :=
  let x := s.trn t
  if x.owner.isNone then s
  else if s.missed x then countTrn t 4 s
  else if x.st = 2 ∧ x.doneAt = some s.now then secondInTick t n s
  else if x.link.isNone then addIncrement t n none s
  else match rosterPlace s x src with
    | none => countTrn t 3 s
    | some (p, room) =>
      let s := if room < n then countTrn t 3 s else s
      addIncrement t (min n room) (some p) s

/-- The lowest position whose roster count is short, with its coordinate; an unlinked turnstile has none (R247). -/
def shortPos (s : State) (x : TrnSt) : Option (Nat × BitVec 18) :=
  match s.linkInfo x with
  | none => none
  | some (a, i) =>
    (i.group.zipIdx.find? (fun (_, p) => decide (sget 0 x.roster p < rosterLimit (s.image a.image).coord i p))).map
      (fun (c, p) => (p, c))

/-- A turnstile becomes MISSED, and its TRN_MISS names the short position (R247). -/
def missTrn (t : Nat) (s : State) : State :=
  let m : BitVec 5 × BitVec 18 := match shortPos s (s.trn t) with
    | none => (0x1F, 0x3FFFF)
    | some (p, c) => (BitVec.ofNat 5 p, c)
  countTrn t 1 (s.modTrn t (fun x => { x with st := 3, miss := some m }))

/-- The turnstiles of an allotment that are at their deadline test at the end of tick d. -/
def State.missing (s : State) (n : Nat) (d : Time) : List Nat :=
  (s.trns.filter (fun e => decide (e.2.owner = some (BitVec.ofNat 4 n)) && decide (e.2.st = 1)
    && decide (e.2.deadline = d))).map (·.1)

/-- TURNSTILE_DEADLINE (R242, R247): the deadline tick has ended, so that all its increments have been counted. Every turnstile of
the allotment that is still ARMED with that deadline becomes MISSED, one record of the deadline tick names the lowest, and the
allotment's timetable stops. DESIGN CHOICE: assumption 120. -/
def execTurnstileDeadline (t : Trn) (s : State) : Res :=
  .next (match (s.trn t.val).owner with
    | none => s
    | some n =>
      let d := (s.trn t.val).deadline
      if s.timed && s.over d && decide (s.now.toNat = d.toNat + 1) && decide ((s.trn t.val).st = 1)
          && (match s.allot n.toNat with | none => false | some a => !a.stopped) then
        let l := s.missing n.toNat d
        let low := l.headD t.val
        let array : Byte := match shortPos s (s.trn low) with
          | none => 0xFF
          | some (p, _) => BitVec.ofNat 8 p
        let entry := (s.trn low).entry
        let s := l.foldl (fun s t => missTrn t s) s
        stopAllot n.toNat (writeFaultAt d (faultCode 0x6 0x001 (BitVec.ofNat 16 low)) (s.sliceOf n.toNat) (trnDie low) array
          (some entry) s)
      else s)

/-- The turnstiles of an allotment return to IDLE; owner and link are kept (R248). No chunk of a contribution is half registered
then. -/
def resetTrns (n : Nat) (s : State) : State :=
  { s with chunkCrcs := s.chunkCrcs.filter (fun e => decide (e.1 / 2 ^ 48 ≠ n)), trns := smapD {} (fun x => if x.owner = some (BitVec.ofNat 4 n) then
      { owner := x.owner, link := x.link, plan := x.plan, seg := x.seg } else x) s.trns }

end Sys2Proof.Machine
end

