-- ==== Sys2Proof/Machine/Fabric.lean ====
section
/-! DEFINITION. Packets on their way into the fabric: the cutting of a run of bytes (R216), the routing tables (R225) and
the entry of a packet at a station of a transit ring (R218). -/

namespace Sys2Proof.Machine

/-- The largest data packet: 2 KiB, or 8 KiB in LONG_MODE (R214). -/
def packetMax (long : Bool) : Nat := if long then 8192 else 2048

/-- The length of the packet that begins where rem bytes of a run are left (R216). -/
def cutLen (most rem : Nat) : Nat :=
  if rem ≤ most then rem else if rem - most < 256 then rem - 256 else most

/-- The packets of a run of bytes, as offset and length; fuel is the number of bytes. -/
def cutsFrom (most fuel off rem : Nat) : List (Nat × Nat) := match fuel with
  | 0 => []
  | f + 1 => if rem = 0 then [] else
    let n := cutLen most rem
    (off, n) :: cutsFrom most f (off + n) (rem - n)

/-- The packets of a run of n bytes. -/
def cuts (most n : Nat) : List (Nat × Nat) := cutsFrom most n 0 n

/-- The module's own coordinate, die 7 (R204). -/
def State.ownCoord (s : State) : BitVec 18 :=
  s.self.rack ++ s.self.tray ++ s.self.slot ++ (7 : BitVec 3)

/-- The place of the routing table of a gatehouse and version. -/
def rteIx (h : Nat) (v : Bool) : Nat := 2 * h + if v then 1 else 0

/-- The egress spoke of a slice and destination module in the table of a gatehouse and version (R225). -/
def State.route (s : State) (h : Nat) (v : Bool) (slice : BitVec 12) (dst : BitVec 15) : Option (BitVec 6) :=
  ((sget [] s.rte.tables (rteIx h v)).find? (fun r => r.valid && decide (r.slice = slice) && decide (r.dst = dst))).map
    (·.egress)

/-- The routing switch is due in the tick that runs: tick 00007 of its lap, which no hold lets wait (R170, R227). -/
def State.switchNow (s : State) : Bool :=
  s.rte.pending.isSome && s.atTick 7 && s.clear && decide (s.rte.switchLap = some s.cad.lap)

/-- The routing version that packets cut in the running tick carry: the switch of a tick comes first in it (R227, R410). -/
def State.version (s : State) : Bool := s.rte.cur != s.switchNow

/-- A data packet from this module (R215, R216): TAG, and the epoch in KEY, are filled at the egress. -/
def dataPacket (s : State) (h : Nat) (slice : BitVec 12) (dst : BitVec 15) (buf : BitVec 16) (offset : Nat)
    (trn : Option (BitVec 13)) (payload : List Byte) : Packet :=
  let words := payload.length / 32
  { cls := 1, ver := s.version, long := decide (64 < words), trnEn := trn.isSome, key := false, slice := slice, hops := 0,
    words := BitVec.ofNat 9 words, rsv1 := false, trnIdx := trn.getD 0, dst := withDie dst 7, rsv2 := 0,
    src := withDie (modNum s.ownCoord) (4 + h), buf := buf, trnInc := if trn.isSome then 1 else 0,
    offset := BitVec.ofNat 32 offset, tag := 0, payload := payload }

/-- The egress that means this module itself. -/
def hereEgress : BitVec 6 := 62

/-- A packet waits from tick t on to enter the ring of gatehouse h at a station; mover names the mover whose descriptor sends it.
DEDUCED: assumption 31. -/
def enterRing (mover : Option Nat) (t : Time) (h station : Nat) (egress : BitVec 6) (p : Packet) (s : State) : State :=
  s.modStation (22 * h + station) (fun x =>
    { x with entry := x.entry ++ [{ pkt := p, since := t, egress := egress, mover := mover }] })

/-- A packet of this module enters the fabric in tick t at a station of gatehouse h: to the ring for this module itself, to the ring
for the spoke the table names, or a routing miss (R225). DEDUCED: assumption 31. -/
def injectAt (mover : Option Nat) (t : Time) (h station : Nat) (p : Packet) (s : State) : State :=
  if modNum p.dst = modNum s.ownCoord then enterRing mover t h station hereEgress p s
  else match s.route h p.ver p.slice (modNum p.dst) with
    | none => s.bump (cMiss h) 1
    | some e => enterRing mover t h station e p s

/-- A packet of this module enters the fabric in the running tick. -/
def inject (mover : Option Nat) (h station : Nat) (p : Packet) (s : State) : State := injectAt mover s.now h station p s

/-- A packet of a mover's descriptor is still on its way to the module's egress, or to this module itself (R105). -/
def State.sending (s : State) (m : Nat) : Bool :=
  let of := fun (l : List Queued) => l.any (fun q => decide (q.mover = some m))
  s.stations.any (fun e => of e.2.ring || of e.2.entry) || s.spokes.any (fun e => of e.2.ctl || of e.2.data)

end Sys2Proof.Machine
end

