-- ==== Sys2Proof/Machine/Records.lean ====
section
/-! DEFINITION. The records of the layout image as data: array configurations, edge programs, joins, descriptors,
timetables, plans, stages, staging buffers (Tables 4-4, 5-7 to 5-11, 6-1 to 6-4, 9-6, 9-7). -/

namespace Sys2Proof.Machine

/-- An array configuration record (Table 5-7). -/
def parseArrCfg (b : List Byte) : ArrCfg :=
  let d0 := le 32 b 0 4
  let d2 := le 32 b 8 4
  let d3 := le 32 b 12 4
  { array := fld d0 0 8, mode := fld d0 8 2, wFmt := fld d0 12 4, aFmt := fld d0 16 4, outFmt := fld d0 20 4,
    qmode := bit d0 24, accInit := bit d0 25, tensor := le 32 b 4 4, uses := fld d2 0 7, tileWords := fld d2 16 12,
    accReg := fld d3 0 6, progLen := fld d3 8 6, ii := fld d3 16 6 }

/-- An edge operation word (Table 5-8). -/
def parseEdgeOp (b : List Byte) : EdgeOp :=
  let w := le 64 b 0 8
  { opc := fld w 0 6, dst := fld w 6 7, srcA := fld w 13 7, srcB := fld w 20 7, srcC := fld w 27 7, start := fld w 34 8,
    slot := fld w 42 2 }

/-- An edge program record (R123). -/
def parseEdge (b : List Byte) : EdgeProg :=
  { ops := (List.range 32).map (fun i => parseEdgeOp (bytesAt b (8 * i) 8)),
    consts := (List.range 16).map (fun i => le 32 b (256 + 4 * i) 4) }

/-- A pergola join record (Table 5-9). -/
def parseJoin (b : List Byte) : Join :=
  ⟨le 16 b 0 2, le 16 b 2 2, le 16 b 4 2, byteAt b 6, byteAt b 7⟩

/-- A mover descriptor (Table 4-4). -/
def parseDesc (b : List Byte) : Desc :=
  let d0 := le 32 b 0 4
  let d5 := le 32 b 20 4
  let d8 := le 32 b 32 4
  let d9 := le 32 b 36 4
  { op := fld d0 28 4, srcSp := fld d0 24 4, dstSp := fld d0 20 4, fmt := fld d0 16 4, trnEn := bit d0 15,
    nextEn := bit d0 14, slice := fld d0 0 12, src := le 48 b 4 6, dst := le 48 b 12 6, rows := fld d5 16 16,
    rowWords := fld d5 0 16, srcStride := le 32 b 24 4, dstStride := le 32 b 28 4, trnInc := fld d8 16 16,
    trnIdx := fld d8 0 13, keySlot := fld d9 24 8, coord := fld d9 0 18, next := fld (le 32 b 40 4) 0 9 }

/-- The kind and arguments of a timetable entry (Table 6-4); a reserved kind has none. -/
def parseKind (b : List Byte) : Option EntryKind := match (byteAt b 2).toNat with
  | 1 => some (.issue (bit (byteAt b 3) 0) (bit (byteAt b 3) 1) (byteAt b 4) (le 16 b 6 2) (le 16 b 8 2) (le 16 b 10 2)
      (le 16 b 12 2))
  | 2 => some (.move (le 16 b 4 2) (le 16 b 6 2))
  | 3 => some (.collective (le 16 b 4 2))
  | 4 => some (.trnArm (le 16 b 4 2) (le 16 b 6 2) (le 32 b 8 4))
  | 5 => some (.shadow (byteAt b 4))
  | 6 => some (.strobe (byteAt b 4))
  | 7 => some (.complete (le 32 b 4 4))
  | 8 => some (.phaseEnd (byteAt b 4))
  | _ => none

/-- Records of n bytes of a body. -/
def recs (n : Nat) (body : List Byte) : List (List Byte) := chunks n body.length body

/-- A timetable section (R151). -/
def parseTimetable (body : List Byte) : Timetable :=
  let h := bytesAt body 0 16
  let nUnits := leNat (bytesAt h 4 2)
  let nEntries := leNat (bytesAt h 12 4)
  let rs := recs 16 (body.drop 32)
  let unit := fun (b : List Byte) => (⟨leNat (bytesAt b 0 4), leNat (bytesAt b 4 4), leNat (bytesAt b 8 2)⟩ : TtUnit)
  { phase := fld (byteAt h 0) 0 3, gear := fld (byteAt h 1) 0 3, regroup := fld (byteAt h 2) 0 3,
    swapback := bit (byteAt h 3) 0,
    loop := if le 16 h 6 2 = 0xFFFF then none else some (leNat (bytesAt h 6 2), leNat (bytesAt h 8 2)),
    units := (rs.take nUnits).map unit,
    entries := ((rs.drop nUnits).take nEntries).filterMap (fun b => (parseKind b).map (fun k => ⟨le 16 b 0 2, k⟩)) }

/-- A plan record (Table 9-6). -/
def parsePlan (b : List Byte) : Plan :=
  ⟨byteAt b 1, (byteAt b 2).toNat, leNat (bytesAt b 4 2), leNat (bytesAt b 6 2), leNat (bytesAt b 8 4), le 16 b 12 2⟩

/-- A stage record (Table 9-7). -/
def parseStage (b : List Byte) : Stage :=
  ⟨byteAt b 1, byteAt b 2, bit (byteAt b 3) 0, le 16 b 4 2, le 16 b 6 2, le 16 b 8 2, leNat (bytesAt b 10 2),
    leNat (bytesAt b 12 2)⟩

/-- A staging record (Table 5-11). -/
def parseStaging (b : List Byte) : StagingBuf :=
  ⟨le 16 b 0 2, byteAt b 2, byteAt b 3, le 64 b 4 8, leNat (bytesAt b 12 4)⟩

/-- The module mover number of a SCOPE or MOVE code (Table 5-2): 16p + m, or 64 + 8h + m where bit 15 is set. -/
def moverOf (code : BitVec 16) : Nat := if bit code 15 then 64 + (fld code 0 7).toNat else (fld code 0 7).toNat

/-- The pavilion of a join: the one of its source (R125). -/
def joinPav (j : Join) : Nat :=
  let ix := j.src.toNat % 4096
  if j.src.toNat / 4096 = 2 then ix / 64 else ix / 48

end Sys2Proof.Machine
end

