-- ==== Sys2Proof/Machine/Timetable.lean ====
section
/-! DEFINITION. Timetables, phases and planes (05, 06): which entry is due, units and laps, shadow loads and swaps, the
start of an allotment and of a run, and the entries that no other file owns. -/

namespace Sys2Proof.Machine

/-! ### Tables and units -/

/-- The timetable of a phase and gear in a regroup variant. -/
def AllotSt.table (a : AllotSt) (phase gear regroup : Nat) : Option Timetable :=
  a.tables.find? (fun t => decide (t.phase.toNat = phase) && decide (t.gear.toNat = gear) && decide (t.regroup.toNat = regroup))

/-- A timetable of a phase in some gear, for what every gear variant shares (R165). -/
def AllotSt.anyTable (a : AllotSt) (phase regroup : Nat) : Option Timetable :=
  a.tables.find? (fun t => decide (t.phase.toNat = phase) && decide (t.regroup.toNat = regroup))

/-- NEXT of a phase's PHASE_END. -/
def Timetable.next (t : Timetable) : Byte := match t.entries.getLast? with
  | some ⟨_, .phaseEnd n⟩ => n
  | _ => 0xFF

/-- The unit to begin with from unit u on, skipping a loop that is executed no more (R160). -/
def enterUnit (t : Timetable) (u loops : Nat) : Option (Nat × Nat) :=
  let v := match t.loop with
    | some (f, l) => if u = f ∧ loops = 0 then l + 1 else u
    | none => u
  if v < t.units.length then some (v, loops) else none

/-- The unit that a phase executes next, and the executions of its loop still to do, this one included. -/
def nextUnit (t : Timetable) (p : RunPos) : Option (Nat × Nat) :=
  if p.running.isNone then enterUnit t 0 p.loops
  else match t.loop with
    | some (f, l) =>
      if p.unit = l then
        if 2 ≤ p.loops then some (f, p.loops - 1)
        else if l + 1 < t.units.length then some (l + 1, 0) else none
      else enterUnit t (p.unit + 1) p.loops
    | none => enterUnit t (p.unit + 1) p.loops

/-- The gatehouse that holds an allotment's timetable pages (R127). -/
def ghOfPages (a : AllotSt) : Nat := if a.ghMovers.toNat % 256 = 0 then 1 else 0

/-- Tick 00004 of the timetable's lap: of the cadence lap, or, while H is not 0, of the lap that a hold has delayed (R169). -/
def unitHead (s : State) : Nat :=
  if s.hold.h = 0 then timeNat s.cad.lap.toNat 4 else s.hold.lapEnd.toNat - 65536 + 4

/-- The next unit's place: in its tick where it fits into the lap of timetable time, else at the head of the next lap of
the timetable (R149, R169). -/
def unitDue (length : Nat) (p : RunPos) (s : State) : Bool :=
  let tt := p.free.toNat - s.hold.h
  let fit := decide (4 ≤ tt % 65536) && decide (tt % 65536 + length ≤ 65536)
  (fit && decide (s.now = p.free)) || (decide (s.now.toNat = unitHead s) && decide (p.free.toNat + 4 ≤ unitHead s))

/-- The place of the error pattern of entry e of an allotment's timetable with number t (R187, R188). -/
def entryKey (n t e : Nat) : Nat := upsetKey 4 (n * 2 ^ 40 + t * 2 ^ 24 + e)

/-- The number of a timetable among those of its allotment. -/
def AllotSt.tableIx (a : AllotSt) (t : Timetable) : Nat := a.tables.findIdx (fun x => decide (x = t))

/-- What has happened to entries of a timetable comes into its store and stays there (R188). DESIGN CHOICE: assumption 27. -/
def applyEntryNoise (n t : Nat) (noise : List (Nat × List Byte)) (s : State) : State :=
  noise.foldl (fun s e =>
    let k := entryKey n t e.1
    let v := (xorPattern (sget [] s.upset k) (fit 36 e.2)).take 36
    { s with upset := sput [] s.upset k (if v.all (· == 0) then [] else v) }) s

/-- A fresh load, or the release of the allotment, leaves no error in the allotment's timetables (R188). -/
def clearEntries (n : Nat) (s : State) : State :=
  { s with upset := s.upset.filter (fun e => !(decide (entryKey n 0 0 ≤ e.1) && decide (e.1 < entryKey (n + 1) 0 0))) }

/-- The unit begins: its step count, its gear and its entries (R152, R161, R166). -/
def beginUnit (u loops : Nat) (t : Timetable) (r : Run) (s : State) (p : RunPos) : RunPos :=
  let done := sget 0 p.execs p.phase.toNat
  let x := t.units.getD u ⟨0, 0, 1⟩
  { p with unit := u, loops := loops, step := r.stepBase + BitVec.ofNat 64 done,
           execs := sput 0 p.execs p.phase.toNat (done + 1), free := later x.length s.now,
           running := some (s.now, s.gear.gear, x.first), lastTick := later (x.length - 1) s.now }

/-- UNIT_START (R149, R166): the next unit of the run's phase starts in the gear in force; a due shift comes first in its tick (R33,
R410). noise is what has happened to entries of the timetable in its store since, by number in the timetable; an entry is read when it
fires (R187). DESIGN CHOICE: assumption 27. -/
def execUnitStart (a : Allot) (noise : List (Nat × List Byte)) (s : State) : Res :=
  .next (match s.allot a.val with
    | none => s
    | some al =>
      match al.run, al.pos with
      | some r, some p =>
        (match al.table p.phase.toNat s.gear.gear.toNat al.variant.toNat with
        | none => s
        | some t =>
          match nextUnit t p with
          | none => s
          | some (u, loops) =>
            let x := t.units.getD u ⟨0, 0, 1⟩
            if s.timed && !s.hold.hold && !al.stopped && !s.shiftNow && !s.thm.trip && p.ended.isNone && unitDue x.length p s then
              applyEntryNoise a.val (al.tableIx t) noise
                (s.modAllot a.val (fun al => { al with pos := some (beginUnit u loops t r s p) }))
            else s)
      | _, _ => s)

/-! ### Entries (R152) -/

/-- An entry that is due: its allotment, the run's place, the unit's start, the gear, the entry's index and what it does. -/
structure Due where
  al    : AllotSt
  pos   : RunPos
  start : Time
  gear  : BitVec 3
  /-- The number of the timetable among the allotment's. -/
  table : Nat
  ix    : Nat
  kind  : EntryKind

/-- The entry of the running unit that is next. -/
def State.nextEntry (s : State) (n : Nat) : Option Due := match s.allot n with
  | none => none
  | some al => match al.pos with
    | none => none
    | some p => match p.running with
      | none => none
      | some (start, gear, ix) => match al.table p.phase.toNat gear.toNat al.variant.toNat with
        | none => none
        | some t =>
          let u := t.units.getD p.unit ⟨0, 0, 1⟩
          match t.entries[ix]? with
          | none => none
          | some e => if ix < u.first + u.count ∧ s.now = later e.offset.toNat start then
              some ⟨al, p, start, gear, al.tableIx t, ix, e.kind⟩ else none

/-- The entry due in this tick, where the timetable runs: no hold, no stop (R168, R174). -/
def State.due (s : State) (n : Nat) : Option Due :=
  if s.timed && !s.hold.hold then
    match s.nextEntry n with
    | none => none
    | some d => if d.al.stopped then none else some d
  else none

/-- The timetable moves past the entry that has fired. -/
def passEntry (n : Nat) (s : State) : State :=
  s.modAllot n (fun al => { al with pos := al.pos.map (fun p =>
    { p with running := p.running.map (fun (t, g, i) => (t, g, i + 1)) }) })

/-- ENTRY of a fault context. -/
def Due.entry (d : Due) : BitVec 24 := BitVec.ofNat 24 d.ix

/-- The read of a due entry from the timetable store: the state with what it counts, or the fault of an uncorrectable word, which
stops the timetable (R187, Table 7-4). DESIGN CHOICE: assumption 27. -/
def readEntry (n : Nat) (d : Due) (s : State) : State × Bool :=
  let h := ghOfPages d.al
  match trellisDecode (fit 36 (sget [] s.upset (entryKey n d.table d.ix))) with
  | .clean => (s, true)
  | .corrected _ => (s.bump (cStage h) 1, true)
  | .uncorrectable =>
    let s := { s with mgmt := { s.mgmt with odo := { s.mgmt.odo with ueWords := s.mgmt.odo.ueWords + 1 } } }
    (allotFault n (memFault false (8, h)) (BitVec.ofNat 3 (4 + h)) 0xFF (some d.entry) s, false)

/-- A timetable entry fires: it is read, and f is what its kind does. -/
def fire (n : Nat) (f : Due → State → Option State) (s : State) : State := match s.due n with
  | none => s
  | some d => match readEntry n d s with
    | (s', true) => (match f d s' with
      | none => s
      | some s'' => passEntry n s'')
    | (s', false) => if (f d s).isSome then s' else s

/-- TT_ISSUE (R153): the entry begins on the arrays of its group that MASK selects, beside entries that are still at work there. -/
def execTtIssue (a : Allot) (s : State) : Res :=
  .next (fire a.val (fun d s => match d.kind with
    | .issue switch cohort group mask vectors slotMask stride =>
      let i : Issue := { entry := d.entry, at_ := s.now, total := vectors.toNat, slotMask := slotMask, stride := stride.toNat,
                         switch := switch, cohort := cohort, cpt := cptOf d.gear.toNat, step := d.pos.step }
      some ((setBits mask).foldl (fun s q => s.modArr (16 * group.toNat + q) (fun x => { x with issues := x.issues ++ [i] })) s)
    | _ => none) s)

/-- TT_STROBE (R155, R316): the allotment's own strobe group is strobed, which applies a buffered poll period. -/
def execTtStrobe (a : Allot) (s : State) : Res :=
  .next (fire a.val (fun d s => match d.kind with
    | .strobe g => some (s.modAllot a.val (fun al =>
        if al.sgrp.toNat = g.toNat then { al with poll := al.poll.strobe s.now } else al))
    | _ => none) s)

/-- TT_COMPLETE (R157): a TIMETABLE completion entry with the entry's TAG, step count and tick. -/
def execTtComplete (a : Allot) (s : State) : Res :=
  .next (fire a.val (fun d s => match d.kind with
    | .complete tag => some (complete (2 + a.val) ⟨0x01, 0x00, 0, tag, s.now, d.pos.step, 0, BitVec.ofNat 8 a.val⟩ s)
    | _ => none) s)

/-- TT_TRN_ARM (R156): the turnstile is armed with a deadline at a tick of the unit. -/
def execTtTrnArm (a : Allot) (s : State) : Res :=
  .next (fire a.val (fun d s => match d.kind with
    | .trnArm t deadline target => some (armTrn t.toNat target (later deadline.toNat d.start) d.entry s)
    | _ => none) s)

/-! ### Shadow loads (R140, R141, R189) -/

/-- Bytes of a phase's records that go to a pavilion (R141). -/
def pavBytes (a : AllotSt) (phase p : Nat) : Nat :=
  16 * popcount (fld a.groups (4 * p) 4) * 352 +
  ((a.cfgSecs.filter (fun c => decide (c.phase.toNat = phase))).map (fun c =>
    if c.type = 6 then 16 * (c.pavs.filter (fun q => decide (q = p))).length
    else if c.type = 7 ∧ c.mover.toNat < 64 ∧ c.mover.toNat / 16 = p then 64 * c.count else 0)).sum

/-- Bytes of a phase's descriptors that go to a gatehouse (R141). -/
def ghBytes (a : AllotSt) (phase h : Nat) : Nat :=
  ((a.cfgSecs.filter (fun c => decide (c.phase.toNat = phase))).map (fun c =>
    if c.type = 7 ∧ 64 ≤ c.mover.toNat ∧ (c.mover.toNat - 64) / 8 = h then 64 * c.count else 0)).sum

/-- The ticks of a shadow load: 256 bytes a tick into each pavilion and gatehouse, and 16 more (R141). DEDUCED: assumption
35. -/
def shadowTicks (a : AllotSt) (phase : Nat) : Nat :=
  let unit := fun (b : Nat) => (b + 255) / 256 + 16
  ((List.range 4).map (fun p => unit (pavBytes a phase p)) ++ (List.range 2).map (fun h => unit (ghBytes a phase h))).foldl max 0

/-- Bytes of a section's record. -/
def recBytes (type : Nat) : Nat := match type with
  | 4 => 32 | 5 => 320 | 6 => 16 | _ => 64

/-- Sections of a phase in the configuration store. -/
def AllotSt.phaseSecs (a : AllotSt) (phase : Nat) : List CfgSec := a.cfgSecs.filter (fun c => decide (c.phase.toNat = phase))

/-- The logical arrays of an allotment in ascending order (R121). -/
def AllotSt.arrayIxs (a : AllotSt) : List Nat := (setBits a.groups).flatMap (fun g => (List.range 16).map (fun q => 16 * g + q))

/-- Where a section's word that cannot be corrected is loaded: die, and the array within its pavilion or 0xFF (Table 7-4). A word
holds two join records, of which the first counts. -/
def shadowPlace (a : AllotSt) (c : CfgSec) (word : Nat) : BitVec 3 × Byte :=
  let k := (32 * word - c.addr.toNat) / recBytes c.type.toNat
  match c.type.toNat with
  | 7 => (if c.mover.toNat < 64 then BitVec.ofNat 3 (c.mover.toNat / 16) else BitVec.ofNat 3 (4 + (c.mover.toNat - 64) / 8), 0xFF)
  | 6 => (BitVec.ofNat 3 (c.pavs.getD k 0), 0xFF)
  | _ =>
    let x := a.arrayIxs.getD k 0
    (BitVec.ofNat 3 (x / 64), BitVec.ofNat 8 (x % 64))

/-- A word of a shadow load on its way to the die it is loaded into, as word k of the load: its bytes, or the code of its fault (R184,
R187). -/
def shadowWord (a : AllotSt) (path : List PathNoise) (c : CfgSec) (k w : Nat) (s : State) : State × Except Word (List Byte) :=
  match readWord 0 w s with
  | (s, .good b) =>
    let r := carry [s.dieOf 0 w, (shadowPlace a c w).1.toNat] path k b s
    (r.state, match r.bad with
      | some p => .error (memFault false p)
      | none => .ok r.word)
  | (s, r) => (s, .error (memFault (r == .tagBad) (s.placeOf 0 w)))

/-- What a shadow load has read: the sections, the words so far, and the section, the word and the code where it stops. -/
structure ShadowRead where
  state : State
  secs  : List (CfgSec × List Byte) := []
  words : Nat := 0
  bad   : Option (CfgSec × Nat × Word) := none

/-- The reads of a shadow load, section by section. DEDUCED: assumption 35. -/
def readSecs (a : AllotSt) (path : List PathNoise) (l : List CfgSec) (s : State) : ShadowRead :=
  l.foldl (fun x c =>
    if x.bad.isSome then x
    else
      let n := c.count * recBytes c.type.toNat
      let ws := wordsOf c.addr.toNat n
      let (s, b, bad) := ws.zipIdx.foldl (fun (s, b, bad) (w, i) => match bad with
        | some e => (s, b, some e)
        | none => (match shadowWord a path c (x.words + i) w s with
          | (s, .ok v) => (s, b ++ v, none)
          | (s, .error code) => (s, b, some (c, w, code)))) (x.state, [], none)
      { state := s, secs := x.secs ++ [(c, b.take n)], words := x.words + ws.length, bad := bad }) { state := s }

/-- A shadow load stops at an uncorrectable word with its own fault record (R189). The timetable goes on to the swap lap, where
PLANE_LATE stops it (R145). DEDUCED: assumption 35. -/
def shadowFault (n : Nat) (a : AllotSt) (entry : Option (BitVec 24)) (bad : CfgSec × Nat × Word) (s : State) : State :=
  let (die, array) := shadowPlace a bad.1 bad.2.1
  writeFault bad.2.2 (s.sliceOf n) die array entry
    (s.modAllot n (fun a => { a with shadow := a.shadow.map (fun x => { x with stopped := true }) }))

/-- A shadow load of a phase starts in tick t (R140, R141); a word of the configuration store that already cannot be read
stops it there. DEDUCED: assumption 35. -/
def startShadow (n phase : Nat) (entry : Option (BitVec 24)) (t : Time) (s : State) : State := match s.allot n with
  | none => s
  | some a =>
    let s := s.modAllot n (fun a => { a with shadow := some { phase := BitVec.ofNat 3 phase,
                                                              doneAt := later (shadowTicks a phase - 1) t, byEntry := entry } })
    let r := readSecs a [] (a.phaseSecs phase) s
    match r.bad with
    | some b => shadowFault n a entry b r.state
    | none => s

/-- The plane that a shadow load has read. -/
def planeFrom (phase : BitVec 3) (l : List (CfgSec × List Byte)) : Plane :=
  let of := fun (t : Nat) => (l.filter (fun e => decide (e.1.type.toNat = t)))
  { phase := phase
    cfgs := (of 4).flatMap (fun e => (recs 32 e.2).map parseArrCfg)
    progs := (of 5).flatMap (fun e => (recs 320 e.2).map parseEdge)
    joins := (of 6).flatMap (fun e => (recs 16 e.2).map parseJoin)
    descs := (of 7).foldl (fun m e => sset m e.1.mover.toNat ((recs 64 e.2).map parseDesc)) [] }

/-- SHADOW_LOAD_DONE (R141): in the load's last tick the shadow planes hold the phase. DEDUCED: assumption 35. -/
def execShadowLoadDone (a : Allot) (way : Passage) (s : State) : Res :=
  .next (match s.allot a.val with
    | none => s
    | some al => match al.shadow with
      | none => s
      | some sh =>
        if s.timed && sh.plane.isNone && !sh.stopped && decide (s.now = sh.doneAt) then
          let r := readSecs al way.path (al.phaseSecs sh.phase.toNat) (applyNoise way.noise s)
          match r.bad with
          | some b => shadowFault a.val al sh.byEntry b r.state
          | none => r.state.modAllot a.val (fun al =>
              { al with shadow := some { sh with plane := some (planeFrom sh.phase r.secs) } })
        else s)

/-- TT_SHADOW (R141): the shadow load of a phase starts. -/
def execTtShadow (a : Allot) (s : State) : Res :=
  .next (fire a.val (fun d s => match d.kind with
    | .shadow phase => some (startShadow a.val phase.toNat (some d.entry) s.now s)
    | _ => none) s)

/-- The shadow load of NEXT in the first tick t of a SWAPBACK phase whose shadow plane does not hold it (R162); the context
names the PHASE_END (Table 7-4). A load of NEXT that is under way counts as held, also where it cannot end before PHASE_END: DESIGN
CHOICE: assumption 123. -/
def swapbackLoad (n : Nat) (t : Time) (s : State) : State := match s.allot n with
  | none => s
  | some a => match a.pos with
    | none => s
    | some p => match a.anyTable p.phase.toNat a.variant.toNat with
      | none => s
      | some tb =>
        let holds := match a.shadow with
          | some sh => decide (sh.phase.toNat = tb.next.toNat) && !sh.stopped
          | none => false
        if tb.swapback && decide (tb.next ≠ 0xFF) && !holds then
          startShadow n tb.next.toNat (some (BitVec.ofNat 24 (tb.entries.length - 1))) t s
        else s

/-! ### Swaps (R142 to R146) -/

/-- The shadow plane holds a phase, or will hold it by tick 00003 of the lap that runs. -/
def shadowReady (s : State) (a : AllotSt) (phase : Nat) : Bool := match a.shadow with
  | none => false
  | some sh => decide (sh.phase.toNat = phase) && !sh.stopped &&
      (sh.plane.isSome || decide (sh.doneAt.toNat ≤ timeNat s.cad.lap.toNat 3))

/-- The arrays re-arm on their active slots (Table 5-14). A weight-streaming array whose active slot is not full has no uses left, so that
its first vector switches: DESIGN CHOICE: assumption 123. -/
def rearm (a : AllotSt) (s : State) : State := match a.front with
  | none => s
  | some p => p.cfgs.foldl (fun s c => s.modArr c.array.toNat (fun x =>
      { x with usesLeft := if c.mode.toNat = 2 ∧ x.full x.slot = true then c.uses.toNat else 0, released := false, issues := [] })) s

/-- The place of a run at the head of a phase (R149, R160). -/
def phaseHead (r : Run) (execs : Sparse Nat) (phase : Nat) (free : Time) : RunPos :=
  { phase := BitVec.ofNat 3 phase, loops := (r.iters.getD phase 0).toNat, step := r.stepBase, execs := execs, free := free }

/-- The exchange of front and shadow of an allotment. DEDUCED: assumption 21. -/
def swapPlanes (n : Nat) (new : Plane) (s : State) : State :=
  let free := s.cad.lap ++ (7 : BitVec 16)
  let s := s.modAllot n (fun a => { a with
    front := some new, planeBit := !a.planeBit, swapDue := none
    shadow := a.front.map (fun p => { phase := p.phase, doneAt := s.now, plane := some p })
    pos := match a.run with
      | none => none
      | some r => some (phaseHead r ((a.pos.map (·.execs)).getD []) new.phase.toNat free) })
  match s.allot n with
  | none => s
  | some a => swapbackLoad n free (rearm a s)

/-- The plane that a due swap makes front: the phase's shadow load is complete (R142). DEDUCED: assumption 21. -/
def swapReady (al : AllotSt) (phase : BitVec 3) : Option Plane := match al.shadow with
  | some sh => if sh.phase = phase ∧ ¬ sh.stopped then sh.plane else none
  | none => none

/-- A swap that is due finds its shadow load not complete (R145). DEDUCED: assumption 21. -/
def planeLate (n : Nat) (al : AllotSt) (phase : BitVec 3) (s : State) : State :=
  let entry := match al.shadow with
    | some sh => sh.byEntry
    | none => none
  allotFault n (faultCode 0x4 0x001 (phase.setWidth 16)) (BitVec.ofNat 3 (4 + ghOfPages al)) 0xFF entry
    (s.modAllot n (fun a => { a with swapDue := none }))

/-- PLANE_SWAP (R143, R145), in tick 00004 and again in tick 00005 of its lap: in the first the swap begins, or a shadow load
that is not complete writes PLANE_LATE and stops the timetable; in the second the planes exchange. A stopped timetable begins
no swap. DEDUCED: assumption 21. -/
def execPlaneSwap (a : Allot) (s : State) : Res :=
  .next (match s.allot a.val with
    | none => s
    | some al => match al.swapDue with
      | none => s
      | some (phase, from_) =>
        if s.timed && s.clear && decide (s.cad.tick = 4) && decide (from_.toNat ≤ timeNat s.cad.lap.toNat 0) then
          if (swapReady al phase).isNone then planeLate a.val al phase s
          else if al.stopped then s
          else s.modAllot a.val (fun x => { x with swapAt := some s.now })
        else if s.timed && decide (s.cad.tick = 5) && decide (al.swapAt = some (s.cad.lap ++ (4 : BitVec 16))) then
          (match swapReady al phase with
          | some p => swapPlanes a.val p s
          | none => s)
        else s)

/-! ### Phase end and runs (R157 to R162) -/

/-- The run ends (R160): RUN_END is written, and the arrays rest 16 laps on (R274). -/
def endRun (n : Nat) (r : Run) (p : RunPos) (s : State) : State :=
  let step := r.stepBase + BitVec.ofNat 64 (sget 0 p.execs p.phase.toNat)
  complete (2 + n) ⟨0x03, 0x00, r.sqHead, r.tag, s.now, step, 0, BitVec.ofNat 8 n⟩
    (s.modAllot n (fun a => { a with run := none, pos := none, restLap := some (s.cad.lap + 16) }))

/-- The phase ends with a NEXT (R157, R160). -/
def endPhase (n : Nat) (next : Byte) (r : Run) (p : RunPos) (s : State) : State :=
  if next = 0xFF then endRun n r p s
  else s.modAllot n (fun a => { a with pos := a.pos.map (fun p => { p with ended := some next }),
                                       swapDue := some (fld next 0 3, later 1 p.lastTick) })

/-- TT_PHASE_END (R157): the last entry of a phase, in the last execution of its unit; a phase whose last units do not
execute ends with the last tick of the last unit that did, or in its first tick where none does. -/
def execTtPhaseEnd (a : Allot) (s : State) : Res :=
  .next (match s.allot a.val with
    | none => s
    | some al => match al.run, al.pos with
      | some r, some p =>
        (match al.anyTable p.phase.toNat al.variant.toNat with
        | none => s
        | some t =>
          match s.due a.val with
          | some ⟨_, _, _, _, _, _, .phaseEnd next⟩ =>
            fire a.val (fun d s => match d.kind with
              | .phaseEnd _ => some (if (nextUnit t p).isNone then endPhase a.val next r p s else s)
              | _ => none) s
          | _ =>
            let skipped := decide (p.unit + 1 < t.units.length) || p.running.isNone
            let last := if p.running.isSome then p.lastTick else p.free
            if s.timed && !s.hold.hold && !al.stopped && p.ended.isNone && (nextUnit t p).isNone && skipped
                && decide (s.now = last) then endPhase a.val t.next r { p with lastTick := last } s
            else s)
      | _, _ => s)

/-- The start of an allotment is due in a tick 00000: its lap has come, no hold lets it wait, and the gear in force is one of the
image's (R138, R170). -/
def State.startsNow (s : State) (al : AllotSt) : Bool := match al.startLap with
  | none => false
  | some l => s.timed && s.clear && decide (s.cad.tick = 0) && !al.started && decide (l.toNat ≤ s.cad.lap.toNat)
      && (s.image al.image).gears.getLsbD s.gear.gear.toNat

/-- The allotment starts: the swap to phase 0 falls due and the turnstiles are reset (R138, R248). -/
def startAllot (n : Nat) (s : State) : State :=
  resetTrns n (s.modAllot n (fun a => { a with started := true, swapDue := some (0, s.now) }))

/-- ALLOTMENT_START_LAP (R138, R170, R248): at the first boundary from the start lap on that has no hold and a gear of the image, the
allotment starts at the end of tick 00000, once the tick has shown whether a hold begins (R410). -/
def execAllotmentStartLap (a : Allot) (s : State) : Res :=
  .next (match s.allot a.val with
    | none => s
    | some al => if s.startsNow al then s.modAllot a.val (fun a => { a with startDue := true }) else s)

/-- A completion entry for a run. -/
def runDone (n : Nat) (r : Run) (status : Byte) (detail : Nat) (s : State) : State :=
  complete (2 + n) ⟨0x02, status, r.sqHead, r.tag, s.now, 0, BitVec.ofNat 32 detail, BitVec.ofNat 8 n⟩ s

/-- Why a pending run is refused at its boundary (R159, Table 11-4): a stop, or its phase neither in front nor loaded. -/
def startDetail (s : State) (a : AllotSt) (r : Run) : Option Nat :=
  let front := match a.front with
    | some p => decide (p.phase.toNat = r.firstPhase.toNat)
    | none => false
  if a.stopped || s.thm.trip then some 6
  else if front || shadowReady s a r.firstPhase.toNat then none
  else some 2

/-- The run starts (R159, R248, R262). -/
def startRun (n : Nat) (a : AllotSt) (r : Run) (s : State) : State :=
  let front := match a.front with
    | some p => decide (p.phase.toNat = r.firstPhase.toNat)
    | none => false
  let swaps := !front || a.swapDue.isSome
  let free : Time := s.cad.lap ++ (if swaps then (7 : BitVec 16) else 4)
  let s := s.modAllot n (fun a => { a with
    run := some r, pendRun := none, variant := r.regroup, restLap := none, tiles := []
    pos := some (phaseHead r [] r.firstPhase.toNat free)
    swapDue := if swaps then some (fld r.firstPhase 0 3, s.now) else none })
  let s := runDone n r 0x00 0 (resetTrns n s)
  if swaps then s else swapbackLoad n free s

/-- The pending run of an allotment starts, or is refused with RUN_START (R159). -/
def beginRun (n : Nat) (s : State) : State := match s.allot n with
  | none => s
  | some al => match al.pendRun with
    | none => s
    | some r => match startDetail s al r with
      | none => startRun n al r s
      | some d => runDone n r 0x05 d (s.modAllot n (fun a => { a with pendRun := none }))

/-- RUN_START (R159, R170): at its lap boundary the pending run starts, at the end of tick 00000, once the tick has shown whether a hold
begins (R410). -/
def execRunStart (a : Allot) (s : State) : Res :=
  .next (match s.allot a.val with
    | none => s
    | some al => match al.pendRun with
      | none => s
      | some r =>
        if s.timed && s.clear && decide (s.cad.tick = 0) && (al.started || al.startDue) && al.run.isNone
            && decide (r.start.toNat ≤ s.cad.lap.toNat) then s.modAllot a.val (fun a => { a with runDue := true })
        else s)

/-- The starts that an allotment has due at the end of tick 00000: the allotment's own, then that of its run. In a hold that began in
the tick they wait (R170). -/
def startsOf (s : State) (n : Nat) : State := match s.allot n with
  | none => s
  | some al =>
    let s := s.modAllot n (fun a => { a with startDue := false, runDue := false })
    if s.clear then
      let s := if al.startDue && al.startLap.isSome then startAllot n s else s
      if al.runDue then beginRun n s else s
    else s

/-- The starts of every allotment. -/
def takeStarts (s : State) : State := s.allotNums.foldl startsOf s

end Sys2Proof.Machine
end

