-- ==== Sys2Proof/Machine/Mover.lean ====
section
/-! DEFINITION. The movers (R100 to R107, R305, R349, R350): starts, the transfer of a word, completion. -/

namespace Sys2Proof.Machine

/-! ### Who a mover is -/

/-- The die of a mover. -/
def moverDie (m : Nat) : BitVec 3 := if m < 64 then BitVec.ofNat 3 (m / 16) else BitVec.ofNat 3 (4 + (m - 64) / 8)

/-- A mover's number within its die. -/
def moverNum (m : Nat) : Nat := if m < 64 then m % 16 else (m - 64) % 8

/-- The allotment that owns a mover (R79). -/
def State.moverOwner (s : State) (m : Nat) : Option Nat :=
  if m < 64 then s.groupOwner (4 * (m / 16) + m % 16 / 4)
  else (s.allots.find? (fun e => e.2.ghMovers.getLsbD (m - 64))).map (·.1)

/-- The detail of a mover fault: mover within its die in [15:9], descriptor in [8:0] (Table 14-8). -/
def moverDetail (m : Nat) (ix : BitVec 9) : BitVec 16 := BitVec.ofNat 7 (moverNum m) ++ ix

/-- A mover stops on a fault: its descriptors are gone, STOPPED is set, the record names it, its allotment's timetable
stops (R106, R187). That the pending descriptor is lost with faults other than an uncorrectable word is a DESIGN CHOICE: assumption
118. -/
def moverFault (n m : Nat) (code : Word) (entry : BitVec 24) (s : State) : State :=
  allotFault n code (moverDie m) (BitVec.ofNat 8 (moverNum m)) (some entry)
    (s.modMover m (fun x => { x with active := none, pending := none, stopped := true }))

/-! ### Starts (R104) -/

/-- An overrun: the start is discarded and recorded, and the allotment's timetable stops. DEDUCED: assumption 29. -/
def overrun (n m : Nat) (ix : BitVec 9) (entry : BitVec 24) (s : State) : State :=
  allotFault n (faultCode 0x3 0x002 (moverDetail m ix)) (moverDie m) (BitVec.ofNat 8 (moverNum m)) (some entry) s

/-- The front-half descriptor of a mover (R101); an index beyond the table holds none (R127). -/
def State.frontDesc (s : State) (n m : Nat) (ix : Nat) : Option Desc := match s.allot n with
  | none => none
  | some a => match a.front with
    | none => none
    | some p => (sget [] p.descs m)[ix]?

/-- A start of a descriptor on a mover: active, pending or an overrun (R104). DEDUCED: assumption 29. A descriptor that waits as
pending is copied when it is started. DESIGN CHOICE: assumption 118. -/
def startMover (n m : Nat) (ix : BitVec 9) (entry : BitVec 24) (s : State) : State :=
  let x := s.mover m
  if x.stopped then s
  else match s.frontDesc n m ix.toNat with
    | none => overrun n m ix entry s
    | some d =>
      if x.active.isNone then s.modMover m (fun x => { x with active := some { index := ix, desc := d, entry := entry } })
      else if x.pending.isNone then s.modMover m (fun x => { x with pending := some { index := ix, desc := d, entry := entry } })
      else overrun n m ix entry s

/-- TT_MOVE (R104): a MOVE entry starts a descriptor. DEDUCED: assumption 29. -/
def execTtMove (a : Allot) (s : State) : Res :=
  .next (fire a.val (fun d s => match d.kind with
    | .move mover desc => some (startMover a.val (moverOf mover) (fld desc 0 9) d.entry s)
    | _ => none) s)

/-! ### Addresses (R97, R106, R307) -/

/-- A place that a mover's word lies in: a word of a store, a weight slot's byte, host memory, a spoke. -/
inductive Place where
  | store (st word : Nat)
  | slot (x : Nat) (slot : Bool) (off : Nat)
  | host (addr : Nat)
  | spoke
  | outside
  deriving DecidableEq, Repr

/-- A partition of the allotment covers an address of module memory. -/
def AllotSt.covers (a : AllotSt) (addr : Nat) : Bool :=
  a.parts.any (fun p => decide (p.1 ≤ granuleOf addr) && decide (granuleOf addr < p.1 + p.2))

/-- An address of module memory as a place of the allotment. -/
def memPlace (a : AllotSt) (addr : Nat) : Place := if a.covers addr then .store 0 (addr / 32) else .outside

/-- An address of a space as a place of the allotment (Table 4-6). -/
def placeIn' (n : Nat) (a : AllotSt) (space : Nat) (addr : Nat) : Place := match space with
  | 0 => memPlace a addr
  | 1 => if a.groups.getLsbD (addr / 2 ^ 26) && decide (addr % 2 ^ 26 < 0x3000000) then .store 1 (addr / 32) else .outside
  | 2 =>
    let x := addr / 2 ^ 32 % 256
    if a.groups.getLsbD (x / 16) then .slot x (decide (addr / 2 ^ 31 % 2 = 1)) (addr % 2 ^ 17) else .outside
  | 3 => .host addr
  | 4 => if addr / 2 ^ 24 = n ∧ a.winEn then memPlace a (a.winBase.toNat * 2 ^ 24 + addr % 2 ^ 24) else .outside
  | _ => .spoke

/-! ### Words of a transfer -/

/-- The bytes of a descriptor's transfer (R103). -/
def Desc.total (d : Desc) : Nat := d.rows.toNat * d.rowWords.toNat

/-- The address of word k of a run of rows. -/
def rowAddr (base stride rowWords k : Nat) : Nat := base + k / max 1 rowWords * stride + 32 * (k % max 1 rowWords)

/-- A pavilion mover is held in the stop of a shift (R107). -/
def pavHeld (m : Nat) (s : State) : Bool := decide (m < 64) && s.domainsStopped

/-- A descriptor reads or writes what stands in the array domain: a scratchpad bank or a weight slot. -/
def Desc.inDomain (d : Desc) : Bool :=
  decide (d.srcSp = 1) || decide (d.dstSp = 1) || decide (d.srcSp = 2) || decide (d.dstSp = 2)

/-- A word waits while the array domains stop: a pavilion mover's, and one that a gatehouse mover, which itself goes on, brings to a
bank or takes from it, since the bank holds its state across the stop (R33, R107). DEDUCED: assumption 20. -/
def wordHeld (m : Nat) (d : Desc) (s : State) : Bool := pavHeld m s || (d.inDomain && s.domainsStopped)

/-- A pavilion mover is held in the three ticks of its allotment's plane swap (R143, Table 5-14). -/
def swapHeld (m : Nat) (a : AllotSt) (s : State) : Bool := match a.swapAt with
  | none => false
  | some t => decide (m < 64) && decide (t.toNat ≤ s.now.toNat) && decide (s.now.toNat ≤ t.toNat + 2)

/-- A change to a mover's active descriptor. -/
def modXfer (m : Nat) (f : Xfer → Xfer) (s : State) : State :=
  s.modMover m (fun x => { x with active := x.active.map f })

/-- The mover has moved a word. -/
def movedWord (m : Nat) (held : List Byte) (s : State) : State :=
  (modXfer m (fun t => { t with moved := t.moved + 1, held := held }) s).bump (cMovWords m) 1

/-- The transfer of a word: the allotment, the mover, its active descriptor, what host memory answers, what has happened to words
on the way, and the array cycle of the tick in which a bank's port takes the word. -/
structure Transfer where
  n     : Nat
  a     : AllotSt
  m     : Nat
  t     : Xfer
  host  : List Byte
  path  : List PathNoise
  cycle : BitVec 4

/-- The die a mover's word lies in; host memory is behind the gatehouse of the owner's port, a spoke behind the mover's. -/
def Place.die (x : Transfer) (s : State) : Place → Nat
  | .store st w => s.dieOf st w
  | .slot a _ _ => a / 64
  | .host _ => if x.a.port then 5 else 4
  | _ => (moverDie x.m).toNat

/-- The place that a word of the descriptor's source comes from, and the one that word k of its destination goes to. -/
def Transfer.source (x : Transfer) : Place :=
  placeIn' x.n x.a x.t.desc.srcSp.toNat
    (rowAddr x.t.desc.src.toNat x.t.desc.srcStride.toNat x.t.desc.rowWords.toNat x.t.moved)
def Transfer.dstAddr (x : Transfer) (k : Nat) : Nat :=
  rowAddr x.t.desc.dst.toNat x.t.desc.dstStride.toNat x.t.desc.rowWords.toNat k
def Transfer.place (x : Transfer) (addr : Nat) : Place := placeIn' x.n x.a x.t.desc.dstSp.toNat addr

/-- The path to the mover from a place that it reads, and what has happened to words after the source's path (R95, R184). -/
def Transfer.near (x : Transfer) (from_ : Place) (s : State) : List Nat := [from_.die x s, (moverDie x.m).toNat]
def Transfer.farPath (x : Transfer) (s : State) : List PathNoise := x.path.filter (fun e => !onPath (x.near x.source s) e.port)

/-- The fault of an address outside the allotment's partitions (R106). -/
def Transfer.rangeCode (x : Transfer) : Word := faultCode 0x3 0x003 (moverDetail x.m x.t.index)

/-- A write that fails on the way: the state, or the fault of R87, of R106 or of R187. -/
inductive Put where
  | ok (s : State)
  | conflict (x : Nat)
  | fault (s : State) (code : Word)

/-- A word is written into a weight slot (R82, R87): the slot fills with the tile's last word, and an array that waits for
it switches. A write of another word leaves the slot not full. DESIGN CHOICE: assumption 118. -/
def putSlot (x : Transfer) (a : Nat) (slot : Bool) (off : Nat) (b : List Byte) (s : State) : Put :=
  match x.a.arrayCfg a with
  | none => .conflict a
  | some (c, _) =>
    let r := s.arr a
    let open_ := decide (slot ≠ r.slot) || r.released
    if open_ ∧ off + 32 ≤ 32 * c.tileWords.toNat then
      let s := writeWord 2 (slotAddr a slot off / 32) b s
      let filled := decide (off + 32 = 32 * c.tileWords.toNat)
      .ok (s.modArr a (fun r =>
        let r := r.setFull slot filled
        if filled && r.released && decide (slot ≠ r.slot) then r.switch c.uses.toNat else r))
    else .conflict a

/-- The bytes that a descriptor with a spoke destination sends: its words, less the trailers of COPY_DEC, and with the check words
that COPY_CRC appends. -/
def Desc.sendBytes (d : Desc) : Nat :=
  if d.op = 4 then 32 * (d.rows.toNat * (d.rowWords.toNat - 1))
  else if d.op = 5 ∧ Config.crcAppends d.srcSp d.dstSp then 32 * (d.total + (d.total + 2046) / 2047)
  else 32 * d.total

/-- A word bound for a spoke: a packet leaves for the ring when it is whole (R216). -/
def sendWord (x : Transfer) (b : List Byte) (s : State) : State := match (s.mover x.m).active with
  | none => s
  | some t =>
    let box := t.outbox ++ fit 32 b
    let h := (x.m - 64) / 8
    if box.length = cutLen (packetMax (s.image x.a.image).longMode) (t.desc.sendBytes - t.sent) then
      let p := dataPacket s h x.a.slice (modNum t.desc.coord) (fld t.desc.dst 32 16)
        ((fld t.desc.dst 0 32).toNat + t.sent) none box
      inject (some x.m) h 18 p (modXfer x.m (fun t => { t with outbox := [], sent := t.sent + box.length }) s)
    else modXfer x.m (fun t => { t with outbox := box }) s

/-- A word is written at an address of the destination's space, once it has passed the decoders between the mover and it; k is its
number in the transfer. -/
def putWord (x : Transfer) (k addr : Nat) (b : List Byte) (s : State) : Put :=
  let dst := x.place addr
  let c := carry [(moverDie x.m).toNat, dst.die x s] (x.farPath s) k (fit 32 b) s
  match c.bad, dst with
  | _, .outside => .fault s x.rangeCode
  | some p, _ => .fault c.state (memFault false p)
  | none, .store st w =>
    .ok (if st = 1 then bankWrite (moverRank x.m (bankOf (32 * w))) x.cycle w c.word c.state else writeWord st w c.word c.state)
  | none, .slot a sl off => putSlot x a sl off c.word c.state
  | none, .host h => .ok (c.state.emit (.hostWrite x.a.port (BitVec.ofNat 64 h) c.word))
  | none, .spoke => .ok (sendWord x c.word c.state)

/-- Words written one after another, the first of them word k of the transfer. -/
def putWords (x : Transfer) (k : Nat) (l : List (Nat × List Byte)) (s : State) : Put :=
  l.zipIdx.foldl (fun r (e, i) => match r with
    | .ok s => putWord x (k + i) e.1 e.2 s
    | r => r) (.ok s)

/-- The words of a byte string at rising addresses. -/
def wordList (addr : Nat) (b : List Byte) : List (Nat × List Byte) :=
  (chunks 32 b.length b).zipIdx.map (fun (w, i) => (addr + 32 * i, w))

/-! ### COPY_CRC (R255) -/

/-- One byte into CRC-64/ECMA-182, the most significant bit first: no reflection (R255). -/
def crc64Byte (c : BitVec 64) (x : Byte) : BitVec 64 :=
  (List.range 8).foldl (fun (c : BitVec 64) _ => (c <<< 1) ^^^ (if c.getLsbD 63 then 0x42F0E1EBA9EA3693#64 else 0))
    (c ^^^ (x.setWidth 64 <<< 56))

/-- CRC-64/ECMA-182: initial value 0 and no final XOR (R255). -/
def crc64 (b : List Byte) : BitVec 64 := b.foldl crc64Byte 0

/-- The CRC of bytes that go on from others whose CRC is given. -/
def crc64From (c : BitVec 64) (b : List Byte) : BitVec 64 := b.foldl crc64Byte c

/-- A check word (Table 9-9). -/
def checkWord (crc : BitVec 64) (chunk : Nat) (pos : BitVec 16) : List Byte :=
  bytesOf 8 crc ++ leBytes 2 chunk ++ bytesOf 2 pos ++ List.replicate 20 0

/-! ### Sealed chunks (R349, R350) -/

/-- The key bound to a key slot of an allotment. -/
def AllotSt.slotKey (a : AllotSt) (slot : Byte) : Option KeySlot := a.keys.find? (fun k => decide (k.slot = slot))

/-- The additional data of a COPY_DEC row: KEY_ID, DST_SP, 0 and the address of its first plaintext byte. -/
def decAad (keyId : BitVec 64) (space addr : Nat) : List Byte :=
  bytesOf 8 keyId ++ leBytes 1 space ++ [0] ++ leBytes 6 addr

/-- The plaintext of a sealed chunk, or none where its tag fails. -/
def openChunk (a : AllotSt) (d : Desc) (addr : Nat) (b : List Byte) : Option (List Byte) :=
  let n := b.length - 32
  let body := b.take n
  let trailer := b.drop n
  let k := (a.slotKey d.keySlot).getD ⟨d.keySlot, 0, []⟩
  let nonce := List.replicate 4 0 ++ beBytes 8 (leNat (bytesAt trailer 16 8))
  if beBytes 16 (gcmTag k.key nonce (decAad k.keyId d.dstSp.toNat addr) body).toNat = trailer.take 16 then
    some (gcmCrypt k.key nonce body)
  else none

/-- A sealed row: ciphertext and trailer. -/
def sealRow (key : List Byte) (seq : BitVec 64) (jobId : BitVec 64) (slice : BitVec 12) (b : List Byte) : List Byte :=
  let nonce := [0, 0, 0, 1] ++ beBytes 8 seq.toNat
  let aad := bytesOf 8 jobId ++ leBytes 2 slice.toNat ++ List.replicate 6 0
  let c := gcmCrypt key nonce b
  c ++ beBytes 16 (gcmTag key nonce aad c).toNat ++ bytesOf 8 seq ++ List.replicate 8 0

/-! ### One word (R103, R106) -/

/-- A mover's word as it comes from its source. -/
inductive Got where
  | word (s : State) (b : List Byte)
  | bad (s : State) (code : Word)

/-- A word read at a place for the mover, as word k on the path from there, with its decoders on the way: of a store, or what the host
answers. -/
def fetchWord (x : Transfer) (from_ : Place) (k : Nat) (host : List Byte) (s : State) : Got := match from_ with
  | .store st w =>
    (match readWord st w s with
    | (s, .good b) =>
      let c := carry (x.near from_ s) x.path k b s
      (match c.bad with
      | some p => .bad c.state (memFault false p)
      | none => .word c.state c.word)
    | (s, r) => .bad s (memFault (r == .tagBad) (s.placeOf st w)))
  | .host _ => .word s (fit 32 host)
  | _ => .bad s x.rangeCode

/-- The source word of a transfer. -/
def getWord (x : Transfer) (s : State) : Got :=
  if x.t.desc.op = 2 then .word s (List.replicate 32 0) else fetchWord x x.source x.t.moved x.host s

/-- What the transfer of a word comes to. -/
inductive Step1 where
  | ok (s : State)
  | fault (s : State) (code : Word)
  | conflict (s : State) (x : Nat)

/-- A put as the outcome of a word's transfer. DESIGN CHOICE: assumption 25. -/
def Put.step (s0 : State) (p : Put) (f : State → State) : Step1 := match p with
  | .ok s => .ok (f s)
  | .conflict x => .conflict s0 x
  | .fault s code => .fault s code

/-- REDUCE of one word: destination + source (R73). On its way to the mover the word of the destination has the number of the source
word raised by the words of the transfer. DESIGN CHOICE: assumption 27. -/
def reduceWord (x : Transfer) (b : List Byte) (s : State) : Step1 :=
  let dst := x.dstAddr x.t.moved
  match fetchWord x (x.place dst) (x.t.desc.total + x.t.moved) (x.host.drop 32) s with
  | .bad s code => .fault s code
  | .word s old =>
    let (r, sat) := reduceBytes x.t.desc.fmt.toNat old b
    (putWords x x.t.moved [(dst, r)] s).step s (fun s => movedWord x.m [] (s.bump (s.trnCounter x.n ((x.m - 64) / 8) 7) sat))

/-- The bytes of the row that a word belongs to, so far, and whether it is whole. -/
def Transfer.rowHeld (x : Transfer) (b : List Byte) : List Byte × Bool :=
  (x.t.held ++ b, decide ((x.t.moved + 1) % max 1 x.t.desc.rowWords.toNat = 0))

/-- The number of the row's first word in the transfer, and the destination of the row. -/
def Transfer.rowFirst (x : Transfer) : Nat := x.t.moved + 1 - max 1 x.t.desc.rowWords.toNat

/-- The number of the row that a word belongs to. -/
def Transfer.row (x : Transfer) : Nat := x.t.moved / max 1 x.t.desc.rowWords.toNat
def Transfer.rowDst (x : Transfer) : Nat := x.t.desc.dst.toNat + x.row * x.t.desc.dstStride.toNat

/-- The address of the first plaintext byte of a COPY_DEC row: for a spoke destination, whose rows are sent one after another without
their trailers, the place where the row lands (R349). -/
def Transfer.plainDst (x : Transfer) : Nat :=
  if x.t.desc.dstSp.toNat < 5 then x.rowDst else x.t.desc.dst.toNat + x.row * (x.t.desc.rowWords.toNat - 1) * 32

/-- A word of a COPY_DEC row; with the trailer the whole row is verified and written, or sent (R349). -/
def decWord (x : Transfer) (b : List Byte) (s : State) : Step1 :=
  let (held, whole) := x.rowHeld b
  if whole then
    match openChunk x.a x.t.desc x.plainDst held with
    | none => .fault s (faultCode 0x8 0x001 (moverDetail x.m x.t.index))
    | some p => (putWords x x.rowFirst (wordList x.rowDst p) s).step s (movedWord x.m [])
  else .ok (movedWord x.m held s)

/-- A word of a sealed COPY of a confidential allotment to host memory (R350). -/
def sealWord (x : Transfer) (b : List Byte) (s : State) : Step1 :=
  let (held, whole) := x.rowHeld b
  if whole then
    let row := sealRow x.a.outKey x.a.sealSeq (s.image x.a.image).jobId x.a.slice held
    (putWords x x.rowFirst (wordList x.rowDst row) s).step s
      (fun s => movedWord x.m [] (s.modAllot x.n (fun a => { a with sealSeq := a.sealSeq + 1 })))
  else .ok (movedWord x.m held s)

/-- A check word of a COPY_CRC chunk has failed: the increment is withheld, and CHUNK_BAD counts it (R255). -/
def badChunk (x : Transfer) (s : State) : State :=
  (modXfer x.m (fun t => { t with bad := true }) s).bump (cTrn ((x.m - 64) / 8) 5) 1

/-- A word of COPY_CRC: chunks of 2,047 data words with a check word after each, appended or checked (R255). DESIGN CHOICE:
assumption 25. -/
def crcWord (x : Transfer) (b : List Byte) (s : State) : Step1 :=
  let d := x.t.desc
  let k := x.t.moved
  let last := decide (k + 1 = d.total)
  let held := x.t.held ++ b
  if Config.crcAppends d.srcSp d.dstSp then
    let chunk := k / 2047
    let data := (x.dstAddr (k + chunk), b)
    if decide ((k + 1) % 2047 = 0) || last then
      let check := checkWord (crc64 held) chunk (Config.crcPosition x.m x.t.index.toNat)
      (putWords x k [data, (x.dstAddr (k + chunk + 1), check)] s).step s (movedWord x.m [])
    else (putWords x k [data] s).step s (movedWord x.m held)
  else
    let put := putWords x k [(x.dstAddr k, b)] s
    if decide ((k + 1) % 2048 = 0) || last then
      let good := decide (bytesOf 8 (crc64 x.t.held) ++ leBytes 2 (k / 2048) = b.take 10)
      put.step s (fun s => movedWord x.m [] (if good then s else badChunk x s))
    else put.step s (movedWord x.m held)

/-- The transfer of the next word of a mover's active descriptor (R103). -/
def transferWord (x : Transfer) (s : State) : Step1 :=
  let d := x.t.desc
  let dst := x.dstAddr x.t.moved
  if d.op ≠ 4 ∧ x.place dst = .outside then .fault s x.rangeCode
  else match getWord x s with
    | .bad s code => .fault s code
    | .word s b =>
      if d.op = 3 then reduceWord x b s
      else if d.op = 4 then decWord x b s
      else if d.op = 5 then crcWord x b s
      else if d.dstSp = 3 ∧ (s.image x.a.image).confidential ∧ d.op = 1 then sealWord x b s
      else (putWords x x.t.moved [(dst, b)] s).step s (movedWord x.m [])

/-- The context of SLOT_CONFLICT names the array and, in its detail, the module mover number (Table 14-8). -/
def slotConflict (n m x : Nat) (t : Xfer) (s : State) : State :=
  allotFault n (faultCode 0x3 0x001 (BitVec.ofNat 7 m ++ t.index)) (BitVec.ofNat 3 (x / 64)) (BitVec.ofNat 8 (x % 64))
    (some t.entry) (s.modMover m (fun x => { x with active := none, pending := none, stopped := true }))

/-- A descriptor uses host memory. -/
def Desc.usesHost (d : Desc) : Bool := decide (d.srcSp = 3) || decide (d.dstSp = 3)

/-- A descriptor reads host memory or the staging window: as its source, or as the destination of a REDUCE (R305). -/
def Desc.readsHost (d : Desc) : Bool :=
  let host := fun (sp : BitVec 4) => decide (sp = 3) || decide (sp = 4)
  (decide (d.op ≠ 2) && host d.srcSp) || (decide (d.op = 3) && host d.dstSp)

/-- A mover access to host memory has failed (R305, R327). -/
def hostAccess (n m : Nat) (t : Xfer) (s : State) : State :=
  moverFault n m (faultCode 0x3 0x004 (moverDetail m t.index)) t.entry s

/-- MOVER_WORD_TRANSFER (R103, R106): the next word of the active descriptor is read and written. host is what host memory
holds there, and, in [63:32] bytes of it, at the destination of a REDUCE; word is what has happened to the words read and carried, and
the array cycle of the tick in which a bank takes the word. DESIGN CHOICE: assumption 114. -/
def execMoverWordTransfer (m : MoverIx) (host : List Byte) (word : WordPassage) (s : State) : Res :=
  .next (match s.moverOwner m.val, (s.mover m.val).active with
    | some n, some t => (match s.allot n with
      | none => s
      | some a =>
        if s.clocked && !wordHeld m.val t.desc s && !swapHeld m.val a s && decide (t.moved < t.desc.total) then
          if t.desc.usesHost && !(s.port (portOf a.port)).linkUp then hostAccess n m.val t s
          else match transferWord ⟨n, a, m.val, t, host, word.path, word.cycle⟩ (applyNoise word.noise s) with
            | .ok s => s
            | .fault s code => moverFault n m.val code t.entry s
            | .conflict s x => slotConflict n m.val x t s
        else s)
    | _, _ => s)

/-- The movers of the allotments of a port that use host memory: their accesses through the port fail (R327). -/
def failHostAccesses (p : Port) (s : State) : State :=
  (List.range 80).foldl (fun s m => match s.moverOwner m, (s.mover m).active with
    | some n, some t =>
      if t.desc.usesHost && (match s.allot n with | some a => portOf a.port == p | none => false) then hostAccess n m t s else s
    | _, _ => s) s

/-- HOST_ACCESS_TIMEOUT (R305): a read unanswered for 1 ms, or answered with an error, stops the mover. -/
def execHostAccessTimeout (m : MoverIx) (s : State) : Res :=
  .next (match s.moverOwner m.val, (s.mover m.val).active with
    | some n, some t =>
      if s.clocked && t.desc.readsHost then hostAccess n m.val t s else s
    | _, _ => s)

/-- The allotment of the unit that started a pergola or bridge transfer. -/
def State.sourceOwner (s : State) (u : TransferSource) : Option Nat := match u with
  | .mover m => s.moverOwner m.val
  | .array x => s.groupOwner (x.val / 16)

/-- The die and the detail of a port (Tables 7-5 and 14-8). -/
def portDetail (p : FabricPort) : BitVec 3 × BitVec 16 := match p with
  | .pergola q r => (BitVec.ofNat 3 q.val, BitVec.ofNat 16 (0x5000 + r.toNat))
  | .bridge die i => (BitVec.ofNat 3 die.val, BitVec.ofNat 16 (0x6000 + i.toNat))

/-- The unit that started a transfer stops on an uncorrectable word at a destination port: the mover, or the array whose output it
is (Table 7-4). -/
def sourceFault (n : Nat) (src : TransferSource) (code : Word) (s : State) : State := match src with
  | .mover m => (match (s.mover m.val).active with
    | some t => moverFault n m.val code t.entry s
    | none => s)
  | .array x => allotFault n code (BitVec.ofNat 3 (x.val / 64)) (BitVec.ofNat 8 (x.val % 64)) (s.arr x.val).outEntry
      (s.modArr x.val (fun a => { a with issues := [] }))

/-- PERGOLA_TRANSFER_ARRIVE (R94, R184, R187): a transfer for a destination bound to another slice tag is discarded and recorded, and
the allotment whose tag it carries stops. One that is for its destination is decoded at the port. -/
def execPergolaTransferArrive (at_ : FabricPort) (src : TransferSource) (word : ArrivingWord) (s : State) : Res :=
  .next (match s.sourceOwner src with
    | none => s
    | some n =>
      if !s.clocked then s
      else if s.sliceOf n ≠ word.bound then
        allotFault n (faultCode 0x2 0x002 (portDetail at_).2) (portDetail at_).1 0xFF none s
      else match portDecode at_ word.err [] s with
        | (s, some _) => s
        | (s, none) => sourceFault n src (memFault false (portPlace at_)) s)

/-- The pending descriptor becomes active (R104). -/
def promote (m : Nat) (s : State) : State :=
  s.modMover m (fun x => { x with active := x.pending, pending := none })

/-- DESCRIPTOR_COMPLETE (R105): the last word is registered, or the last packet has left the egress: the increment, the pending
descriptor, and then NEXT; a stopped timetable lets no NEXT start. -/
def execDescriptorComplete (m : MoverIx) (s : State) : Res :=
  .next (match s.moverOwner m.val, (s.mover m.val).active with
    | some n, some t =>
      let held := match s.allot n with
        | none => false
        | some a => swapHeld m.val a s
      if s.clocked && !pavHeld m.val s && !held && decide (t.moved = t.desc.total) && !s.sending m.val then
        let s := (s.modMover m.val (fun x => { x with last := t.index })).bump (cMovDone m.val) 1
        let s := if t.desc.trnEn && !t.bad then
          increment t.desc.trnIdx.toNat t.desc.trnInc.toNat (withDie (modNum s.ownCoord) (moverDie m.val).toNat) s else s
        let s := promote m.val s
        let stopped := match s.allot n with
          | none => true
          | some a => a.stopped
        if t.desc.nextEn && !stopped then startMover n m.val t.desc.next t.entry s else s
      else s
    | _, _ => s)

end Sys2Proof.Machine
end

