-- ==== Sys2Proof/Machine/Collective.lean ====
section
/-! DEFINITION. Collective plans (R249 to R256): the start of a plan, the sends and copies of a segment, its completion
step and its reduction. -/

namespace Sys2Proof.Machine

/-- TT_COLLECTIVE: a plan starts. -/
def execTtCollective (a : Allot) (s : State) : Res :=
  .next (fire a.val (fun d s => match d.kind with
    | .collective plan => some (s.modAllot a.val (fun al =>
        { al with plans := al.plans.filter (fun p => decide (p.plan ≠ plan)) ++ [{ plan := plan, at_ := s.now, entry := d.entry }] }))
    | _ => none) s)

/-- The running plan of a number. -/
def AllotSt.planRun (a : AllotSt) (plan : Nat) : Option PlanRun := a.plans.find? (fun p => decide (p.plan.toNat = plan))

/-- A change to the running plan of a number. -/
def modPlan (n plan : Nat) (f : PlanRun → PlanRun) (s : State) : State :=
  s.modAllot n (fun a => { a with plans := a.plans.map (fun p => if p.plan.toNat = plan then f p else p) })

/-- A staging buffer of an allotment by its number. -/
def State.buffer (s : State) (a : AllotSt) (id : BitVec 16) : Option StagingBuf :=
  (s.image a.image).staging.find? (fun b => decide (b.id = id) && decide (b.allot = a.localIx))

/-- The store and the first byte of a buffer (R129). -/
def bufPlace (b : StagingBuf) : Nat × Nat := match b.pool.toNat with
  | 0 => (3, stageAddr 0 b.addr.toNat)
  | 1 => (3, stageAddr 1 b.addr.toNat)
  | 2 => (1, b.addr.toNat)
  | _ => (0, b.addr.toNat)

/-- A word of a store on its way to a gatehouse, as word k of its path: the word, or the code of the fault that it is (R184, R187). -/
def ghWord (gh : Nat) (path : List PathNoise) (k st w : Nat) (s : State) : State × Except Word (List Byte) :=
  match readWord st w s with
  | (s, .good b) =>
    let c := carry [s.dieOf st w, 4 + gh] path k b s
    (c.state, match c.bad with
      | some p => .error (memFault false p)
      | none => .ok c.word)
  | (s, r) => (s, .error (memFault (r == .tagBad) (s.placeOf st w)))

/-- Bytes of a buffer as a gatehouse reads them, whole words, the first of them word k of its path: those before the first word that
is uncorrectable, and the code of its fault. -/
def readBuf (gh : Nat) (path : List PathNoise) (k : Nat) (a : AllotSt) (id : BitVec 16) (off n : Nat) (s : State) :
    State × List Byte × Option Word :=
  match s.buffer a id with
  | none => (s, List.replicate n 0, none)
  | some b =>
    let (st, base) := bufPlace b
    let (s, l, bad) := (wordsOf (base + off) n).zipIdx.foldl (fun (s, l, bad) (w, i) => match bad with
      | some c => (s, l, some c)
      | none => (match ghWord gh path (k + i) st w s with
        | (s, .ok b) => (s, l ++ b, none)
        | (s, .error c) => (s, l, some c))) (s, [], none)
    (s, l.take n, bad)

/-- Bytes that a gatehouse writes to a buffer, whole words, the first of them word k of its path: up to the first that is
uncorrectable at a port, and the port's place. -/
def writeBuf (gh : Nat) (path : List PathNoise) (k : Nat) (a : AllotSt) (id : BitVec 16) (off : Nat) (l : List Byte) (s : State) :
    State × Option (Nat × Nat) :=
  match s.buffer a id with
  | none => (s, none)
  | some b =>
    let (st, base) := bufPlace b
    (chunks 32 l.length l).zipIdx.foldl (fun (s, bad) (b, i) => match bad with
      | some p => (s, some p)
      | none =>
        let w := (base + off) / 32 + i
        let c := carry [4 + gh, s.dieOf st w] path (k + i) (fit 32 b) s
        (match c.bad with
        | some p => (c.state, some p)
        | none => (hubWrite st w c.word c.state, none))) (s, none)

/-- The engine or reducer of a stage has met an uncorrectable word: the plan halts, the record names the COLLECTIVE entry, the
allotment's timetable stops (R187). DEDUCED: assumption 32. -/
def planFault (n plan : Nat) (gh : Nat) (entry : BitVec 24) (code : Word) (s : State) : State :=
  allotFault n code (BitVec.ofNat 3 (4 + gh)) 0xFF (some entry) (modPlan n plan (fun p => { p with halted := true }) s)

/-- The turnstile of a segment of a stage, and the gatehouse that holds it, whose reducer serves the segment (R256). -/
def segTrn (i : StageInfo) (seg : Nat) : Nat := i.stage.trn.toNat + seg
def segGh (i : StageInfo) (seg : Nat) : Nat := segTrn i seg / 4096

/-- A contribution in its slot: with CHECK set every chunk is followed by its check word (R254). -/
def slotBytesOf (check : Bool) (pos : Nat) (b : List Byte) : List Byte :=
  if check then
    ((chunks 65504 b.length b).zipIdx.map (fun (c, k) => c ++ checkWord (crc64 c) k (BitVec.ofNat 16 pos))).flatten
  else b

/-- The runs that a contribution is cut from: chunks with their check words, or the whole. -/
def sendRuns (check : Bool) (slot : List Byte) : List (List Byte) := if check then chunks 65536 slot.length slot else [slot]

/-- The gatehouse whose engine sends to a module, from the egress spokes that the tables of gatehouses 0 and 1 name: the one that holds
the spoke its own table names (R254). DEDUCED: assumptions 31, 32. -/
def pickGh (e f : Option Nat) (other : Nat) : Nat :=
  if e.any (fun k => decide (k < 18)) then 0 else if f.any (fun k => decide (18 ≤ k)) then 1 else other

/-- The gatehouse whose engine sends to a module by the current routing tables. -/
def senderGh (slice : BitVec 12) (dst : BitVec 15) (other : Nat) (s : State) : Nat :=
  pickGh ((s.route 0 s.version slice dst).map (·.toNat)) ((s.route 1 s.version slice dst).map (·.toNat)) other

/-- A run of bytes sent to a member as data packets from byte off of its buffer on, those that are whole before byte stop of the run;
the last carries the increment. -/
def sendRun (h : Nat) (long : Bool) (slice : BitVec 12) (dst : BitVec 15) (buf : BitVec 16) (off : Nat) (trn : BitVec 13)
    (stop : Nat) (run : List Byte) (s : State) : State :=
  ((cuts (packetMax long) run.length).filter (fun c => decide (c.1 + c.2 ≤ stop))).foldl (fun s (o, n) =>
    let last := decide (o + n = run.length)
    inject none h 19 (dataPacket s h slice dst buf (off + o) (if last then some trn else none) (bytesAt run o n)) s) s

/-- Where in a segment's input the contribution to position k of a stage begins: the whole goes to every position, or share k to
position k (Table 9-8). -/
def shareOff (i : StageInfo) (k : Nat) : Nat := if i.stage.method = 1 ∨ i.stage.method = 3 then k * i.contribution else 0

/-- The byte of a slot at which byte o of a contribution stands. -/
def slotPos (check : Bool) (o : Nat) : Nat := if check then o + 32 * (o / 65504) else o

/-- The gatehouse whose engine reads the input for position k of a stage: the one that holds the egress spoke of its member, and for
the own contribution the one that holds the segment's turnstile (R254). DEDUCED: assumption 32. -/
def engineOf (a : AllotSt) (i : StageInfo) (seg own k : Nat) (s : State) : Nat :=
  if k = own then segGh i seg else senderGh a.slice (modNum (i.group.getD k 0)) (segGh i seg) s

/-- A segment that is sent: the allotment and its number, the plan, the stage, the segment, the member's own position, the input buffer,
the COLLECTIVE entry, and what happens to the words on the way. -/
structure SegSend where
  n     : Nat
  a     : AllotSt
  plan  : Nat
  i     : StageInfo
  seg   : Nat
  own   : Nat
  input : BitVec 16
  entry : BitVec 24
  path  : List PathNoise

/-- The positions that the engine of gatehouse h serves: the own contribution first, which is copied in the tick in which the sends
begin, then those it sends, in ascending position (R251, R254). DEDUCED: assumption 32. -/
def SegSend.work (x : SegSend) (h : Nat) (s : State) : List Nat :=
  let of := fun (k : Nat) => decide (engineOf x.a x.i x.seg x.own k s = h)
  (if of x.own then [x.own] else []) ++ (List.range x.i.n).filter (fun k => decide (k ≠ x.own) && of k)

/-- The contribution to position k: read, and copied or sent up to the first word that is uncorrectable; the code of its fault (R187). On
their ways the words of the input have the numbers from k times the input's words on, and those of the copy come after all of them. -/
def SegSend.share (x : SegSend) (h k : Nat) (s : State) : State × Option Word :=
  let i := x.i
  let words := i.size / 32
  let off := x.seg * i.slotLen
  let buf := i.stage.recvBuf + BitVec.ofNat 16 x.own
  let (s, b, bad) := readBuf h x.path (k * words + shareOff i k / 32) x.a x.input (x.seg * i.size + shareOff i k) i.contribution s
  let slot := slotBytesOf i.stage.check x.own (fit i.contribution b)
  let stop := if bad.isSome then slotPos i.stage.check b.length else slot.length
  if k = x.own then
    match writeBuf h x.path (i.n * words) x.a buf off (slot.take stop) s with
    | (s, some p) => (s, some (memFault false p))
    | (s, none) => (s, bad)
  else
    let trn := fld (i.stage.trn + BitVec.ofNat 16 x.seg) 0 13
    ((sendRuns i.stage.check slot).zipIdx.foldl (fun s (run, j) =>
      sendRun h (s.image x.a.image).longMode x.a.slice (modNum (i.group.getD k 0)) buf (off + 65536 * j) trn (stop - 65536 * j) run s) s,
      bad)

/-- The copies and sends of one engine, up to the first word that stops it (R187). -/
def SegSend.engine (x : SegSend) (s : State) (h : Nat) : State :=
  match (x.work h s).foldl (fun (s, bad) k => match bad with
    | some c => (s, some c)
    | none => x.share h k s) (s, none) with
  | (s, some code) => planFault x.n x.plan h x.entry code s
  | (s, none) => s

/-- The sends and the copy of a segment of a stage, by the engines of both gatehouses: what one meets does not stop the other (R251,
R254). -/
def sendSegment (x : SegSend) (s : State) : State := [0, 1].foldl x.engine s

/-- The buffer that holds a stage's input: IN_BUF, or OUT_BUF of the stage before it (R252). -/
def inputBuf (pl : Plan) (l : List StageInfo) (k : Nat) : BitVec 16 :=
  if k = 0 then pl.inBuf else match l[k - 1]? with
    | some i => i.stage.outBuf
    | none => pl.inBuf

/-- SEGMENT_SEND_START (R251, R254): in its tick the segment's own contribution is copied and the others' sends begin. -/
def execSegmentSendStart (a : Allot) (plan : Fin 256) (stage : Fin 4) (seg : Fin 256) (way : Passage) (s : State) : Res :=
  .next (match s.allot a.val with
    | none => s
    | some al => match al.planRun plan.val, (s.image al.image).plans[plan.val]?, (s.planInfo al plan.val)[stage.val]? with
      | some r, some pl, some i =>
        let due := later (i.stage.start + seg.val * i.stage.period) r.at_
        if s.timed && !s.hold.hold && !al.stopped && !r.halted && decide (seg.val < pl.segments)
            && decide (i.stage.level ≠ 0) && decide (s.now = due) then
          match posOf i.group i.stage.level.toNat (s.image al.image).coord with
          | none => s
          | some own =>
            let input := inputBuf pl (s.planInfo al plan.val) stage.val
            modPlan a.val plan.val (fun p => { p with sent := p.sent ++ [(stage.val, seg.val)] })
              (sendSegment ⟨a.val, al, plan.val, i, seg.val, own, input, r.entry, way.path⟩ (applyNoise way.noise s))
        else s
      | _, _, _ => s)

/-- The data of a slot without its check words. -/
def slotData (check : Bool) (b : List Byte) : List Byte :=
  if check then ((chunks 65536 b.length b).map (fun c => c.take (c.length - 32))).flatten else b

/-- The slots of a segment read in position order by the reducer of gatehouse h, without check words; or the code of the word that stops
it. On their ways the words of the slots are numbered on from slot to slot. -/
def readSlots (h : Nat) (path : List PathNoise) (a : AllotSt) (i : StageInfo) (seg : Nat) (s : State) :
    State × List (List Byte) × Option Word :=
  (List.range i.n).foldl (fun (s, acc, bad) k => match bad with
    | some c => (s, acc, some c)
    | none => (match readBuf h path (k * (i.slotLen / 32)) a (i.stage.recvBuf + BitVec.ofNat 16 k) (seg * i.slotLen) i.slotLen s with
      | (s, b, none) => (s, acc ++ [slotData i.stage.check b], none)
      | (s, _, bad) => (s, acc, bad))) (s, [], none)

/-- The slots added in position order, none from +0.0 (R253), with the saturations. -/
def sumSlots (fmt : Nat) (l : List (List Byte)) : List Byte × Nat := match l with
  | [] => ([], 0)
  | x :: t => t.foldl (fun (acc, k) y =>
    let (r, n) := reduceBytes fmt acc y
    (r, k + n)) (x, 0)

/-- The ticks from the deadline to the registration of a reduced output (R256). -/
def reduceTicks (s : State) (a : AllotSt) (i : StageInfo) (seg : Nat) : Nat :=
  let gh := segGh i seg
  let d := match s.buffer a i.stage.outBuf with
    | some b => if b.pool.toNat = gh then 0 else if b.pool.toNat < 2 then 2 else 3
    | none => 0
  ((i.contribution + 511) / 512 + 16 + 15) / 16 + d

/-- SEGMENT_COMPLETION_STEP (R256): in the tick after the deadline, with the turnstile DONE, the reducer reads the slots, or
a gathered output is valid. -/
def execSegmentCompletionStep (a : Allot) (plan : Fin 256) (stage : Fin 4) (seg : Fin 256) (way : Passage)
    (s : State) : Res :=
  .next (match s.allot a.val with
    | none => s
    | some al => match al.planRun plan.val, (s.image al.image).plans[plan.val]?, (s.planInfo al plan.val)[stage.val]? with
      | some r, some pl, some i =>
        let t := s.trn (segTrn i seg.val)
        let gh := segGh i seg.val
        if s.timed && !al.stopped && !r.halted && decide (seg.val < pl.segments) && decide (t.st = 2)
            && decide (s.now = later 1 t.deadline)
            && (!s.hold.hold || decide (t.deadline.toNat < s.hold.at_.toNat)) then
          if i.stage.method.toNat < 2 then
            match readSlots gh way.path al i seg.val (applyNoise way.noise s) with
            | (s, _, some code) => planFault a.val plan.val gh r.entry code s
            | (s, l, none) =>
              let (sum, sat) := sumSlots pl.fmt.toNat l
              let end_ := later (reduceTicks s al i seg.val) t.deadline
              modPlan a.val plan.val (fun p => { p with reduces := p.reduces ++ [(stage.val, seg.val, end_, sum)] })
                (s.bump (s.trnCounter a.val gh 7) sat)
          else modPlan a.val plan.val (fun p => { p with done := p.done ++ [(stage.val, seg.val)] }) s
        else s
      | _, _, _ => s)

/-- The plan's reduction of a segment has ended. -/
def PlanRun.reduced (stage seg : Nat) (p : PlanRun) : PlanRun :=
  { p with reduces := p.reduces.filter (fun x => !(decide (x.1 = stage) && decide (x.2.1 = seg))) }

/-- SEGMENT_REDUCTION_DONE (R256): the output's last word is registered. A word that is uncorrectable at a port on the way stops the
reducer there (R187). -/
def execSegmentReductionDone (a : Allot) (plan : Fin 256) (stage : Fin 4) (out : SegmentOut) (s : State) : Res :=
  let seg := out.seg
  .next (match s.allot a.val with
    | none => s
    | some al => match al.planRun plan.val, (s.planInfo al plan.val)[stage.val]? with
      | some r, some i =>
        (match r.reduces.find? (fun x => decide (x.1 = stage.val) && decide (x.2.1 = seg.val)) with
        | none => s
        | some (_, _, end_, sum) =>
          if s.timed && decide (s.now = end_) then
            let gh := segGh i seg.val
            match writeBuf gh out.path 0 al i.stage.outBuf (seg.val * i.outLen) sum s with
            | (s, some p) => planFault a.val plan.val gh r.entry (memFault false p)
                (modPlan a.val plan.val (PlanRun.reduced stage.val seg.val) s)
            | (s, none) => modPlan a.val plan.val (fun p =>
                let p := p.reduced stage.val seg.val
                { p with done := p.done ++ [(stage.val, seg.val)] }) (s.bump (s.trnCounter a.val gh 6) 1)
          else s)
      | _, _ => s)

end Sys2Proof.Machine
end

