-- ==== Sys2Proof/Machine/Gears.lean ====
section
/-! DEFINITION. The array-domain PLLs, the lock check and the shift (R32 to R34, R268 to R270). The roll call stands in
Machine/RollCall.lean. -/

namespace Sys2Proof.Machine

/-- VCORE of a pavilion at a time, in mV (R268): 5 mV/µs are 0.08 mV a tick. DEDUCED: assumption 116. -/
def coreLevel (w : Slew) (now : Time) : Rat :=
  let moved : Rat := ((now.toNat - w.at_.toNat : Nat) : Rat) * (8 / 100)
  if w.fromMv ≤ w.toMv then min w.toMv (w.fromMv + moved) else max w.toMv (w.fromMv - moved)

/-- VCORE of a pavilion is set on its way to a level from tick t on; after a trip its regulator stays open (R295). DEDUCED: assumption
116. -/
def slewTo (p : Nat) (mv : Rat) (t : Time) (s : State) : State :=
  if s.thm.trip then s else { s with gear := { s.gear with slews := smod {} s.gear.slews p (fun w => ⟨coreLevel w s.now, mv, t⟩) } }

/-- IDLE_PLL_LOCK (R32, R268): the idle PLL of a pavilion locks at the ratio it was programmed to, and where an upshift is
due its VCORE slews from the next tick on. -/
def execIdlePllLock (p : Pav) (s : State) : Res :=
  .next (if s.clocked && decide (s.gear.programmed ≠ 0) && !(s.pll p.val).idleLock then
    let s := s.modPll p.val (fun x => { x with idleLock := true })
    if s.gear.shiftDue && decide (s.gear.gear.toNat < s.gear.programmed.toNat) then
      slewTo p.val (coreMv s.gear.programmed.toNat) (later 1 s.now) s
    else s
   else s)

/-- The lowest pavilion whose idle PLL is not locked. -/
def State.unlocked (s : State) : Option Nat := (List.range 4).find? (fun p => !(s.pll p).idleLock)

/-- PLL_LOCK_CHECK (R34): at tick 32767, with a shift due, an unlocked idle PLL cancels the switch, and the fault record
names the pavilion. The timetables stop at the shift point (shiftPoint). How long ALERT_N stays low the spec does not say:
until module reset. DESIGN CHOICE: assumption 118. -/
def execPllLockCheck (s : State) : Res :=
  .next (if s.ctl && s.atTick 32767 && s.gear.shiftDue then
    match s.unlocked with
    | none => s
    | some p =>
      writeFault (faultCode 0x1 0x001 (BitVec.ofNat 16 p)) 0 7 0xFF none
        { s with gear := { s.gear with shiftDue := false, lockFailed := some (BitVec.ofNat 2 p), pllFault := true } }
   else s)

/-- At the shift point, once tick 00000 has shown whether a hold begins, a failed lock check stops every timetable (R34); a lap
in which R170 lets no shift take place has no shift point. -/
def shiftPoint (s : State) : State :=
  if s.gear.lockFailed.isSome && s.clear then
    stopAll { s with gear := { s.gear with lockFailed := none } }
  else s

/-- After an upshift the ramp levels at 16 restart at 14 (R269). -/
def fillRestart (s : State) : State :=
  { s with ramps := smapD {} (fun r => if r.level = 16 then { r with level := 14, recover := decide (r.target = 16) } else r) s.ramps }

/-- The shift itself: every pavilion changes to its other PLL, which becomes the active one (R33, R270). DEDUCED: assumption
20. -/
def shiftGear (s : State) : State :=
  let old := s.gear.gear
  let new := s.gear.programmed
  let flip := fun (s : State) p => s.modPll p (fun x =>
    { active := !x.active, activeLock := x.idleLock, idleLock := x.activeLock, ratio := BitVec.ofNat 5 (cptOf old.toNat) })
  let s := (List.range 4).foldl flip s
  let s := { s with gear := { s.gear with gear := new, programmed := old, shiftDue := false },
                    acc := { s.acc with shifted := true } }
  let s := if old.toNat < new.toNat then fillRestart s
    else (List.range 4).foldl (fun s p => slewTo p (coreMv new.toNat) s.now s) s
  queueEvent 0x0007 0 (BitVec.ofNat 32 (16 * old.toNat + new.toNat)) 0 s

/-- GEAR_SHIFT (R33, R170, R269, R270): the domains stop in ticks 00001 to 00003 and restart at the new gear in tick 00004,
in which GEAR and CPT change; a hold, or H not 0, lets the shift wait. -/
def execGearShift (s : State) : Res :=
  .next (if s.shiftNow then shiftGear s else s)

end Sys2Proof.Machine
end

