-- ==== Sys2Proof/Machine/RollCall.lean ====
section
/-! DEFINITION. The roll call (R281 to R284). -/

namespace Sys2Proof.Machine

/-- A peloton of which the module is part: job slice, membership, variant, own rank. -/
structure Peloton where
  slice   : BitVec 12
  roster  : List (BitVec 18)
  variant : BitVec 8
  rank    : Nat

/-- The pelotons of more than one member, by their images; the membership is that of the running or last run of the
layout-local allotment 0 (R281). A message, and a decision, is held to the membership in force in its own tick, also where another
REGROUP has taken effect since the roll call's sample: DESIGN CHOICE: assumption 123. -/
def State.pelotons (s : State) : List Peloton :=
  (s.images.filter (fun e => decide (1 < e.2.members))).filterMap (fun (k, im) =>
    ((s.allots.find? (fun e => decide (e.2.image = k) && decide (e.2.localIx = 0))).map (fun e =>
      let roster := im.rosters.getD e.2.variant.toNat []
      { slice := im.jobSlice, roster := roster, variant := e.2.variant
        rank := (posOf roster 7 s.ownCoord).getD im.rank })))

/-- The payload of a ROLL_CALL packet (Table 10-5). -/
def rollPayload (s : State) (p : Peloton) : List Byte :=
  bytesOf 4 (s.cad.lap.setWidth 32) ++ leBytes 2 p.rank ++ [s.pwr.permitted.setWidth 8] ++
  [(ofBit 1 s.hold.hold ++ ofBit 1 s.thm.leak ++ ofBit 1 s.pwr.capUnmet : BitVec 3).setWidth 8] ++ [p.variant] ++
  List.replicate 23 0

/-- A control packet of this module: type, slice, destination with its die, payload (R217). -/
def controlPacket (s : State) (h : Nat) (ctype : BitVec 16) (slice : BitVec 12) (dst : BitVec 18) (payload : List Byte) :
    Packet :=
  { cls := 2, ver := s.version, long := false, trnEn := false, key := false, slice := slice, hops := 0, words := 1,
    rsv1 := false, trnIdx := 0, dst := dst, rsv2 := 0, src := withDie (modNum s.ownCoord) (4 + h), buf := ctype,
    trnInc := 0, offset := 0, tag := 0, payload := payload }

/-- The gatehouse of the active power controller. DEDUCED: assumption 31. -/
def State.powerGh (s : State) : Nat := if s.lodge.actPower then 1 else 0

/-- The ROLL_CALL packets of a peloton, one for every other member in ascending rank, queued from the next tick on. -/
def sendRollCall (p : Peloton) (s : State) : State :=
  p.roster.zipIdx.foldl (fun s (c, r) =>
    if r = p.rank then s
    else injectAt none (later 1 s.now) s.powerGh 19 (controlPacket s s.powerGh 0x0001 p.slice (withDie (modNum c) 7) (rollPayload s p)) s) s

/-- ROLL_CALL_SAMPLE (R281): at the roll-call tick 65472 the permitted gear is sampled, and the messages are queued from tick 65473
on. -/
def execRollCallSample (s : State) : Res :=
  .next (if s.ctl && s.atTick 65472 then
    let s := { s with gear := { s.gear with sampled := s.pwr.permitted, sampledLap := some s.cad.lap, msgs := [] } }
    s.pelotons.foldl (fun s p => sendRollCall p s) s
   else s)

/-- The deadline of the roll call of lap N is the end of tick 16383 of lap N + 1 (R281). -/
def rollOpen (s : State) : Bool := match s.gear.sampledLap with
  | none => false
  | some n => decide (s.now.toNat < timeNat (n.toNat + 1) 16384)

/-- A ROLL_CALL message is registered: counted, or ignored and counted so (R282). -/
def rollReceive (slice : BitVec 12) (src : BitVec 18) (payload : List Byte) (s : State) : State :=
  let lap := le 32 payload 0 4
  let rank := leNat (bytesAt payload 4 2)
  let good := match s.pelotons.find? (fun p => decide (p.slice = slice)), s.gear.sampledLap with
    | some p, some n => rollOpen s && decide (lap = n.setWidth 32) && decide (byteAt payload 8 = p.variant)
        && decide (posOf p.roster 7 src = some rank)
    | _, _ => false
  if good then
    { s with gear := { s.gear with msgs := s.gear.msgs ++ [⟨slice, BitVec.ofNat 16 rank, fld (byteAt payload 6) 0 3⟩] } }
  else { s with gear := { s.gear with ignored := s.gear.ignored + 1 } }

/-- The lowest rank of a peloton with no counted message, where one is missing. -/
def missingRank (s : State) (p : Peloton) : Option Nat :=
  (List.range p.roster.length).find? (fun r => decide (r ≠ p.rank)
    && !s.gear.msgs.any (fun m => decide (m.slice = p.slice) && decide (m.rank.toNat = r)))

/-- The gear that one peloton's roll call comes to (R282). -/
def pelotonGear (s : State) (p : Peloton) : Nat :=
  let g := (s.gear.msgs.filter (fun m => decide (m.slice = p.slice))).foldl (fun g m => min g m.gear.toNat) s.gear.sampled.toNat
  let c := s.gear.gear.toNat
  if (missingRank s p).isSome then min g c else if c < g then nextAbove s.offered c else g

/-- The gear of a module that has no peloton (R282). -/
def aloneGear (s : State) : Nat :=
  if s.gear.gear.toNat < s.gear.sampled.toNat then nextAbove s.offered s.gear.gear.toNat else s.gear.sampled.toNat

/-- The incomplete peloton whose job slice is lowest, with its missing rank. -/
def firstIncomplete (s : State) : Option (BitVec 12 × Nat) :=
  s.pelotons.foldl (fun best p => match missingRank s p, best with
    | none, b => b
    | some r, none => some (p.slice, r)
    | some r, some (sl, q) => if p.slice.toNat < sl.toNat then some (p.slice, r) else some (sl, q)) none

/-- DECIDED of the roll calls of a lap. -/
def decideGear (s : State) : Nat :=
  let g := match s.pelotons with
    | [] => aloneGear s
    | p :: t => t.foldl (fun g p => min g (pelotonGear s p)) (pelotonGear s p)
  offeredAtMost s.offered g

/-- The idle PLLs are programmed for a gear, which unlocks them; those that are programmed for it already stay as they are
(R283). An upshift whose PLL is locked slews VCORE at once (R268). -/
def programIdle (g : Nat) (s : State) : State :=
  let up := decide (s.gear.gear.toNat < g)
  let s := if s.gear.programmed.toNat = g then s
    else { (List.range 4).foldl (fun s p => s.modPll p (fun x =>
        { x with idleLock := false, ratio := BitVec.ofNat 5 (cptOf g) })) s with
        gear := { s.gear with programmed := BitVec.ofNat 3 g } }
  (List.range 4).foldl (fun s p =>
    if up && (s.pll p).idleLock then slewTo p (coreMv g) (later 1 s.now) s else s)
    { s with gear := { s.gear with shiftDue := true } }

/-- VCORE returns to the level of the gear in force where a later decision cancels an upshift (R268). DEDUCED: assumption
116. -/
def slewBack (s : State) : State :=
  (List.range 4).foldl (fun s p =>
    if (coreMv s.gear.gear.toNat : Rat) < (sget {} s.gear.slews p).toMv then slewTo p (coreMv s.gear.gear.toNat) s.now s else s) s

/-- The decision of R282 and what follows from it. -/
def takeDecision (lap : BitVec 40) (s : State) : State :=
  let g := decideGear s
  let inc := firstIncomplete s
  let counted := s.gear.msgs.length
  let s := { s with gear := { s.gear with
    decided := BitVec.ofNat 3 g, rcLap := lap.setWidth 32, rcIncomplete := inc.isSome
    rcMissRank := match inc with | some (_, r) => BitVec.ofNat 11 r | none => 0x7FF
    rcJob := inc.map (·.1), rcIgnored := BitVec.ofNat 5 (min 31 s.gear.ignored)
    rcReceived := BitVec.ofNat 11 (min 2047 counted), msgs := [], ignored := 0 } }
  let s := if g ≤ s.gear.gear.toNat then slewBack s else s
  if g = s.gear.gear.toNat then { s with gear := { s.gear with shiftDue := false } } else programIdle g s

/-- ROLL_CALL_DECISION (R282, R283): at tick 16384, of the roll call of the lap before. -/
def execRollCallDecision (s : State) : Res :=
  .next (if s.ctl && s.atTick 16384 && decide (s.boot.step = 8)
      && decide (s.gear.sampledLap = some (s.cad.lap - 1)) then takeDecision (s.cad.lap - 1) s else s)

end Sys2Proof.Machine
end

