-- ==== Sys2Proof/Machine/Packets.lean ====
section
/-! DEFINITION. Packets on spokes and rings (R214 to R235): egress, transit ring, receive checks, delivery, spoiled marks,
credits, link encryption. -/

namespace Sys2Proof.Machine

/-! ### Link encryption (R232, R341) -/

/-- The authenticated header bytes of a packet (Table 8-7). -/
def headerBytes (p : Packet) : List Byte :=
  let d0 : BitVec 32 := p.cls ++ ofBit 1 p.ver ++ ofBit 1 p.long ++ ofBit 1 p.trnEn ++ ofBit 1 p.key ++ p.slice ++ p.hops ++ p.words
  let d1 : BitVec 32 := ofBit 1 p.rsv1 ++ p.trnIdx ++ p.dst
  let d2 : BitVec 32 := p.rsv2 ++ p.src
  bytesOf 4 d0 ++ bytesOf 4 d1 ++ bytesOf 4 d2 ++ bytesOf 2 p.trnInc ++ bytesOf 2 p.buf ++ bytesOf 4 p.offset

/-- The coordinate of a spoke's gatehouse at this end, and the far end's as its record gives it. -/
def State.nearCoord (s : State) (k : Nat) : BitVec 18 := withDie (modNum s.ownCoord) (4 + k / 18)
def SpokeSt.farCoord (x : SpokeSt) : BitVec 18 := fld (le 32 x.far 4 4) 0 18
def SpokeSt.farSpoke (x : SpokeSt) : Nat := (byteAt x.far 2).toNat

/-- This end is lo: coordinate × 64 + spoke is the lower (R340). -/
def State.isLo (s : State) (k : Nat) : Bool :=
  decide ((s.nearCoord k).toNat * 64 + k < (s.spk k).farCoord.toNat * 64 + (s.spk k).farSpoke)

/-- The key and salt of an epoch and direction (R341): dir 0 is lo to hi. -/
def linkKeyOf (ls : List Byte) (dir : Nat) (epoch : Word) : List Byte :=
  hkdfExpand ls (label "H4 link key" ++ leBytes 1 dir ++ bytesOf 4 epoch) 36

/-- The direction number of what this end sends. -/
def State.sendDir (s : State) (k : Nat) : Nat := if s.isLo k then 0 else 1

/-- The nonce: salt and the count of packets under the key. DEDUCED: assumption 7. -/
def linkNonce (key : List Byte) (count : BitVec 64) : List Byte := key.drop 32 ++ bytesOf 8 count

/-- TAG of a packet under a key and nonce (R232): the first 96 bits of the GCM tag over header and ciphertext, as the bytes
0x14 to 0x1F of the header. DEDUCED: assumption 7. -/
def packetTag (key nonce : List Byte) (p : Packet) (cipher : List Byte) : BitVec 96 :=
  le 96 (beBytes 16 (gcmTag (key.take 32) nonce (headerBytes p) cipher).toNat) 0 12

/-- A packet as it leaves a keyed spoke (R232). -/
def sealPacket (k : Nat) (s : State) (p : Packet) : Packet :=
  let x := s.spk k
  if x.keyed then
    let key := linkKeyOf x.key.ls (s.sendDir k) x.key.txEpoch
    let p := { p with key := x.key.txEpoch.getLsbD 0 }
    let nonce := linkNonce key x.key.txCount
    let c := gcmCrypt (key.take 32) nonce p.payload
    { p with payload := c, tag := packetTag key nonce p c }
  else { p with key := false, tag := 0 }

/-- The epoch and the count under which a received packet stands: the receiver's, or the next one's. DEDUCED: assumption
34. -/
def rxUnder (x : SpokeSt) (p : Packet) : Word × BitVec 64 :=
  if p.key = x.key.rxEpoch.getLsbD 0 then (x.key.rxEpoch, x.key.rxCount) else (x.key.rxEpoch + 1, x.key.rxNext)

/-- The key of the epoch under which a received packet stands exists: the next one's is derived after the latest change (R341). -/
def rxKeyHeld (x : SpokeSt) (p : Packet) : Bool := decide (p.key = x.key.rxEpoch.getLsbD 0) || x.key.rxDerived

/-- A received packet with its payload decrypted, or none where its tag fails (R228). -/
def openPacket (k : Nat) (s : State) (p : Packet) : Option Packet :=
  let x := s.spk k
  if x.keyed then
    let (epoch, count) := rxUnder x p
    let key := linkKeyOf x.key.ls (1 - s.sendDir k) epoch
    let nonce := linkNonce key count
    if rxKeyHeld x p && decide (packetTag key nonce p p.payload = p.tag) then
      some { p with payload := gcmCrypt (key.take 32) nonce p.payload }
    else none
  else some p

/-- Every received packet is counted under its key (R232). -/
def countRx (p : Packet) (x : SpokeSt) : SpokeSt :=
  if x.keyed then
    if p.key = x.key.rxEpoch.getLsbD 0 then { x with key := { x.key with rxCount := x.key.rxCount + 1 } }
    else { x with key := { x.key with rxNext := x.key.rxNext + 1 } }
  else x

/-- The receiver that accepts a packet under epoch e + 1 discards the key of epoch e (R341). -/
def advanceRx (p : Packet) (x : SpokeSt) : SpokeSt :=
  if x.keyed && decide (p.key ≠ x.key.rxEpoch.getLsbD 0) then
    { x with key := { x.key with rxEpoch := x.key.rxEpoch + 1, rxCount := x.key.rxNext, rxNext := 0, rxDerived := false } }
  else x

/-! ### Credits, egress and the fall of a spoke -/

/-- The link word that returns one credit of a class (R202, R222). -/
def creditWord (cls : Nat) (epoch : Bool) : LinkWord := match cls with
  | 0 => { ret0 := 1, epoch := epoch }
  | 1 => { ret1 := 1, epoch := epoch }
  | _ => { ret2 := 1, epoch := epoch }

/-- A control buffer that a packet occupied is free, and its credit returns (R222). DEDUCED: assumption 33. -/
def giveBack (q : Queued) (s : State) : State := match q.back with
  | none => s
  | some (k, cls) => if (s.spk k).state = 5 then s.emit (.linkWord k (creditWord cls (s.linkEpoch k))) else s

/-- A packet is discarded at the egress of spoke k and counted in DROP (R206, R230). DEDUCED: assumption 33. -/
def dropAt (k : Nat) (q : Queued) (s : State) : State := (giveBack q s).bump (cSpk k 2) 1

/-- A packet reaches the egress of a spoke: queued, or discarded where the spoke is DOWN. -/
def enqueue (k : Nat) (q : Queued) (s : State) : State :=
  if (s.spk k).state = 5 then
    let q := { q with since := s.now }
    s.modSpk k (fun x => if q.pkt.cls = 2 then { x with ctl := x.ctl ++ [q] } else { x with data := x.data ++ [q] })
  else dropAt k q s

/-- A packet in a queue no longer owes a credit to the book of spoke k. -/
def Queued.unowed (k : Nat) (q : Queued) : Queued := if q.back.map (·.1) = some k then { q with back := none } else q

/-- The credit book of a spoke is abandoned (R223): no packet that came in by it returns a credit any more. -/
def abandonBook (k : Nat) (s : State) : State :=
  let f := List.map (Queued.unowed k)
  { s with spokes := smapD {} (fun x => { x with ingress := f x.ingress, ctl := f x.ctl }) s.spokes,
           stations := smapD {} (fun x => { ring := f x.ring, entry := f x.entry }) s.stations }

/-- A spoke falls to a state (R206): what is queued is discarded and counted, KEYED and FAR_VALID clear, the link keys are
destroyed, the credit book is abandoned, and the spoke disagrees with no lap count (R29). DEDUCED: assumption 36. -/
def spokeFall (k : Nat) (dest : BitVec 3) (s : State) : State :=
  let x := s.spk k
  let s := (x.ctl ++ x.data).foldl (fun s q => dropAt k q s) s
  abandonBook k (dropMismatch k (s.modSpk k (fun x =>
    { x with state := dest, keyed := false, farValid := false, recIn := false, ownAck := false, matchAt := none, cred0 := 0,
             cred1 := 0, cred2 := 0, ctl := [], data := [], lastCtl := false, farEpoch := false, key := {} })))

/-- The spoke carries packets: its outcome is MATCH, and was so before this tick (R211, R213). -/
def State.matched (s : State) (k : Nat) : Bool :=
  decide ((s.spk k).outcome = 3) && decide ((s.spk k).matchAt ≠ some s.now)

/-- A packet may leave on a spoke: UP, MATCH, and KEYED for a confidential slice (R211, R230). -/
def usable (k : Nat) (p : Packet) (s : State) : Bool :=
  decide ((s.spk k).state = 5) && s.matched k && (!s.confSlice p.slice || (s.spk k).keyed)

/-- A credit is held for the class of a control packet. -/
def SpokeSt.hasCredit (x : SpokeSt) (p : Packet) : Bool := match p.hops.toNat with
  | 0 => decide (x.cred0 ≠ 0)
  | 1 => decide (x.cred1 ≠ 0)
  | _ => decide (x.cred2 ≠ 0)

/-- A credit is spent. -/
def SpokeSt.spend (x : SpokeSt) (p : Packet) : SpokeSt := match p.hops.toNat with
  | 0 => { x with cred0 := x.cred0 - 1 }
  | 1 => { x with cred1 := x.cred1 - 1 }
  | _ => { x with cred2 := x.cred2 - 1 }

/-- The first control packet that holds a credit or is to be discarded. -/
def nextCtl (k : Nat) (s : State) : Option Nat :=
  (s.spk k).ctl.findIdx? (fun q => !usable k q.pkt s || (s.spk k).hasCredit q.pkt)

/-- The packet leaves (R224, R232). -/
def depart (k : Nat) (q : Queued) (s : State) : State :=
  let p := sealPacket k s q.pkt
  let s := s.modSpk k (fun x =>
    let x := { x with lastCtl := decide (q.pkt.cls = 2), key := if x.keyed then { x.key with txCount := x.key.txCount + 1 } else x.key }
    if q.pkt.cls = 2 then x.spend q.pkt else x)
  giveBack q (bumpSlice q.pkt.slice k 0 ((s.emit (.packet k p)).bump (cSpk k 7) 1))

/-- The next epoch of the sending direction is due (R341). DEDUCED: assumption 34. -/
def epochDue (x : SpokeSt) : Bool := x.keyed && decide (2 ^ 32 ≤ x.key.txCount.toNat)

/-- PACKET_SEND (R211, R224, R230): at a packet boundary the egress sends a credited control packet ahead of data, at most
one between two data packets, or discards a packet that may not leave. -/
def execPacketSend (k : Spoke) (s : State) : Res :=
  let x := s.spk k.val
  let go := fun (q : Queued) (s : State) => if usable k.val q.pkt s then depart k.val q s else dropAt k.val q s
  .next (if s.clocked && !epochDue x then
    match nextCtl k.val s, x.data with
    | some i, [] => (match x.ctl[i]? with
      | some q => go q (s.modSpk k.val (fun x => { x with ctl := x.ctl.eraseIdx i }))
      | none => s)
    | some i, d :: t =>
      if x.lastCtl then go d (s.modSpk k.val (fun x => { x with data := t }))
      else (match x.ctl[i]? with
        | some q => go q (s.modSpk k.val (fun x => { x with ctl := x.ctl.eraseIdx i }))
        | none => s)
    | none, d :: t => go d (s.modSpk k.val (fun x => { x with data := t }))
    | none, [] => s
   else s)

/-- The first packet of a queue that has waited more than 64 ticks and is not counted yet is marked. -/
def markLate (now : Time) (l : List Queued) : Option (List Queued) := match l with
  | [] => none
  | q :: t => if q.late = false ∧ q.since.toNat + 64 < now.toNat then some ({ q with late := true } :: t)
    else (markLate now t).map (fun u => q :: u)

/-- EGRESS_LATE (R230). -/
def execEgressLate (k : Spoke) (s : State) : Res :=
  .next (if s.timed then
    match markLate s.now (s.spk k.val).ctl with
    | some l => (s.modSpk k.val (fun x => { x with ctl := l })).bump (cSpk k.val 4) 1
    | none => (match markLate s.now (s.spk k.val).data with
      | some l => (s.modSpk k.val (fun x => { x with data := l })).bump (cSpk k.val 4) 1
      | none => s)
   else s)

/-! ### Receive checks (Table 8-12) -/

/-- A LINK_KEY control packet, which goes to the far end of its spoke only. -/
def isLinkKey (p : Packet) : Bool := decide (p.cls = 2) && decide (p.buf = 3)

/-- The packet is for this module. -/
def State.isHere (s : State) (p : Packet) : Bool := isLinkKey p || decide (modNum p.dst = modNum s.ownCoord)

/-- A control type and die that R217 allows. -/
def ctypeOk (p : Packet) : Bool := match p.buf.toNat with
  | 1 => decide (fld p.dst 0 3 = 7)
  | 2 => decide (fld p.dst 0 3 = 4) || decide (fld p.dst 0 3 = 5)
  | 3 => decide (fld p.dst 0 3 = 6)
  | _ => false

/-- The cause HEADER. -/
def headerBad (here : Bool) (p : Packet) : Bool :=
  p.rsv1 || decide (p.rsv2 ≠ 0) || decide (2 < p.hops.toNat) || decide (p.payload.length ≠ 32 * p.words.toNat)
  || decide (p.trnEn ≠ decide (p.trnInc ≠ 0)) || (decide (p.slice = 0) != isLinkKey p) ||
  (match p.cls.toNat with
  | 1 => decide (p.words.toNat < 8) || decide (256 < p.words.toNat) || (p.long != decide (64 < p.words.toNat))
      || decide (fld p.dst 0 3 ≠ 7)
  | 2 => decide (p.words ≠ 1) || p.long || decide (p.offset ≠ 0) || (here && !ctypeOk p)
  | _ => true)

/-- The allotment that holds a slice tag. -/
def State.sliceAllot (s : State) (slice : BitVec 12) : Option (Nat × AllotSt) := s.allots.find? (fun e => decide (e.2.slice = slice))

/-- The packet applies an increment. -/
def incs (p : Packet) : Bool := p.trnEn || (decide (p.cls = 2) && decide (p.buf = 2))

/-- The checks of a delivering module, SLICE to TURNSTILE, for the allotment of the slice: the cause of each that fails, in
order. -/
def deliverFails (s : State) (n : Nat) (a : AllotSt) (p : Packet) : List Nat :=
  let im := s.image a.image
  let member := (posOf (im.rosters.getD a.variant.toNat []) 7 p.src).isSome
  let bufferOk := match s.buffer a p.buf with
    | none => false
    | some b => decide (p.offset.toNat % 32 = 0) && decide (p.offset.toNat + p.payload.length ≤ b.bytes)
  ([(0xC, (decide (p.cls = 1) || decide (p.buf = 2)) && !member), (0x9, p.long && !im.longMode),
    (0xA, decide (p.cls = 1) && !bufferOk),
    (0xB, incs p && decide ((s.trn p.trnIdx.toNat).owner ≠ some (BitVec.ofNat 4 n)))].filter (·.2)).map (·.1)

/-- The first of the checks of a delivering module that fails. -/
def deliverCause (s : State) (p : Packet) : Option Nat :=
  if isLinkKey p then none
  else match s.sliceAllot p.slice with
    | none => some 0x8
    | some (n, a) => (deliverFails s n a p).head?

/-- A packet that has passed the checks finds its slice, buffer or turnstile gone when it is registered: its allotment was
released meanwhile. DEDUCED: assumption 31. -/
def State.goneFor (s : State) (p : Packet) : Bool := match s.sliceAllot p.slice with
  | none => true
  | some (n, a) => (deliverFails s n a p).any (fun c => decide (c ≠ 0xC))

/-! ### Delivery -/

/-- The checked stage of which a buffer is a slot. -/
def State.checkedStage (s : State) (a : AllotSt) (buf : BitVec 16) : Option StageInfo :=
  ((List.range (s.image a.image).plans.length).flatMap (s.planInfo a)).find? (fun i =>
    i.stage.check && decide (i.stage.recvBuf.toNat ≤ buf.toNat) && decide (buf.toNat < i.stage.recvBuf.toNat + i.n))

/-- The first byte of the chunk that byte o of a slot's buffer lies in. -/
def chunkStart (i : StageInfo) (o : Nat) : Nat :=
  o / max 1 i.slotLen * i.slotLen + o % max 1 i.slotLen / 65536 * 65536

/-- The data words of a packet for a checked stage are registered: the CRC of their chunk goes on over them, from 0 at the chunk's
first byte. With the chunk's last packet, the one that carries the increment and the check word, it is what the check word is held
against (R255). -/
def noteChunk (n : Nat) (a : AllotSt) (p : Packet) (s : State) : State × BitVec 64 := match s.checkedStage a p.buf with
  | none => (s, 0)
  | some i =>
    let start := chunkStart i p.offset.toNat
    let key := n * 2 ^ 48 + p.buf.toNat * 2 ^ 32 + start
    let data := if p.trnEn then p.payload.take (p.payload.length - 32) else p.payload
    let crc := crc64From (if p.offset.toNat = start then 0 else sget 0 s.chunkCrcs key) data
    ({ s with chunkCrcs := sput 0 s.chunkCrcs key (if p.trnEn then 0 else crc) }, crc)

/-- The check word that ends the payload of the last packet of a chunk agrees with what is expected (R255): crc is the CRC that the
gatehouse has computed. -/
def checkOk (s : State) (p : Packet) (crc : BitVec 64) : Bool := match s.linkInfo (s.trn p.trnIdx.toNat) with
  | some (_, i) =>
    if i.stage.check then
      let chunk := p.offset.toNat % max 1 i.slotLen / 65536
      let pos := p.buf - i.stage.recvBuf
      decide (bytesAt p.payload (p.payload.length - 32) 12 = (checkWord crc chunk pos).take 12)
        && decide (posOf i.group i.stage.level.toNat p.src = some pos.toNat)
    else true
  | none => true

/-- The increment that a packet carries. -/
def packetIncrement (p : Packet) (s : State) : State := increment p.trnIdx.toNat p.trnInc.toNat p.src s

/-- A packet passed all checks and is delivered from the ring of gatehouse g; withheld: its increment comes under a spoiled mark (R229).
A word that is uncorrectable at a bridge on the way to its buffer is recorded by the gatehouse and stops the allotment's timetable,
and the increment does not take place: DESIGN CHOICE: assumption 123. -/
def deliver (g : Nat) (path : List PathNoise) (withheld : Bool) (p : Packet) (s : State) : State :=
  if p.cls = 1 then
    match s.sliceAllot p.slice with
    | none => s
    | some (n, a) => match writeBuf g path 0 a p.buf p.offset.toNat p.payload s with
      | (s, some place) => allotFault n (memFault false place) (BitVec.ofNat 3 (4 + g)) 0xFF none s
      | (s, none) =>
        let (s, crc) := noteChunk n a p s
        if p.trnEn && !withheld then
          if checkOk s p crc then packetIncrement p s else countTrn p.trnIdx.toNat 5 s
        else s
  else match p.buf.toNat with
    | 1 => rollReceive p.slice p.src p.payload s
    | 2 => packetIncrement p s
    | _ => s

/-- The bytes of a link key message (Tables 12-2, 12-3) and its fragments; none for a reserved MSG. -/
def keyMsgLen (msg : Byte) : Option Nat := match msg.toNat with
  | 1 => some 35344 | 2 => some 1568 | 3 => some 48 | 4 => some 0 | _ => none
def keyFragments (n : Nat) : Nat := max 1 ((n + 23) / 24)

/-- One more fragment of a link key message (R340): the fragments of a message come in order, and the last one makes it whole.
Any other fragment ends the message that was coming in. DEDUCED: assumption 39. -/
def LinkKey.take (b : List Byte) (x : LinkKey) : LinkKey :=
  let msg := byteAt b 0
  let frag := (le 16 b 2 2).toNat
  match keyMsgLen msg with
  | none => x
  | some len =>
    let have_ := match x.part with
      | none => []
      | some m => if m.msg = msg ∧ frag ≠ 0 then m.parts else []
    if (le 16 b 4 2).toNat ≠ keyFragments len ∨ frag ≠ have_.length then { x with part := none }
    else
      let parts := have_ ++ [bytesAt b 8 24]
      if parts.length = keyFragments len then { x with part := none, inbox := x.inbox ++ [(msg, parts.flatten.take len)] }
      else { x with part := some ⟨msg, keyFragments len, parts⟩ }

/-- A packet that passed the checks is registered: a link key message goes to the lodge, under the spoke it came in by; any
other packet is delivered while its allotment holds what it names. -/
def deliverQueued (g : Nat) (path : List PathNoise) (q : Queued) (s : State) : State :=
  if isLinkKey q.pkt then match q.back with
    | some (k, _) => s.modSpk k (fun x => { x with key := x.key.take q.pkt.payload })
    | none => s
  else if s.goneFor q.pkt then s
  else deliver g path q.withheld q.pkt s

/-! ### Spoiled marks (R229) -/

/-- A packet arrives under a spoiled mark. -/
def Marks.hit (m : Marks) (p : Packet) : Bool := m.all || m.sources.any (fun x => decide (x = ⟨p.slice, p.src⟩))

/-- The marks that a packet with an increment has cleared. DEDUCED: assumption 33. -/
def Marks.cleared (m : Marks) (p : Packet) : Marks := ⟨false, m.sources.filter (fun x => !decide (x = ⟨p.slice, p.src⟩))⟩

/-- The marks after a discard: the whole way in where the header failed, the source of a data packet whose header passed. -/
def Marks.spoil (m : Marks) (headerFailed : Bool) (p : Packet) : Marks :=
  if headerFailed then { m with all := true }
  else if p.cls ≠ 1 ∨ m.sources.contains ⟨p.slice, p.src⟩ then m
  else { m with sources := m.sources ++ [⟨p.slice, p.src⟩] }

/-- A packet is discarded on receive with a cause (R228, R229). -/
def discard (k : Nat) (p : Packet) (cause : Nat) (headerFailed : Bool) (s : State) : State :=
  let s := s.modSpk k (fun x =>
    { x with rxCause := BitVec.ofNat 4 cause, rxTick := s.cad.tick, rxSlice := if headerFailed then 0 else p.slice,
             rxSrc := if headerFailed then 0 else p.src, marks := x.marks.spoil headerFailed p })
  if cause = 2 then s.bump (cSpk k 1) 1 else s.bump (cSpk k 3) 1

/-- An AUTH discard; the 16th of a lap takes the spoke DOWN (R233). -/
def authDiscard (k : Nat) (p : Packet) (s : State) : State :=
  let s := (discard k p 4 true s).bump (cSpk k 5) 1
  let n := (s.spk k).authLap + 1
  let s := s.modSpk k (fun x => { x with authLap := n })
  if n = 16 then spokeFall k 0 s else s

/-- The credit of a control packet's buffer, where it is freed at once. DEDUCED: assumption 33. -/
def freeNow (k : Nat) (p : Packet) (s : State) : State :=
  if p.cls = 2 then giveBack { pkt := p, since := s.now, egress := 0, back := some (k, min 2 p.hops.toNat) } s else s

/-- A packet takes a slot of the ingress FIFO of its spoke (R218), and a control packet goes on occupying its buffer. -/
def intoIngress (k : Nat) (p : Packet) (q : Queued) (s : State) : State :=
  let q := { q with back := if p.cls = 2 then some (k, min 2 p.hops.toNat) else none }
  s.modSpk k (fun x => { x with ingress := x.ingress ++ [q] })

/-- A packet for another module is forwarded with the increment it carries, or lost at a routing miss (R225, R229). DEDUCED: assumption
33. -/
def forward (k : Nat) (p : Packet) (s : State) : State :=
  let h := k / 18
  match s.route h p.ver p.slice (modNum p.dst) with
  | none => freeNow k p (s.bump (cMiss h) 1)
  | some e => intoIngress k p { pkt := { p with hops := p.hops + 1 }, since := s.now, egress := e } s

/-- A packet that came in whole and decoded, on a MATCH spoke, with its tag checked: HEADER and the rest. What passes waits in
the ingress FIFO for the ring, with its increment withheld under a spoiled mark (R229). -/
def acceptPacket (k : Nat) (p : Packet) (s : State) : State :=
  let here := s.isHere p
  if headerBad here p then freeNow k p (discard k p 5 true s)
  else if 16 ≤ (s.spk k).ingress.length then freeNow k p (discard k p 6 false s)
  else if !here && decide (p.hops = 2) then freeNow k p (discard k p 7 false s)
  else if here then
    match deliverCause s p with
    | some c => freeNow k p (discard k p c false s)
    | none =>
      let withheld := decide (p.cls = 1) && p.trnEn && (s.spk k).marks.hit p
      let s := bumpSlice p.slice k 1 (s.bump (cSpk k 8) 1)
      let s := if withheld then (s.modSpk k (fun x => { x with marks := x.marks.cleared p })).bump (cSpk k 6) 1 else s
      intoIngress k p { pkt := p, since := s.now, egress := hereEgress, checked := true, withheld := withheld } s
  else forward k p (bumpSlice p.slice k 1 (s.bump (cSpk k 8) 1))

/-- PACKET_RECEIVE (R228): the checks of Table 8-12 in order, then delivery or forwarding. The tag stands under the count that
the packet has before it is counted itself (R232). -/
def execPacketReceive (k : Spoke) (pkt : Packet) (rx : RxState) (s : State) : Res :=
  .next (if s.clocked && (decide ((s.spk k.val).state = 5) || !rx.whole) then
    let opened := openPacket k.val s pkt
    let s := (s.modSpk k.val (countRx pkt)).bump (cSpk k.val 0) rx.corrected
    let failed := !rx.headerWhole || rx.headerUe
    if !rx.whole then discard k.val pkt 1 failed s
    else if rx.headerUe || rx.payloadUe then freeNow k.val pkt (discard k.val pkt 2 failed s)
    else if !s.matched k.val then freeNow k.val pkt (discard k.val pkt 3 false s)
    else match opened with
      | none => authDiscard k.val pkt (freeNow k.val pkt s)
      | some p => acceptPacket k.val p (s.modSpk k.val (advanceRx pkt))
   else s)

/-- A packet of this module for this module comes off its own ring (R225): the checks from HEADER on, no spoke counter. Its
increments follow R229 under the marks of the gatehouse that sent it. -/
def deliverOwn (g : Nat) (path : List PathNoise) (p : Packet) (s : State) : State :=
  let sender := (fld p.src 0 3).toNat - 4
  let mark := fun (f : Marks → Marks) (s : State) => { s with ownMarks := smod {} s.ownMarks sender f }
  if headerBad true p then mark (fun m => m.spoil true p) s
  else if (deliverCause s p).isSome then mark (fun m => m.spoil false p) s
  else
    let withheld := decide (p.cls = 1) && p.trnEn && (sget {} s.ownMarks sender).hit p
    deliver g path withheld p (if withheld then mark (fun m => m.cleared p) s else s)

/-! ### The transit ring (R218 to R220) -/

/-- The gatehouse and the station at which a packet for this module leaves the ring (R218): the control station of the unit that
a control packet is for, the control station of the gatehouse whose staging memory holds the buffer, or the bridge station on
the way to the pavilions. DEDUCED: assumption 31. -/
def State.homeOf (s : State) (g : Nat) (p : Packet) : Nat × Nat :=
  let gh := fun (b : Bool) => if b then 1 else 0
  if p.cls = 2 then match p.buf.toNat with
    | 1 => (gh s.lodge.actPower, 19)
    | 2 => ((fld p.dst 0 3).toNat - 4, 19)
    | _ => (gh s.lodge.actLodge, 19)
  else match (s.sliceAllot p.slice).bind (fun e => s.buffer e.2 p.buf) with
    | none => (g, 19)
    | some b => if b.pool.toNat < 2 then (b.pool.toNat, 19) else (g, 21)

/-- The station of gatehouse g at which a packet leaves its ring: the cross station where it goes on in the other gatehouse.
DEDUCED: assumption 31. -/
def State.exitStation (s : State) (g : Nat) (q : Queued) : Nat :=
  let (h, st) := if q.egress = hereEgress then s.homeOf g q.pkt else (q.egress.toNat / 18, q.egress.toNat % 18)
  if h = g then st else 20

/-- A packet comes off the ring of gatehouse g at its station; one that has come to this module gives its control buffer back. -/
def leaveRing (g : Nat) (path : List PathNoise) (q : Queued) (s : State) : State :=
  if s.exitStation g q = 20 then s.modStation (22 * (1 - g) + 20) (fun x => { x with entry := x.entry ++ [q] })
  else if q.egress = hereEgress then giveBack q (if q.checked then deliverQueued g path q s else deliverOwn g path q.pkt s)
  else enqueue q.egress.toNat q s

/-- The packet at the head of a station's ring buffer is to move on to the next station, and can (R219). -/
def State.comesOn (s : State) (g j : Nat) : Bool := match (s.station (22 * g + j)).ring with
  | [] => false
  | q :: _ => decide (s.exitStation g q ≠ j) && decide ((s.station (22 * g + (j + 1) % 22)).ring.length < 4)

/-- The packet at the head of a station's ring buffer moves on, where it can. -/
def ringMove (g j : Nat) (path : List PathNoise) (s : State) : Option State := match (s.station (22 * g + j)).ring with
  | [] => none
  | q :: t =>
    let s' := s.modStation (22 * g + j) (fun x => { x with ring := t })
    if s.exitStation g q = j then some (leaveRing g path q s')
    else if s.comesOn g j then some (s'.modStation (22 * g + (j + 1) % 22) (fun x => { x with ring := x.ring ++ [q] }))
    else none

/-- What waits to enter the ring of gatehouse g at station j: the ingress FIFO of a spoke, or the station's own entries. -/
def State.entries (s : State) (g j : Nat) : List Queued := if j < 18 then (s.spk (18 * g + j)).ingress else (s.station (22 * g + j)).entry

/-- The place of the packet that enters next at a station, the first that is not queued for the next tick only, where it can: with at least 2 free slots
there (R219), and after the packet on the ring that comes to the station (R220). -/
def State.enterable (s : State) (g j : Nat) : Option Nat :=
  if (s.station (22 * g + j)).ring.length ≤ 2 && !s.comesOn g ((j + 21) % 22) then
    (s.entries g j).findIdx? (fun q => decide (q.since ≠ later 1 s.now))
  else none

/-- The stations of gatehouse g that are served before station j in its control cycle and have not been: those below it, above the
latest one served in the cycle (R220). An entry at a station that is not above the latest one begins a new cycle. DESIGN CHOICE:
assumption 113. -/
def State.before (s : State) (g j : Nat) : List Nat :=
  let (t, last) := sget (0, 22) s.ringAt g
  (List.range j).filter (fun i => !(decide (t = s.now) && decide (last < j) && decide (i ≤ last)))

/-- A packet enters the ring at a station, once the lower stations whose entries can enter in the cycle have been served (R219,
R220). -/
def ringEnter (g j : Nat) (s : State) : State :=
  match s.enterable g j with
  | none => s
  | some i => if (s.before g j).any (fun k => (s.enterable g k).isSome) then s else
    match (s.entries g j)[i]? with
    | none => s
    | some q =>
      let s := if j < 18 then s.modSpk (18 * g + j) (fun x => { x with ingress := x.ingress.eraseIdx i })
        else s.modStation (22 * g + j) (fun x => { x with entry := x.entry.eraseIdx i })
      { s.modStation (22 * g + j) (fun x => { x with ring := x.ring ++ [q] }) with ringAt := sput (0, 22) s.ringAt g (s.now, j) }

/-- TRANSIT_RING_HOP (R219, R220): the packet on the ring first, then an entry. -/
def execTransitRingHop (g : Gh) (hop : RingHop) (s : State) : Res :=
  .next (if s.clocked then
    match ringMove g.val hop.station.val hop.path s with
    | some s' => s'
    | none => ringEnter g.val hop.station.val s
   else s)

/-! ### Routing versions (R227) -/

/-- ROUTING_SWITCH (R227): in tick 00007 of its lap the pending version becomes current and the old one drains. -/
def execRoutingSwitch (s : State) : Res :=
  .next (match s.rte.pending with
    | none => s
    | some _ =>
      if s.switchNow then
        { s with rte := { s.rte with cur := !s.rte.cur, pending := none, draining := true,
                                     lastLap := s.cad.lap.setWidth 32, switchLap := none } }
      else s)

/-- The end of draining at a lap boundary: the old version is free (R227). -/
def drainEnd (s : State) : State :=
  if s.rte.draining then { s with rte := { s.rte with draining := false } } else s

end Sys2Proof.Machine
end

