-- ==== Sys2Proof/Machine/Reset.lean ====
section
/-! DEFINITION. Resets and supply (R265, R296 to R298, R388, R393 to R395, R419): the module reset, the reset of an
allotment, the hold-up save, power up and power down. -/

namespace Sys2Proof.Machine

/-! ### The module reset (R393, R394) -/

/-- A piece whose programming a reset or power loss interrupts stays as the bitmap has it (R402). DEDUCED: assumption 44. -/
def dropPiece (u : Upd) : Upd := { u with busy := [] }

/-- What a module reset or a loss of power leaves of the management port: the dynamic address is the always-on domain's.
DEDUCED: assumption 44. -/
def resetMgmt (m : Mgmt) : Mgmt := { addr := m.addr, odo := m.odo, odoRead := m.odoRead, inv := m.inv }

/-- The module reset domain is reset (R393): kept are the fault store, the always-on domain and the flash. Spoke transmitters,
host links and rails go off, and S0 follows after 100 ms (R394); a module that waits for its input voltage goes on waiting. The fault
store that is kept after a save needs no restoring from it. DEDUCED: assumption 44. -/
def moduleReset (s : State) : State :=
  { State.reset with
    boot := { supply := if s.boot.supply = .aux then .aux else .railOff, slot := s.boot.slot }
    self := { slot := s.boot.slot }
    frc := { s.frc with saved := false, inTick := 0 }
    mgmt := resetMgmt s.mgmt
    flash := if s.boot.supply = .saved then s.flash.markRestored else s.flash
    upd := dropPiece s.upd
    fresh := s.fresh
    out := s.out
    pending := s.pending }

/-- A module reset takes effect in every state in which VAUX is up (R362). -/
def State.vaux (s : State) : Bool := decide (s.boot.supply ≠ .off)

/-- BOOT_RESET (R394): the steward's write of 0xB007 in every state in which its host link is up, a lost pair (R376) and a stopped
CADREF (R43) among them. DESIGN CHOICE: assumption 3. -/
def execBootReset (p : Port) (key : BitVec 16) (s : State) : Res :=
  .next (if decide (s.boot.supply = .on) && (s.port p).linkUp then
    if s.isSteward p then (if key = 0xB007 then moduleReset s else s) else countNs p s
   else s)

/-- Event records placed in the queue one after another, with the stamps they have. -/
def requeue (l : List Event) (s : State) : State :=
  l.foldl (fun s e => queueEventAt e.stamp e.type e.flags e.code e.ctx s) s

/-- The saved events go into the queue ahead of all new ones, with REPLAYED set and the stamps they had, followed by SAVE_REPLAY
(R298, R368). DEDUCED: assumption 45. -/
def replayEvents (l : List Event) (code : Word) (s : State) : State :=
  let new := s.mgmt.events
  let s := requeue (l.map (fun e => { e with flags := e.flags ||| 1 })) { s with mgmt := { s.mgmt with events := [], evSeq := 0 } }
  requeue new (queueEvent 0x0009 0 code 0 s)

/-- At the boot after a save the warden replays a save that verifies, and reports one with no valid commit word as lost, once
(R298). DEDUCED: assumption 45. -/
def tellSave (s : State) : State := match s.flash.save with
  | none => s
  | some v =>
    if v.told then s
    else if v.verifies s.lodge.prk then
      replayEvents v.events 1 { s with flash := s.flash.setSave (some { v with told := true }) }
    else if v.commit then { s with flash := s.flash.dropSave }
    else replayEvents [] 0 { s with flash := s.flash.dropSave }

/-- The fault store at a power-on: S0 restores the records of a committed save, once, and a save that does not verify under the flash
key is absent (R335, R388). That the key, which S2 rebuilds, judges the save already in S0 is a DESIGN CHOICE: assumption 123. -/
def restoreFaults (s : State) : State := match s.flash.save with
  | some v =>
    if v.verifies s.flash.prk && !v.told && !v.restored then
      { s with frc := { recs := v.recs, seq := v.seq, restored := true }, flash := s.flash.markRestored }
    else s
  | none => s

/-- The odometer of the flash is read at the first S2 after a power-on, when the flash key exists; what came about since is added
(R370). DEDUCED: assumption 51. -/
def readOdo (s : State) : State :=
  if s.mgmt.odoRead then s
  else
    let o := s.flash.bestOdo s.flash.prk
    { s with mgmt := { s.mgmt with odo := o.add s.mgmt.odo, inv := o, odoRead := true } }

/-- S0 is entered after a rail-off (R378, R394); a boot that reaches S0 is counted (Table 13-5). DEDUCED: assumption 45. -/
def enterS0 (s : State) : State :=
  { s with boot := { s.boot with supply := .on, step := 0, state := 0, ms := 0, elapsed := 0 },
           mgmt := { s.mgmt with odo := { s.mgmt.odo with cycles := s.mgmt.odo.cycles + 1 } } }

/-- RAIL_OFF_ELAPSED (R394): after 100 ms of rail-off; S0 waits while a diode reads 100 °C or above. DESIGN CHOICE: assumption
38. -/
def execRailOffElapsed (hot : Bool) (s : State) : Res :=
  .next (if s.boot.supply = .railOff then
    let s := enterS0 s
    { s with boot := { s.boot with tripWait := hot } } else s)

/-- TRIP_WAIT_END (R394): every diode reads below 100 °C. DESIGN CHOICE: assumption 38. -/
def execTripWaitEnd (s : State) : Res :=
  .next (if s.boot.supply = .on ∧ s.boot.step = 0 then { s with boot := { s.boot with tripWait := false } } else s)

/-! ### The reset of an allotment (R395) -/

/-- An allotment's reset begins: its timetable stops, its runs are discarded with no completion entry. -/
def beginAllotReset (p : Port) (n : Nat) (s : State) : State := match s.allot n with
  | none => s
  | some a =>
    if (portOf a.port).val = p.val ∧ a.reset = .none then
      (s.modAllot n (fun a => { a with stopped := true, run := none, pos := none, pendRun := none, swapDue := none,
                                       swapAt := none, reset := .draining })).modPort p
        (fun x => { x with resetting := x.resetting ||| BitVec.twoPow 16 n })
    else s

/-- ALLOT_RESET (R395): a write to FRC_ALLOT_RESET; bits of other ports' allotments are ignored. -/
def execAllotReset (p : Port) (mask : BitVec 16) (s : State) : Res :=
  .next (hostWrite p (fun s => (setBits mask).foldl (fun s n => beginAllotReset p n s) s) s)

/-- The module movers of an allotment (R79, R117). -/
def AllotSt.movers (a : AllotSt) : List Nat :=
  (setBits a.groups).flatMap (fun g => (List.range 4).map (fun m => 16 * (g / 4) + 4 * (g % 4) + m))
  ++ (setBits a.ghMovers).map (fun m => 64 + m)

/-- Every mover of an allotment is idle. -/
def State.moversIdle (s : State) (a : AllotSt) : Bool :=
  a.movers.all (fun m => (s.mover m).active.isNone && (s.mover m).pending.isNone)

/-- A data packet that this module sends for a slice is still on its way to an egress or a ring (R395). -/
def State.sendingSlice (s : State) (slice : BitVec 12) : Bool :=
  let of := fun (l : List Queued) => l.any (fun q =>
    decide (q.pkt.cls = 1) && decide (q.pkt.slice = slice) && decide (modNum q.pkt.src = modNum s.ownCoord))
  s.stations.any (fun e => of e.2.ring || of e.2.entry) || s.spokes.any (fun e => of e.2.data)

/-- ALLOT_RESET_QUIESCED (R395): movers idle, every send and reduction that had begun finished. -/
def execAllotResetQuiesced (a : Allot) (s : State) : Res :=
  .next (match s.allot a.val with
    | none => s
    | some x =>
      if s.clocked && decide (x.reset = .draining) && s.moversIdle x && !s.sendingSlice x.slice
          && x.plans.all (fun p => p.reduces.isEmpty) then
        s.modAllot a.val (fun x => { x with reset := .boundary })
      else s)

/-- The banks of an allotment's groups. -/
def AllotSt.banks (a : AllotSt) : List Nat := (setBits a.groups).flatMap (fun g => (List.range 12).map (fun b => 12 * g + b))

/-- The staging buffers of an allotment in pools 0 and 1. -/
def State.pools (s : State) (a : AllotSt) : List StagingBuf :=
  (s.image a.image).staging.filter (fun b => decide (b.allot = a.localIx) && decide (b.pool.toNat < 2))

/-- Banks, weight slots, lane registers and staging buffers of an allotment are zeroed (R99, R352, R395); the banks report
ZEROING until their time is over. DEDUCED: assumption 52. -/
def zeroAllot (a : AllotSt) (s : State) : State :=
  let s := (setBits a.groups).foldl (fun s g => zeroGroup g s) s
  let s := a.arrayIxs.foldl (fun s x => zeroArray x s) s
  let s := (s.pools a).foldl (fun s b => zeroStage b.pool.toNat b.addr.toNat b.bytes s) s
  { s with zeroing := s.zeroing ++ a.banks.filter (fun b => !s.zeroing.contains b) }

/-- What the lap boundary does for an allotment whose reset waits for it (R395). DEDUCED: assumption 52. -/
def allotBoundary (n : Nat) (s : State) : State := match s.allot n with
  | none => s
  | some a =>
    if a.reset = .boundary then
      let s := resetTrns n (zeroAllot a s)
      let s := a.movers.foldl (fun s m => s.modMover m (fun x => { x with stopped := false })) s
      let s := a.arrayIxs.foldl (fun s x => s.modArr x (fun y => { y with issues := [], flights := [], usesLeft := 0, released := false })) s
      s.modAllot n (fun a => { a with shadow := none, stopped := false, faulted := false, plans := [], tiles := [],
                                      restLap := some s.cad.lap, reset := .zeroing })
    else s

/-- ALLOT_RESET_DONE (R395): zeroing is complete and BUSY returns to 0. -/
def execAllotResetDone (a : Allot) (s : State) : Res :=
  .next (match s.allot a.val with
    | none => s
    | some x =>
      if s.clocked && decide (x.reset = .zeroing) && x.banks.all (fun b => !s.zeroing.contains b) then
        let clear := fun (y : PortSt) => { y with resetting := y.resetting &&& ~~~ BitVec.twoPow 16 a.val }
        ((s.modAllot a.val (fun x => { x with reset := .none })).modPort 0 clear).modPort 1 clear
      else s)

/-- BANK_ZEROING_DONE (R99). DEDUCED: assumption 52. -/
def execBankZeroingDone (b : Sys2Proof.Bank) (s : State) : Res :=
  .next (if s.clocked then { s with zeroing := s.zeroing.filter (fun x => !decide (x = b.val)) } else s)

/-! ### The hold-up save (R296, R298) -/

/-- The volatile parts that lose their supply at a save: spokes and host ports. -/
def dropLinks (s : State) : State :=
  let s := (List.range 36).foldl (fun s k => spokeFall k 0 s) s
  (s.modPort 0 (fun x => { x with linkUp := false })).modPort 1 (fun x => { x with linkUp := false })

/-- HOLDUP_SAVE (R296): POWER_LOSS, every timetable stops, the rails are gated, and the save begins. vin is the voltage at
detection in 10 mV. A lost pair serves no save (R376), nor does a module whose power controllers do not run (R41).
DESIGN CHOICE: assumption 46. -/
def execHoldupSave (vin : BitVec 16) (s : State) : Res :=
  .next (if s.ctl then
    let s := stopAll (writeFault (faultCode 0x7 0x001 vin) 0 7 0xFF none s)
    let s := { s with frc := { s.frc with saved := true } }
    let odo := { s.mgmt.odo with saves := s.mgmt.odo.saves + 1 }
    let sv : Save := { recs := s.frc.recs, seq := s.frc.seq, events := s.mgmt.events, odo := odo, pwr := s.pwr,
                       at_ := s.now, pages := 0, commit := false }
    let s := dropLinks s
    { s with flash := s.flash.beginSave { sv with mac := flashMac s.lodge.prk sv.bytes }, boot := { s.boot with supply := .saved },
             gear := { s.gear with slews := [] }, upd := dropPiece s.upd }
   else s)

/-- SAVE_PAGE_DONE (R296): 23 pages, then the commit word, which makes the save a committed one, counts it (Table 13-5), updates the
odometer's copies (R370) and leaves the other slot to be erased (R298). With CADREF lost the save goes no further (R41). DEDUCED:
assumption 45. -/
def execSavePageDone (s : State) : Res :=
  .next (match s.flash.save with
    | none => s
    | some sv =>
      if s.boot.supply = .saved ∧ s.cad.stopped = false then
        if sv.pages < 23 then { s with flash := s.flash.setSave (some { sv with pages := sv.pages + 1 }) }
        else if sv.commit then s
        else { s with flash := ((s.flash.setSave (some { sv with commit := true })).eraseOther).writeOdo s.lodge.prk sv.odo,
                      mgmt := { s.mgmt with odo := sv.odo, inv := sv.odo } }
      else s)

/-! ### Power down and power up (R265, R393, R419) -/

/-- UNDERVOLTAGE_LOCKOUT (R265, R393): below 44.0 V every rail is off and everything but the flash is lost. DEDUCED:
assumption 44. -/
def execUndervoltageLockout (s : State) : Res :=
  .next { State.reset with
    boot := { supply := .off }
    flash := s.flash
    upd := { dropPiece s.upd with window := [], piece := 0, last := 0, armRefused := false }
    fresh := s.fresh
    out := s.out
    pending := s.pending }

/-- VAUX_START (R419): the input rises through 46 V. -/
def execVauxStart (s : State) : Res :=
  .next (if s.boot.supply = .off then { s with boot := { s.boot with supply := .aux } } else s)

/-- POWER_GOOD (R265, R378): VAUX up and the input risen to 56 V: the slot strap is sampled, the fault store is restored, and S0
is entered. -/
def execPowerGood (slot : BitVec 2) (s : State) : Res :=
  .next (if s.boot.supply = .aux then
    enterS0 (restoreFaults { s with boot := { s.boot with slot := slot }, self := { s.self with slot := slot } })
   else s)

end Sys2Proof.Machine
end

