-- ==== Sys2Proof/Machine/LinkKey.lean ====
section
/-! DEFINITION. The link key exchange and the link epochs (R339 to R342). -/

namespace Sys2Proof.Machine

/-- The spoke can carry packets: UP with outcome MATCH (R211). -/
def State.spokeOpen (s : State) (k : Nat) : Bool := decide ((s.spk k).state = 5) && decide ((s.spk k).outcome = 3)

/-- A change to the link key record of a spoke. -/
def modKey (k : Nat) (f : LinkKey → LinkKey) (s : State) : State := s.modSpk k (fun x => { x with key := f x.key })

/-- The payload word of a fragment (R340). -/
def fragment (msg : Byte) (frag frags : Nat) (data : List Byte) : List Byte :=
  [msg, 0] ++ leBytes 2 frag ++ leBytes 2 frags ++ [0, 0] ++ fit 24 data

/-- A message to the far end of a spoke, from the active lodge, in fragments on LINK_KEY packets that leave by that spoke. -/
def sendKeyMsg (k : Nat) (msg : Byte) (body : List Byte) (s : State) : State :=
  let parts := if body.isEmpty then [[]] else chunks 24 body.length body
  let dst := withDie (modNum (s.spk k).farCoord) 6
  let h := if s.lodge.actLodge then 1 else 0
  let new := parts.zipIdx.map (fun (b, i) =>
    ({ pkt := controlPacket s h 0x0003 0 dst (fragment msg i parts.length b), since := s.now,
       egress := BitVec.ofNat 6 k } : Queued))
  s.modStation (22 * h + 19) (fun x => { x with entry := x.entry ++ new })

/-- The exchange of an open spoke begins with its own credential (R340, Table 12-3), unless it has begun already; a
module without an identity keys no spoke (R357). -/
def startKeying (k : Nat) (s : State) : State :=
  if s.spokeOpen k && s.boot.identity && decide ((s.spk k).key.step = .idle) then
    sendKeyMsg k 1 s.lodge.cred (modKey k (fun x => { x with step := .cred, since := s.now }) s)
  else s

/-- The attempt ends: the spoke stays open and the lodge retries after 1 s (R342). -/
def endAttempt (k : Nat) (s : State) : State := modKey k (fun _ => { step := .failed, since := s.now }) s

/-- The end that detects a failure counts it and sends ABORT (R342). -/
def abortKeying (k : Nat) (s : State) : State :=
  endAttempt k (sendKeyMsg k 4 [] { s with lodge := { s.lodge with
    linkFails := satAdd s.lodge.linkFails 1, linkLast := BitVec.ofNat 6 k } })

/-- The lodge is at a step of the exchange of a spoke. DEDUCED: assumption 39. -/
def State.keyAt (s : State) (k : Nat) (st : KeyStep) : Bool := s.ctl && s.spokeOpen k && decide ((s.spk k).key.step = st)

/-- The first message that the lodge has not taken yet, where it is of the kind given, and the state once it is taken. -/
def takeMsg (k : Nat) (msg : Byte) (s : State) : Option (List Byte × State) := match (s.spk k).key.inbox with
  | [] => none
  | (m, b) :: t => if m = msg then some (b, modKey k (fun x => { x with inbox := t }) s) else none

/-- The checks of a far credential (Table 12-3): SIG, ENDORSE, and UNIT_ID against SPK_FAR and against ID_PUB. -/
def credOk (far c : List Byte) : Bool :=
  decide (c.length = 35344) && verifyPair (bytesAt c 0x6A0 432) (bytesAt c 0 0x4930) (bytesAt c 0x4930 16608)
  && verifyPair (Config.solansenKey 2) (bytesAt c 8 8 ++ bytesAt c 0x6A0 432) (bytesAt c 0x850 16608)
  && decide (bytesAt c 8 8 = bytesAt far 16 8) && decide (bytesAt c 8 8 = (idDigest (bytesAt c 0x6A0 432)).take 8)

/-- The encapsulation key and the ECDH point of a credential (Table 12-2). -/
def credEk (c : List Byte) : List Byte := bytesAt c 0x10 1568
def credPoint (c : List Byte) : List Byte := bytesAt c 0x630 97

/-- The first message that the lodge has not taken yet, where it is this one, and the state once it is taken. -/
def takeThis (k : Nat) (msg : Byte) (b : List Byte) (s : State) : Option State := match takeMsg k msg s with
  | none => none
  | some (c, t) => if c = b then some t else none

/-- LINK_KEY_CRED (R340): a far credential that has come in and passes is answered with ENCAP; a failed check ends the
attempt. -/
def execLinkKeyCred (k : Spoke) (cred : List Byte) (s : State) : Res :=
  .next (match takeThis k.val 1 cred s with
    | none => s
    | some t =>
      if s.keyAt k.val .cred then
        if credOk (t.spk k.val).far cred then
          let (t, n) := takeRandom t
          let ct := Config.kemCipher (credEk cred) n
          sendKeyMsg k.val 2 ct
            (modKey k.val (fun x => { x with step := .encap, since := t.now, farCred := cred, drbgN := n, ownCt := ct }) t)
        else abortKeying k.val t
      else s)

/-- Two values in the order lo, hi. DEDUCED: assumption 39. -/
def loHi (isLo : Bool) (own far : List Byte) : List Byte := if isLo then own ++ far else far ++ own

/-- The link secret (R341). -/
def linkSecret (isLo : Bool) (ownCred farCred : List Byte) (credN drbgN : Nat) (farCt : List Byte) : List Byte :=
  hkdfExtract (digestBytes (sha384 (loHi isLo ownCred farCred)))
    (loHi isLo (Config.kemSecret (credEk farCred) drbgN) (Config.kemDecap credN farCt) ++ Config.ecdh credN (credPoint farCred))

/-- The CONFIRM of a role: over the role and the digest of what both ends sent in steps 1 and 2 (R340). DEDUCED: assumption
39. -/
def confirmOf (ls : List Byte) (roleLo isLo : Bool) (ownCred farCred ownCt farCt : List Byte) : List Byte :=
  hmac (hkdfExpand ls (label "H4 link confirm") 48)
    (label (if roleLo then "lo" else "hi") ++ digestBytes (sha384 (loHi isLo ownCred farCred ++ loHi isLo ownCt farCt)))

/-- The CONFIRM that this end sends, or expects of the far end. DEDUCED: assumption 39. -/
def State.confirm (s : State) (k : Nat) (own : Bool) : List Byte :=
  let x := (s.spk k).key
  confirmOf x.ls (s.isLo k == own) (s.isLo k) s.lodge.cred x.farCred x.ownCt x.farCt

/-- LINK_KEY_ENCAP (R341): the ciphertext that has come in is decapsulated, LS derived, CONFIRM sent. -/
def execLinkKeyEncap (k : Spoke) (ct : List Byte) (s : State) : Res :=
  .next (match takeThis k.val 2 ct s with
    | none => s
    | some t =>
      if s.keyAt k.val .encap then
        let x := (t.spk k.val).key
        let ls := linkSecret (t.isLo k.val) t.lodge.cred x.farCred t.lodge.credN x.drbgN ct
        let t := modKey k.val (fun x => { x with step := .confirm, since := t.now, farCt := ct, ls := ls }) t
        sendKeyMsg k.val 3 (t.confirm k.val true) t
      else s)

/-- LINK_KEY_CONFIRM (R340): a correct CONFIRM that has come in installs epoch 0 of both directions and sets KEYED; a wrong one
ends the attempt. -/
def execLinkKeyConfirm (k : Spoke) (mac : List Byte) (s : State) : Res :=
  .next (match takeThis k.val 3 mac s with
    | none => s
    | some t =>
      if s.keyAt k.val .confirm then
        if mac = t.confirm k.val false then
          t.modSpk k.val (fun x => { x with keyed := true, key := { x.key with
            step := .keyed, txEpoch := 0, rxEpoch := 0, txCount := 0, rxCount := 0, rxNext := 0, rxDerived := true } })
        else abortKeying k.val t
      else s)

/-- An exchange is under way on a spoke. -/
def State.keying (s : State) (k : Nat) : Bool :=
  s.keyAt k .cred || s.keyAt k .encap || s.keyAt k .confirm

/-- LINK_KEY_ABORT (R342): the ABORT that has come in ends the attempt; without one under way it is taken and ends nothing. -/
def execLinkKeyAbort (k : Spoke) (s : State) : Res :=
  .next (match takeMsg k.val 4 s with
    | none => s
    | some (_, t) => if s.ctl then (if s.keying k.val then endAttempt k.val t else t) else s)

/-- LINK_KEY_STEP_TIMEOUT (R342): 100 ms after the step before, 6,250,000 ticks. DESIGN CHOICE: assumption 38. -/
def execLinkKeyStepTimeout (k : Spoke) (s : State) : Res :=
  .next (if s.timed && s.keying k.val && decide ((s.spk k.val).key.since.toNat + 6250000 ≤ s.now.toNat) then
    abortKeying k.val s else s)

/-- LINK_KEY_RETRY (R342): 1 s after a failed attempt, 62,500,000 ticks. DESIGN CHOICE: assumption 38. -/
def execLinkKeyRetry (k : Spoke) (s : State) : Res :=
  .next (if s.timed && s.keyAt k.val .failed && decide ((s.spk k.val).key.since.toNat + 62500000 ≤ s.now.toNat) then
    startKeying k.val (modKey k.val (fun x => { part := x.part, inbox := x.inbox }) s) else s)

/-- LINK_EPOCH_ADVANCE (R341): the sender moves on after 2^32 packets under its key; the receiver, which has discarded the key of
the old epoch when it accepted the first packet under the next one (advanceRx), derives the key of the epoch after that.
DEDUCED: assumption 34. -/
def execLinkEpochAdvance (k : Spoke) (d : Direction) (s : State) : Res :=
  .next (if s.clocked && (s.spk k.val).keyed then
    match d with
    | .send =>
      if 2 ^ 32 ≤ (s.spk k.val).key.txCount.toNat then
        modKey k.val (fun x => { x with txEpoch := x.txEpoch + 1, txCount := 0 }) s else s
    | .receive =>
      modKey k.val (fun x => { x with rxDerived := true }) s
   else s)

end Sys2Proof.Machine
end

