-- ==== Sys2Proof/Machine/Spoke.lean ====
section
/-! DEFINITION. Spokes (R204 to R213, R222): the coordinate, training, the identity record, the cabling plan and its
outcomes, link words. -/

namespace Sys2Proof.Machine

/-! ### The coordinate (R204) -/

/-- A write of SPK_SELF: SET with a rack and a tray, before training starts; any other write is ignored whole. -/
def writeSelf (data : Word) (s : State) : State :=
  if bit data 31 && !s.self.training && decide ((fld data 5 5).toNat ≤ 23) then
    { s with self := { s.self with set := true, rack := fld data 10 8, tray := fld data 5 5 } }
  else s

/-- SPK_SELF_WRITE (R204). -/
def execSpkSelfWrite (p : Port) (data : Word) (s : State) : Res := .next (stewardWrite p (writeSelf data) s)

/-! ### Training (R205, R206) -/

/-- SPK_HOLD holds a spoke DOWN. -/
def State.spokeHeld (s : State) (k : Nat) : Bool :=
  if k < 18 then s.self.hold0.eff.getLsbD k else s.self.hold1.eff.getLsbD (k - 18)

/-- S5 has begun. -/
def State.s5Begun (s : State) : Bool := decide (5 ≤ s.boot.step.toNat)

/-- A spoke starts from DETECT, and with the first one training has started (R204). -/
def startTraining (k : Nat) (s : State) : State :=
  { (s.modSpk k (fun x => { x with state := 1 })) with self := { s.self with training := true } }

/-- SPOKE_TRAINING_START (R205): at S5, after DOWN, or when its hold is released. -/
def execSpokeTrainingStart (k : Spoke) (s : State) : Res :=
  .next (if s.clocked && s.s5Begun && s.self.set && !s.spokeHeld k.val && decide ((s.spk k.val).state = 0) then
    startTraining k.val s else s)

/-- FAR_END_SIGNAL (R205): DETECT to EQUALISE, which begins an attempt. DEDUCED: assumption 36. -/
def execFarEndSignal (k : Spoke) (s : State) : Res :=
  .next (if s.clocked && decide ((s.spk k.val).state = 1) then
    s.modSpk k.val (fun x => { x with state := 2, attempts := satAdd x.attempts 1 }) else s)

/-- EQUALISATION_COMPLETE (R205): EQUALISE to ALIGN. -/
def execEqualisationComplete (k : Spoke) (s : State) : Res :=
  .next (if s.clocked && decide ((s.spk k.val).state = 2) then s.modSpk k.val (fun x => { x with state := 3 }) else s)

/-- ALIGN_MEASUREMENT_DONE (R205): every lane at or below 10^-6 takes the spoke to IDENTIFY, otherwise to DETECT. -/
def execAlignMeasurementDone (k : Spoke) (good : Bool) (s : State) : Res :=
  .next (if s.clocked && decide ((s.spk k.val).state = 3) then
    s.modSpk k.val (fun x => { x with state := if good then 4 else 1 }) else s)

/-- TRAINING_ATTEMPT_TIMEOUT (R205): an attempt that does not reach UP returns to DETECT; the record that has come in stays
stored until the next DOWN (R206). DESIGN CHOICE: assumption 38. -/
def execTrainingAttemptTimeout (k : Spoke) (s : State) : Res :=
  .next (if s.clocked && decide (2 ≤ (s.spk k.val).state.toNat) && decide ((s.spk k.val).state.toNat ≤ 4) then
    s.modSpk k.val (fun x => { x with state := 1, ownAck := false, recIn := false }) else s)

/-- LOSS_OF_SIGNAL (R206): the spoke goes DOWN. DEDUCED: assumption 36. -/
def execLossOfSignal (k : Spoke) (s : State) : Res :=
  .next (if s.clocked && decide ((s.spk k.val).state = 5) then spokeFall k.val 0 s else s)

/-- A strobe puts SPK_HOLD of gatehouse h into effect (R205): a spoke that it holds goes DOWN, a spoke that it frees
starts from DETECT. -/
def strobeHold (h : Nat) (t : Time) (s : State) : State :=
  let old := if h = 0 then s.self.hold0.eff else s.self.hold1.eff
  let s := if h = 0 then { s with self := { s.self with hold0 := s.self.hold0.strobe t } }
    else { s with self := { s.self with hold1 := s.self.hold1.strobe t } }
  let new := if h = 0 then s.self.hold0.eff else s.self.hold1.eff
  (List.range 18).foldl (fun s j =>
    let k := 18 * h + j
    if new.getLsbD j && !old.getLsbD j then spokeFall k 0 s
    else if old.getLsbD j && !new.getLsbD j && s.s5Begun && s.self.set && decide ((s.spk k).state = 0) then startTraining k s
    else s) s

/-! ### The identity record (R207, R208) -/

/-- The first 60 bytes of the own record of a spoke (Table 8-4). -/
def recordBody (k : Nat) (s : State) : List Byte :=
  [1, 0, BitVec.ofNat 8 k, s.boot.step.setWidth 8] ++
  bytesOf 4 (put32 (s.nearCoord k) 0 ||| put32 (ofBit 1 s.self.set) 31) ++ [s.boot.variant] ++ List.replicate 7 0 ++
  bytesOf 8 s.boot.uniqueId ++ bytesOf 8 s.boot.fwset ++ bytesOf 4 (s.cad.lap.setWidth 32) ++ List.replicate 24 0

/-- The own record with its CRC. -/
def ownRecord (k : Nat) (s : State) : List Byte := recordBody k s ++ bytesOf 4 (crc32c (recordBody k s))

/-- IDENTITY_RECORD_SEND (R205, R207): in IDENTIFY, until the far end has acknowledged it. -/
def execIdentityRecordSend (k : Spoke) (s : State) : Res :=
  .next (if s.clocked && decide ((s.spk k.val).state = 4) && !(s.spk k.val).ownAck then
    s.emit (.identity k.val (ownRecord k.val s)) else s)

/-- The receiver's checks of a record: CRC, KIND and COORD.SET. -/
def recordOk (b : List Byte) : Bool :=
  decide (le 32 b 60 4 = crc32c (bytesAt b 0 60)) && decide (le 16 b 0 2 = 1) && bit (le 32 b 4 4) 31

/-- Far module number, far spoke and UNIT_ID of the record held (R208). -/
def SpokeSt.identity (x : SpokeSt) : BitVec 15 × Byte × BitVec 64 :=
  (modNum x.farCoord, byteAt x.far 2, le 64 x.far 16 8)

/-- The S7 check has taken place. -/
def State.s7Begun (s : State) : Bool := decide (7 ≤ s.boot.step.toNat)

/-- The spoke is UP (R205, R208, R223): the outcome is kept for the far end of the last check, the credit book is set, and a
MATCH spoke begins to key (R340). DEDUCED: assumption 37. -/
def spokeUp (k : Nat) (s : State) : State :=
  let s := s.modSpk k (fun x => { x with
    state := 5, cred0 := 16, cred1 := 8, cred2 := 8, ups := satAdd x.ups 1, wasUp := true
    outcome := if x.wasUp && s.s7Begun && decide (x.checked ≠ some x.identity) then 1 else x.outcome
    pair := if x.wasUp && s.s7Begun && decide (x.checked ≠ some x.identity) then 0x3F else x.pair })
  startKeying k s

/-- The spoke is UP once its own record is acknowledged and the far record has come in the same attempt. DEDUCED: assumption
37. -/
def upIfReady (k : Nat) (s : State) : State :=
  if (s.spk k).ownAck && (s.spk k).recIn then spokeUp k s else s

/-- IDENTITY_RECORD_RECEIVE (R207): a record that passes its checks is stored and acknowledged; any other is ignored. -/
def execIdentityRecordReceive (k : Spoke) (record : List Byte) (s : State) : Res :=
  if record.length = 64 then
    .next (if s.clocked && decide ((s.spk k.val).state = 4) && recordOk record then
      upIfReady k.val ((s.modSpk k.val (fun x => { x with far := record, farValid := true, recIn := true })).emit
        (.linkWord k.val { ack := true, epoch := s.linkEpoch k.val }))
      else s)
  else .fault .illFormed

/-- The far end has acknowledged the own record. -/
def recordAcked (k : Nat) (s : State) : State :=
  if (s.spk k).state = 4 then upIfReady k (s.modSpk k (fun x => { x with ownAck := true })) else s

/-- IDENTITY_ACK_RECEIVE (R205). -/
def execIdentityAckReceive (k : Spoke) (s : State) : Res := .next (if s.clocked then recordAcked k.val s else s)

/-- Credits return to the sender's book (R222, R223). -/
def SpokeSt.credit (ret0 ret1 ret2 : BitVec 5) (x : SpokeSt) : SpokeSt :=
  { x with cred0 := BitVec.ofNat 5 (min 16 (x.cred0.toNat + ret0.toNat))
           cred1 := BitVec.ofNat 4 (min 8 (x.cred1.toNat + ret1.toNat))
           cred2 := BitVec.ofNat 4 (min 8 (x.cred2.toNat + ret2.toNat)) }

/-- LINK_WORD_RECEIVE (R202, R222): credits, the record acknowledgement, and the key epoch of the far end. -/
def execLinkWordReceive (k : Spoke) (ret0 ret1 ret2 : BitVec 5) (ack epoch : Bool) (s : State) : Res :=
  .next (if s.clocked then
    let s := if (s.spk k.val).state = 5 then
        s.modSpk k.val (fun x => { x.credit ret0 ret1 ret2 with farEpoch := epoch }) else s
    if ack then recordAcked k.val s else s
   else s)

/-! ### Cabling plans and outcomes (R209 to R213) -/

/-- A record of a cabling plan (Table 8-5). -/
structure PlanRec where
  used     : Bool
  optional : Bool
  coord    : BitVec 18
  spoke    : Byte
  deriving DecidableEq

/-- A record of 16 bytes. -/
def parsePlanRec (b : List Byte) : PlanRec :=
  ⟨bit (byteAt b 1) 0, bit (byteAt b 1) 1, fld (le 32 b 4 4) 0 18, byteAt b 8⟩

/-- The rack plan as the plan space holds it, four words a record. -/
def rackPlan (s : State) : List PlanRec :=
  (List.range 36).map (fun k => parsePlanRec
    ((List.range 4).flatMap (fun i => bytesOf 4 (sget 0 s.self.plan (4 * k + i)))))

/-- The planned far end of a spoke. -/
def plannedEnd (plan : List PlanRec) (k : Nat) : Option (BitVec 18 × Byte) := match plan[k]? with
  | some r => if r.used then some (r.coord, r.spoke) else none
  | none => none

/-- The far end of the stored record of a spoke. -/
def State.actualEnd (s : State) (k : Nat) : Option (BitVec 18 × Byte) :=
  let x := s.spk k
  if x.farValid then some (x.farCoord, byteAt x.far 2) else none

/-- The outcome of a spoke and its partner (R210, Table 8-6). DEDUCED: assumption 50. -/
def outcomeOf (plan : List PlanRec) (s : State) (k : Nat) : BitVec 4 × BitVec 6 :=
  match plannedEnd plan k with
  | none => (if (s.spk k).state = 5 then 1 else 0, 0x3F)
  | some e => match s.actualEnd k with
    | none => (2, 0x3F)
    | some a =>
      if a = e then (3, 0x3F)
      else match (List.range 36).find? (fun t => decide (t ≠ k) && decide (plannedEnd plan t = some a)
          && decide (s.actualEnd t = some e)) with
        | some t => (4, BitVec.ofNat 6 t)
        | none => (if modNum a.1 = modNum e.1 ∧ a.2 ≠ e.2 then 5 else 1, 0x3F)

/-- A spoke takes an outcome, and keys where it has become MATCH (R213, R340); one that becomes MATCH carries packets from the
next tick on. DEDUCED: assumption 37. -/
def setOutcome (k : Nat) (o : BitVec 4 × BitVec 6) (s : State) : State :=
  startKeying k (s.modSpk k (fun x => { x with
    outcome := o.1, pair := o.2
    matchAt := if o.1 = 3 ∧ x.outcome ≠ 3 then some s.now else x.matchAt
    checked := if x.farValid then some x.identity else none }))

/-- The spokes that loaded images mark USED. -/
def State.spokesInUse (s : State) : BitVec 36 := s.images.foldl (fun m e => m ||| e.2.cablingUsed) 0

/-- Every spoke but those named takes its outcome against the rack plan. DEDUCED: assumption 50. -/
def applyPlan (keep : BitVec 36) (s : State) : State :=
  let plan := rackPlan s
  let l := (List.range 36).map (fun k => (k, outcomeOf plan s k))
  l.foldl (fun s (k, o) => if keep.getLsbD k then s else setOutcome k o s) s

/-- S7 is done. -/
def State.s7Done (s : State) : Bool := decide (7 < s.boot.step.toNat) || (decide (s.boot.step = 7) && decide (s.boot.state = 1))

/-- A write of SPK_PLAN_CTL (R213): ignored until S7 is done; RECHECK closes the plan and checks it. -/
def writePlanCtl (recheck open_ : Bool) (s : State) : State :=
  if s.s7Done then
    if recheck then
      let keep := s.spokesInUse
      applyPlan keep { s with self := { s.self with planOpen := false, kept := BitVec.ofNat 6 (popcount keep) } }
    else { s with self := { s.self with planOpen := open_ } }
  else s

/-- PLAN_OPEN (R213). -/
def execPlanOpen (p : Port) (s : State) : Res := .next (stewardWrite p (writePlanCtl false true) s)

/-- PLAN_CLOSE (R213). -/
def execPlanClose (p : Port) (s : State) : Res := .next (stewardWrite p (writePlanCtl false false) s)

/-- RECHECK (R213). -/
def execRecheck (p : Port) (s : State) : Res := .next (stewardWrite p (writePlanCtl true false) s)

end Sys2Proof.Machine
end

