-- ==== Sys2Proof/Machine/Boot.lean ====
section
/-! DEFINITION. The boot steps S0 to S8 (R378 to R387): their entry, their end, their failures, memory training and the
known-answer runs. -/

namespace Sys2Proof.Machine

/-! ### Ends of steps -/

/-- The running boot step is n. -/
def State.inStep (s : State) (n : Nat) : Bool :=
  decide (s.boot.supply = .on) && decide (s.boot.step.toNat = n) && decide (s.boot.state = 0)

/-- A step fails: the fault record of its cause, and STATE failed (R378). -/
def bootFail (code : Word) (die : BitVec 3) (array : Byte) (s : State) : State :=
  let s := writeFault code 0 die array none s
  { s with boot := { s.boot with state := 2 } }

/-- A step is done. -/
def bootDone (s : State) : State := { s with boot := { s.boot with state := 1 } }

/-- The milliseconds of the step as the housekeeping oscillator reports them. DESIGN CHOICE: assumption 46. -/
def stepMs (ms : BitVec 16) (s : State) : State :=
  { s with boot := { s.boot with ms := ms, elapsed := satAdd s.boot.elapsed ms.toNat } }

/-! ### S0 and S1 -/

/-- S0 is done: the rails are in regulation, VCORE at the G1 voltage (Table 17-3), and S1 is entered. -/
def s0Done (s : State) : State :=
  let s := (List.range 4).foldl (fun s p =>
    { s with gear := { s.gear with slews := sput {} s.gear.slews p ⟨coreMv 1, coreMv 1, 0⟩ } }) s
  { s with boot := { s.boot with step := 1, state := 0, ms := 0 } }

/-- S1 can end: CADREF is aligned (R379). DEDUCED: assumption 17. -/
def State.s1Ready (s : State) : Bool := s.cad.aligned && !s.cad.stopped

/-- S1 is done: the fixed-rate PLLs are locked (R379). -/
def s1End (s : State) : State := bootDone { s with cad := { s.cad with fixedLock := true } }

/-! ### S2: firmware and identity (R356, R357, R382, R408, R409) -/

/-- A bank may boot: it holds a bundle that no session has marked invalid (R399), its signatures verify, and its SVN is not below the
floor (R331, R356). -/
def bankBoots (floor : Word) (b : Bank) : Bool := b.valid && b.signed && decide (floor.toNat ≤ b.header.svn.toNat)

/-- The pieces whose programming was interrupted. -/
def Upd.torn (u : Upd) : List Nat := u.started.filter (fun i => (sfind u.present i).isNone)

/-- The sectors of the pieces whose programming was interrupted are erased, in the bank not booted, and the bits of all 16 pieces of
each cleared (R402). -/
def cleanSectors (bank : Bool) (s : State) : State :=
  let torn := s.upd.torn
  let hit := fun (i : Nat) => (torn.map (· / 16)).contains (i / 16)
  let f := if s.upd.bundle.isSome then torn.foldl (fun f i => f.modBank bank (Bank.erase i)) s.flash else s.flash
  { s with flash := f, upd := { s.upd with present := s.upd.present.filter (fun e => !hit e.1),
                                           started := s.upd.started.filter (fun i => !hit i) } }

/-- An activation whose new bank does not boot falls back to the old one, and the session goes on (R400, R408); where the formats of
the two banks differ, the settings return to their defaults (R409). DEDUCED: assumption 48. -/
def activationAtS2 (booted : Bool) (s : State) : State :=
  if s.flash.activating then
    if booted = s.flash.active then
      let reset := decide ((s.flash.bank booted).header.fmt ≠ (s.flash.bank (!booted)).header.fmt)
      { s with flash := if reset then (defaultSettings s.flash).sealSettings s.lodge.prk else s.flash,
               upd := { s.upd with settingsReset := reset } }
    else
      { s with flash := { s.flash with active := booted, activating := false }, upd := { s.upd with result := 0xE } }
  else s

/-- The settings in force are those of the flash, where their record verifies (R335). -/
def loadSettings (s : State) : State :=
  let f := s.flash.readSettings s.lodge.prk
  { s with flash := f, pwr := { s.pwr with leaseLaps := f.leaseLaps, lapseCap := f.lapseCap } }

/-- S2 (R331 to R333, R356, R357, R382): the lodge rebuilds the root and the identity, verifies the banks, and releases the wardens
and power controllers, which read settings and odometer and report a save. Under a debug grant the module, which has no identity then,
shows UNIT_ID as the grant names it: DESIGN CHOICE: assumption 123. DEDUCED: assumption 48. -/
def s2Done (s : State) : State :=
  let debug := s.flash.debugGrant
  let prk := s.flash.prk
  let idPub := identityKey prk
  let floor := s.flash.floorIn prk
  let ok := fun (b : Bool) => bankBoots floor (s.flash.bank b)
  let a := s.flash.active
  if ok a || ok (!a) then
    let endorsed := s.flash.endorses idPub
    if endorsed || debug then
      let booted := if ok a then a else !a
      let x := (s.flash.bank booted).header
      let (s, n) := takeRandom s
      let s := { s with
        boot := { s.boot with bank := booted, fallback := booted != a, debug := debug, identity := endorsed && !debug,
                              uniqueId := if debug then ownUnit else unitIdOf idPub, idPub := idPub,
                              fwset := x.fwset, svn := x.svn, fmt := x.fmt }
        lodge := { s.lodge with root := some Config.rootSecret, prk := prk,
                                bootKey := hkdfExtract (drbgBytes n 48) Config.rootSecret } }
      answerBad (bootDone (tellSave (readOdo (loadSettings (activationAtS2 booted (cleanSectors (!booted) s))))))
    else bootFail (faultCode 0x8 0x002 0) 6 0xFF s
  else bootFail (faultCode 0xA 0x002 0) 6 0xFF s

/-! ### S3: the repair map (R384, R385) -/

/-- The word of region r of pavilion p, by group 4p + r. -/
def regionWord (body : List Byte) (g : Nat) : Word := le 32 body (0x20 + 4 * g) 4

/-- An array group exists on this unit. -/
def State.groupExists (s : State) (g : Nat) : Bool := bit (regionWord s.boot.repair g) 31

/-- HBM_POP of a variant (Table 7-2). -/
def hbmPop (variant : Nat) : BitVec 16 := maskOf 16 (popSites variant)

/-- A region word satisfies R385. -/
def regionOk (w : Word) : Bool :=
  let spare := (fld w 17 5).toNat
  let pass := fld w 0 17
  decide (fld w 22 9 = 0) &&
  (if bit w 31 then decide (spare ≤ 16) && decide (popcount (pass &&& ~~~ BitVec.twoPow 17 spare) = 16)
   else decide (spare = 0x1F))

/-- The number of enabled regions of a map. -/
def enabledRegions (body : List Byte) : Nat := ((List.range 16).filter (fun g => bit (regionWord body g) 31)).length

/-- The offset of the first failing field of a repair map (R385). DEDUCED: assumption 47. -/
def repairFailure (uid : BitVec 64) (body : List Byte) : Option Nat :=
  let v := (byteAt body 0x10).toNat
  let checks : List (Nat × Bool) :=
    [(0x08, decide (le 64 body 8 8 = uid)), (0x10, decide (1 ≤ v) && decide (v ≤ 3)), (0x11, zeroAt body 0x11 1),
     (0x12, decide (le 16 body 0x12 2 = hbmPop v)), (0x14, decide (fld (le 32 body 0x14 4) 1 31 = 0)),
     (0x18, zeroAt body 0x18 8), (0x20, decide (enabledRegions body = 13 + v))]
    ++ (List.range 16).map (fun g => (0x20 + 4 * g, regionOk (regionWord body g)))
    ++ [(0x60, zeroAt body 0x60 416)]
  (checks.find? (fun c => !c.2)).map (·.1)

/-- S3: the verified map of the flash sets the variant and forms the groups, or the step fails (R385). -/
def s3Done (s : State) : State :=
  let fail := fun (d : Nat) => bootFail (faultCode 0xA 0x003 (BitVec.ofNat 16 d)) 6 0xFF s
  if !s.flash.mapSigned then fail 0xFFFF
  else
    let body := s.flash.mapBody
    match repairFailure s.boot.uniqueId body with
    | some d => fail d
    | none => bootDone { s with boot := { s.boot with variant := byteAt body 0x10, repair := body } }

/-! ### S4: memory (R197 to R199) -/

/-- Every stack of the map has trained, and every channel has trained or failed. -/
def State.memoryDone (s : State) : Bool :=
  (popSites s.boot.variant.toNat).all (fun i => (s.hbm i).trained)
  && (List.range 8).all (fun c => (s.ddr c).trained || decide ((s.ddr c).fail ≠ 0))

/-- CAP_GIB (R179): the smallest of the eight RDIMMs, 0 where a channel has failed. -/
def State.commonGib (s : State) : BitVec 9 :=
  if (List.range 8).all (fun c => (s.ddr c).trained) then
    (List.range 8).foldl (fun m c => if (s.ddr c).gib.toNat < m.toNat then (s.ddr c).gib else m) 256
  else 0

/-- Training of a stack that the map lists (R198). -/
def trainStack (i : Nat) (present trained : Bool) (lanes : BitVec 8) (exhausted : Bool) (s : State) : State :=
  let die := BitVec.ofNat 3 (i / 3)
  let logical := ((popSites s.boot.variant.toNat).findIdx? (fun j => decide (j = i))).getD 0
  if present then
    if trained then
      s.modHbm i (fun x => { x with present := true, trained := true, logical := BitVec.ofNat 4 logical, lanes := lanes, fail := 0 })
    else
      bootFail (faultCode 0xA 0x004 (BitVec.ofNat 16 logical)) die 0xFF
        (s.modHbm i (fun x => { x with present := true, logical := BitVec.ofNat 4 logical, lanes := lanes,
                                       fail := if exhausted then 3 else 2 }))
  else
    bootFail (faultCode 0xA 0x004 (BitVec.ofNat 16 (0x100 + i))) die 0xFF
      (s.modHbm i (fun x => { x with present := true, logical := BitVec.ofNat 4 logical, fail := 1 }))

/-- Why a channel does not train (R199, DDR_STATUS.FAIL); 0 where it does. -/
def channelFail (present ecc speed : Bool) (gib : BitVec 9) (trained : Bool) : BitVec 4 :=
  if !present then 1 else if !ecc then 2 else if !speed then 3
  else if gib.toNat < 16 ∨ 256 < gib.toNat then 4 else if !trained then 5 else 0

/-- Memory trains: in S4, until the step is done. Stacks and channels train in parallel, so that a failure of one, which fails the step,
ends the training of no other (R197). -/
def State.training4 (s : State) : Bool :=
  s.clocked && decide (s.boot.step = 4) && decide (s.boot.state ≠ 1)

/-- MEMORY_TRAINING_DONE (R197 to R199). -/
def execMemoryTrainingDone (r : TrainResult) (s : State) : Res :=
  .next (if s.training4 then
    match r with
    | .stack site present trained lanes exhausted =>
      if (popSites s.boot.variant.toNat).contains site.val then trainStack site.val present trained lanes exhausted s else s
    | .channel ch present ecc speed gib trained =>
      let f := channelFail present ecc speed gib trained
      s.modDdr ch.val (fun x => { x with present := present, trained := decide (f = 0),
                                         gib := if present then gib else 0, fail := f })
   else s)

/-- The bridges are trained with the memories: every pavilion's five. DESIGN CHOICE: assumption 119. -/
def bridgesUp (s : State) : State := { s with bridges := [0x1F, 0x1F, 0x1F, 0x1F] }

/-! ### S5: the link credential (R339) -/

/-- The signed part of the link credential (Table 12-2). -/
def credBody (id : List Byte) (n : Nat) (s : State) : List Byte :=
  fit 8 id ++ bytesOf 8 s.boot.uniqueId ++ fit 1568 (Config.kemPublic n) ++ fit 97 (Config.ecdhPublic n) ++
  List.replicate 15 0 ++ fit 432 s.boot.idPub ++ fit 16608 s.flash.endorsePair

/-- The lodge signs the link credential, once per boot; a module without an identity has none (R357). -/
def makeCredential (s : State) : State :=
  if s.boot.identity then
    let (s, n) := takeRandom s
    let (s, m) := takeRandom s
    let (s, r) := takeRandom s
    let body := credBody (drbgBytes m 8) n s
    { s with lodge := { s.lodge with credN := n, cred := body ++ signPair s.lodge.prk (drbgBytes r 48) body } }
  else s

/-! ### S6: known answers (R383, R386, R387) -/

/-- The array domains start on PLL A at G1, the idle PLLs are set for the G5 runs, and the brake stands at 14/16 (R383, R386).
DEDUCED: assumption 49. -/
def startArrays (s : State) : State :=
  let s := (List.range 4).foldl (fun s p => s.modPll p (fun _ =>
    { active := false, activeLock := true, idleLock := true, ratio := BitVec.ofNat 5 (cptOf 5) })) s
  setBrake 14 { s with gear := { s.gear with gear := 1, programmed := 5 } }

/-- Die and array of a known-answer unit, and its row of Table 14-3. -/
def katPlace (u : KatUnit) : BitVec 3 × Byte × Nat := match u with
  | .array x => (BitVec.ofNat 3 (x.val / 64), BitVec.ofNat 8 (x.val % 64), 0)
  | .edge x => (BitVec.ofNat 3 (x.val / 64), BitVec.ofNat 8 (x.val % 64), 1)
  | .decoder d => (BitVec.ofNat 3 d.val, 0xFF, 2)
  | .mover m => (moverDie m.val, BitVec.ofNat 8 (moverNum m.val), 3)
  | .lodge => (6, 0xFF, 4)

/-- BOOT_KAT of a pavilion after a run on one of its arrays or edge units. DEDUCED: assumption 49. -/
def Kat.note (bad : Bool) (region : Nat) (ix : Byte) (k : Kat) : Kat :=
  { run := true, groups := if bad then k.groups ||| BitVec.twoPow 4 region else k.groups,
    first := if !k.run then (if bad then ix else 0xFF) else if bad && decide (k.first = 0xFF) then ix else k.first }

/-- The array of a known-answer unit. -/
def katArray (u : KatUnit) : Option Nat := match u with
  | .array x => some x.val
  | .edge x => some x.val
  | _ => none

/-- The array and edge-unit runs of a pavilion at G5 are those on its PLL B (R386). -/
def katPll (u : KatUnit) (g5 : Bool) (s : State) : State := match katArray u with
  | none => s
  | some x => s.modPll (x / 64) (fun p => { p with active := g5 })

/-- The run at the other gear of an array or an edge unit gave another CRC (R74, R386). -/
def State.katDiffers (s : State) (u : KatUnit) (g5 : Bool) (crc : BitVec 64) : Bool :=
  (katArray u).isSome && s.boot.katRuns.any (fun e => decide (e.1 = u) && (e.2.1 != g5) && decide (e.2.2 ≠ crc))

/-- The units of Table 14-3 on this module: every enabled array and its edge unit, the decoders of the six dies, the movers, the
lodge engines. DEDUCED: assumption 49. -/
def State.katUnits (s : State) : List KatUnit :=
  let on := (List.finRange 256).filter (fun x => s.groupExists (x.val / 16))
  on.map .array ++ on.map .edge ++ ((List.finRange 8).filter (fun d => decide (d.val < 6))).map .decoder ++
  (List.finRange 80).map .mover ++ [.lodge]

/-- The run of a unit at a gear has been done. -/
def State.katHas (s : State) (u : KatUnit) (g5 : Bool) : Bool :=
  s.boot.katRuns.any (fun e => decide (e.1 = u) && (e.2.1 == g5))

/-- The pavilion in which the runs of a unit stand, where they stand in one. -/
def katPav (u : KatUnit) : Option Nat := if (katPlace u).1.toNat < 4 then some (katPlace u).1.toNat else none

/-- A pavilion whose runs have begun and are not all done, so that no other pavilion's begin: the runs are made one pavilion at a time
(R386). -/
def State.katOpen (s : State) (p : Nat) : Bool :=
  s.boot.katRuns.any (fun e => decide (katPav e.1 = some p)) &&
  s.katUnits.any (fun u => decide (katPav u = some p) && !(s.katHas u false && s.katHas u true))

/-- A run of a unit may be made now. -/
def State.katFree (s : State) (u : KatUnit) : Bool := match katPav u with
  | none => true
  | some p => (List.range 4).all (fun q => decide (q = p) || !s.katOpen q)

/-- KNOWN_ANSWER_RUN_DONE (R386, R387): the CRC-64 is compared with the firmware's value, and with the run at the other gear; the
first mismatch is recorded and fails S6, and BOOT_KAT notes every failing group. DEDUCED: assumption 49. -/
def execKnownAnswerRunDone (u : KatUnit) (g5 : Bool) (crc expected : BitVec 64) (s : State) : Res :=
  .next (if s.clocked && decide (s.boot.step = 6) && decide (s.boot.state ≠ 1) && s.katFree u then
    let bad := decide (crc ≠ expected) || s.katDiffers u g5 crc
    let runs := s.boot.katRuns.filter (fun e => !(decide (e.1 = u) && (e.2.1 == g5))) ++ [(u, g5, crc)]
    let s := katPll u g5 { s with boot := { s.boot with katRuns := runs } }
    let s := match katArray u with
      | none => s
      | some x => { s with boot := { s.boot with
          kats := smod {} s.boot.kats (x / 64) (Kat.note bad (x % 64 / 16) (BitVec.ofNat 8 (x % 64))) } }
    if bad && !s.boot.katFailed then
      let (die, array, row) := katPlace u
      let s : State := { s with boot := { s.boot with katFailed := true } }
      let code := faultCode 0xA 0x005 (BitVec.ofNat 16 (row + if g5 then 16 else 0))
      if s.boot.state = 0 then bootFail code die array s else s
    else s
   else s)

/-- Every run of Table 14-3 is done, at G1 and at G5, and every one has matched. -/
def State.katsPass (s : State) : Bool :=
  !s.boot.katFailed && s.katUnits.all (fun u => s.katHas u false && s.katHas u true)

/-- The new bank has completed S6: the floor rises to the larger of the old one and SVN_FLOOR of the bank, the session closes, RESULT
is ACTIVATED, an UPDATE event is queued (R408). -/
def finishActivation (s : State) : State :=
  if s.flash.activating then
    let new := (s.flash.bank s.boot.bank).header.svnFloor
    let old := s.flash.floorIn s.lodge.prk
    let f := { s.flash with activating := false }.setFloor s.lodge.prk (if old.toNat < new.toNat then new else old)
    queueEvent 0x000A 0 0 0 { s with
      flash := f
      upd := { s.upd with state := 0, result := 0xB, bundle := none, present := [], started := [], tableOk := false } }
  else s

/-- The array domains run on PLL A again, and the brake is free. DEDUCED: assumption 49. -/
def endKats (s : State) : State :=
  let s := (List.range 4).foldl (fun s p => s.modPll p (fun x => { x with active := false })) s
  let s := setBrake 16 s
  { s with pwr := { s.pwr with brakeDue := true } }

/-- S6 is done: the stores are zeroed (R99) and an activation is finished. -/
def s6Done (s : State) : State := bootDone (finishActivation (zeroAll (endKats s)))

/-! ### The commands -/

/-- The timeout of a step in ms; S1, S5, S7 and S8 have none (Table 14-1). -/
def stepLimit (n : Nat) : Option Nat := match n with
  | 0 => some 500 | 2 => some 10000 | 3 => some 1000 | 4 => some 8000 | 6 => some 4000 | _ => none

/-- The running step has not been done within its timeout; S0's does not run while it waits for the diodes (R394). -/
def State.overdue (s : State) (ms : BitVec 16) : Bool := match stepLimit s.boot.step.toNat with
  | none => false
  | some l => s.inStep s.boot.step.toNat && decide (l < ms.toNat) && !s.boot.tripWait

/-- The running step fails with STEP_TIMEOUT, whatever its other causes (R378). -/
def timedOut (ms : BitVec 16) (s : State) : State :=
  bootFail (faultCode 0xA 0x001 (s.boot.step.setWidth 16)) 7 0xFF (stepMs ms s)

/-- What the running step comes to where it ends within its timeout; one that cannot end yet goes on, as S0 does while a trip keeps the
VCORE regulators open (R295). -/
def endStep (ms : BitVec 16) (s : State) : State :=
  let t := stepMs ms s
  match s.boot.step.toNat with
  | 0 => if s.boot.tripWait || s.thm.trip then s else s0Done t
  | 1 => if s.s1Ready then s1End t else s
  | 2 => s2Done t
  | 3 => s3Done t
  | 4 => if s.memoryDone then bridgesUp (bootDone { t with
      capGib := s.commonGib, mgmt := { t.mgmt with odo := { t.mgmt.odo with ddrGib := s.commonGib.setWidth 16 } } }) else s
  | 5 => if s.spokesUp.length = 36 ∨ 10000 ≤ ms.toNat then bootDone t else s
  | 6 => if s.katsPass then s6Done t else s
  | 7 => bootDone t
  | _ => s

/-- BOOT_STEP_DONE (R378): step n, where it is the running one, comes to its end, ms after its entry. With CADREF stopped no step from
S1 on ends, and its timeout, on the housekeeping oscillator, runs on (R41). -/
def execBootStepDone (n : BitVec 4) (ms : BitVec 16) (s : State) : Res :=
  .next (if s.inStep n.toNat then
    (if s.overdue ms then timedOut ms s else if s.cad.stopped && decide (n ≠ 0) then s else endStep ms s) else s)

/-- STEP_TIMEOUT (R378): the running step is not done within its timeout. -/
def execStepTimeout (ms : BitVec 16) (s : State) : Res := .next (if s.overdue ms then timedOut ms s else s)

/-- The precondition of a step (Table 14-1). DEDUCED: assumption 47. -/
def stepReady (n : Nat) (s : State) : Bool := match n with
  | 5 => s.self.set
  | 7 => !s.self.plan.isEmpty
  | 8 => s.cad.synced && decide (s.cad.mismatch = 0)
  | _ => true

/-- What entering a step does at once. DEDUCED: assumption 50. -/
def enterStep (n : Nat) (s : State) : State := match n with
  | 5 => makeCredential s
  | 6 => startArrays s
  | 7 => applyPlan 0 s
  | 8 => { bootDone s with lodge := { s.lodge with root := none } }
  | _ => s

/-- A steward write of BOOT_STEP.ADVANCE (R378). -/
def advance (n : Nat) (s : State) : State :=
  if s.boot.state = 1 ∧ n = s.boot.step.toNat + 1 ∧ n ≤ 8 ∧ stepReady n s then
    enterStep n { s with boot := { s.boot with step := BitVec.ofNat 4 n, state := 0, refused := false, ms := 0 } }
  else { s with boot := { s.boot with refused := true } }

/-- BOOT_ADVANCE (R378). -/
def execBootAdvance (p : Port) (n : BitVec 4) (s : State) : Res := .next (stewardWrite p (advance n.toNat) s)

end Sys2Proof.Machine
end

