-- ==== Sys2Proof/Machine/Layout.lean ====
section
/-! DEFINITION. The layout image as a container (R111 to R116, Tables 5-1 to 5-5): header, section table, the records that
every later check needs, and the checks of the header and of the section table (R136). -/

namespace Sys2Proof.Machine

/-! ### Refusals (R136, R137, Table 5-13) -/

/-- A refusal: CODE, SECTION, RECORD and DETAIL of the load result. -/
structure Refuse where
  code    : Nat
  sect    : Nat := 0xFFFF
  record  : Nat := 0xFFFFFFFF
  detail  : Nat := 0
  deriving DecidableEq, Repr

/-- One check of a field: whether it fails, the code and DETAIL. -/
abbrev Chk := Bool × Nat × Nat

/-- The first failing check of a list that stands in the order of R136. -/
def firstBad (l : List Chk) : Option (Nat × Nat) := (l.find? (·.1)).map (·.2)

/-- A reserved range of bytes of a record (R435). DEDUCED: assumption 62. -/
def rsv (b : List Byte) (off n : Nat) : Chk := (!zeroAt b off n, 0x18, off)

/-- A field outside its range (R435). DEDUCED: assumption 62. -/
def range (bad : Bool) (off : Nat) : Chk := (bad, 0x18, off)

/-! ### Sections (Tables 5-2 and 5-3) -/

/-- A section table entry with its body. -/
structure Sect where
  ix      : Nat
  entry   : List Byte
  type    : Nat
  phase   : Nat
  variant : Nat
  scope   : BitVec 16
  offset  : Nat
  length  : Nat
  count   : Nat
  body    : List Byte

/-- An ALLOTMENT record (Table 5-5). -/
structure AllotRec where
  slice     : BitVec 16
  groups    : BitVec 16
  ghMovers  : BitVec 16
  poll      : BitVec 16
  cfgPart   : Nat
  cfgOffset : Nat
  ttPages   : Nat

/-- A PARTITION record (Table 5-6). -/
structure PartRec where
  allot : Nat
  space : Nat
  base  : Nat
  count : Nat

/-- What every check of an image uses: the header fields, the JOB record, the sections, the allotments and partitions. -/
structure Img where
  flags    : BitVec 16
  phases   : Nat
  gears    : BitVec 8
  regroups : Nat
  mask     : BitVec 16
  digest   : BitVec 384
  sects    : List Sect
  jobSeed  : BitVec 64
  jobId    : BitVec 64
  members  : Nat
  rank     : Nat
  coord    : BitVec 32
  allots   : List AllotRec
  parts    : List PartRec

/-- A section table entry of an image. -/
def parseSect (image : List Byte) (i : Nat) (e : List Byte) : Sect :=
  let off := leNat (bytesAt e 8 4)
  let len := leNat (bytesAt e 12 4)
  { ix := i, entry := e, type := leNat (bytesAt e 0 2), phase := leNat (bytesAt e 2 1), variant := leNat (bytesAt e 3 1),
    scope := le 16 e 4 2, offset := off, length := len, count := leNat (bytesAt e 16 4), body := (image.drop off).take len }

/-- An ALLOTMENT record. -/
def parseAllot (b : List Byte) : AllotRec :=
  { slice := le 16 b 2 2, groups := le 16 b 4 2, ghMovers := le 16 b 6 2, poll := le 16 b 8 2, cfgPart := (byteAt b 10).toNat,
    cfgOffset := leNat (bytesAt b 12 4), ttPages := leNat (bytesAt b 16 2) }

/-- A PARTITION record. -/
def parsePart (b : List Byte) : PartRec :=
  ⟨(byteAt b 0).toNat, (byteAt b 1).toNat, leNat (bytesAt b 4 4), leNat (bytesAt b 8 4)⟩

/-- The sections of a type. -/
def ofType (l : List Sect) (t : Nat) : List Sect := l.filter (fun x => decide (x.type = t))

/-- The records of the first section of a type. -/
def firstRecs (l : List Sect) (t size : Nat) : List (List Byte) := match ofType l t with
  | [] => []
  | x :: _ => recs size x.body

/-- An image as data. -/
def parseImg (image : List Byte) : Img :=
  let h := image.take 256
  let n := leNat (bytesAt h 0x10 2)
  let l := ((recs 32 ((image.drop 256).take (32 * n))).zipIdx.map (fun (e, i) => parseSect image i e))
  let job := (firstRecs l 1 64).headD []
  { flags := le 16 h 0x12 2, phases := (byteAt h 0x15).toNat, gears := byteAt h 0x16, regroups := (byteAt h 0x17).toNat,
    mask := le 16 h 0x18 2, digest := BitVec.ofNat 384 (leNat (bytesAt h 0x40 48).reverse), sects := l,
    jobSeed := le 64 job 0 8, jobId := le 64 job 8 8, members := leNat (bytesAt job 16 2), rank := leNat (bytesAt job 18 2),
    coord := le 32 job 20 4, allots := (firstRecs l 2 64).map parseAllot, parts := (firstRecs l 3 16).map parsePart }

/-- CONFIDENTIAL of the header. -/
def Img.conf (g : Img) : Bool := bit g.flags 0

/-- The gears with timetables. -/
def Img.gearList (g : Img) : List Nat := [1, 2, 3, 4, 5].filter (fun i => g.gears.getLsbD i)

/-- The SCOPE codes of an allotment's movers (R79, Table 5-2). -/
def AllotRec.movers (a : AllotRec) : List (BitVec 16) :=
  (setBits a.groups).flatMap (fun g => (List.range 4).map (fun m => BitVec.ofNat 16 (16 * (g / 4) + 4 * (g % 4) + m)))
  ++ (setBits a.ghMovers).map (fun m => 0x8000#16 ||| BitVec.ofNat 16 m)

/-- The local index of the allotment that owns the mover of a SCOPE code. -/
def Img.moverAllot (g : Img) (scope : BitVec 16) : Option Nat := g.allots.findIdx? (fun a => a.movers.contains scope)

/-- The local index of the allotment that a phased section belongs to. -/
def Img.sectAllot (g : Img) (x : Sect) : Option Nat :=
  if x.type = 7 then g.moverAllot x.scope else if x.scope.toNat < g.allots.length then some x.scope.toNat else none

/-- Bytes of a record of a section type (Table 5-3); 0 where any length is allowed. -/
def recordBytes (type : Nat) : Nat := match type with
  | 1 => 64 | 2 => 64 | 3 => 16 | 4 => 32 | 5 => 320 | 6 => 16 | 7 => 64 | 8 => 16 | 9 => 16 | 10 => 16 | 11 => 16 | 12 => 16
  | 13 => 32 | 14 => 32 | 15 => 16 | _ => 0

/-- A known section type. -/
def typeOk (t : Nat) : Bool := (decide (1 ≤ t) && decide (t ≤ 15)) || decide (t = 0x7FFF)

/-- A phased type. -/
def phased (t : Nat) : Bool := decide (4 ≤ t) && decide (t ≤ 8)

/-! ### The header (R136, item 2) -/

/-- The header checks that precede DIGEST, in their order. A section table beyond IMAGE_LEN is refused with SECT_COUNT, and a GEARS
without G1 with the type TIMETABLE. DESIGN CHOICE: assumption 118. -/
def headerChecks (length : Word) (s : State) (h : List Byte) : List Chk :=
  let len := leNat (bytesAt h 0x0C 4)
  let n := leNat (bytesAt h 0x10 2)
  [ (decide (le 32 h 0 4 ≠ 0x31494C59), 0x10, 0), (decide (le 32 h 8 4 ≠ 256), 0x10, 8),
    (decide (le 16 h 4 2 ≠ 1) || decide (2 < leNat (bytesAt h 6 2)), 0x11, leNat (bytesAt h 4 4)),
    (decide (len ≠ length.toNat) || decide (len < 512) || decide (268435456 < len) || decide (len % 32 ≠ 0), 0x12, 0x0C),
    range (decide (n < 1) || decide (1024 < n) || decide (len < 256 + 32 * n)) 0x10,
    range (decide (4 ≤ leNat (bytesAt h 0x12 2))) 0x12,
    (decide (byteAt h 0x14 ≠ s.boot.variant), 0x15, s.boot.variant.toNat),
    range (decide ((byteAt h 0x15).toNat < 1) || decide (8 < (byteAt h 0x15).toNat)) 0x15,
    (!bit (byteAt h 0x16) 1, 0x17, 8), range (decide (byteAt h 0x16 &&& 0xC1 ≠ 0)) 0x16,
    range (decide (4 < (byteAt h 0x17).toNat)) 0x17, rsv h 0x1A 6,
    (decide (le 64 h 0x20 8 ≠ s.boot.fwset), 0x14, s.boot.fwset.toNat % 2 ^ 32), rsv h 0x30 16, rsv h 0x70 144 ]

/-- DIGEST (R112): SHA-384 of the image with bytes 0x40 to 0x6F taken as zero. -/
def digestOk (image : List Byte) : Bool :=
  decide (bytesAt image 0x40 48 = digestBytes (sha384 (image.take 0x40 ++ List.replicate 48 0 ++ image.drop 0x70)))

/-! ### The section table (R114, R136, item 3) -/

/-- The numbers of records that a type may have (Table 5-3). DEDUCED: assumptions 62, 63. -/
def countOk (type count : Nat) : Bool := match type with
  | 1 => count == 1
  | 2 => decide (1 ≤ count) && decide (count ≤ 16)
  | 3 => decide (1 ≤ count) && decide (count ≤ 64)
  | 7 => decide (count ≤ 512)
  | _ => true

/-- Two ranges of bytes meet. -/
def meet (a n b m : Nat) : Bool := decide (a < b + m) && decide (b < a + n)

/-- The checks of one section table entry, in ascending byte offset; of a NOTE section only what belongs to its content, LENGTH and COUNT,
is left unchecked (R114, R435). DEDUCED: assumption 62. -/
def entryChecks (g : Img) (len : Nat) (x : Sect) : List Chk :=
  let rb := recordBytes x.type
  let scopeBad := if phased x.type then (g.sectAllot x).isNone else decide (x.scope ≠ 0xFFFF)
  let variantBad := if x.type = 8 then
      !(g.gearList.contains (x.variant % 16)) || decide (g.regroups < x.variant / 16) else decide (x.variant ≠ 0)
  let same := fun (y : Sect) => decide (y.ix < x.ix) && decide (y.type = x.type) && decide (y.phase = x.phase) &&
    decide (y.variant = x.variant) && decide (y.scope = x.scope)
  let head : List Chk :=
    [ (!typeOk x.type, 0x16, x.type),
      range (if phased x.type then decide (g.phases ≤ x.phase) else decide (x.phase ≠ 0xFF)) 2,
      range variantBad 3, range scopeBad 4, rsv x.entry 6 2,
      (decide (x.offset % 32 ≠ 0) || decide (len < x.offset + x.length) || decide (x.offset < 256 + 32 * g.sects.length)
        || g.sects.any (fun y => decide (y.ix < x.ix) && meet y.offset y.length x.offset x.length), 0x12, 8) ]
  if x.type = 0x7FFF then head ++ [rsv x.entry 20 12]
  else head ++
    [ range (decide (x.length ≠ x.count * rb)) 12, range (!countOk x.type x.count) 16, rsv x.entry 20 12,
      (decide (x.type ≠ 14) && g.sects.any same, 0x17, x.type),
      (decide (x.type = 14) && decide (g.regroups < (((ofType g.sects 14).filter (fun y => decide (y.ix ≤ x.ix))).length)), 0x17, 14) ]

/-- The sections that an image must carry (R114, R238): type, phase, VARIANT and SCOPE. -/
def Img.required (g : Img) : List (Nat × Nat × Nat × BitVec 16) :=
  let one := fun (t : Nat) => (t, 0xFF, 0, (0xFFFF : BitVec 16))
  [one 1, one 2, one 3]
  ++ (List.range g.phases).flatMap (fun p =>
      (List.range g.allots.length).flatMap (fun a =>
        [4, 5, 6].map (fun t => (t, p, 0, BitVec.ofNat 16 a))
        ++ ((g.allots[a]?).elim [] AllotRec.movers).map (fun m => (7, p, 0, m))
        ++ g.gearList.flatMap (fun k => (List.range (g.regroups + 1)).map (fun v => (8, p, 16 * v + k, BitVec.ofNat 16 a)))))
  ++ [one 9] ++ (if 1 < g.members then [one 12, one 13] else []) ++ (if g.conf then [one 15] else [])

/-- A required section is there. -/
def Img.has (g : Img) (r : Nat × Nat × Nat × BitVec 16) : Bool :=
  g.sects.any (fun x => decide (x.type = r.1) && decide (x.phase = r.2.1) && decide (x.variant = r.2.2.1) && decide (x.scope = r.2.2.2))

/-- The refusal of an image without a required section: TT_VARIANT for a timetable of a gear or variant, else SECTION_COUNT (Table
5-13). DEDUCED: assumption 63. -/
def missing (r : Nat × Nat × Nat × BitVec 16) : Refuse :=
  if r.1 = 8 then { code := 0x82, detail := 65536 * (r.2.2.1 / 16) + 256 * r.2.1 + r.2.2.1 % 16 } else { code := 0x17, detail := r.1 }

/-- The checks of the section table: each entry in order, then the missing sections. DEDUCED: assumptions 61, 63. -/
def tableFailure (g : Img) (len : Nat) : Option Refuse :=
  match g.sects.findSome? (fun x => (firstBad (entryChecks g len x)).map (fun (c, d) => ({ code := c, sect := x.ix, detail := d } : Refuse))) with
  | some r => some r
  | none => match g.required.find? (fun r => !g.has r) with
    | some r => some (missing r)
    | none => if (ofType g.sects 14).length ≠ g.regroups then some { code := 0x17, detail := 14 } else none

end Sys2Proof.Machine
end

