-- ==== Sys2Proof/Machine/LayoutParts.lean ====
section
/-! DEFINITION. What an image makes of each of its allotments before it has a number: partitions, configuration store,
timetables, turnstile runs, staging buffers, plans and memberships (R117 to R129, R238, R249). -/

namespace Sys2Proof.Machine

/-! ### Partitions and the configuration store (R119, R120) -/

/-- The module memory address of a partition's first byte (R119, R176). -/
def PartRec.addr (p : PartRec) : Nat := if p.space = 0 then p.base * 2 ^ 30 else 2 ^ 47 + 2 ^ 36 + p.base * 2 ^ 30

/-- A partition as its first granule and its number of granules. -/
def PartRec.run (p : PartRec) : Nat × Nat := (granuleOf p.addr, p.count)

/-- The granules of a local allotment. -/
def Img.partsOf (g : Img) (a : Nat) : List (Nat × Nat) := (g.parts.filter (fun p => decide (p.allot = a))).map PartRec.run

/-- The first byte of an allotment's configuration store. -/
def Img.cfgBase (g : Img) (r : AllotRec) : Nat := ((g.parts[r.cfgPart]?).elim 0 PartRec.addr) + r.cfgOffset

/-- The sections that an allotment's configuration store holds, in section table order. DESIGN CHOICE: assumption 118. -/
def Img.storeSects (g : Img) (a : Nat) : List Sect :=
  g.sects.filter (fun x => decide (4 ≤ x.type) && decide (x.type ≤ 7) && decide (g.sectAllot x = some a))

/-- A length rounded up to 4,096 bytes. -/
def page4k (n : Nat) : Nat := (n + 4095) / 4096 * 4096

/-- The place of each section of a configuration store: each starts at a 4,096-byte boundary. -/
def placeSects (addr : Nat) (l : List Sect) : List (Sect × Nat) := match l with
  | [] => []
  | x :: t => (x, addr) :: placeSects (addr + page4k x.length) t

/-- The bytes of an allotment's configuration store. -/
def Img.storeBytes (g : Img) (a : Nat) : Nat := ((g.storeSects a).map (fun x => page4k x.length)).sum

/-- The pavilion of each join of a section (R141). -/
def joinPavs (x : Sect) : List Nat := (recs 16 x.body).map (fun b => joinPav (parseJoin b))

/-- A section as the configuration store holds it. -/
def cfgSec (e : Sect × Nat) : CfgSec :=
  let x := e.1
  { type := BitVec.ofNat 16 x.type, phase := BitVec.ofNat 8 x.phase,
    mover := if x.type = 7 then BitVec.ofNat 8 (moverOf x.scope) else 0xFF, addr := BitVec.ofNat 48 e.2, count := x.count,
    pavs := if x.type = 6 then joinPavs x else [] }

/-! ### Allotments -/

/-- The timetables of a local allotment. -/
def Img.tablesOf (g : Img) (a : Nat) : List Timetable :=
  ((ofType g.sects 8).filter (fun x => decide (x.scope.toNat = a))).map (fun x => parseTimetable x.body)

/-- An allotment of an image, as commit makes it but for what the commit itself adds. -/
def Img.allot (g : Img) (a : Nat) (r : AllotRec) : AllotSt :=
  { localIx := BitVec.ofNat 8 a, slice := fld r.slice 0 12, groups := r.groups, ghMovers := r.ghMovers, ttPages := r.ttPages,
    cfgSecs := (placeSects (g.cfgBase r) (g.storeSects a)).map cfgSec, parts := g.partsOf a,
    poll := let p : BitVec 13 := if r.poll = 0 then 64 else fld r.poll 0 13
            ⟨p, p, p, none⟩,
    tables := g.tablesOf a }

/-- The allotments of an image in ascending local index. -/
def Img.all (g : Img) : List AllotSt := g.allots.zipIdx.map (fun (r, i) => g.allot i r)

/-- An allotment of an image by local index. -/
def Img.allotAt (g : Img) (a : Nat) : Option AllotSt := (g.allots[a]?).map (g.allot a)

/-- A turnstile run: first, number, local allotment (Table 5-10). -/
def parseRun (b : List Byte) : Nat × Nat × Nat := (leNat (bytesAt b 0 2), leNat (bytesAt b 2 2), (byteAt b 4).toNat)

/-- The turnstile runs of an image. -/
def Img.runs (g : Img) : List (Nat × Nat × Nat) := (firstRecs g.sects 9 16).map parseRun

/-- A turnstile lies in a run of a local allotment. -/
def Img.inRuns (g : Img) (a t : Nat) : Bool :=
  g.runs.any (fun r => decide (r.2.2 = a) && decide (r.1 ≤ t) && decide (t < r.1 + r.2.1))

/-- The staging buffers of an image. -/
def Img.staging (g : Img) : List StagingBuf := (firstRecs g.sects 10 16).map parseStaging

/-- The bytes of a buffer of a local allotment; 0 where it claims none of that number. -/
def Img.bufBytes (g : Img) (a : Nat) (id : BitVec 16) : Nat :=
  ((g.staging.find? (fun b => decide (b.id = id) && decide (b.allot.toNat = a))).map (·.bytes)).getD 0

/-! ### Memberships and plans (R238, R249) -/

/-- The records of a COLLECTIVE or REGROUP section with a record type. -/
def ofRtype (l : List (List Byte)) (t : Byte) : List (List Byte) := l.filter (fun b => decide (byteAt b 0 = t))

/-- The member records of a COLLECTIVE or REGROUP section as coordinates. -/
def memberCoords (l : List (List Byte)) : List (BitVec 18) := (ofRtype l 2).map (fun b => le 18 b 8 4)

/-- The records of the COLLECTIVE section. -/
def Img.coll (g : Img) : List (List Byte) := firstRecs g.sects 13 32

/-- The membership of a regroup variant: the member list of its section; the module alone in an image without one. -/
def Img.roster (g : Img) (v : Nat) : List (BitVec 18) :=
  let own := [fld g.coord 0 18]
  if v = 0 then (if g.coll.isEmpty then own else memberCoords g.coll)
  else match (ofType g.sects 14).find? (fun x => decide ((byteAt x.body 1).toNat = v)) with
    | none => own
    | some x => memberCoords (recs 32 x.body)

/-- The plan records. -/
def Img.plans (g : Img) : List Plan := (ofRtype g.coll 3).map parsePlan

/-- The stage records. -/
def Img.stages (g : Img) : List Stage := (ofRtype g.coll 4).map parseStage

/-- The local allotment that a plan belongs to: the owner of its IN_BUF (R249), of the first record where two allotments have a
buffer of that number. DESIGN CHOICE: assumption 118. -/
def Img.planAllot (g : Img) (p : Plan) : Option Nat :=
  (g.staging.find? (fun b => decide (b.id = p.inBuf))).map (fun b => b.allot.toNat)

/-- The stages of a plan in the membership of a variant. -/
def Img.stageInfo (g : Img) (a : Nat) (v : Nat) (p : Plan) : List StageInfo :=
  let groups := (g.allots[a]?).elim 0 (·.groups)
  stageInfos (groupOf (g.roster v) groups (fld g.coord 0 18)) p.segBytes ((g.stages.drop p.firstStage).take p.nStages)

/-- The variants of the image that list this module. -/
def Img.ownVariants (g : Img) : List Nat :=
  (List.range (g.regroups + 1)).filter (fun v => (g.roster v).contains (fld g.coord 0 18))

/-- The routing records of the image. DEDUCED: assumption 69. -/
def Img.routes (g : Img) : List (List Byte) := firstRecs g.sects 11 16

/-- A ROUTING record: slice, destination module, gatehouse, egress. -/
def parseRoute (b : List Byte) : BitVec 16 × BitVec 16 × Nat × Nat :=
  (le 16 b 0 2, le 16 b 2 2, (byteAt b 4).toNat, (byteAt b 5).toNat)

/-- The egress spoke that the image's records name for a slice and a module in the table of gatehouse h. -/
def Img.egress (g : Img) (slice : BitVec 12) (h : Nat) (dst : BitVec 15) : Option Nat :=
  ((g.routes.map parseRoute).find? (fun q => decide (fld q.1 0 12 = slice) && decide (fld q.2.1 0 15 = dst) && decide (q.2.2.1 = h))).map
    (fun q => q.2.2.2)

/-- The spoke by which a segment of an allotment's plan leaves for a module: that of the gatehouse whose engine sends (R254). -/
def Img.sendSpoke (g : Img) (a : Nat) (i : StageInfo) (seg : Nat) (c : BitVec 18) : Option Nat :=
  let slice : BitVec 12 := (g.allots[a]?).elim 0 (fun r => fld r.slice 0 12)
  g.egress slice (pickGh (g.egress slice 0 (modNum c)) (g.egress slice 1 (modNum c)) (segGh i seg)) (modNum c)

/-- The descriptors of an image that send to a spoke, each with its allotment and the gatehouse of its mover. -/
def Img.sendDescs (g : Img) : List (Nat × Nat × Desc) := (ofType g.sects 7).flatMap (fun x => match g.moverAllot x.scope with
  | none => []
  | some a => ((recs 64 x.body).map parseDesc).filterMap (fun d =>
      if d.dstSp = 5 then some (a, (fld x.scope 0 7).toNat / 8, d) else none))

/-- The spokes that descriptors and collective plans of the image use, and so its timetables (R131). DEDUCED: assumption 69. -/
def Img.usedSpokes (g : Img) : List Nat :=
  g.sendDescs.filterMap (fun (a, h, d) => g.egress ((g.allots[a]?).elim 0 (fun r => fld r.slice 0 12)) h (modNum d.coord)) ++
  g.plans.flatMap (fun p => match g.planAllot p with
    | none => []
    | some a => g.ownVariants.flatMap (fun v => (g.stageInfo a v p).flatMap (fun i =>
        if i.stage.level = 0 then []
        else (List.range p.segments).flatMap (fun j => i.group.filterMap (fun c =>
          if modNum c = modNum (fld g.coord 0 18) then none else g.sendSpoke a i j c)))))

/-- What the allotments of an image share. -/
def Img.share (g : Img) (port : Bool) : ImageSt :=
  { port := port, phases := BitVec.ofNat 8 g.phases, gears := g.gears, regroups := BitVec.ofNat 8 g.regroups,
    confidential := g.conf, longMode := bit g.flags 1, jobSeed := g.jobSeed, jobId := g.jobId, members := g.members,
    rank := g.rank, coord := fld g.coord 0 18, digest := g.digest,
    rosters := (List.range (g.regroups + 1)).map g.roster, plans := g.plans, stages := g.stages, staging := g.staging,
    cablingUsed := maskOf 36 (((firstRecs g.sects 12 16).zipIdx.filter (fun (b, _) => bit (byteAt b 1) 0)).map (·.2)),
    jobSlice := (g.allots.head?).elim 0 (fun r => fld r.slice 0 12) }

end Sys2Proof.Machine
end

