-- ==== Sys2Proof/Machine/Ports.lean ====
section
/-! DEFINITION. Host ports (R303 to R316, R325 to R327, R355): links, resets, the steward role, MSI-X messages, strobe
groups and the buffered fields. -/

namespace Sys2Proof.Machine

/-! ### The endpoint (R303) -/

/-- What a port reports and supports: class code, largest payload and read request in bytes, bits of a tag, and the widths and
SPEED codes that a link trains to. -/
structure Endpoint where
  classCode      : BitVec 24
  maxPayload     : Nat
  maxReadRequest : Nat
  tagBits        : Nat
  widths         : List (BitVec 4)
  speeds         : List (BitVec 3)
  deriving DecidableEq, Repr

/-- The endpoint of either port. -/
def endpoint : Endpoint :=
  { classCode := 0x120000, maxPayload := 512, maxReadRequest := 4096, tagBits := 14, widths := [1, 2, 4, 8],
    speeds := [1, 2, 3, 4, 5, 6] }

/-- A width and a speed that a port trains to. -/
def linkForm (width : BitVec 4) (speed : BitVec 3) : Bool := endpoint.widths.contains width && endpoint.speeds.contains speed

/-! ### MSI-X (R325) -/

/-- A message on a vector: sent, or kept pending while the vector is masked. -/
def sendMsi (p : Port) (vector : BitVec 11) (s : State) : State :=
  let e := sget {} (s.port p).msix vector.toNat
  if e.masked then
    s.modPort p (fun x => { x with msix := smod {} x.msix vector.toNat (fun e => { e with pending := true }) })
  else s.emit (.msi (decide (p.val = 1)) vector (e.addrHi ++ e.addrLo) e.data)

/-- EVENT_MESSAGE (R326): the message that an enabled rise made the port owe. DEDUCED: assumption 18. -/
def execEventMessage (p : Port) (s : State) : Res :=
  .next (if s.clocked && (s.port p).linkUp && (s.port p).evtDue then
    sendMsi p (s.port p).evtVec (s.modPort p (fun x => { x with evtDue := false })) else s)

/-! ### Resets of a port (R327) -/

/-- The allotments that a port owns (HST_PORT_OWN). -/
def State.owned (s : State) (p : Port) : List Nat :=
  (s.allots.filter (fun e => portOf e.2.port == p)).map (·.1)

/-- A ring is disabled: no poll, no completion write, and a read that is outstanding is forgotten. DEDUCED: assumption 56. -/
def disableRing (r : Nat) (s : State) : State := s.modRing r (fun g => { g with enable := false, reading := false })

/-- ENABLE of the port ring and of every allotment ring that the port owns becomes 0. -/
def disableRings (p : Port) (s : State) : State :=
  (s.owned p).foldl (fun s n => disableRing (2 + n) s) (disableRing p.val s)

/-- What a link down, a hot reset or an FLR does to a port; the movers' accesses through it fail (R305). DEDUCED: assumption 58. -/
def resetPort (p : Port) (s : State) : State :=
  (failHostAccesses p (disableRings p s)).modPort p (fun x => { x with
    msix := [], evtVec := 0, evtEn := 0, evtDue := false, indSpace := 0, indInc := false, indErr := false, indWord := 0 })

/-- The link goes down with the reset. -/
def downCause (c : PortResetCause) : Bool := match c with | .linkDown => true | .perst => true | _ => false

/-- PORT_RESET (R327, R425). A link that is down already stays down without a break. -/
def execPortReset (p : Port) (cause : PortResetCause) (s : State) : Res :=
  .next (if s.boot.supply = .on then
    (resetPort p s).modPort p (fun x => { x with
      linkUp := x.linkUp && !downCause cause, downLap := if downCause cause && x.linkUp then false else x.downLap
      perst := match cause with | .perst => true | _ => x.perst })
   else s)

/-- Host links may train: from S1 on, in S1 once CADREF is there (R379). A stopped CADREF that has returned is one (R43). DESIGN
CHOICE: assumption 3. -/
def State.linksRun (s : State) : Bool :=
  decide (s.boot.supply = .on) && (decide (2 ≤ s.boot.step.toNat) || (decide (s.boot.step = 1) && s.cad.aligned))

/-- PCIE_LINK_UP (R303, R327, R419, R425): a link trains and comes up, and DOWN_LAPS returns to 0. While PERST_N is low the port does not
train. -/
def execPcieLinkUp (p : Port) (width : BitVec 4) (link : LinkTrained) (s : State) : Res :=
  .next (if s.linksRun && linkForm width link.speed then
    if link.perst then s.modPort p (fun x => { x with
      linkUp := true, perst := false, width := width, speed := link.speed, downLaps := 0, downLap := false })
    else s.modPort p (fun x => { x with perst := true })
   else s)

/-! ### The TDI (R355) -/

/-- The TDI of a port moves to ERROR, which disables the port's rings. DEDUCED: assumption 55. -/
def tdiError (p : Port) (s : State) : State := disableRings p (s.modPort p (fun x => { x with tdi := .error }))

/-- A write to the ring blocks, the MSI-X table, HST_EVT_EN or ALLOT_WIN: in CONFIG_LOCKED or RUN it moves the TDI to ERROR.
DEDUCED: assumption 55. -/
def guarded (p : Port) (f : State → State) (s : State) : State := match (s.port p).tdi with
  | .locked => tdiError p (f s)
  | .run => tdiError p (f s)
  | _ => f s

/-! ### The steward role (R310) -/

/-- The other port. -/
def other (p : Port) : Port := if p.val = 0 then 1 else 0

/-- The steward writes GIVE. -/
def giveSteward (p : Port) (s : State) : State :=
  if (s.port (other p)).linkUp then { s with steward := decide (p.val = 0) } else s

/-- STEWARD_GIVE (R310). -/
def execStewardGive (p : Port) (s : State) : Res := .next (stewardWrite p (giveSteward p) s)

/-- The non-steward port writes CLAIM. -/
def claimSteward (p : Port) (s : State) : State :=
  if !s.isSteward p && decide (954 ≤ (s.port (other p)).downLaps.toNat) then { s with steward := decide (p.val = 1) } else s

/-- STEWARD_CLAIM (R310). -/
def execStewardClaim (p : Port) (s : State) : Res := .next (hostWrite p (claimSteward p) s)

/-! ### Strobes (R313 to R316, R37, R38) -/

/-- The group of a block: 0 global, 1 and 2 the gatehouses, 3 to 6 the pavilions. -/
def State.groupOfBlock (s : State) (b : Nat) : Nat := (s.sgrpSel.toNat / 16 ^ b) % 16

/-- PWR_HOST_SCHED is applied (R302): with EN in effect the cap and gear limit are written as a steward write of the strobe
tick would, and EN returns to 0; a write of that tick stays buffered as it is (R313). DEDUCED: assumption 56. -/
def strobeSched (t : Time) (s : State) : State :=
  let f := s.pwr.sched.strobe t
  if f.eff.getLsbD 19 then
    let off : BitVec 20 := 0x7FFFF
    let buf := if f.at_ = some t then f.buf else f.buf &&& off
    writeHostCap (fld f.eff 16 3) (fld f.eff 0 16)
      { s with pwr := { s.pwr with sched := { f with eff := f.eff &&& off, buf := buf, old := f.old &&& off } } }
  else { s with pwr := { s.pwr with sched := f } }

/-- The groups of a pavilion whose arrays are at rest or on the ramp to it: owned, with no run and no rest ramp still to come, and
ramped to the level in effect (R274). -/
def State.restingGroups (s : State) (p : Nat) : List Nat :=
  (List.range 4).filterMap (fun r =>
    let g := 4 * p + r
    match s.groupOwner g with
    | none => none
    | some n => match s.allot n with
      | none => none
      | some a => if a.run.isNone && a.restLap.isNone && decide ((s.ramp g).target = s.restLevel g) then some g else none)

/-- PGL_REST of a pavilion is applied: arrays at rest ramp to the new level; with no buffered change there is no effect (R313). -/
def strobeRest (p : Nat) (t : Time) (s : State) : State :=
  if (s.rest p).applied t = (s.rest p).eff then s
  else
    let groups := s.restingGroups p
    let s := s.modRest p (fun f => f.strobe t)
    startRamps (fun s => groups.foldl (fun s g => s.modRamp g (fun r => { r with target := s.restLevel g })) s) s

/-- A strobe of a module-owned group in tick t. DEDUCED: assumption 54. -/
def applyStrobe (g : Nat) (t : Time) (s : State) : State :=
  let s := if s.groupOfBlock 0 = g then strobeSched t s else s
  let s := [0, 1].foldl (fun s h => if s.groupOfBlock (1 + h) = g then strobeHold h t s else s) s
  [0, 1, 2, 3].foldl (fun s p => if s.groupOfBlock (3 + p) = g then strobeRest p t s else s) s

/-- A steward write to HST_STROBE_CTL of a group that the module owns; a group that an allotment owns ignores it (R314).
DEDUCED: assumption 96. -/
def strobeWrite (g : Nat) (f : State → State) (s : State) : State := if (s.strobe g).owner.isNone then f s else s

/-- APPLY = 1: the strobe is due in the next tick. -/
def owesStrobe (g : Nat) (s : State) : State := s.modStrobe g (fun x => { x with due := true })

/-- STROBE_APPLY (R315, R437): the strobe applies in the tick after the write. -/
def execStrobeApply (p : Port) (g : Sgrp) (s : State) : Res :=
  .next (stewardWrite p (strobeWrite g.val (owesStrobe g.val)) s)

/-- The strobe of one group that is due as a tick begins: all that is buffered was buffered in earlier ticks. -/
def applyDue (s : State) (g : Nat) : State :=
  if (s.strobe g).due then applyStrobe g (later 1 s.now) (s.modStrobe g (fun x => { x with due := false })) else s

/-- What a CADREF cycle begins with: the strobes that the cycle before made due (R315, R437). -/
def beginCycle (s : State) : State := (List.range 16).foldl applyDue s

/-- An arm is refused (R37, R38, R315, R437). -/
def armRefused (at_ : Time) (s : State) : Bool :=
  !s.cad.aligned || decide (at_.toNat < s.now.toNat + 2)
  || (decide (1 ≤ (tickOf at_).toNat) && decide ((tickOf at_).toNat ≤ 7))

/-- A strobe group is armed at HST_STROBE_AT, or refused, which leaves an earlier arm in place. -/
def armStrobe (g : Nat) (s : State) : State :=
  let x := s.strobe g
  let at_ : Time := x.atHi ++ x.atLo
  if armRefused at_ s then s.modStrobe g (fun x => { x with refused := true })
  else s.modStrobe g (fun x => { x with refused := false, armed := some at_ })

/-- STROBE_ARM (R315). -/
def execStrobeArm (p : Port) (g : Sgrp) (s : State) : Res := .next (stewardWrite p (strobeWrite g.val (armStrobe g.val)) s)

/-- An arm is cancelled. -/
def cancelStrobe (g : Nat) (s : State) : State := s.modStrobe g (fun x => { x with armed := none })

/-- STROBE_CANCEL (R315). -/
def execStrobeCancel (p : Port) (g : Sgrp) (s : State) : Res :=
  .next (stewardWrite p (strobeWrite g.val (cancelStrobe g.val)) s)

/-- The tick in which a strobe armed for a time applies: tick 00007 for one armed at tick 00000 (R37). -/
def strobeTick (at_ : Time) : Time := if tickOf at_ = 0 then later 7 at_ else at_

/-- ARMED_STROBE_DUE (R37, R315). -/
def execArmedStrobeDue (g : Sgrp) (s : State) : Res :=
  .next (match (s.strobe g.val).armed with
    | none => s
    | some at_ =>
      if s.timed && decide (s.now = strobeTick at_) then applyStrobe g.val s.now (cancelStrobe g.val s) else s)

end Sys2Proof.Machine
end

