-- ==== Sys2Proof/Machine/LayoutChecks.lean ====
section
/-! DEFINITION. The checks of each section of a layout image, record by record and field by field (R116 to R132, R136,
Table 5-13). -/

namespace Sys2Proof.Machine

/-- The first record of a section that fails, its code and DETAIL. -/
def firstRec {α : Type} (f : Nat → α → Option (Nat × Nat)) (l : List α) : Option (Nat × Nat × Nat) :=
  l.zipIdx.findSome? (fun (x, i) => (f i x).map (fun (c, d) => (i, c, d)))

/-! ### JOB, ALLOTMENT, PARTITION (R116 to R119) -/

/-- The JOB record (R116). -/
def jobRec (s : State) (b : List Byte) : Option (Nat × Nat) :=
  let size := leNat (bytesAt b 16 2)
  let me := s.ownCoord.toNat
  firstBad [ (decide (size < 1) || decide (1536 < size), 0x20, me), (decide (size ≤ leNat (bytesAt b 18 2)), 0x20, me),
             (decide (fld (le 32 b 20 4) 0 18 ≠ s.ownCoord), 0x20, me), range (decide (fld (le 32 b 20 4) 18 14 ≠ 0)) 0x16,
             rsv b 24 40 ]

/-- The first set bit of a mask that meets a condition. -/
def firstBit (m : BitVec 16) (f : Nat → Bool) : Option Nat := (setBits m).find? f

/-- The numbers that no allotment holds, ascending; a number under a RELEASE is still held. DEDUCED: assumption 81. -/
def State.freeNumbers (s : State) : List Nat :=
  (List.range 16).filter (fun n => (s.allot n).isNone && (sfind s.dying n).isNone)

/-- An ALLOTMENT record (R117, R118, R99); before: the records ahead of it. A record that names no gatehouse mover is refused with
DETAIL 0xFFFF_FFFF. DESIGN CHOICE: assumption 118. DEDUCED: assumption 68. -/
def allotRec (s : State) (g : Img) (before : List AllotRec) (i : Nat) (b : List Byte) : Option (Nat × Nat) :=
  let r := parseAllot b
  let held := fun (f : AllotRec → BitVec 16) (k : Nat) => before.any (fun x => (f x).getLsbD k)
  let absent := firstBit r.groups (fun k => !s.groupExists k)
  let busy := firstBit r.groups (fun k => (s.groupOwner k).isSome || held AllotRec.groups k)
  let zero := s.zeroing.filter (fun k => r.groups.getLsbD (k / 12))
  let mover := firstBit r.ghMovers (fun k => held AllotRec.ghMovers k || s.allots.any (fun e => e.2.ghMovers.getLsbD k))
  let tag := fld r.slice 0 12
  firstBad [ range (decide ((byteAt b 0).toNat ≠ i)) 0, (decide (s.freeNumbers.length < i + 1), 0x23, 16 - s.freeNumbers.length), rsv b 1 1,
    (decide (tag = 0) || decide (tag = 0xFFF) || s.allots.any (fun e => decide (e.2.slice = tag))
      || before.any (fun x => decide (fld x.slice 0 12 = tag)), 0x24, tag.toNat),
    range (decide (fld r.slice 12 4 ≠ 0)) 3,
    (absent.isSome, 0x21, absent.getD 0), (busy.isSome, 0x22, busy.getD 0), (!zero.isEmpty, 0x26, zero.foldl min (zero.headD 0)),
    (decide (r.ghMovers = 0), 0x25, 0xFFFFFFFF), (mover.isSome, 0x25, mover.getD 0),
    range (decide (4096 < r.poll.toNat)) 8, range (decide (g.parts.length ≤ r.cfgPart)) 10, rsv b 11 1,
    range (decide (r.cfgOffset % 4096 ≠ 0)) 12, rsv b 18 46 ]

/-- The granules of a tier. -/
def State.granules (s : State) (space : Nat) : Nat := if space = 0 then 64 * s.nStacks else 8 * s.capGib.toNat

/-- The first granule of a run that another run holds. -/
def sharedGranule (r q : Nat × Nat) : Option Nat :=
  if meet r.1 r.2 q.1 q.2 then some (max r.1 q.1) else none

/-- A PARTITION record (R119). The DETAIL of a granule is its number in its space. -/
def partRec (s : State) (g : Img) (before : List PartRec) (b : List Byte) : Option (Nat × Nat) :=
  let r := parsePart b
  let first := granuleOf r.addr - r.base
  let limit := s.granules r.space
  let clash := before.findSome? (fun q => sharedGranule r.run q.run)
  let busy := (s.allots.flatMap (fun e => e.2.parts)).findSome? (fun q => sharedGranule r.run q)
  firstBad [ range (decide (g.allots.length ≤ r.allot)) 0, range (decide (1 < r.space)) 1, rsv b 2 2,
    (decide (limit < r.base + max 1 r.count), 0x30, max r.base limit),
    (clash.isSome, 0x31, clash.getD 0 - first), (busy.isSome, 0x32, busy.getD 0 - first),
    range (decide (r.count < 1)) 8, rsv b 12 4 ]

/-! ### ARRAY_CONFIG and EDGE_PROGRAM (R121 to R124) -/

/-- An ARRAY_CONFIG record that stands for array x. DEDUCED: assumption 64. -/
def arrayRec (x : Option Nat) (b : List Byte) : Option (Nat × Nat) :=
  let c := parseArrCfg b
  let a := c.array.toNat
  let w := c.wFmt.toNat
  let v := c.aFmt.toNat
  let field := fun (bad : Bool) => ((bad, 0x42, a) : Chk)
  let rs : List Chk := [range (decide (fld (le 32 b 12 4) 22 10 ≠ 0)) 14, rsv b 16 16]
  let common : List Chk := [field (decide (x ≠ some a)), field (decide (c.mode = 3)), range (decide (fld (le 32 b 0 4) 10 2 ≠ 0)) 1]
  let high : Chk := range (decide (fld (le 32 b 0 4) 26 6 ≠ 0)) 3
  let mid : List Chk := [range (decide (fld (le 32 b 8 4) 7 9 ≠ 0)) 8]
  let mid2 : List Chk := [range (decide (fld (le 32 b 8 4) 28 4 ≠ 0)) 11]
  let regs : List Chk := [range (decide (fld (le 32 b 12 4) 6 2 ≠ 0)) 12]
  let regs2 : List Chk := [range (decide (fld (le 32 b 12 4) 14 2 ≠ 0)) 13]
  if c.mode = 0 then
    firstBad (common ++ [range (decide (c.wFmt ≠ 0)) 1, range (decide (c.aFmt ≠ 0) || decide (c.outFmt ≠ 0)) 2,
      range (c.qmode || c.accInit) 3, high, range (decide (c.tensor ≠ 0)) 4, field (decide (c.uses ≠ 0))] ++ mid ++
      [field (decide (c.tileWords ≠ 0))] ++ mid2 ++ [range (decide (c.accReg ≠ 0)) 12] ++ regs ++ [field (decide (c.progLen ≠ 0))]
      ++ regs2 ++ [field (decide (c.ii ≠ 0))] ++ rs)
  else
    firstBad (common ++ [(decide (11 < w), 0x40, w), (decide (11 < v), 0x40, v), (!pairOk w v, 0x41, 16 * w + v),
      (decide (9 < c.outFmt.toNat), 0x40, c.outFmt.toNat), high,
      field (if c.mode = 2 then decide (c.uses.toNat < 1) || decide (64 < c.uses.toNat) else decide (c.uses ≠ 0))] ++ mid ++
      [field (decide (32 * c.tileWords.toNat ≠ tileBytes w))] ++ mid2 ++ [range (decide (c.accReg ≠ 0) && !c.accInit) 12] ++ regs ++
      [field (decide (c.progLen.toNat < 1) || decide (32 < c.progLen.toNat))] ++ regs2 ++
      [field (decide (c.ii.toNat < 1) || decide (32 < c.ii.toNat))] ++ rs)

/-- The logical arrays of a local allotment. -/
def Img.arrays (g : Img) (a : Nat) : List Nat :=
  ((g.allots[a]?).elim [] (fun r => setBits r.groups)).flatMap (fun k => (List.range 16).map (fun q => 16 * k + q))

/-- An ARRAY_CONFIG section: every array of the allotment once, in order. -/
def arraySect (g : Img) (x : Sect) : Option (Nat × Nat × Nat) :=
  let want := g.arrays x.scope.toNat
  match firstRec (fun i b => arrayRec (want[i]?) b) (recs 32 x.body) with
  | some f => some f
  | none => match want[x.count]? with
    | some a => some (0xFFFFFFFF, 0x42, a)
    | none => none

/-- A source code of an edge operation. -/
def srcOk (c : Nat) : Bool := decide (c ≤ 64) || (decide (80 ≤ c) && decide (c ≤ 95))

/-- The last cycle of an edge operation. -/
def EdgeOp.done (o : EdgeOp) : Nat := o.start.toNat + edgeLatency o.opc.toNat

/-- The sources that an operation takes. -/
def EdgeOp.sources (o : EdgeOp) : List Nat :=
  let n := o.opc.toNat
  [o.srcA.toNat] ++ (if n = 5 ∨ n = 7 ∨ n = 9 then [o.srcB.toNat] else []) ++ (if n = 9 then [o.srcC.toNat] else [])

/-- An operation word has a legal form (R123, Table 5-8). -/
def opForm (raw : List Byte) (o : EdgeOp) : Bool :=
  let n := o.opc.toNat
  decide (1 ≤ n) && decide (n ≤ 10) && (if n = 10 then decide (o.dst = 0) else decide (o.dst.toNat < 64))
  && o.sources.all srcOk && (decide (n = 5) || decide (n = 7) || decide (n = 9) || decide (o.srcB = 0))
  && (decide (n = 9) || decide (o.srcC = 0)) && decide (fld (le 64 raw 0 8) 44 20 = 0)

/-- Operation k of the used ones breaks R124. DEDUCED: assumption 65. -/
def opBreaks (ii : Nat) (ops : List EdgeOp) (quant : Option Nat) (k : Nat) (o : EdgeOp) : Bool :=
  let isQ := decide (o.opc = 10)
  let earlier := ops.take k
  decide (255 < o.done)
  || (isQ && earlier.any (fun j => decide (j.opc = 10)))
  || (!isQ && (match quant with | none => false | some q => decide (q < o.done)))
  || ops.any (fun w => decide (w.opc ≠ 10) && decide (w.start.toNat < o.start.toNat) && o.sources.contains w.dst.toNat
      && decide (o.start.toNat < w.done))
  || earlier.any (fun j => decide (j.start.toNat % max 1 ii = o.start.toNat % max 1 ii) && decide (j.slot = o.slot))
  || (!isQ && earlier.any (fun j => decide (j.opc ≠ 10) && decide (j.dst = o.dst) && decide (j.done = o.done)))

/-- The first operation of an edge program that breaks R123 or R124. DEDUCED: assumption 65. -/
def edgeBad (c : ArrCfg) (b : List Byte) : Option Nat :=
  let raws := recs 8 (b.take 256)
  let n := c.progLen.toNat
  let ops := (raws.take n).map parseEdgeOp
  let quant := (ops.find? (fun o => decide (o.opc = 10))).map (fun o => o.start.toNat)
  match raws.zipIdx.find? (fun (raw, k) =>
      if k < n then !opForm raw (parseEdgeOp raw) || opBreaks c.ii.toNat ops quant k (parseEdgeOp raw)
      else !zeroAt raw 0 8) with
  | some (_, k) => some k
  | none => if quant.isNone then some (n - 1) else none

/-- An EDGE_PROGRAM section: one program for each ARRAY_CONFIG record, those of idle arrays ignored (R122). -/
def edgeSect (g : Img) (x : Sect) : Option (Nat × Nat × Nat) :=
  match (ofType g.sects 4).find? (fun y => decide (y.phase = x.phase) && decide (y.scope = x.scope)) with
  | none => none
  | some y =>
    if x.count ≠ y.count then some (0xFFFFFFFF, 0x18, 16)
    else firstRec (fun _ (c, b) => if c.mode = 0 then none else (edgeBad c b).map (fun k => (0x43, k)))
      (((recs 32 y.body).map parseArrCfg).zip (recs 320 x.body))

/-! ### PERGOLA_JOIN (R125, R126) -/

/-- The group of an endpoint; none where the index names nothing. -/
def endGroup (e : BitVec 16) : Option Nat :=
  let ix := e.toNat % 4096
  if e.toNat / 4096 ≤ 2 then (if ix < 256 then some (ix / 16) else none)
  else (if ix < 192 then some (ix / 12) else none)

/-- An endpoint lies in a group of the allotment. -/
def endIn (groups : BitVec 16) (e : BitVec 16) : Bool := match endGroup e with
  | none => false
  | some k => groups.getLsbD k

/-- PATH reaches the destination region (R92, R126). DEDUCED: assumption 67. -/
def pathOk (path src dst : Nat) : Bool := match path with
  | 0 => decide (src = dst)
  | 1 => decide (src / 4 = dst / 4) && decide (dst % 4 = (src + 1) % 4)
  | 2 => decide (src / 4 = dst / 4) && decide (src % 4 = (dst + 1) % 4)
  | 3 => true
  | _ => false

/-- The ports that a join goes through, each with its width in words and the endpoint that names it. DEDUCED: assumption
67. -/
def joinPorts (j : Join) : List (Nat × Nat × Nat) :=
  let s := (endGroup j.src).getD 0
  let d := (endGroup j.dst).getD 0
  let e := j.src.toNat
  let src := if e / 4096 = 2 then (e, 16, e) else (e, 8, e)
  let dst := if j.dst.toNat / 4096 = 1 then
      (setBits j.mask).map (fun q => (0x1000 + 16 * d + q, 36, 0x1000 + 16 * d + q))
    else [(j.dst.toNat, 8, j.dst.toNat)]
  let way := match j.path.toNat with
    | 1 => [(0x5000 + 4 * s, 64, e), (0x5000 + 4 * d + 2, 64, e)]
    | 2 => [(0x5000 + 4 * s + 1, 64, e), (0x5000 + 4 * d + 3, 64, e)]
    | 3 => [(0x6000 + 2 * s, 128, e), (0x6000 + 2 * d + 1, 128, e)]
    | _ => []
  src :: dst ++ way

/-- The port that join i of a section takes beyond its width. DEDUCED: assumption 67. -/
def portOver (l : List Join) (i : Nat) (j : Join) : Option Nat :=
  ((joinPorts j).find? (fun (k, w, _) => decide (w < (((l.take (i + 1)).filter (fun x => (joinPorts x).any (fun p => p.1 == k))).map
    (fun x => x.words.toNat)).sum))).map (fun p => p.2.2)

/-- A PERGOLA_JOIN record; one of class 0x1 with MASK 0 is refused. DESIGN CHOICE: assumption 118. -/
def joinRec (groups : BitVec 16) (l : List Join) (i : Nat) (b : List Byte) : Option (Nat × Nat) :=
  let j := parseJoin b
  let sc := j.src.toNat / 4096
  let dc := j.dst.toNat / 4096
  let wide := portOver l i j
  firstBad [ range (decide (sc ≠ 2) && decide (sc ≠ 3)) 0, (!endIn groups j.src, 0x44, j.src.toNat),
    range (decide (dc ≠ 1) && decide (dc ≠ 4)) 2, (!endIn groups j.dst, 0x44, j.dst.toNat),
    range (decide (dc = 1) && decide (j.dst.toNat % 16 ≠ 0)) 2,
    range (if dc = 4 then decide (j.mask ≠ 1) else decide (j.mask = 0)) 4,
    (!pathOk j.path.toNat ((endGroup j.src).getD 0) ((endGroup j.dst).getD 0), 0x45, j.src.toNat),
    range (decide (j.words.toNat < 1) || decide (128 < j.words.toNat)) 7, (wide.isSome, 0x45, wide.getD 0), rsv b 8 8 ]

/-- A PERGOLA_JOIN section. -/
def joinSect (g : Img) (x : Sect) : Option (Nat × Nat × Nat) :=
  let l := recs 16 x.body
  firstRec (joinRec ((g.allots[x.scope.toNat]?).elim 0 (·.groups)) (l.map parseJoin)) l

/-! ### DESCRIPTORS (R103, R127, R349, R350) -/

/-- A COPY to host memory of a confidential allotment seals its rows (R350). -/
def Desc.seals (conf : Bool) (d : Desc) : Bool := conf && decide (d.op = 1) && decide (d.dstSp = 3)

/-- The destination bytes of a row. -/
def Desc.dstRow (conf : Bool) (d : Desc) : Nat :=
  if d.op = 4 then 32 * (d.rowWords.toNat - 1) else if d.seals conf then 32 * (d.rowWords.toNat + 1) else 32 * d.rowWords.toNat

/-- A run of module memory lies in the allotment's partitions. -/
def AllotSt.coversRun (a : AllotSt) (addr n : Nat) : Bool :=
  (List.range ((addr + max 1 n - 1) / 2 ^ 30 - addr / 2 ^ 30 + 1)).all (fun i => a.covers (2 ^ 30 * (addr / 2 ^ 30 + i)))

/-- A run of scratchpad lies in one of the allotment's groups (R97). -/
def AllotSt.padRun (a : AllotSt) (addr n : Nat) : Bool :=
  decide (addr < 2 ^ 30) && a.groups.getLsbD (addr / 2 ^ 26) && decide (addr % 2 ^ 26 + n ≤ 0x3000000)

/-- A row of n bytes at an address of a space is one that the allotment may name (R97, R103, Table 4-6). -/
def rowOk (a : AllotSt) (space addr n : Nat) : Bool := match space with
  | 0 => a.coversRun addr n
  | 1 => a.padRun addr n
  | 2 => decide (addr < 2 ^ 40) && decide (addr % 2 ^ 31 < 2 ^ 17) && a.groups.getLsbD (addr / 2 ^ 32 / 16)
  | 4 => decide (addr + n ≤ 2 ^ 28)
  | _ => true

/-- Every row lies where the allotment may name it. DEDUCED: assumption 66. -/
def rowsOk (a : AllotSt) (space base stride rows n : Nat) : Bool :=
  (List.range rows).all (fun i => rowOk a space (base + i * stride) n)

/-- The mover can use the operation and its spaces (Tables 4-5 and 4-6), and a confidential allotment may (R350). DEDUCED:
assumption 66. -/
def moverCan (gh conf : Bool) (d : Desc) : Bool :=
  let host := fun (x : BitVec 4) => decide (x = 3) || decide (x = 4)
  (if gh then decide (d.srcSp ≠ 2) && decide (d.srcSp ≠ 5) && decide (d.dstSp ≠ 2)
   else decide (d.op ≠ 3) && decide (d.op ≠ 5) && decide (d.srcSp.toNat < 2) && decide (d.dstSp.toNat < 3))
  && (!conf || (decide (d.srcSp ≠ 4) && decide (d.dstSp ≠ 4) && (!host d.srcSp || decide (d.op = 4)) &&
      (!host d.dstSp || decide (d.op = 1))))

/-- The key slot records of the image: local allotment, slot and KEY_ID (R347). -/
def parseKeySlot (b : List Byte) : Nat × Byte × BitVec 64 := ((byteAt b 0).toNat, byteAt b 1, le 64 b 8 8)

/-- A key slot of a local allotment is bound by a record. -/
def Img.bound (g : Img) (a : Nat) (slot : Byte) : Bool :=
  ((firstRecs g.sects 15 16).map parseKeySlot).any (fun k => decide (k.1 = a) && decide (k.2.1 = slot))

/-- The rows of a descriptor overlap in the destination (R103). -/
def Desc.overlaps (conf : Bool) (d : Desc) : Bool :=
  decide (d.dstSp ≠ 5) && decide (1 < d.rows.toNat) && decide (d.dstStride.toNat < d.dstRow conf)

/-- A mover descriptor of a local allotment. A COPY to host memory that no sealed row of 1 to 2,047 words can be (R350) is one that its
mover cannot use. DEDUCED: assumption 66. -/
def descRec (g : Img) (ix : Nat) (gh : Bool) (i : Nat) (b : List Byte) : Option (Nat × Nat) := match g.allotAt ix with
  | none => none
  | some a =>
    let d := parseDesc b
    let conf := g.conf
    let n := 32 * d.rowWords.toNat
    let rows := max 1 d.rows.toNat
    let fieldBad := fun (bad : Bool) => ((bad, 0x50, i) : Chk)
    let scopeBad := fun (bad : Bool) => ((bad, 0x53, i) : Chk)
    let d0 := le 32 b 0 4
    let op := d.op.toNat
    firstBad [
      fieldBad (decide (op = 0) || decide (5 < op) || decide (5 < d.srcSp.toNat) || decide (5 < d.dstSp.toNat) || decide (11 < d.fmt.toNat)
        || decide (fld d0 12 2 ≠ 0) || (decide (op = 2) && decide (d.srcSp ≠ 0))
        || (decide (op = 3) && decide (d.fmt ≠ 0) && decide (d.fmt ≠ 0xA) && decide (d.fmt ≠ 0xB))
        || (decide (d.dstSp = 2) && decide (9 < d.fmt.toNat))),
      (!moverCan gh conf d, 0x51, i), (decide (d.slice ≠ a.slice), 0x52, i),
      fieldBad (decide (op = 2) && decide (d.src ≠ 0)), fieldBad (!zeroAt b 10 2),
      scopeBad (decide (op ≠ 2) && !rowsOk a d.srcSp.toNat d.src.toNat d.srcStride.toNat rows n),
      fieldBad (!zeroAt b 18 2),
      scopeBad (decide (d.dstSp ≠ 5) && !rowsOk a d.dstSp.toNat d.dst.toNat d.dstStride.toNat rows (d.dstRow conf)),
      fieldBad (decide (d.rows = 0) || decide (d.rowWords = 0) || (decide (d.dstSp = 5) && decide (rows * n < 256))
        || (decide (op = 4) && (decide (d.rowWords.toNat < 2) || decide (2048 < d.rowWords.toNat)))),
      (d.seals conf && decide (2047 < d.rowWords.toNat), 0x51, i),
      fieldBad (decide (d.srcStride.toNat % 32 ≠ 0) || (decide (op = 2) && decide (d.srcStride ≠ 0))),
      fieldBad (decide (d.dstStride.toNat % 32 ≠ 0) || (decide (d.dstSp = 5) && decide (d.dstStride ≠ 0))),
      (d.overlaps conf, 0x54, i),
      fieldBad (decide (fld (le 32 b 32 4) 13 3 ≠ 0) || (d.trnEn && decide (d.trnInc = 0))),
      scopeBad (d.trnEn && !g.inRuns ix d.trnIdx.toNat),
      fieldBad (decide (fld (le 32 b 36 4) 18 6 ≠ 0) || (decide (d.dstSp ≠ 5) && decide (d.coord ≠ 0))
        || (decide (op ≠ 4) && decide (d.keySlot ≠ 0))),
      (decide (op = 4) && (!conf || decide (63 < d.keySlot.toNat) || !g.bound ix d.keySlot), 0x91, 256 * ix + d.keySlot.toNat),
      fieldBad (decide (fld (le 32 b 40 4) 9 23 ≠ 0)), fieldBad (!zeroAt b 44 20) ]

/-- A DESCRIPTORS section. -/
def descSect (g : Img) (x : Sect) : Option (Nat × Nat × Nat) := match g.moverAllot x.scope with
  | none => none
  | some a => firstRec (descRec g a (bit x.scope 15)) (recs 64 x.body)

/-! ### TIMETABLE (R148 to R157) -/

/-- The first header record of a timetable (Table 6-1); every failure is TT_ENTRY (R435). -/
def ttHead (x : Sect) : Bool :=
  let h := x.body.take 16
  let units := leNat (bytesAt h 4 2)
  let entries := leNat (bytesAt h 12 4)
  let lf := leNat (bytesAt h 6 2)
  let ll := leNat (bytesAt h 8 2)
  decide ((byteAt h 0).toNat = x.phase) && decide ((byteAt h 1).toNat = x.variant % 16) && decide ((byteAt h 2).toNat = x.variant / 16)
  && decide ((byteAt h 3).toNat < 2) && decide (1 ≤ units) && decide (units ≤ 4096)
  && (if lf = 0xFFFF ∨ ll = 0xFFFF then decide (lf = ll) else decide (lf ≤ ll) && decide (ll < units))
  && zeroAt h 10 2 && decide (1 ≤ entries) && decide (entries ≤ 2 ^ 24) && decide (x.count = 2 + units + entries)

/-- The unit records, each beginning where the one before ends (R148, R152): the first that fails. -/
def unitBad (entries : Nat) (l : List (List Byte)) (u first : Nat) : Option Nat := match l with
  | [] => if first = entries then none else some (u - 1)
  | b :: t =>
    let n := leNat (bytesAt b 4 4)
    let len := leNat (bytesAt b 8 2)
    if leNat (bytesAt b 0 4) ≠ first ∨ n = 0 ∨ entries < first + n ∨ len = 0 ∨ (if u = 0 then 65529 else 65532) < len
        ∨ zeroAt b 10 6 = false then some u
    else unitBad entries t (u + 1) (first + n)

/-- Where the arguments of a kind end, and reserved bytes among them (Table 6-4). -/
def argsClean (kind : Nat) (b : List Byte) : Bool := match kind with
  | 1 => zeroAt b 5 1 && zeroAt b 14 2 && decide ((byteAt b 3).toNat < 4)
  | 2 => zeroAt b 8 8 && zeroAt b 3 1
  | 3 => zeroAt b 6 10 && zeroAt b 3 1
  | 4 => zeroAt b 12 4 && zeroAt b 3 1
  | 7 => zeroAt b 8 8 && zeroAt b 3 1
  | _ => zeroAt b 5 11 && zeroAt b 3 1

/-- A timetable entry of a local allotment is one its kind allows (R153, R154, R156). -/
def kindOk (g : Img) (a : Nat) (len off : Nat) (k : EntryKind) : Bool :=
  let r := g.allots[a]?
  match k with
  | .issue _ _ group mask vectors slotMask stride =>
    r.elim false (fun r => decide (group.toNat < 16) && r.groups.getLsbD group.toNat) && decide (mask ≠ 0) && decide (vectors ≠ 0)
    && decide (slotMask ≠ 0) && decide (popcount slotMask ≤ 14) && decide (1 ≤ stride.toNat) && decide (stride.toNat ≤ 4096)
  | .move mover desc => r.elim false (fun r => r.movers.contains mover) && decide (desc.toNat < 512)
  | .collective plan => match g.plans[plan.toNat]? with
    | none => false
    | some p => decide (g.planAllot p = some a)
  | .trnArm t deadline target => g.inRuns a t.toNat && decide (off ≤ deadline.toNat) && decide (deadline.toNat < len) && decide (target ≠ 0)
  | .shadow phase => decide (phase.toNat < g.phases)
  | .strobe group => decide (group.toNat < 16)
  | .complete _ => true
  | .phaseEnd next => decide (next = 0xFF) || decide (next.toNat < g.phases)

/-- The strobe groups that a timetable section names. DEDUCED: assumption 72. -/
def strobesOf (x : Sect) : List Nat :=
  (parseTimetable x.body).entries.filterMap (fun e => match e.kind with | .strobe k => some k.toNat | _ => none)

/-- A strobe group may become the allotment's (R314). DEDUCED: assumption 72. -/
def strobeFree (s : State) (g : Img) (x : Sect) (k : Nat) : Bool :=
  (s.strobe k).owner.isNone && (List.range 7).all (fun b => decide (s.groupOfBlock b ≠ k))
  && !(ofType g.sects 8).any (fun y => decide (y.ix < x.ix) && decide (y.scope ≠ x.scope) && (strobesOf y).contains k)

/-- One entry: prev is the offset before it in its unit, last whether it is the last entry of the last unit. -/
def entryBad (s : State) (g : Img) (x : Sect) (len prev : Nat) (last : Bool) (b : List Byte) : Option Nat :=
  let kind := (byteAt b 2).toNat
  let off := leNat (bytesAt b 0 2)
  match parseKind b with
  | none => some 0x85
  | some k =>
    if argsClean kind b = false ∨ off < prev ∨ len ≤ off ∨ decide (kind = 8) ≠ last then some 0x85
    else match k with
      | .strobe n =>
        if off < 4 then some 0x81
        else if n.toNat < 16 ∧ strobeFree s g x n.toNat = true then none else some 0x85
      | _ => if kindOk g x.scope.toNat len off k then none else some 0x85

/-- The entries of a unit in order. -/
def entriesBad (s : State) (g : Img) (x : Sect) (len : Nat) (lastUnit : Bool) (l : List (List Byte)) (ix prev : Nat) :
    Option (Nat × Nat) := match l with
  | [] => none
  | b :: t => match entryBad s g x len prev (lastUnit && t.isEmpty) b with
    | some c => some (ix, c)
    | none => entriesBad s g x len lastUnit t (ix + 1) (leNat (bytesAt b 0 2))

/-- A TIMETABLE section. -/
def ttSect (s : State) (g : Img) (x : Sect) : Option (Nat × Nat × Nat) :=
  if ttHead x = false then some (0, 0x85, 0xFFFFFFFF)
  else if zeroAt x.body 16 16 = false then some (1, 0x85, 0xFFFFFFFF)
  else
    let units := leNat (bytesAt x.body 4 2)
    let entries := leNat (bytesAt x.body 12 4)
    let rs := recs 16 (x.body.drop 32)
    let us := rs.take units
    let es := rs.drop units
    match unitBad entries us 0 0 with
    | some u => some (2 + u, 0x85, 0xFFFFFFFF)
    | none =>
      (us.zipIdx.findSome? (fun (b, u) =>
        let first := leNat (bytesAt b 0 4)
        entriesBad s g x (leNat (bytesAt b 8 2)) (decide (u + 1 = units)) ((es.drop first).take (leNat (bytesAt b 4 4))) first 0)).map
        (fun (ix, c) => (2 + units + ix, c, ix))

/-! ### TURNSTILE and STAGING (R128, R129) -/

/-- A TURNSTILE record. -/
def trnRec (s : State) (g : Img) (before : List (Nat × Nat × Nat)) (b : List Byte) : Option (Nat × Nat) :=
  let (base, n, a) := parseRun b
  let taken := (s.trns.find? (fun e => e.2.owner.isSome && decide (base ≤ e.1) && decide (e.1 < base + n))).map (·.1)
  let clash := (before.find? (fun q => meet base n q.1 q.2.1)).map (fun q => max base q.1)
  firstBad [ (decide (n < 1) || decide (4096 < n) || decide (8192 < base + n) || decide (base / 4096 ≠ (base + n - 1) / 4096), 0x60, base),
    (taken.isSome, 0x60, taken.getD 0), (clash.isSome, 0x60, clash.getD 0),
    range (decide (g.allots.length ≤ a)) 4, rsv b 5 11 ]

/-- The buffers of the loaded allotments. -/
def State.loadedBuffers (s : State) : List StagingBuf := s.allots.flatMap (fun e =>
  (s.image e.2.image).staging.filter (fun b => decide (b.allot = e.2.localIx)))

/-- The configuration stores of the image as ranges of module memory. -/
def Img.stores (g : Img) : List (Nat × Nat) := g.allots.zipIdx.map (fun (r, i) => (g.cfgBase r, g.storeBytes i))

/-- A STAGING record (R129). DEDUCED: assumption 68. -/
def stagingRec (s : State) (g : Img) (before : List StagingBuf) (b : List Byte) : Option (Nat × Nat) :=
  let r := parseStaging b
  let pool := r.pool.toNat
  let others := s.loadedBuffers ++ before
  let used := ((others.filter (fun q => decide (q.pool = r.pool))).map (·.bytes)).sum
  let inside := match pool, g.allotAt r.allot.toNat with
    | 2, some a => a.padRun r.addr.toNat r.bytes
    | 3, some a => a.coversRun r.addr.toNat r.bytes
    | _, _ => decide (r.addr.toNat + r.bytes ≤ 2 ^ 24)
  let clash := others.any (fun q => decide (q.pool = r.pool) && meet r.addr.toNat r.bytes q.addr.toNat q.bytes)
    || (decide (pool = 3) && g.stores.any (fun q => meet r.addr.toNat r.bytes q.1 q.2))
  firstBad [ range (before.any (fun q => decide (q.id = r.id) && decide (q.allot = r.allot))) 0,
    range (decide (g.allots.length ≤ r.allot.toNat)) 2, range (decide (3 < pool)) 3,
    (decide (pool < 2) && decide (2 ^ 24 < used + r.bytes), 0x61, pool), (!inside || clash, 0x62, r.id.toNat),
    range (decide (r.bytes = 0) || decide (r.bytes % 65536 ≠ 0)) 12 ]

/-! ### ROUTING and CABLING (R130, R131, R212, R226, R227) -/

/-- The other version's valid entries of gatehouse h that a switch keeps: the current ones (R227). -/
def State.keptRoutes (s : State) (h : Nat) : List Route := (sget [] s.rte.tables (rteIx h s.rte.cur)).filter (·.valid)

/-- A ROUTING record against R130 and R226. -/
def routeRec (s : State) (g : Img) (before : List (BitVec 16 × BitVec 16 × Nat × Nat)) (i : Nat) (b : List Byte) : Option (Nat × Nat) :=
  let (slice, dst, h, egress) := parseRoute b
  let m := fld dst 0 15
  let known := ((List.range (g.regroups + 1)).flatMap g.roster).any (fun c => decide (modNum c = m))
  firstBad [ (!g.allots.any (fun r => decide (fld r.slice 0 12 = fld slice 0 12)), 0x72, i), range (decide (fld slice 12 4 ≠ 0)) 1,
    (!known || decide (m = modNum s.ownCoord), 0x72, i), range (bit dst 15) 3, range (decide (1 < h)) 4,
    (before.any (fun q => decide (q.1 = slice) && decide (q.2.1 = dst) && decide (q.2.2.1 = h)), 0x72, i),
    (decide (8192 < (s.keptRoutes h).length + ((before.filter (fun q => decide (q.2.2.1 = h))).length + 1)), 0x72, i),
    (decide (35 < egress), 0x72, i), rsv b 6 10 ]

/-- A ROUTING section; one with records waits for no switch in progress (R227). -/
def routeSect (s : State) (g : Img) (x : Sect) : Option (Nat × Nat × Nat) :=
  if 0 < x.count ∧ (s.rte.pending.isSome = true ∨ s.rte.draining = true) then some (0xFFFFFFFF, 0x72, 0xFFFFFFFF)
  else
    let l := recs 16 x.body
    firstRec (fun i b => routeRec s g ((l.take i).map parseRoute) i b) l

/-- A CABLING record (Table 8-5). DEDUCED: assumption 69. -/
def cableRec (i : Nat) (b : List Byte) : Option (Nat × Nat) :=
  let used := bit (byteAt b 1) 0
  let co := le 32 b 4 4
  firstBad [ range (decide (35 < i) || decide ((byteAt b 0).toNat ≠ i)) 0, range (decide (4 ≤ (byteAt b 1).toNat)) 1, rsv b 2 2,
    range (if used then decide (fld co 0 3 ≠ 4) && decide (fld co 0 3 ≠ 5) else decide (fld co 0 18 ≠ 0)) 4,
    range (decide (fld co 18 14 ≠ 0)) 6,
    range (if used then decide (35 < (byteAt b 8).toNat) else decide (byteAt b 8 ≠ 0)) 8, rsv b 9 7 ]

/-- A spoke fails the check of a layout's own plan (R131, R212): a required far end is missing, or a spoke that the image's
descriptors or plans use is no match. DEDUCED: assumption 69. -/
def cablingBad (s : State) (plan : List PlanRec) (used : List Nat) (k : Nat) : Bool := match plan[k]? with
  | none => true
  | some r =>
    let o := (outcomeOf plan s k).1
    let missing := decide (o = 2)
    (missing && !r.optional) || (used.contains k && decide (o ≠ 3) && !(missing && r.optional))

/-- A CABLING section: 36 records in ascending spoke order. -/
def cableSect (s : State) (g : Img) (x : Sect) : Option (Nat × Nat × Nat) :=
  let l := recs 16 x.body
  let plan := l.map parsePlanRec
  let used := g.usedSpokes
  match firstRec (fun i b => match cableRec i b with
      | some f => some f
      | none => if cablingBad s plan used i then some (0x73, i) else none) l with
  | some f => some f
  | none => if x.count < 36 then some (x.count, 0x18, 0) else none

/-! ### COLLECTIVE and REGROUP (R238, R249 to R254, R258) -/

/-- The kind of record i of a section with m members, p plans and n stages. DEDUCED: assumption 70. -/
def rtypeAt (m p n i : Nat) : Nat := if i = 0 then 1 else if i ≤ m then 2 else if i ≤ m + p then 3 else if i ≤ m + p + n then 4 else 0

/-- The header record (Table 9-4). DEDUCED: assumption 70. -/
def collHead (g : Img) (regroup : Bool) (b : List Byte) : Bool :=
  let m := leNat (bytesAt b 2 2)
  let p := leNat (bytesAt b 4 2)
  let n := leNat (bytesAt b 6 2)
  let v := (byteAt b 1).toNat
  decide (1 ≤ m) && decide (m ≤ 1536) && zeroAt b 8 24 &&
  (if regroup then decide (1 ≤ v) && decide (v ≤ g.regroups) && decide (p = 0) && decide (n = 0)
   else decide (v = 0) && decide (m = g.members) && decide (p ≤ 256) && decide (n ≤ 1024) && (decide (p = 0) == decide (n = 0)))

/-- A member record (Table 9-5) behind those that stand before it. -/
def memberOk (before : List (List Byte)) (i : Nat) (b : List Byte) : Bool :=
  zeroAt b 1 3 && decide (leNat (bytesAt b 4 2) + 1 = i) && zeroAt b 6 2 && decide (fld (le 32 b 8 4) 18 14 = 0)
  && decide (fld (le 32 b 8 4) 0 3 = 7) && zeroAt b 12 20 && !before.any (fun q => decide (le 32 q 8 4 = le 32 b 8 4) && decide (byteAt q 0 = 2))

/-- Reserved bytes of a plan or stage record. DEDUCED: assumption 70. -/
def collClean (kind : Nat) (b : List Byte) : Bool := match kind with
  | 3 => zeroAt b 3 1 && zeroAt b 14 18
  | _ => decide ((byteAt b 3).toNat < 2) && zeroAt b 14 18

/-- The records of a COLLECTIVE or REGROUP section by themselves: the first that is malformed or out of order. -/
def collRecord (g : Img) (regroup : Bool) (l : List (List Byte)) (i : Nat) (b : List Byte) : Option (Nat × Nat) :=
  let h := l.headD []
  let kind := rtypeAt (leNat (bytesAt h 2 2)) (leNat (bytesAt h 4 2)) (leNat (bytesAt h 6 2)) i
  let ok := decide (kind ≠ 0) && decide ((byteAt b 0).toNat = kind) && (match kind with
    | 1 => collHead g regroup b
    | 2 => memberOk (l.take i) i b
    | k => collClean k b)
  if ok then none else some (0x71, if kind = 3 then i - 1 - leNat (bytesAt h 2 2) else i)

/-- A stage by itself (R238, R251, R252, Table 9-7): k is its place in the plan of n stages. -/
def stageForm (members segs n k : Nat) (st : Stage) : Bool :=
  let lv := st.level.toNat
  let m := st.method.toNat
  decide (lv ≤ 3) && decide (m ≤ 3) && (decide (lv ≠ 0) || (decide (k = 0) && decide (m = 0) && !st.check))
  && (decide (1 < members) || decide (lv = 0)) && (decide (m < 2) || decide (k + 1 = n))
  && (decide (2 ≤ m) == decide (st.outBuf = 0xFFFF)) && (decide (segs ≠ 1) || decide (st.period = 0))

/-- The run that a stage cuts last: a contribution, or a last chunk with its check word (R254). -/
def StageInfo.lastRun (i : StageInfo) : Nat :=
  if i.stage.check then i.contribution - (i.chunkCount - 1) * 65504 + 32 else i.contribution

/-- A stage in the group of a membership (R250, R252, R254, R258). -/
def stageFits (g : Img) (a segs : Nat) (i : StageInfo) : Bool :=
  let m := i.stage.method.toNat
  decide (i.n ≤ 32) && (!(decide (m = 1) || decide (m = 3)) || decide (i.size % (32 * max 1 i.n) = 0)) && decide (i.chunkCount ≤ 255)
  && (decide (i.stage.level = 0) || decide (256 ≤ i.lastRun))
  && (List.range i.n).all (fun k => decide (segs * i.slotLen ≤ g.bufBytes a (i.stage.recvBuf + BitVec.ofNat 16 k)))
  && (decide (2 ≤ m) || decide (segs * i.outLen ≤ g.bufBytes a i.stage.outBuf))

/-- The stages of all plans with their numbers. -/
def Img.linkedTo (g : Img) (t : Nat) : List Nat :=
  g.plans.flatMap (fun p => (List.range p.nStages).filterMap (fun k =>
    match g.stages[p.firstStage + k]? with
    | none => none
    | some st => if st.trn.toNat ≤ t ∧ t < st.trn.toNat + p.segments then some (p.firstStage + k) else none))

/-- A plan by itself, with its stages, buffers and turnstiles (R249 to R254, R258): the code where it fails. -/
def planBad (g : Img) (before : List Plan) (p : Plan) : Option Nat :=
  let sts := (g.stages.drop p.firstStage).take p.nStages
  let shares := before.any (fun q => meet p.firstStage p.nStages q.firstStage q.nStages)
  if p.nStages < 1 ∨ 4 < p.nStages ∨ g.stages.length < p.firstStage + p.nStages ∨ p.segments < 1 ∨ 256 < p.segments
      ∨ p.segBytes = 0 ∨ p.segBytes % 32 ≠ 0 ∨ 11 < p.fmt.toNat ∨ shares = true then some 0x71
  else if sts.any (fun st => decide (st.method.toNat < 2)) ∧ p.fmt ≠ 0 ∧ p.fmt ≠ 0xA ∧ p.fmt ≠ 0xB then some 0x70
  else match g.planAllot p with
    | none => some 0x71
    | some a =>
      if g.bufBytes a p.inBuf < p.segments * p.segBytes
          ∨ sts.zipIdx.any (fun (st, k) => !stageForm g.members p.segments p.nStages k st)
          ∨ sts.any (fun st => (List.range p.segments).any (fun j =>
              !g.inRuns a (st.trn.toNat + j) || decide ((g.linkedTo (st.trn.toNat + j)).length ≠ 1)))
          ∨ g.ownVariants.any (fun v => (g.stageInfo a v p).any (fun i => !stageFits g a p.segments i)) then some 0x71
      else none

/-- A COLLECTIVE or REGROUP section. -/
def collSect (g : Img) (x : Sect) : Option (Nat × Nat × Nat) :=
  let l := recs 32 x.body
  let h := l.headD []
  let m := leNat (bytesAt h 2 2)
  let regroup := decide (x.type = 14)
  match firstRec (collRecord g regroup l) l with
  | some f => some f
  | none =>
    if l.length ≠ 1 + m + leNat (bytesAt h 4 2) + leNat (bytesAt h 6 2) then some (l.length, 0x71, l.length)
    else if regroup then
      (if (ofType g.sects 14).any (fun y => decide (y.ix < x.ix) && decide (byteAt y.body 1 = byteAt h 1)) then some (0, 0x17, 14) else none)
    else if (memberCoords l)[g.rank]? ≠ some (fld g.coord 0 18) then some (1 + g.rank, 0x71, 1 + g.rank)
    else g.plans.zipIdx.findSome? (fun (p, k) => (planBad g (g.plans.take k) p).map (fun c => (1 + m + k, c, k)))

/-! ### KEYSLOT (R132, R347) -/

/-- The session bound to the image's JOB_ID. -/
def Img.session (g : Img) (s : State) : Option Session := s.lodge.sessions.find? (fun x => decide (x.jobId = g.jobId))

/-- A KEYSLOT record of an image whose session exists. -/
def keyRec (g : Img) (x : Session) (before : List (Nat × Byte × BitVec 64)) (b : List Byte) : Option (Nat × Nat) :=
  let (a, slot, id) := parseKeySlot b
  let named := 256 * a + slot.toNat
  let key := x.keys.find? (fun k => decide (k.keyId = id))
  firstBad [ range (decide (g.allots.length ≤ a)) 0, range (decide (63 < slot.toNat)) 1,
    (before.any (fun q => decide (q.1 = a) && decide (q.2.1 = slot)), 0x91, named), rsv b 2 6,
    ((match key with | none => true | some k => decide (k.digest ≠ digestBytes g.digest)), 0x91, named) ]

/-- A KEYSLOT section. DEDUCED: assumption 71. -/
def keySect (s : State) (g : Img) (x : Sect) : Option (Nat × Nat × Nat) :=
  let l := recs 16 x.body
  if g.conf then
    match g.session s with
    | none => some (0xFFFFFFFF, 0x91, 0xFFFFFFFF)
    | some y => firstRec (fun i b => keyRec g y ((l.take i).map parseKeySlot) b) l
  else
    let (a, slot, _) := parseKeySlot (l.headD [])
    some (0xFFFFFFFF, 0x91, 256 * a + slot.toNat)

/-! ### All sections (R136, item 4) -/

/-- The first failure of a section: record, code and DETAIL. -/
def sectFailure (s : State) (g : Img) (x : Sect) : Option (Nat × Nat × Nat) := match x.type with
  | 1 => firstRec (fun _ b => jobRec s b) (recs 64 x.body)
  | 2 => let l := recs 64 x.body
         firstRec (fun i b => allotRec s g ((l.take i).map parseAllot) i b) l
  | 3 => let l := recs 16 x.body
         firstRec (fun i b => partRec s g ((l.take i).map parsePart) b) l
  | 4 => arraySect g x
  | 5 => edgeSect g x
  | 6 => joinSect g x
  | 7 => descSect g x
  | 8 => ttSect s g x
  | 9 => let l := recs 16 x.body
         firstRec (fun i b => trnRec s g ((l.take i).map parseRun) b) l
  | 10 => let l := recs 16 x.body
          firstRec (fun i b => stagingRec s g ((l.take i).map parseStaging) b) l
  | 11 => routeSect s g x
  | 12 => cableSect s g x
  | 13 => collSect g x
  | 14 => collSect g x
  | 15 => keySect s g x
  | _ => none

/-- The first failing section of an image. DEDUCED: assumption 61. -/
def sectsFailure (s : State) (g : Img) : Option Refuse :=
  g.sects.findSome? (fun x => (sectFailure s g x).map (fun (r, c, d) => ({ code := c, sect := x.ix, record := r, detail := d } : Refuse)))

end Sys2Proof.Machine
end

