-- ==== Sys2Proof/Machine/LayoutTimes.lean ====
section
/-! DEFINITION. The checks that span sections of a layout image (R136, item 5): groups, configuration stores, timetable
pages, and what the timetables do in time (R127, R141, R142, R150, R153, R162, R165, R257, R258). -/

namespace Sys2Proof.Machine

/-! ### Groups, stores and pages (R120, R127) -/

/-- The index of the first section of a type. -/
def Img.sectOf (g : Img) (t : Nat) : Nat := ((ofType g.sects t).head?).elim 0xFFFF (·.ix)

/-- GROUP_MASK is the union of the GROUPS of the records. DEDUCED: assumption 73. -/
def maskFailure (g : Img) : Option Refuse :=
  let diff := g.mask ^^^ (g.allots.foldl (fun m r => m ||| r.groups) 0)
  ((setBits diff).head?).map (fun k => { code := 0x21, detail := k })

/-- A configuration store lies in its own allotment's partition (R120). DEDUCED: assumption 73. -/
def storeFailure (g : Img) : Option Refuse :=
  (g.allots.zipIdx.find? (fun (r, i) => match g.parts[r.cfgPart]? with
    | none => true
    | some p => decide (p.allot ≠ i) || decide (p.count * 2 ^ 30 < r.cfgOffset + g.storeBytes i))).map
    (fun (r, i) => { code := 0x30, sect := g.sectOf 2, record := i, detail := r.cfgOffset })

/-- The pages that a local allotment's timetables need, each section rounded up to a page. -/
def Img.pagesNeeded (g : Img) (a : Nat) : Nat :=
  (((ofType g.sects 8).filter (fun x => decide (x.scope.toNat = a))).map (fun x => (x.length + 65535) / 65536)).sum

/-- The gatehouse of a record's pages (R127). -/
def AllotRec.pageGh (r : AllotRec) : Nat := if r.ghMovers.toNat % 256 = 0 then 1 else 0

/-- Pages claimed in a gatehouse by the loaded allotments. -/
def State.pagesIn (s : State) (h : Nat) : Nat :=
  ((s.allots.filter (fun e => decide (ghOfPages e.2 = h))).map (fun e => e.2.ttPages)).sum

/-- Timetable pages (R127). DEDUCED: assumption 73. -/
def pagesFailure (s : State) (g : Img) : Option Refuse :=
  (g.allots.zipIdx.find? (fun (r, i) => decide (r.ttPages < g.pagesNeeded i) ||
    decide (256 < s.pagesIn r.pageGh + (((g.allots.take (i + 1)).filter (fun q => decide (q.pageGh = r.pageGh))).map (·.ttPages)).sum))).map
    (fun (r, i) => { code := 0x63, sect := g.sectOf 2, record := i, detail := 256 - s.pagesIn r.pageGh })

/-! ### Timetables as data -/

/-- A timetable section with its local allotment. -/
structure Tab where
  sect  : Nat
  allot : Nat
  table : Timetable

/-- The timetables of an image in section table order. -/
def Img.tabs (g : Img) : List Tab := (ofType g.sects 8).map (fun x => ⟨x.ix, x.scope.toNat, parseTimetable x.body⟩)

/-- The entries of a unit with their indices. -/
def Timetable.unitEntries (t : Timetable) (u : TtUnit) : List (Nat × TtEntry) :=
  ((t.entries.drop u.first).take u.count).zipIdx.map (fun (e, i) => (u.first + i, e))

/-- The record index of entry i of a timetable section. -/
def Timetable.recordOf (t : Timetable) (i : Nat) : Nat := 2 + t.units.length + i

/-- A refusal that names an entry. -/
def Tab.refuse (x : Tab) (code i : Nat) : Refuse := { code := code, sect := x.sect, record := x.table.recordOf i, detail := i }

/-- The ARRAY_CONFIG records of a phase of a local allotment, with their programs. -/
def Img.cfgs (g : Img) (a phase : Nat) : List (ArrCfg × EdgeProg) :=
  let of := fun (t : Nat) => (g.sects.find? (fun x => decide (x.type = t) && decide (x.phase = phase) && decide (x.scope.toNat = a))).elim [] (·.body)
  ((recs 32 (of 4)).map parseArrCfg).zip ((recs 320 (of 5)).map parseEdge)

/-- The joins of a phase of a local allotment. -/
def Img.joins (g : Img) (a phase : Nat) : List Join :=
  (recs 16 ((g.sects.find? (fun x => decide (x.type = 6) && decide (x.phase = phase) && decide (x.scope.toNat = a))).elim [] (·.body))).map
    parseJoin

/-! ### Collective plans in time (R256 to R258) -/

/-- The arms of a unit: entry offset, turnstile, deadline and target. DEDUCED: assumption 76. -/
def armsOf (l : List (Nat × TtEntry)) : List (Nat × Nat × Nat × Word) := l.filterMap (fun (_, e) => match e.kind with
  | .trnArm t d target => some (e.offset.toNat, t.toNat, d.toNat, target)
  | _ => none)

/-- Ticks from the deadline of segment j to the registration of its reduced output (R256). -/
def Img.outLag (g : Img) (a : Nat) (i : StageInfo) (j : Nat) : Nat :=
  let gh := segGh i j
  let pool := ((g.staging.find? (fun b => decide (b.id = i.stage.outBuf) && decide (b.allot.toNat = a))).map (fun b => b.pool.toNat)).getD gh
  if i.stage.method.toNat < 2 then
    ((i.contribution + 511) / 512 + 31) / 16 + (if pool = gh then 0 else if pool < 2 then 2 else 3)
  else 0

/-- The deadline of a segment: of the first arm of its turnstile that does not end before its sends. -/
def segDeadline (arms : List (Nat × Nat × Nat × Word)) (t send : Nat) : Option Nat :=
  (arms.find? (fun r => decide (r.2.1 = t) && decide (send ≤ r.2.2.1))).map (fun r => r.2.2.1)

/-- The plan is not complete by the unit's last tick (R150, R256). DEDUCED: assumption 74. -/
def planOverruns (g : Img) (a segs at_ len : Nat) (arms : List (Nat × Nat × Nat × Word)) (l : List StageInfo) : Bool :=
  l.any (fun i => (List.range segs).any (fun j =>
    match segDeadline arms (i.stage.trn.toNat + j) (at_ + i.stage.start + j * i.stage.period) with
    | none => true
    | some d => decide (len ≤ d + g.outLag a i j)))

/-- A turnstile of a unit that is armed again while it can still be ARMED (R242, R260). DEDUCED: assumption 76. -/
def rearmed (arms : List (Nat × Nat × Nat × Word)) : Option Nat := match arms with
  | [] => none
  | r :: t => match t.find? (fun q => decide (q.2.1 = r.2.1) && decide (q.1 ≤ r.2.2.1)) with
    | some q => some q.2.1
    | none => rearmed t

/-- A refusal that names a plan. DEDUCED: assumption 76. -/
def Img.planRefuse (g : Img) (p : Nat) : Refuse :=
  { code := 0x71, sect := g.sectOf 13, record := 1 + g.members + p, detail := p }

/-- The plan whose stages a turnstile gates. -/
def Img.planOfTrn (g : Img) (t : Nat) : Option Nat :=
  g.plans.findIdx? (fun p => ((g.stages.drop p.firstStage).take p.nStages).any (fun st =>
    decide (st.trn.toNat ≤ t) && decide (t < st.trn.toNat + p.segments)))

/-- An arm of a linked turnstile with another TARGET than that of Table 9-8: its plan. -/
def badTarget (g : Img) (a v : Nat) (arms : List (Nat × Nat × Nat × Word)) : Option Nat := arms.findSome? (fun r =>
  match g.planOfTrn r.2.1 with
  | none => none
  | some p => (g.plans[p]?).bind (fun pl =>
      if (g.stageInfo a v pl).any (fun i => decide (i.stage.trn.toNat ≤ r.2.1) && decide (r.2.1 < i.stage.trn.toNat + pl.segments)
          && decide (r.2.2.2.toNat ≠ i.target)) then some p else none))

/-! ### Gear variants (R165) -/

/-- An entry without what gears may change. -/
def gearFree (k : EntryKind) : Option EntryKind := match k with
  | .issue .. => none
  | .trnArm t _ target => some (.trnArm t 0 target)
  | k => some k

/-- The vectors that the ISSUE entries of a unit admit to array x, and the counts at which it switches. -/
def vectorsTo (x : Nat) (l : List (Nat × TtEntry)) : Nat × List Nat :=
  l.foldl (fun (n, sw) (_, e) => match e.kind with
    | .issue switch _ group mask vectors _ _ =>
      if group.toNat = x / 16 ∧ mask.getLsbD (x % 16) = true then (n + vectors.toNat, if switch then sw ++ [n] else sw) else (n, sw)
    | _ => (n, sw)) (0, [])

/-- A unit in what every gear shares. -/
def unitSame (arrays : List Nat) (a b : List (Nat × TtEntry)) : Bool :=
  decide (a.filterMap (fun e => gearFree e.2.kind) = b.filterMap (fun e => gearFree e.2.kind))
  && arrays.all (fun x => decide (vectorsTo x a = vectorsTo x b))

/-- Two gear variants agree (R165). -/
def tablesAgree (arrays : List Nat) (a b : Timetable) : Bool :=
  decide (a.loop = b.loop) && decide (a.swapback = b.swapback) && decide (a.units.length = b.units.length)
  && (a.units.zip b.units).all (fun (u, v) => unitSame arrays (a.unitEntries u) (b.unitEntries v))

/-- A timetable that disagrees with the first gear's (R165): DETAIL names variant, phase and gear. -/
def variantFailure (g : Img) (l : List Tab) (x : Tab) : Option Refuse :=
  let t := x.table
  match l.find? (fun y => decide (y.allot = x.allot) && decide (y.table.phase = t.phase) && decide (y.table.regroup = t.regroup)
      && decide (y.table.gear = 1)) with
  | none => none
  | some y =>
    if tablesAgree (g.arrays x.allot) y.table t then none
    else some { code := 0x82, sect := x.sect, detail := 65536 * t.regroup.toNat + 256 * t.phase.toNat + t.gear.toNat }

/-! ### Shadow loads (R141, R142, R162) -/

/-- Where each unit of a phase starts, counted in ticks from the lap that the phase begins in (R149), and the end. DEDUCED:
assumption 72. -/
def packUnits (free : Nat) (l : List TtUnit) : List (TtUnit × Nat) × Nat := match l with
  | [] => ([], free)
  | u :: t =>
    let start := if free % 65536 + u.length ≤ 65536 ∧ 4 ≤ free % 65536 then free else (free / 65536 + 1) * 65536 + 4
    let r := packUnits (start + u.length) t
    ((u, start) :: r.1, r.2)

/-- The units of the shortest execution: those outside the loop. DEDUCED: assumption 75. -/
def Timetable.shortest (t : Timetable) : List TtUnit := match t.loop with
  | none => t.units
  | some (f, l) => t.units.take f ++ t.units.drop (l + 1)

/-- The tick in which the shortest execution from a first tick ends: that of its PHASE_END where it executes the last unit, else the last
tick of the last unit it executes, or its first (R157). DEDUCED: assumption 75. -/
def Timetable.endTick (t : Timetable) (first : Nat) : Nat :=
  let r := packUnits first t.shortest
  match r.1.getLast?, t.entries.getLast? with
  | none, _ => first
  | some (u, start), some e =>
    if t.units.getLast? = some u then start + e.offset.toNat else start + u.length - 1
  | some (u, start), none => start + u.length - 1

/-- The SHADOW entries of the shortest execution from a first tick: entry, phase and tick. DEDUCED: assumption 75. -/
def shadowTimes (t : Timetable) (first : Nat) : List (Nat × Nat × Nat) :=
  (packUnits first t.shortest).1.flatMap (fun (u, start) => (t.unitEntries u).filterMap (fun (i, e) => match e.kind with
    | .shadow p => some (i, p.toNat, start + e.offset.toNat)
    | _ => none))

/-- A phase whose loads cannot complete before its PHASE_END, or that loads no NEXT (R162). DEDUCED: assumption 75. -/
def planeFailure (g : Img) (x : Tab) : Option Refuse := match g.allotAt x.allot with
  | none => none
  | some a =>
    let t := x.table
    let last := t.entries.length - 1
    let next := t.next
    let late := fun (first : Nat) =>
      let l := shadowTimes t first
      let by_ := t.endTick first
      match l.find? (fun (_, p, at_) => decide (by_ < at_ + shadowTicks a p - 1)) with
      | some (i, _, _) => some i
      | none =>
        if next = 0xFF then none
        else if t.swapback then (if by_ < first + shadowTicks a next.toNat - 1 then some last else none)
        else if l.any (fun (_, p, _) => decide (p = next.toNat)) then none else some last
    ([4, 7].findSome? late).map (x.refuse 0x83)

/-! ### Vectors and moves in time (R104, R150, R153, R175) -/

/-- An ISSUE entry of a unit as it acts on array x, with its time counted from the unit's start. -/
def issueOf (cpt x : Nat) (e : TtEntry) : Option Issue := match e.kind with
  | .issue switch cohort group mask vectors slotMask stride =>
    if group.toNat = x / 16 ∧ mask.getLsbD (x % 16) = true then
      some { entry := 0, at_ := timeOf e.offset.toNat, total := vectors.toNat, slotMask := slotMask, stride := stride.toNat,
             switch := switch, cohort := cohort, cpt := cpt, step := 0 }
    else none
  | _ => none

/-- The array cycle of a vector, counted from the unit's start. -/
def unitCycle (x : Nat) (i : Issue) (v : Nat) : Nat :=
  (i.at_.toNat + (if i.cohort then 2 * (x % 8) else 0)) * i.cpt + slotCycle i v

/-- The array cycles in which the vectors of an entry enter, ascending. -/
def admissions (x : Nat) (i : Issue) : List Nat := (List.range i.total).map (unitCycle x i)

/-- Two cycles of an ascending list follow one another too closely. -/
def closer (ii : Nat) (l : List Nat) : Bool := (l.zip l.tail).any (fun e => decide (e.2 < e.1 + ii))

/-- The first entry of a unit on array x one of whose vectors enters closer than II to another vector; before holds the cycles of the
entries ahead of it, which may interleave with it (R153). -/
def issueClose (ii x : Nat) (before : List Nat) (l : List (Nat × Issue)) : Option Nat := match l with
  | [] => none
  | (k, i) :: t =>
    let all := before.merge (admissions x i) (fun m n => decide (m ≤ n))
    if closer ii all then some k else issueClose ii x all t

/-- Array cycles of the path from an array's output to its banks (Table 4-3). DEDUCED: assumption 74. -/
def outPath (l : List Join) (x : Nat) : Nat :=
  ((l.filter (fun j => decide (j.src.toNat = 0x2000 + x))).map (fun j => match j.path.toNat with
    | 0 => 4 | 1 => 14 | 2 => 14 | _ => 24)).foldl max 0

/-- The tick of a unit in which the output of an entry's last vector is registered (R83, R150). -/
def outputTick (x : Nat) (p : EdgeProg) (path : Nat) (i : Issue) : Nat :=
  let quant := ((p.ops.find? (fun o => decide (o.opc = 10))).map EdgeOp.done).getD 0
  (unitCycle x i (i.total - 1) + 160 + quant + path) / max 1 i.cpt

/-- Latency and bytes per tick of one end of a transfer inside the module (Table 6-5); 0 bytes where no figure bounds it. -/
def endFigure (s : State) (m space addr : Nat) : Nat × Nat :=
  let bridge := fun (pav : Nat) => if 64 ≤ m then (3, 16384) else if m / 16 = pav then (0, 0) else (3, 32768)
  match space with
  | 0 =>
    if isDdr addr then (if m < 64 then (43, 640) else (40, 640))
    else let b := bridge (s.siteOf addr / 3)
         (16 + b.1, if b.2 = 0 then 38400 else min b.2 38400)
  | 1 => bridge (addr / 2 ^ 28)
  | 2 => bridge (addr / 2 ^ 32 / 64)
  | 5 => (0, 1504)
  | _ => (0, 0)

/-- A descriptor has host memory or the staging window at one end. -/
def Desc.reachesHost (d : Desc) : Bool :=
  let host := fun (x : BitVec 4) => decide (x = 3) || decide (x = 4)
  (decide (d.op ≠ 2) && host d.srcSp) || host d.dstSp

/-- The planned ticks of a descriptor on a mover (R175): a read from host memory or the staging window takes 1,000 ticks and its bytes at
768 a tick, whatever the other end (R305). That a write to them is planned in the same way is a DESIGN CHOICE: assumption 123. DEDUCED:
assumption 74. DESIGN CHOICE: assumption 114. -/
def plannedTicks (s : State) (cpt m : Nat) (d : Desc) : Nat :=
  if d.reachesHost then 1000 + (32 * d.total + 767) / 768 else
  let src := if d.op = 2 then (0, 0) else endFigure s m d.srcSp.toNat d.src.toNat
  let dst := endFigure s m d.dstSp.toNat d.dst.toNat
  let own := if m < 64 then 512 * cpt else 4096
  let rate := [src.2, dst.2].foldl (fun r x => if x = 0 then r else min r x) own
  max 1 (src.1 + dst.1 + (32 * d.total + rate - 1) / max 1 rate)

/-- A mover in a unit: the tick in which its active descriptor completes, that descriptor, and the pending one. -/
abbrev Busy := Option (Nat × Desc) × Option Desc

/-- The descriptors that complete before tick t, with the starts that NEXT makes (R104); each takes a tick at least. DEDUCED:
assumption 74. -/
def runMover (ticks : Desc → Nat) (descs : List Desc) (t fuel : Nat) (b : Busy) : Busy := match fuel with
  | 0 => b
  | f + 1 => match b with
    | (none, _) => b
    | (some (e, d), pend) =>
      if t ≤ e then b
      else
        let next := if d.nextEn then descs[d.next.toNat]? else none
        match pend with
        | some p => runMover ticks descs t f (some (e + ticks p, p), next)
        | none => runMover ticks descs t f (next.map (fun n => (e + ticks n, n)), none)

/-- The MOVE entries of a unit on one mover: the entry that meets a pending descriptor, or the mover as it stands. -/
def moveUnit (ticks : Desc → Nat) (descs : List Desc) (l : List (Nat × Nat × Nat)) (b : Busy) : Nat ⊕ Busy := match l with
  | [] => .inr b
  | (k, off, ix) :: t =>
    let b := runMover ticks descs off 65536 b
    match descs[ix]? with
    | none => moveUnit ticks descs t b
    | some d => match b with
      | (none, _) => moveUnit ticks descs t (some (off + ticks d - 1, d), none)
      | (some a, none) => moveUnit ticks descs t (some a, some d)
      | (some _, some _) => .inl k

/-- The MOVE entries of a unit on the mover of a code. -/
def movesOn (code : BitVec 16) (l : List (Nat × TtEntry)) : List (Nat × Nat × Nat) := l.filterMap (fun (i, e) => match e.kind with
  | .move m d => if m = code then some (i, e.offset.toNat, d.toNat) else none
  | _ => none)

/-- The descriptors of a mover in a phase. -/
def Img.descs (g : Img) (code : BitVec 16) (phase : Nat) : List Desc :=
  (recs 64 ((g.sects.find? (fun x => decide (x.type = 7) && decide (x.phase = phase) && decide (x.scope = code))).elim [] (·.body))).map parseDesc

/-- The mover codes that a unit's MOVE entries name. -/
def moverCodes (l : List (Nat × TtEntry)) : List (BitVec 16) :=
  (l.filterMap (fun (_, e) => match e.kind with | .move m _ => some m | _ => none)).foldl (fun a m => if a.contains m then a else a ++ [m]) []

/-- TT_OVERRUN of a unit (R104, R153). -/
def overrunUnit (s : State) (g : Img) (x : Tab) (u : TtUnit) : Option Nat :=
  let l := x.table.unitEntries u
  let cpt := cptOf x.table.gear.toNat
  let phase := x.table.phase.toNat
  match (g.cfgs x.allot phase).findSome? (fun (c, _) =>
      if c.mode = 0 then none
      else issueClose c.ii.toNat c.array.toNat [] (l.filterMap (fun (k, e) => (issueOf cpt c.array.toNat e).map (fun i => (k, i))))) with
  | some k => some k
  | none => (moverCodes l).findSome? (fun code =>
      match moveUnit (plannedTicks s cpt (moverOf code)) (g.descs code phase) (movesOn code l) (none, none) with
      | .inl k => some k
      | .inr _ => none)

/-- What a unit has started and not ended by its last tick (R150): the entry. -/
def unfinished (s : State) (g : Img) (x : Tab) (u : TtUnit) : Option Nat :=
  let l := x.table.unitEntries u
  let cpt := cptOf x.table.gear.toNat
  let phase := x.table.phase.toNat
  let joins := g.joins x.allot phase
  match (g.cfgs x.allot phase).findSome? (fun (c, p) =>
      if c.mode = 0 then none
      else l.findSome? (fun (k, e) => match issueOf cpt c.array.toNat e with
        | none => none
        | some i => if u.length ≤ outputTick c.array.toNat p (outPath joins c.array.toNat) i then some k else none)) with
  | some k => some k
  | none => match (moverCodes l).findSome? (fun code =>
      let ticks := plannedTicks s cpt (moverOf code)
      let ds := g.descs code phase
      let ms := movesOn code l
      match moveUnit ticks ds ms (none, none) with
      | .inl _ => none
      | .inr b => if (runMover ticks ds u.length 65536 b).1.isSome then (ms.getLast?).map (·.1) else none) with
    | some k => some k
    | none => l.findSome? (fun (k, e) => match e.kind with
      | .collective p => (match g.plans[p.toNat]? with
        | none => none
        | some pl => if (g.roster x.table.regroup.toNat).contains (fld g.coord 0 18)
            && planOverruns g x.allot pl.segments e.offset.toNat u.length (armsOf l) (g.stageInfo x.allot x.table.regroup.toNat pl)
          then some k else none)
      | _ => none)

/-! ### Array work at lap boundaries (R35, R142) -/

/-- The units of an execution from a first tick that runs each loop once, with their starts, and the lap that follows the phase. DEDUCED:
assumption 72. -/
def Timetable.placed (t : Timetable) (first : Nat) : List (TtUnit × Nat) × Nat :=
  let r := packUnits first t.units
  (r.1, (r.2 - 1) / 65536 + 1)

/-- The ISSUE entries of a unit on array x. -/
def issuesOn (cpt x : Nat) (l : List (Nat × TtEntry)) : List (Nat × Issue) :=
  l.filterMap (fun (k, e) => (issueOf cpt x e).map (fun i => (k, i)))

/-- A tick of a phase in which R35 keeps the arrays free: 00000 to 00003 of a lap, and to 00006 of the lap that swaps, if one does. -/
def reserved (swap : Option Nat) (t : Nat) : Bool :=
  decide (t % 65536 < 4) || (decide (swap = some (t / 65536)) && decide (t % 65536 < 7))

/-- The entry of a unit that starts at a tick and meets a condition on an array, its program, its issue and the starting tick. -/
def placedIssue (g : Img) (x : Tab) (f : Nat → EdgeProg → Issue → Nat → Bool) (first : Nat) : Option Nat :=
  let cpt := cptOf x.table.gear.toNat
  (x.table.placed first).1.findSome? (fun (u, start) => (g.cfgs x.allot x.table.phase.toNat).findSome? (fun (c, p) =>
    if c.mode = 0 then none
    else (issuesOn cpt c.array.toNat (x.table.unitEntries u)).findSome? (fun (k, i) => if f c.array.toNat p i start then some k else none)))

/-- TT_LAPRES (R35): an entry that admits a vector in a tick of a lap that is kept free. DEDUCED: assumption 72. -/
def lapFailure (g : Img) (x : Tab) : Option Refuse :=
  let f := fun (first n : Nat) (_ : EdgeProg) (i : Issue) (start : Nat) =>
    let swap := if x.table.next = 0xFF then none else some (x.table.placed first).2
    (List.range i.total).any (fun v => reserved swap (start + unitCycle n i v / max 1 i.cpt))
  ([4, 7].findSome? (fun first => placedIssue g x (f first) first)).map (x.refuse 0x80)

/-- TT_PLANE for an entry whose vectors are in flight at tick 00004 of the swap lap, or whose outputs are not registered by tick 00003
(R142). DEDUCED: assumption 72. -/
def flightFailure (g : Img) (x : Tab) : Option Refuse :=
  if x.table.next = 0xFF then none
  else
    let joins := g.joins x.allot x.table.phase.toNat
    let f := fun (first n : Nat) (p : EdgeProg) (i : Issue) (start : Nat) =>
      decide ((x.table.placed first).2 * 65536 + 3 < start + outputTick n p (outPath joins n) i)
    ([4, 7].findSome? (fun first => placedIssue g x (f first) first)).map (x.refuse 0x83)

/-! ### What a unit sends in time (R254, R257, R258) -/

/-- What a unit sends: of a contribution its plan, stage, segment and position, none for a descriptor that sends to a spoke; the spoke it
leaves by, the offset at which it begins, its bytes on the wire, and the least latency to its registration (Table 8-9). -/
structure Send where
  plan  : Option (Nat × Nat × Nat × Nat)
  spoke : Nat
  at_   : Nat
  bytes : Nat
  lag   : Nat
  deriving DecidableEq, Repr

/-- The module at the far end of a spoke, as the image's CABLING section has it. -/
def Img.farModule (g : Img) (k : Nat) : Option (BitVec 15) :=
  ((firstRecs g.sects 12 16)[k]?).bind (fun b => if bit (byteAt b 1) 0 then some (modNum (le 18 b 4 4)) else none)

/-- The least registration latency of the contribution of position q from a module (Table 8-9, R257), by where the buffer lies and the
spokes that lead to that module, on any of which it may arrive; one transit at least where none does. DEDUCED: assumption 74. -/
def Img.slotLag (g : Img) (a : Nat) (i : StageInfo) (c : BitVec 18) (q : Nat) : Nat :=
  let pool := ((g.staging.find? (fun b => decide (b.id = i.stage.recvBuf + BitVec.ofNat 16 q) && decide (b.allot.toNat = a))).map
    (fun b => b.pool.toNat)).getD 0
  let direct := (List.range 36).filter (fun k => decide (g.farModule k = some (modNum c)))
  (if direct.isEmpty then 4 else 0) +
    (if 2 ≤ pool then 6 else if direct.isEmpty || direct.any (fun k => decide (k / 18 = pool)) then 3 else 5)

/-- The contributions that a plan started at offset at_ of a unit sends. -/
def Img.planSends (g : Img) (a v p at_ : Nat) (pl : Plan) : List Send :=
  (g.stageInfo a v pl).zipIdx.flatMap (fun (i, k) =>
    if i.stage.level = 0 then []
    else (List.range pl.segments).flatMap (fun j => i.group.zipIdx.filterMap (fun (c, q) =>
      if modNum c = modNum (fld g.coord 0 18) then none
      else some { plan := some (p, k, j, q), spoke := (g.sendSpoke a i j c).getD (64 + q),
                  at_ := at_ + i.stage.start + j * i.stage.period, bytes := i.slotLen, lag := g.slotLag a i c q })))

/-- The descriptors that start on a mover, with their ticks, before tick t of a unit. -/
def chainStarts (ticks : Desc → Nat) (descs : List Desc) (t fuel : Nat) (b : Busy) : List (Nat × Desc) := match fuel with
  | 0 => []
  | f + 1 => match b with
    | (none, _) => []
    | (some (e, d), pend) =>
      if t ≤ e then []
      else
        let next := if d.nextEn then descs[d.next.toNat]? else none
        match pend with
        | some p => (e + 1, p) :: chainStarts ticks descs t f (some (e + ticks p, p), next)
        | none => next.elim [] (fun n => (e + 1, n) :: chainStarts ticks descs t f (some (e + ticks n, n), none))

/-- The descriptors that the MOVE entries of a unit of len ticks start on one mover, with their ticks. -/
def moverStarts (ticks : Desc → Nat) (descs : List Desc) (len : Nat) (l : List (Nat × Nat × Nat)) (b : Busy) : List (Nat × Desc) :=
  match l with
  | [] => chainStarts ticks descs len 65536 b
  | (_, off, ix) :: t =>
    chainStarts ticks descs off 65536 b ++
    (let b := runMover ticks descs off 65536 b
     match descs[ix]?, b with
     | none, _ => moverStarts ticks descs len t b
     | some d, (none, _) => (off, d) :: moverStarts ticks descs len t (some (off + ticks d - 1, d), none)
     | some d, (some a, none) => moverStarts ticks descs len t (some a, some d)
     | some _, (some _, some _) => moverStarts ticks descs len t b)

/-- What the descriptors of a unit send to spokes. DEDUCED: assumption 74. -/
def moveSends (s : State) (g : Img) (x : Tab) (u : TtUnit) : List Send :=
  let l := x.table.unitEntries u
  let slice : BitVec 12 := (g.allots[x.allot]?).elim 0 (fun r => fld r.slice 0 12)
  (moverCodes l).flatMap (fun code =>
    (moverStarts (plannedTicks s (cptOf x.table.gear.toNat) (moverOf code)) (g.descs code x.table.phase.toNat) u.length
      (movesOn code l) (none, none)).filterMap (fun (at_, d) =>
        if d.dstSp = 5 then (g.egress slice ((fld code 0 7).toNat / 8) (modNum d.coord)).map (fun k =>
          { plan := none, spoke := k, at_ := at_, bytes := 32 * d.total, lag := 0 })
        else none))

/-- What a unit sends, in the order in which it begins. -/
def unitSends (s : State) (g : Img) (x : Tab) (u : TtUnit) : List Send :=
  ((x.table.unitEntries u).flatMap (fun (_, e) => match e.kind with
    | .collective p => (g.plans[p.toNat]?).elim [] (g.planSends x.allot x.table.regroup.toNat p.toNat e.offset.toNat)
    | _ => []) ++ moveSends s g x u).mergeSort (fun x y => decide (x.at_ ≤ y.at_))

/-- The ROLL_CALL packets that go ahead of data in a unit of len ticks that starts at a tick of a lap: their spokes and the offset from
which they leave, tick 65473 of the lap (R202, R281). The timetables of an image place no other control packet. -/
def rollSends (s : State) (g : Img) (v start len : Nat) : List (Nat × Nat) :=
  if start ≤ 65473 ∧ 65473 < start + len then
    let slice : BitVec 12 := (g.allots.head?).elim 0 (fun r => fld r.slice 0 12)
    (g.roster v).filterMap (fun c => if modNum c = modNum (fld g.coord 0 18) then none
      else (g.egress slice (if s.lodge.actPower then 1 else 0) (modNum c)).map (fun k => (k, 65473 - start)))
  else []

/-- Each send with the tick in which its last packet leaves (R257): a spoke sends whole transfers one after another, 1,504 bytes a tick,
and 64 bytes more for each control packet that goes ahead (R202); free holds where each spoke stands, in bytes. -/
def leaveTicks (ctl free : List (Nat × Nat)) (l : List Send) : List (Send × Nat) := match l with
  | [] => []
  | x :: t =>
    let begins := max (x.at_ * 1504) ((free.lookup x.spoke).getD 0)
    let n := (ctl.filter (fun c => decide (c.1 = x.spoke) && decide (begins ≤ c.2 * 1504) && decide (c.2 * 1504 < begins + x.bytes))).length
    let fin := begins + x.bytes + 64 * n
    (x, (fin + 1503) / 1504 - 1) :: leaveTicks ctl ((x.spoke, fin) :: free) t

/-- The planned arrival of the last contribution of a segment whose sends begin at offset send; none where it has none. -/
def arrival (l : List (Send × Nat)) (p k j send : Nat) : Option Nat :=
  ((l.filter (fun e => decide (e.1.at_ = send) && (e.1.plan.elim false (fun q => decide (q.1 = p) && decide (q.2.1 = k)
    && decide (q.2.2.1 = j))))).map (fun e => e.2 + e.1.lag)).max?

/-- Stage k of plan p, started at offset at_ of a unit, breaks R258; next is the stage after it, sends the unit's sends with the ticks in
which they leave. DEDUCED: assumption 74. -/
def stageLate (g : Img) (a p segs at_ : Nat) (arms : List (Nat × Nat × Nat × Word)) (sends : List (Send × Nat)) (k : Nat)
    (i : StageInfo) (next : Option StageInfo) : Bool :=
  (List.range segs).any (fun j =>
    let send := at_ + i.stage.start + j * i.stage.period
    match segDeadline arms (i.stage.trn.toNat + j) send with
    | none => true
    | some d =>
      (match arrival sends p k j send with
        | none => false
        | some t => decide (d < t))
      || (match next with
        | none => false
        | some n => decide (at_ + n.stage.start + j * n.stage.period ≤ d + g.outLag a i j)))

/-- The stages each with the one after it. -/
def withNext (l : List StageInfo) : List (StageInfo × Option StageInfo) := match l with
  | [] => []
  | [x] => [(x, none)]
  | x :: y :: t => (x, some y) :: withNext (y :: t)

/-- A plan that the unit's COLLECTIVE entries start breaks R258, with the unit's sends and the ticks in which they leave. -/
def plansLate (g : Img) (x : Tab) (l : List (Nat × TtEntry)) (sends : List (Send × Nat)) : Option Refuse :=
  l.findSome? (fun (_, e) => match e.kind with
    | .collective p => (match g.plans[p.toNat]? with
      | none => none
      | some pl =>
        if (withNext (g.stageInfo x.allot x.table.regroup.toNat pl)).zipIdx.any (fun ((i, n), k) =>
            stageLate g x.allot p.toNat pl.segments e.offset.toNat (armsOf l) sends k i n)
        then some (g.planRefuse p.toNat) else none)
    | _ => none)

/-- The ticks of a lap in which unit j of a timetable starts: one execution of each loop, from either first tick of a phase. DEDUCED:
assumption 74. -/
def Timetable.startsAt (t : Timetable) (j : Nat) : List Nat :=
  [4, 7].map (fun first => ((t.placed first).1[j]?).elim first (fun e => e.2 % 65536))

/-- What a timetable does with collective plans (R258). -/
def collTimes (s : State) (g : Img) (x : Tab) : Option Refuse :=
  let v := x.table.regroup.toNat
  let member := (g.roster v).contains (fld g.coord 0 18)
  x.table.units.zipIdx.findSome? (fun (u, j) =>
    let l := x.table.unitEntries u
    let arms := armsOf l
    match rearmed arms with
    | some t => some ((g.planOfTrn t).elim { code := 0x71, sect := g.sectOf 13 } g.planRefuse)
    | none =>
      if !member then none
      else match badTarget g x.allot v arms with
        | some p => some (g.planRefuse p)
        | none =>
          let sends := unitSends s g x u
          (x.table.startsAt j).findSome? (fun start => plansLate g x l (leaveTicks (rollSends s g v start u.length) [] sends)))

/-! ### All of them -/

/-- The first failing check across sections, in the order of Table 5-13. DEDUCED: assumption 61. -/
def crossFailure (s : State) (g : Img) : Option Refuse :=
  let l := g.tabs
  let each := fun (code : Nat) (f : Tab → TtUnit → Option Nat) => l.findSome? (fun x => (x.table.units.findSome? (f x)).map (x.refuse code))
  [fun (_ : Unit) => maskFailure g, fun _ => storeFailure g, fun _ => pagesFailure s g, fun _ => l.findSome? (collTimes s g),
   fun _ => l.findSome? (lapFailure g), fun _ => l.findSome? (variantFailure g l), fun _ => l.findSome? (planeFailure g),
   fun _ => l.findSome? (flightFailure g), fun _ => each 0x84 (overrunUnit s g),
   fun _ => each 0x85 (unfinished s g)].findSome? (fun f => f ())

end Sys2Proof.Machine
end

