-- ==== Sys2Proof/Machine/Rings.lean ====
section
/-! DEFINITION. Rings (R319 to R325): enable, polls, completion writes, holdoffs. -/

namespace Sys2Proof.Machine

/-- The port of a ring: a port ring's own, or the owner of its allotment; none where the allotment does not exist. -/
def State.ringPort (s : State) (r : Nat) : Option Port :=
  if r = 0 then some 0 else if r = 1 then some 1 else (s.allot (r - 2)).map (fun a => portOf a.port)

/-- The port reaches the block of a ring (R306, R308). -/
def State.reaches (s : State) (p : Port) (r : Nat) : Bool := decide (s.ringPort r = some p)

/-- N of a ring (R319). -/
def Ring.n (g : Ring) : Nat := 16 * 2 ^ g.size.toNat

/-- HOLDOFF and VECTOR of a write of RING_CTL. -/
def Ring.setCtl (data : Word) (g : Ring) : Ring := { g with holdoff := fld data 16 12, vector := fld data 0 11 }

/-- ENABLE is set: the fields of RING_CTL, and the head, the tail and the phases at their first values (R319). A TDI in ERROR
keeps its rings disabled, and the other fields are written (R355). DEDUCED: assumption 55. -/
def enableRing (p : Port) (r : Nat) (data : Word) (s : State) : State :=
  if s.reaches p r then
    guarded p (fun s =>
      if (s.ring r).enable then s
      else if (s.port p).tdi = .error then s.modRing r (Ring.setCtl data)
      else s.modRing r (fun g => { g.setCtl data with
        enable := true, sqHead := 0, cqTail := 0, sqPhase := true,
        cqPhase := true, cqHead := 0, lost := 0, reading := false })) s
  else s

/-- RING_ENABLE (R319). -/
def execRingEnable (p : Port) (r : RingIx) (data : Word) (s : State) : Res :=
  .next (hostWrite p (enableRing p r.val data) s)

/-- ENABLE is cleared; the other fields of RING_CTL are written only where it was 0. DEDUCED: assumption 56. -/
def clearRing (p : Port) (r : Nat) (data : Word) (s : State) : State :=
  if s.reaches p r then
    guarded p (fun s =>
      if (s.ring r).enable then disableRing r s
      else s.modRing r (Ring.setCtl data)) s
  else s

/-- RING_DISABLE (R319). -/
def execRingDisable (p : Port) (r : RingIx) (data : Word) (s : State) : Res :=
  .next (hostWrite p (clearRing p r.val data) s)

/-- The poll period of a ring (R321). -/
def State.pollPeriod (s : State) (r : Nat) : Nat :=
  if r < 2 then 64 else match s.allot (r - 2) with
    | none => 64
    | some a => a.poll.eff.toNat

/-- How many runs an allotment's ring may still take (R158): one pending run, further entries stay unfetched. DEDUCED:
assumption 57. -/
def State.runRoom (s : State) (r : Nat) : Nat :=
  if r < 2 then 4 else match s.allot (r - 2) with
    | none => 0
    | some a => if a.pendRun.isSome then 0 else 1

/-- The number of entries that a poll reads. DEDUCED: assumption 57. -/
def State.pollCount (s : State) (r : Nat) : Nat :=
  min (min 4 (s.runRoom r)) ((s.ring r).n - (s.ring r).sqHead.toNat)

/-- The ring's allotment is being reset (R395). -/
def State.ringResets (s : State) (r : Nat) : Bool :=
  if r < 2 then false else match s.allot (r - 2) with
    | none => false
    | some a => decide (a.reset ≠ .none)

/-- A ring is served: enabled, its port's link up, no pair lost. DEDUCED: assumption 80. -/
def State.ringServed (s : State) (r : Nat) : Bool :=
  (s.ring r).enable && (match s.ringPort r with | none => false | some p => s.hears p)

/-- The host address of a submission region, whose first 64 bytes are the header, and that of its entry i (R319, Table 11-6). -/
def Ring.sqBase (g : Ring) : BitVec 64 := g.sqHi ++ g.sqLo ++ (0 : BitVec 12)
def Ring.sqEntry (g : Ring) (i : BitVec 16) : BitVec 64 := g.sqBase + BitVec.ofNat 64 (64 + 64 * i.toNat)

/-- The read request of a poll of a ring through a port (R321). -/
def State.pollRead (s : State) (p : Port) (r : Nat) : Out :=
  .ringRead (decide (p.val = 1)) r (s.ring r).sqBase ((s.ring r).sqEntry (s.ring r).sqHead) (s.pollCount r)

/-- RING_POLL (R321): at a poll tick the ring's header and entries are read. DEDUCED: assumption 57. -/
def execRingPoll (r : RingIx) (s : State) : Res :=
  .next (match s.ringPort r.val with
    | none => s
    | some p =>
      if s.timed && s.ringServed r.val && !(s.ring r.val).reading && !s.ringResets r.val
          && decide ((s.ring r.val).pend.length ≤ 1008) && decide (s.now.toNat % max 1 (s.pollPeriod r.val) = 0) then
        (s.modRing r.val (fun g => { g with reading := true })).emit (s.pollRead p r.val)
      else s)

/-- The 32 bytes of a completion entry (Table 11-3). -/
def completionBytes (c : Completion) (head : BitVec 16) (phase lost : Bool) : List Byte :=
  [c.kind, c.status] ++ bytesOf 2 (if c.kind = 1 then head else c.sqHead) ++ bytesOf 4 c.tag ++ bytesOf 7 c.stamp ++ [0] ++
  bytesOf 8 c.step ++ bytesOf 4 c.detail ++ [c.allot, 0, 0, (ofBit 1 phase ++ (0 : BitVec 6) ++ ofBit 1 lost : BitVec 8)]

/-- The message that follows a completion entry: sent, or owed to the end of the holdoff (R325). -/
def ringMessage (p : Port) (r : Nat) (s : State) : State :=
  let g := s.ring r
  let free := match g.lastMsg with
    | none => true
    | some t => decide (g.holdoff = 0) || decide (t.toNat + g.holdoff.toNat ≤ s.now.toNat)
  if free then sendMsi p g.vector (s.modRing r (fun g => { g with lastMsg := some s.now, owed := false }))
  else s.modRing r (fun g => { g with owed := true })

/-- There is room in the completion region (R322). -/
def Ring.room (g : Ring) : Bool := decide ((g.cqTail.toNat + g.n - g.cqHead.toNat % g.n) % g.n < g.n - 1)

/-- COMPLETION_WRITE (R322, R323): the oldest pending entry is written at the tail. -/
def execCompletionWrite (r : RingIx) (s : State) : Res :=
  let g := s.ring r.val
  .next (match s.ringPort r.val, g.pend with
    | some p, c :: rest =>
      if s.clocked && s.ringServed r.val && g.room then
        let addr : BitVec 64 := g.cqHi ++ g.cqLo ++ (0 : BitVec 12)
        let next := (g.cqTail.toNat + 1) % g.n
        let s := s.emit (.hostWrite (decide (p.val = 1)) (addr + BitVec.ofNat 64 (32 * g.cqTail.toNat))
          (completionBytes c g.sqHead g.cqPhase g.lostFlag))
        let s := s.modRing r.val (fun g => { g with
          pend := rest, cqTail := BitVec.ofNat 16 next, cqPhase := if next = 0 then !g.cqPhase else g.cqPhase, lostFlag := false })
        ringMessage p r.val s
      else s
    | _, _ => s)

/-- INTERRUPT_HOLDOFF_END (R325). -/
def execInterruptHoldoffEnd (r : RingIx) (s : State) : Res :=
  let g := s.ring r.val
  .next (match s.ringPort r.val, g.lastMsg with
    | some p, some t =>
      if s.timed && g.owed && decide (t.toNat + g.holdoff.toNat ≤ s.now.toNat) && (s.port p).linkUp then
        sendMsi p g.vector (s.modRing r.val (fun g => { g with lastMsg := some s.now, owed := false }))
      else s
    | _, _ => s)

end Sys2Proof.Machine
end

