-- ==== Sys2Proof/Machine/Load.lean ====
section
/-! DEFINITION. Layout loads (R133 to R138, R227, R314, R336, R348): the request, the checks, the refusal, the commit. -/

namespace Sys2Proof.Machine

/-! ### Entries of a ring (Table 11-2) -/

/-- The first reserved byte of an entry that is not 0, from ranges of offset and length; and the low bits of byte 0x3F.
DEDUCED: assumption 79. -/
def entryDirt (b : List Byte) (l : List (Nat × Nat)) : Option Nat :=
  match (l.flatMap (fun r => (List.range r.2).map (r.1 + ·))).find? (fun i => decide (byteAt b i ≠ 0)) with
  | some i => some i
  | none => if byteAt b 0x3F &&& 0x7F = 0 then none else some 0x3F

/-- TAG of an entry. -/
def entryTag (b : List Byte) : Word := le 32 b 4 4

/-! ### The load result (R137, Table 5-12) -/

/-- The 64 bytes of a load result record. DEDUCED: assumption 78. -/
def loadResult (r : Refuse) (allots : BitVec 16) (map : List Byte) (start : BitVec 64) (now : Time) : List Byte :=
  leBytes 2 r.code ++ leBytes 2 r.sect ++ leBytes 4 r.record ++ leBytes 4 r.detail ++ bytesOf 2 allots ++ [0, 0] ++ fit 16 map ++
  bytesOf 8 now ++ bytesOf 8 start ++ List.replicate 16 0

/-- No allotment number of a load. DEDUCED: assumption 78. -/
def noMap : List Byte := List.replicate 16 0xFF

/-- A load ends with a refusal: the result record and the completion (R137, Table 11-4). DEDUCED: assumption 78. -/
def refuseLoad (p : Port) (tag : Word) (addr : BitVec 64) (head : BitVec 16) (r : Refuse) (s : State) : State :=
  commandDone p tag 0x01 (BitVec.ofNat 32 r.code) head
    (s.emit (.hostWrite (decide (p.val = 1)) addr (loadResult r 0 noMap 0 s.now)))

/-! ### The request (R133) -/

/-- CAD_STATUS (02_cadence): MISMATCH_SPOKE, LAP_MISMATCH, MARK_FAULT, SYNCED, ALIGNED, FIXED_LOCK. -/
def cadStatus (c : Cad) : Word :=
  put32 (match (setBits c.mismatch).head? with | some k => BitVec.ofNat 8 k | none => 0xFF) 8
  ||| put32 (ofBit 1 (decide (c.mismatch ≠ 0))) 4 ||| put32 (ofBit 1 c.markFault) 3 ||| put32 (ofBit 1 c.synced) 2
  ||| put32 (ofBit 1 c.aligned) 1 ||| put32 (ofBit 1 c.fixedLock) 0

/-- Why a request is refused at once (R133, R136). -/
def requestFailure (s : State) : Option Refuse :=
  if s.boot.step ≠ 8 then some { code := 0x01, detail := s.boot.step.toNat }
  else if !s.cad.synced || decide (s.cad.mismatch ≠ 0) then some { code := 0x02, detail := (cadStatus s.cad).toNat }
  else match s.load with
    | some l => some { code := 0x03, detail := if l.port then 1 else 0 }
    | none => none

/-- A LOAD_LAYOUT command is acted on; head is the submission head behind it. DEDUCED: assumption 79. -/
def actLoad (p : Port) (b : List Byte) (head : BitVec 16) (s : State) : State :=
  match entryDirt b [(1, 3), (0x14, 4), (0x1F, 1), (0x28, 0x17)] with
  | some i => commandDone p (entryTag b) 0x04 (BitVec.ofNat 32 i) head s
  | none =>
    let result := le 64 b 0x20 8
    if result.toNat % 64 ≠ 0 then commandDone p (entryTag b) 0x04 0x20 head s
    else match requestFailure s with
      | some r => refuseLoad p (entryTag b) result head r s
      | none =>
        let addr := le 64 b 8 8
        let length := le 32 b 0x10 4
        { s with load := some { port := decide (p.val = 1), tag := entryTag b, addr := addr, length := length,
                                start := le 64 b 0x18 8, resultAddr := result, at_ := s.now, sqHead := head } }.emit
          (.imageRead (decide (p.val = 1)) addr length)

/-- A command of a port ring is served: the link is up and the ring enabled; opc is its OPC. DEDUCED: assumptions 79, 80. -/
def portCommand (p : Port) (opc : Byte) (f : State → State) (entry : List Byte) (s : State) : Res :=
  if entry.length ≠ 64 then .fault .illFormed
  else .next (if s.timed && s.ringServed p.val then
    (if byteAt entry 0 = opc then f s else commandDone p (entryTag entry) 0x04 0 (s.ring p.val).sqHead s) else s)

/-- LOAD_LAYOUT (R133). -/
def execLoadLayout (p : Port) (entry : List Byte) (s : State) : Res :=
  portCommand p 0x10 (actLoad p entry (s.ring p.val).sqHead) entry s

/-! ### Commit (R117, R135, R138, R227, R240, R314, R336, R348) -/

/-- The memory key of an allotment (R336). DESIGN CHOICE: assumption 9. DEDUCED: assumption 81. -/
def memoryKey (s : State) (slice : BitVec 12) (n : Nat) : List Byte :=
  hkdfExpand s.lodge.bootKey (label "H4 mem" ++ leBytes 2 slice.toNat ++ leBytes 7 s.now.toNat ++ drbgBytes n 32) 64

/-- The keys that the KEYSLOT section binds for a local allotment (R347, R348). -/
def Img.boundKeys (g : Img) (x : Session) (a : Nat) : List KeySlot :=
  ((firstRecs g.sects 15 16).map parseKeySlot).filterMap (fun k =>
    if k.1 = a then (x.keys.find? (fun r => decide (r.keyId = k.2.2))).map (fun r => ⟨k.2.1, r.keyId, r.key⟩) else none)

/-- What commit adds to an allotment. DEDUCED: assumption 81. -/
def commitAllot (port : Bool) (image : Nat) (start : Option (BitVec 40)) (x : Option Session) (g : Img) (n : Nat) (s : State)
    (a : AllotSt) : AllotSt :=
  let key := memoryKey s a.slice n
  let a := { a with port := port, image := image, startLap := start, restLap := some s.cad.lap, keyId := n, memKey := key,
                    commitAt := s.now }
  match x with
  | none => a
  | some x => { a with
      session := some x.sid, keys := g.boundKeys x a.localIx.toNat
      outKey := hkdfExpand x.prk (label "H4 out" ++ leBytes 2 a.slice.toNat ++ leBytes 7 s.now.toNat) 32 }

/-- A section of a configuration store is copied into module memory (R120). -/
def copySect (s : State) (e : Sect × Nat) : State :=
  (chunks 32 e.1.body.length e.1.body).zipIdx.foldl (fun s (w, i) => writeWord 0 (e.2 / 32 + i) w s) s

/-- The turnstiles of a run are given to an allotment with their links (R240, R244). -/
def claimRun (g : Img) (n : Nat) (r : Nat × Nat × Nat) (s : State) : State :=
  (List.range r.2.1).foldl (fun s j =>
    let t := r.1 + j
    s.modTrn t (fun _ =>
      let x : TrnSt := { owner := some (BitVec.ofNat 4 n) }
      match g.planOfTrn t, (g.linkedTo t).head? with
      | some p, some k => { x with link := some (BitVec.ofNat 10 k), plan := BitVec.ofNat 16 p,
                                   seg := t - (g.stages[k]?).elim 0 (fun st => st.trn.toNat) }
      | _, _ => x)) s

/-- The strobe groups of an allotment become its own (R314). -/
def claimStrobes (g : Img) (a n : Nat) (s : State) : State :=
  ((ofType g.sects 8).filter (fun x => decide (x.scope.toNat = a))).foldl (fun s x =>
    (strobesOf x).foldl (fun s k => s.modStrobe k (fun y => { y with owner := some (BitVec.ofNat 4 n) })) s) s

/-- Local allotment a becomes module allotment n. -/
def commitOne (port : Bool) (image : Nat) (start : Option (BitVec 40)) (x : Option Session) (g : Img) (s : State)
    (e : Nat × Nat × AllotRec) : State :=
  let (n, a, r) := e
  let (s, k) := takeRandom s
  let s := { s with allots := sset s.allots n (commitAllot port image start x g k s (g.allot a r)),
                    rings := sdel s.rings (2 + n) }
  let s := (placeSects (g.cfgBase r) (g.storeSects a)).foldl copySect s
  let s := (g.runs.filter (fun q => decide (q.2.2 = a))).foldl (fun s q => claimRun g n q s) s
  startShadow n 0 none s.now (claimStrobes g a n (clearEntries n s))

/-- A route placed in ascending order of slice and destination (R236). -/
def insertRoute (r : Route) (l : List Route) : List Route := match l with
  | [] => [r]
  | x :: t =>
    if x.slice.toNat * 32768 + x.dst.toNat < r.slice.toNat * 32768 + r.dst.toNat then x :: insertRoute r t else r :: x :: t

/-- The version that a switch fills for gatehouse h (R227): the current valid entries and the image's records. -/
def Img.version (g : Img) (s : State) (h : Nat) : List Route :=
  let new := (g.routes.map parseRoute).filterMap (fun q =>
    if q.2.2.1 = h then some (⟨true, fld q.1 0 12, fld q.2.1 0 15, BitVec.ofNat 6 q.2.2.2⟩ : Route) else none)
  (s.keptRoutes h ++ new).foldl (fun l r => insertRoute r l) []

/-- A commit of an image with routing records fills the other version and starts a switch (R227). -/
def commitRoutes (image : Nat) (start : Option (BitVec 40)) (g : Img) (s : State) : State :=
  if g.routes.isEmpty then s
  else
    let v := !s.rte.cur
    let tables := [0, 1].foldl (fun m h => sput [] m (rteIx h v) (g.version s h)) s.rte.tables
    { s with rte := { s.rte with tables := tables, pending := some image, draining := false,
                                 switchLap := start } }

/-- The earliest start lap (R138, R324): 2 laps after a tick, with every phase 0 load complete by tick 32767 of the lap
before. -/
def earliestStart (asked ready : Nat) : Nat :=
  max ((asked + 131072 + 65535) / 65536) (ready / 65536 + if ready % 65536 ≤ 32767 then 1 else 2)

/-- A named start time that R138 refuses. DEDUCED: assumption 85. -/
def startFailure (ld : LoadSt) (g : Img) (s : State) : Option Refuse :=
  if ld.start = 0 then none
  else
    let ready := s.now.toNat + (g.all.map (fun a => shadowTicks a 0)).foldl max 0 - 1
    let first := earliestStart ld.at_.toNat ready
    if ld.start.toNat % 65536 ≠ 0 ∨ ld.start.toNat / 65536 < first then some { code := 0x90, detail := first % 2 ^ 32 } else none

/-- The commit of an image that has passed every check: its allotments, its routes, the result and the completion. DEDUCED:
assumption 86. -/
def commitImage (ld : LoadSt) (g : Img) (s : State) : State :=
  let image := s.nextImage
  let start : Option (BitVec 40) := if ld.start = 0 then none else some (BitVec.ofNat 40 (ld.start.toNat / 65536))
  let nums := s.freeNumbers.take g.allots.length
  let s := { s with images := sset s.images image (g.share ld.port), nextImage := image + 1, load := none }
  let x := if g.conf then g.session s else none
  let s := (nums.zip (g.allots.zipIdx.map (fun (r, a) => (a, r)))).foldl (fun s (n, a, r) => commitOne ld.port image start x g s (n, a, r)) s
  let s := commitRoutes image start g s
  let map := (List.range 16).map (fun i => match nums[i]? with | some n => BitVec.ofNat 8 n | none => (0xFF : Byte))
  commandDone (portOf ld.port) ld.tag 0x00 0 ld.sqHead
    (s.emit (.hostWrite ld.port ld.resultAddr (loadResult { code := 0 } (maskOf 16 nums) map ld.start s.now)))

/-! ### The end of the read (R134, R136) -/

/-- The header failure that precedes DIGEST. DEDUCED: assumption 61. -/
def headerFailure (ld : LoadSt) (image : List Byte) (s : State) : Option Refuse :=
  (firstBad (headerChecks ld.length s (image.take 256))).map (fun (c, d) => { code := c, detail := d })

/-- Every check from the section table to the start time. DEDUCED: assumption 61. -/
def bodyFailure (ld : LoadSt) (g : Img) (s : State) : Option Refuse :=
  match tableFailure g ld.length.toNat with
  | some r => some r
  | none => match sectsFailure s g with
    | some r => some r
    | none => match crossFailure s g with
      | some r => some r
      | none => startFailure ld g s

/-- The first failing check of an image in the order of R136. DEDUCED: assumption 61. -/
def imageFailure (ld : LoadSt) (image : List Byte) (s : State) : Option Refuse :=
  match headerFailure ld image s with
  | some r => some r
  | none => if digestOk image then bodyFailure ld (parseImg image) s else some { code := 0x13 }

/-- The load commits or is refused. After a failure of an entropy health test no memory key is generated (R334), so the load
can commit no allotment and stays in progress. DEDUCED: assumptions 77, 82, 93. -/
def endLoad (ld : LoadSt) (image : List Byte) (s : State) : State := match imageFailure ld image s with
  | some r => refuseLoad (portOf ld.port) ld.tag ld.resultAddr ld.sqHead r { s with load := none }
  | none => if s.lodge.entropyDead then s else commitImage ld (parseImg image) s

/-- LOAD_READ_DONE (R134): the image as the module has read it. A load whose header fails may end before the whole image is
read; any other brings all of its bytes. DEDUCED: assumption 77. -/
def execLoadReadDone (image : List Byte) (s : State) : Res := match s.load with
  | none => .next s
  | some ld =>
    if s.timed && s.hears (portOf ld.port) then
      (if (headerFailure ld image s).isNone ∧ image.length ≠ ld.length.toNat then .fault .illFormed
       else .next (endLoad ld image s))
    else .next s

end Sys2Proof.Machine
end

