-- ==== Sys2Proof/Machine/Commands.lean ====
section
/-! DEFINITION. The commands of rings (R147, R158, R159, R195, R311, R321, R324): START, RELEASE, GIVE, TAKE, RUN, and the
fetch of entries. -/

namespace Sys2Proof.Machine

/-! ### Named allotments -/

/-- ALLOTS of an entry. -/
def entryAllots (b : List Byte) : BitVec 16 := le 16 b 8 2

/-- An allotment that exists and is not under a RELEASE. -/
def State.loaded (s : State) (n : Nat) : Option AllotSt := if (sfind s.dying n).isSome then none else s.allot n

/-- The named allotments that do not exist or that a port does not own. -/
def State.notOwned (s : State) (p : Port) (m : BitVec 16) : BitVec 16 :=
  maskOf 16 ((setBits m).filter (fun n => match s.loaded n with
    | none => true
    | some a => decide (portOf a.port ≠ p)))

/-- A command with a 16-byte head of reserved fields: BAD_ENTRY, NOT_OWNER, or f on the named allotments. -/
def onAllots (p : Port) (b : List Byte) (head : BitVec 16) (dirt : List (Nat × Nat)) (bad : BitVec 16)
    (f : List Nat → State → State) (s : State) : State :=
  match entryDirt b dirt with
  | some i => commandDone p (entryTag b) 0x04 (BitVec.ofNat 32 i) head s
  | none =>
    if bad ≠ 0 then commandDone p (entryTag b) 0x03 (bad.setWidth 32) head s
    else f (setBits (entryAllots b)) s

/-! ### START (R324) -/

/-- The allotments of an image. -/
def State.allotsOf (s : State) (image : Nat) : List Nat := (s.allots.filter (fun e => decide (e.2.image = image))).map (·.1)

/-- The image whose allotments are exactly the named ones, loaded through the port and not yet given a start lap (R324). A load with a
START accepted counts as started from then on: DESIGN CHOICE: assumption 123. -/
def State.unstarted (s : State) (p : Port) (l : List Nat) : Option Nat := match l with
  | [] => none
  | n :: _ => match s.loaded n with
    | none => none
    | some a =>
      if s.allotsOf a.image = l ∧ portOf (s.image a.image).port = p ∧
          l.all (fun k => match s.loaded k with | none => false | some x => x.startLap.isNone && !x.started) = true then some a.image
      else none

/-- The tick in which an allotment's shadow load of phase 0 completes, where it does. -/
def phase0Done (a : AllotSt) : Option Nat := match a.shadow with
  | none => none
  | some x => if x.phase = 0 ∧ x.stopped = false then some x.doneAt.toNat else none

/-- The latest of the named allotments' phase 0 loads; none where one cannot complete. -/
def State.phase0Ready (s : State) (l : List Nat) : Option Nat :=
  l.foldl (fun r n => match r, (s.allot n).bind phase0Done with
    | some t, some u => some (max t u)
    | _, _ => none) (some 0)

/-- A START command is acted on. -/
def actStart (p : Port) (b : List Byte) (head : BitVec 16) (s : State) : State :=
  onAllots p b head [(1, 3), (0x0A, 6), (0x17, 1), (0x18, 0x27)] (s.notOwned p (entryAllots b)) (fun l s =>
    let refused := fun (d : Nat) => commandDone p (entryTag b) 0x07 (BitVec.ofNat 32 d) head s
    match s.unstarted p l, s.phase0Ready l with
    | some image, some ready =>
      let t := leNat (bytesAt b 0x10 8)
      let first := earliestStart s.now.toNat ready
      if t % 65536 ≠ 0 ∨ t / 65536 < first then refused first
      else
        let lap : BitVec 40 := BitVec.ofNat 40 (t / 65536)
        let s := l.foldl (fun s n => s.modAllot n (fun a => { a with startLap := some lap })) s
        let s := if s.rte.pending = some image then { s with rte := { s.rte with switchLap := some lap } } else s
        commandDone p (entryTag b) 0x00 (lap.setWidth 32) head s
    | _, _ => refused 0xFFFFFFFF) s

/-- START (R324). -/
def execStart (p : Port) (entry : List Byte) (s : State) : Res :=
  portCommand p 0x11 (actStart p entry (s.ring p.val).sqHead) entry s

/-! ### RELEASE (R147, R195, R227, R314, R323, R352, R353) -/

/-- A routing entry of a released slice is invalid (R236). -/
def clearRoutes (slice : BitVec 12) (r : Rte) : Rte :=
  { r with tables := smap (fun l => l.map (fun e => if e.slice = slice then { e with valid := false } else e)) r.tables }

/-- The switch of an image none of whose allotments is left is cancelled: the other version is cleared (R227). -/
def cancelSwitch (image : Nat) (s : State) : State :=
  if s.rte.pending = some image then
    { s with rte := { s.rte with tables := [0, 1].foldl (fun m h => sdel m (rteIx h (!s.rte.cur))) s.rte.tables,
                                 pending := none, switchLap := none } }
  else s

/-- What the last allotment of an image takes with it: the image, its pending switch, and, in a module that then holds no
confidential allotment, confidential mode at the end of the next lap (R353). DEDUCED: assumption 86. -/
def dropImage (image : Nat) (s : State) : State :=
  if (s.allotsOf image).isEmpty then
    let conf := (s.image image).confidential
    let s := cancelSwitch image { s with images := sdel s.images image }
    if conf && !s.images.any (fun e => e.2.confidential) then
      { s with lodge := { s.lodge with confUntil := some (s.cad.lap + 1) } }
    else s
  else s

/-- The bytes of a released allotment's granules cannot be decrypted again (R195). DEDUCED: assumption 84. -/
def forgetParts (a : AllotSt) (s : State) : State := { s with mem := s.mem.filter (fun c => !a.covers c.1) }

/-- An allotment's resources return to no owner: banks, slots, lanes and buffers zeroed, movers, turnstiles and strobe groups
freed, its page at reset values, its routes invalid. DEDUCED: assumption 84. -/
def freeAllot (n : Nat) (s : State) : State := match s.allot n with
  | none => s
  | some a =>
    let s := forgetParts a (zeroAllot a s)
    let s := startRamps (fun s => { s with ramps := (setBits a.groups).foldl (fun m g => smod {} m g (fun r => { r with target := 0 })) s.ramps }) s
    let s := { s with
      arrays := a.arrayIxs.foldl sdel s.arrays
      movers := a.movers.foldl sdel s.movers
      trns := s.trns.filter (fun e => !decide (e.2.owner = some (BitVec.ofNat 4 n)))
      strobes := smapD {} (fun x => if x.owner = some (BitVec.ofNat 4 n) then { x with owner := none } else x) s.strobes
      rings := sdel s.rings (2 + n)
      rte := clearRoutes a.slice s.rte
      allots := sdel s.allots n }
    dropImage a.image s

/-- The page of an allotment whose movers still work: its ring is gone, nothing is pending (R323). DEDUCED: assumption 83. -/
def quietAllot (n : Nat) (s : State) : State :=
  { s with rings := sdel s.rings (2 + n) }.modAllot n (fun a => { a with
    stopped := true, run := none, pos := none, pendRun := none, swapDue := none, startLap := none, winEn := false, winBase := 0 })

/-- A RELEASE takes an allotment: its resources are free at once where its movers are idle, and else when they are. DEDUCED:
assumption 83. -/
def releaseOne (p : Port) (tag : Word) (head mask : BitVec 16) (s : State) (n : Nat) : State := match s.allot n with
  | none => s
  | some a =>
    let idle := s.moversIdle a
    let d : Dying := { port := decide (p.val = 1), tag := tag, sqHead := head, mask := mask, freed := idle, keyId := a.keyId }
    let s := { s with dying := sset s.dying n d }
    if idle then freeAllot n s else quietAllot n { s with rte := clearRoutes a.slice s.rte }

/-- The named allotments with a run that is not stopped. -/
def State.busyRuns (s : State) (l : List Nat) : BitVec 16 :=
  maskOf 16 (l.filter (fun n => match s.allot n with
    | none => false
    | some a => (a.run.isSome || a.pendRun.isSome) && !a.stopped))

/-- A RELEASE command is acted on. DEDUCED: assumption 83. -/
def actRelease (p : Port) (b : List Byte) (head : BitVec 16) (s : State) : State :=
  onAllots p b head [(1, 3), (0x0A, 6), (0x10, 0x2F)] (s.notOwned p (entryAllots b)) (fun l s =>
    if s.busyRuns l ≠ 0 then commandDone p (entryTag b) 0x02 ((s.busyRuns l).setWidth 32) head s
    else if l.isEmpty then commandDone p (entryTag b) 0x00 0 head s
    else l.foldl (releaseOne p (entryTag b) head (entryAllots b)) s) s

/-- RELEASE (R147). -/
def execRelease (p : Port) (entry : List Byte) (s : State) : Res :=
  portCommand p 0x12 (actRelease p entry (s.ring p.val).sqHead) entry s

/-- A RELEASE is complete with the last of its allotments (R323). DEDUCED: assumption 83. -/
def releaseDone (d : Dying) (s : State) : State :=
  if s.dying.any (fun e => decide (e.2.mask = d.mask) && decide (e.2.port = d.port)) then s
  else commandDone (portOf d.port) d.tag 0x00 0 d.sqHead s

/-- RELEASE_KEY_REMOVAL (R195, R348): with every mover idle the memory key and the key slots are gone. -/
def execReleaseKeyRemoval (a : Allot) (s : State) : Res :=
  .next (match sfind s.dying a.val with
    | none => s
    | some d =>
      let idle := match s.allot a.val with
        | none => true
        | some x => s.moversIdle x
      if s.clocked && (d.freed || idle) then
        let s := if d.freed then s else freeAllot a.val s
        releaseDone d { s with dying := sdel s.dying a.val }
      else s)

/-! ### GIVE and TAKE (R311) -/

/-- Allotments move to a port: their rings are disabled, everything else of them stands. -/
def moveAllots (to_ : Port) (l : List Nat) (s : State) : State :=
  l.foldl (fun s n => disableRing (2 + n) (s.modAllot n (fun a => { a with port := decide (to_.val = 1) }))) s

/-- A GIVE command is acted on. DEDUCED: assumption 85. -/
def actGive (p : Port) (b : List Byte) (head : BitVec 16) (s : State) : State :=
  onAllots p b head [(1, 3), (0x0A, 6), (0x10, 0x2F)] (s.notOwned p (entryAllots b)) (fun l s =>
    let o := other p
    if (s.port o).linkUp && (s.ring o.val).enable then commandDone p (entryTag b) 0x00 0 head (moveAllots o l s)
    else commandDone p (entryTag b) 0x06 ((s.port o).downLaps.setWidth 32) head s) s

/-- GIVE (R311). -/
def execGive (p : Port) (entry : List Byte) (s : State) : Res :=
  portCommand p 0x13 (actGive p entry (s.ring p.val).sqHead) entry s

/-- The named allotments that do not exist or that the port owns already. -/
def State.notOther (s : State) (p : Port) (m : BitVec 16) : BitVec 16 := s.notOwned (other p) m

/-- A TAKE command is acted on. DEDUCED: assumption 85. -/
def actTake (p : Port) (b : List Byte) (head : BitVec 16) (s : State) : State :=
  onAllots p b head [(1, 3), (0x0A, 6), (0x10, 0x2F)] (s.notOther p (entryAllots b)) (fun l s =>
    let o := other p
    if 954 ≤ (s.port o).downLaps.toNat then commandDone p (entryTag b) 0x00 0 head (moveAllots p l s)
    else commandDone p (entryTag b) 0x06 ((s.port o).downLaps.setWidth 32) head s) s

/-- TAKE (R311). -/
def execTake (p : Port) (entry : List Byte) (s : State) : Res :=
  portCommand p 0x14 (actTake p entry (s.ring p.val).sqHead) entry s

/-! ### RUN (R158, R159, R172, R262) -/

/-- A RUN entry. -/
def parseRunEntry (b : List Byte) (head : BitVec 16) (now : Time) : Run :=
  { firstPhase := byteAt b 1, regroup := byteAt b 2, tag := entryTag b, start := le 64 b 8 8, stepBase := le 64 b 0x10 8,
    iters := (List.range 8).map (fun i => le 32 b (0x18 + 4 * i) 4), fetchedAt := now, sqHead := head }

/-- The phase is in front. -/
def AllotSt.inFront (a : AllotSt) (phase : Nat) : Bool := match a.front with
  | none => false
  | some p => decide (p.phase.toNat = phase)

/-- The phase is in the shadow plane, or its load is under way there. -/
def AllotSt.inShadow (a : AllotSt) (phase : Nat) : Bool := match a.shadow with
  | none => false
  | some x => decide (x.phase.toNat = phase) && !x.stopped

/-- The shadow plane holds the phase by tick 00003 of a lap, with the load in it or one that starts now. DEDUCED: assumption
85. -/
def loadFits (a : AllotSt) (phase lap now : Nat) : Bool :=
  if a.inFront phase then true
  else match a.shadow with
    | some x => if x.phase.toNat = phase ∧ x.stopped = false then x.plane.isSome || decide (x.doneAt.toNat ≤ timeNat lap 3)
                else decide (now + shadowTicks a phase - 1 ≤ timeNat lap 3)
    | none => decide (now + shadowTicks a phase - 1 ≤ timeNat lap 3)

/-- Why a run is refused at its fetch (Table 11-4). After a thermal trip every timetable of the module is stopped, whatever is reset
(R295). DEDUCED: assumption 85. -/
def runRefused (s : State) (a : AllotSt) (r : Run) : Option Nat :=
  let im := s.image a.image
  let p := r.firstPhase.toNat
  let has := a.inFront p || a.inShadow p
  if a.stopped || s.thm.trip then some 6
  else if im.regroups.toNat < r.regroup.toNat then some 3
  else if im.phases.toNat ≤ p then some 5
  else if !a.started && decide (p ≠ 0) then some 7
  else if !(im.rosters.getD r.regroup.toNat []).any (fun c => decide (modNum c = modNum s.ownCoord)) then some 4
  else if r.start = 0 ∧ (a.run.isNone = true ∨ has = false ∨ a.started = false) then some 1
  else if r.start ≠ 0 ∧ r.start.toNat * 65536 < s.now.toNat + 131072 then some 1
  else if r.start ≠ 0 ∧ a.started = true ∧ loadFits a p r.start.toNat s.now.toNat = false then some 2
  else none

/-- A RUN entry of an allotment's ring is acted on. -/
def actRun (n : Nat) (b : List Byte) (head : BitVec 16) (s : State) : State := match s.loaded n with
  | none => s
  | some a =>
    let bad := fun (i : Nat) => complete (2 + n) ⟨0x02, 0x04, head, entryTag b, s.now, 0, BitVec.ofNat 32 i, BitVec.ofNat 8 n⟩ s
    if byteAt b 0 ≠ 0x01 then bad 0
    else match entryDirt b [(3, 1), (0x38, 7)] with
      | some i => bad i
      | none =>
        let r := parseRunEntry b head s.now
        match runRefused s a r with
        | some d => runDone n r 0x05 d s
        | none =>
          let s := if a.inFront r.firstPhase.toNat || a.inShadow r.firstPhase.toNat then s
            else startShadow n r.firstPhase.toNat none s.now s
          s.modAllot n (fun a => { a with pendRun := some r })

/-- RUN (R158): an entry of the allotment's ring, while it has no pending run and no reset (R395). -/
def execRun (a : Allot) (entry : List Byte) (s : State) : Res :=
  if entry.length ≠ 64 then .fault .illFormed
  else .next (if s.timed && s.ringServed (2 + a.val) && !s.ringResets (2 + a.val) && decide (0 < s.runRoom (2 + a.val)) then
    actRun a.val entry (s.ring (2 + a.val)).sqHead s else s)

/-! ### SUBMISSION_FETCH (R321, R323) -/

/-- An entry of a ring is acted on, with the head behind it. -/
def actEntry (r : Nat) (b : List Byte) (head : BitVec 16) (s : State) : State :=
  if 2 ≤ r then actRun (r - 2) b head s
  else
    let p : Port := if r = 0 then 0 else 1
    match (byteAt b 0).toNat with
    | 0x10 => actLoad p b head s
    | 0x11 => actStart p b head s
    | 0x12 => actRelease p b head s
    | 0x13 => actGive p b head s
    | 0x14 => actTake p b head s
    | _ => commandDone p (entryTag b) 0x04 0 head s

/-- The head moves past an entry, and the expected phase inverts at the wrap. -/
def Ring.advance (g : Ring) : Ring :=
  let h := (g.sqHead.toNat + 1) % g.n
  { g with sqHead := BitVec.ofNat 16 h, sqPhase := if h = 0 then !g.sqPhase else g.sqPhase }

/-- The entries of a read in order: one counts only with the expected phase, and only if those before it counted. -/
def countEntries (r : Nat) (l : List (List Byte)) (s : State) : State := match l with
  | [] => s
  | b :: t =>
    if bit (byteAt b 0x3F) 7 = (s.ring r).sqPhase ∧ (s.ring r).enable = true then
      let s := s.modRing r Ring.advance
      countEntries r t (actEntry r b (s.ring r).sqHead s)
    else s

/-- SUBMISSION_FETCH (R321): the read completion of a poll; during the reset of its allotment a ring takes no entry (R395). DEDUCED:
assumption 57. -/
def execSubmissionFetch (r : RingIx) (cqHead : BitVec 32) (entries : List (List Byte)) (s : State) : Res :=
  if entries.any (fun b => decide (b.length ≠ 64)) ∨ 4 < entries.length then .fault .illFormed
  else .next (if s.timed && s.ringServed r.val && (s.ring r.val).reading then
    countEntries r.val (if s.ringResets r.val then [] else entries.take (s.pollCount r.val))
      (s.modRing r.val (fun g => { g with reading := false, cqHead := fld cqHead 0 16 }))
   else s)

end Sys2Proof.Machine
end

