-- ==== Sys2Proof/Machine/Pair.lean ====
section
/-! DEFINITION. The redundant pairs (R372 to R377): errors, failover, loss, return to step and take-back. -/

namespace Sys2Proof.Machine

/-- The number of a role: warden 0, power controller 1, lodge 2. -/
def roleNum (r : Role) : Nat := match r with | .warden => 0 | .power => 1 | .lodge => 2

/-- The active gatehouse of a role. -/
def State.active (s : State) (r : Nat) : Bool := match r with
  | 0 => s.lodge.actWarden | 1 => s.lodge.actPower | _ => s.lodge.actLodge

/-- A gatehouse becomes the active one of a role. -/
def setActive (r : Nat) (g : Bool) (s : State) : State := match r with
  | 0 => { s with lodge := { s.lodge with actWarden := g } }
  | 1 => { s with lodge := { s.lodge with actPower := g } }
  | _ => { s with lodge := { s.lodge with actLodge := g } }

/-- ERR_SRC of Table 13-6. -/
def errCode (e : ErrSrc) : BitVec 4 := match e with
  | .localMemory => 1 | .busProtocol => 2 | .exception => 3 | .vghRail => 4 | .controlPll => 5

/-- The roles whose units an error signals (Table 13-6). -/
def rolesOf (e : ErrSrc) (r : Role) : List Nat := match e with
  | .vghRail => [0, 1, 2] | .controlPll => [0, 1, 2] | _ => [roleNum r]

/-- The detail of Table 13-7: role, ERR_SRC and a gatehouse. DEDUCED: assumption 41. -/
def pairDetail (r : Nat) (src : BitVec 4) (gh : Bool) : BitVec 16 := BitVec.ofNat 4 (r + 1) ++ src ++ (0 : BitVec 7) ++ ofBit 1 gh

/-- The place of the unit of a role in a gatehouse. -/
def unitIx (r : Nat) (g : Bool) : Nat := 2 * r + if g then 1 else 0

/-- A failed unit is held in reset; the third failure since module reset retires it (R375). -/
def failUnit (r : Nat) (g : Bool) (src : BitVec 4) (s : State) : State :=
  s.modUnit (unitIx r g) (fun u => { u with inStep := false, fails := u.fails + 1, retired := decide (3 ≤ u.fails + 1), src := src })

/-- The latest detail and the tick of its error signal (WRD_LAST). -/
def notePair (d : BitVec 16) (s : State) : State :=
  { s with lodge := { s.lodge with lastDetail := d, lastTick := s.cad.tick } }

/-- Failover of a pair (R374). -/
def failover (r : Nat) (g : Bool) (src : BitVec 4) (s : State) : State :=
  let d := pairDetail r src (!g)
  let s := setActive r (!g) (failUnit r g src s)
  let s := { s with mgmt := { s.mgmt with odo := { s.mgmt.odo with
    failovers := s.mgmt.odo.failovers.set r (s.mgmt.odo.failovers.getD r 0 + 1) } } }
  queueEvent 0x0003 0 (d.setWidth 32) 0
    (writeFault (faultCode 0x9 0x001 d) 0 (if g then 5 else 4) 0xFF none (notePair d s))

/-- Loss of a pair (R376). DEDUCED: assumption 42. -/
def losePair (r : Nat) (g : Bool) (src : BitVec 4) (s : State) : State :=
  let d := pairDetail r src g
  let s := failUnit r g src s
  let s := writeFault (faultCode 0x9 0x002 d) 0 (if g then 5 else 4) 0xFF none (notePair d s)
  let s := queueEvent 0x0005 0 (d.setWidth 32) 0 s
  let s := stopAll { s with lodge := { s.lodge with pairLost := true } }
  if r = 1 then openCore s else s

/-- A unit of a role raises an error: out of service it changes nothing; a standby drops out; the active one fails over to a
partner in step, or the pair is lost. -/
def unitError (r : Nat) (g : Bool) (src : BitVec 4) (s : State) : State :=
  if !(s.unit (unitIx r g)).inStep then s
  else if s.active r == g then
    if (s.unit (unitIx r (!g))).inStep then failover r g src s else losePair r g src s
  else failUnit r g src s

/-- UNIT_ERROR_SIGNAL (R373, R374, R376): every unit that the error belongs to signals it; the pairs that are left go on failing over,
or are lost, after one pair is lost. -/
def execUnitErrorSignal (g : Gh) (role : Role) (src : ErrSrc) (s : State) : Res :=
  .next (if s.clocked && s.fwUp then
    (rolesOf src role).foldl (fun s r => unitError r (decide (g.val = 1)) (errCode src) s) s
   else s)

/-- UNIT_RESYNC_DONE (R375): a restarted unit re-enters step; one that has failed three times is not restarted. -/
def execUnitResyncDone (g : Gh) (role : Role) (s : State) : Res :=
  let i := unitIx (roleNum role) (decide (g.val = 1))
  .next (if s.ctl && !(s.unit i).inStep && !(s.unit i).retired then
    s.modUnit i (fun u => { u with inStep := true }) else s)

/-- At a lap boundary a warden or power controller of gatehouse 0 that has re-entered step takes the active role back (R375).
The unit of gatehouse 1 is active only after the other has failed, so it never takes anything back. DEDUCED: assumption 41. -/
def takeBack (s : State) : State :=
  if s.ctl then
    [0, 1].foldl (fun s r =>
      if s.active r && (s.unit (unitIx r false)).inStep then
        queueEvent 0x0004 0 ((pairDetail r (s.unit (unitIx r false)).src false).setWidth 32) 0 (setActive r false s)
      else s) s
  else s

end Sys2Proof.Machine
end

