-- ==== Sys2Proof/Machine/Scrub.lean ====
section
/-! DEFINITION. Scrubbing (R191, R192). -/

namespace Sys2Proof.Machine

/-- Module memory address of word w of the stack at a site (R178). -/
def State.stackWord (s : State) (site w : Nat) : Nat :=
  let stack := ((popSites s.boot.variant.toNat).findIdx? (fun i => decide (i = site))).getD 0
  ((32 * w / 2 ^ 30) * max 1 s.nStacks + stack) * 2 ^ 30 + 32 * w % 2 ^ 30

/-- Module memory address of word w of a channel (R179). -/
def channelWord (ch w : Nat) : Nat :=
  2 ^ 47 + 2 ^ 36 + ((32 * w / 2 ^ 30) * 8 + ch) * 2 ^ 30 + 32 * w % 2 ^ 30

/-- The error pattern that the write-back of a corrected word leaves: none, or that of the wrong codeword. -/
def scrubbed (e : List Byte) : List Byte := match findError (e.take 36) with
  | none => e
  | some l =>
    let r := l.foldl (fun e x => e.set x.1 (byteAt e x.1 ^^^ x.2)) (fit 37 e)
    if r.all (· == 0) then [] else r

/-- The scrub of a word of module memory (R192): written back only where the decode corrected it and its tag agrees.
DESIGN CHOICE: assumption 26. -/
def scrub (w : Nat) (s : State) : State :=
  let e := sget [] s.upset (upsetKey 0 w)
  match readWord 0 w s with
  | (s, .good _) => { s with upset := sput [] s.upset (upsetKey 0 w) (scrubbed e) }
  | (s, _) => s

/-- The next word of a walk of n words, and whether the pass is complete. DESIGN CHOICE: assumption 40. -/
def walk (i n : Nat) : Nat × Bool := if i + 1 < n then (i + 1, false) else (0, true)

/-- The words that a unit has still to scrub in the running lap (R191): a trained stack scrubs 64 in a lap, a channel 256. -/
def State.scrubLeft (s : State) (u : ScrubUnit) : Nat := match u with
  | .stack site => if (s.hbm site.val).trained then 64 - (s.hbm site.val).scrubbed else 0
  | .channel ch => if (s.ddr ch.val).trained && decide (s.capGib ≠ 0) then 256 - (s.ddr ch.val).scrubbed else 0

/-- The next word of a unit's walk over a stack of 64 GiB, or over a channel's CAP_GIB. DESIGN CHOICE: assumption 40. -/
def scrubNext (u : ScrubUnit) (s : State) : State := match u with
  | .stack site =>
    let x := s.hbm site.val
    let (i, wrap) := walk x.scrub (2 ^ 31)
    (scrub (s.stackWord site.val x.scrub / 32) s).modHbm site.val (fun y =>
      { y with scrub := i, passes := satAdd y.passes (if wrap then 1 else 0), scrubbed := y.scrubbed + 1 })
  | .channel ch =>
    let x := s.ddr ch.val
    let (i, wrap) := walk x.scrub (s.capGib.toNat * 2 ^ 25)
    (scrub (channelWord ch.val x.scrub / 32) s).modDdr ch.val (fun y =>
      { y with scrub := i, passes := satAdd y.passes (if wrap then 1 else 0), scrubbed := y.scrubbed + 1 })

/-- SCRUB_WORD (R191, R192): the next word of the lap's share of a unit. DESIGN CHOICE: assumption 40. -/
def execScrubWord (u : ScrubUnit) (noise : List Noise) (s : State) : Res :=
  .next (if s.clocked && decide (s.scrubLeft u ≠ 0) then scrubNext u (applyNoise noise s) else s)

/-- The end of a lap: what is left of its share every unit scrubs now, and the next lap's share begins (R191). DESIGN CHOICE:
assumption 40. -/
def scrubLap (s : State) : State :=
  let units := (List.finRange 12).map ScrubUnit.stack ++ (List.finRange 8).map ScrubUnit.channel
  let s := units.foldl (fun s u => (List.range (s.scrubLeft u)).foldl (fun s _ => scrubNext u s) s) s
  { s with hbms := smapD {} (fun x => { x with scrubbed := 0 }) s.hbms,
           ddrs := smapD {} (fun x => { x with scrubbed := 0 }) s.ddrs }

end Sys2Proof.Machine
end

