-- ==== Sys2Proof/Machine/Lap.lean ====
section
/-! DEFINITION. The passing of CADREF cycles: the first lap mark, LAP_BOUNDARY (R36) and what comes about inside it (the statistics
latch, the lap mark, an armed SET, the odometer, the lease, ceilings, calibration, take-back, activation, holds, resets and routing),
and the cycle in which no command waits. -/

namespace Sys2Proof.Machine

/-! ### The odometer (R370) -/

/-- The odometer is written under the flash key to the copy of flash that is due, and shown as last updated. -/
def updateOdo (prk : List Byte) (s : State) : State :=
  { s with flash := s.flash.writeOdo prk s.mgmt.odo, mgmt := { s.mgmt with inv := s.mgmt.odo } }

/-- A count of a list raised by 1. -/
def countAt (i : Nat) (l : List (BitVec 64)) : List (BitVec 64) := l.set i (l.getD i 0 + 1)

/-- The place of the lap in GEAR_LAPS: G1 to G5, or held; none before the array domains start. DEDUCED: assumption 51. -/
def gearPlace (s : State) : Option Nat :=
  if s.acc.held then some 5 else if s.gear.gear = 0 then none else some (s.gear.gear.toNat - 1)

/-- What the ended lap adds to the odometer: the lap, its gear, its energy and its highest temperatures. DEDUCED: assumption
51. -/
def odoLap (s : State) : State :=
  let o := s.mgmt.odo
  let laps := match gearPlace s with
    | some i => countAt i o.gearLaps
    | none => o.gearLaps
  let mean : Rat := if s.acc.n = 0 then 0 else (s.acc.sVI : Rat) / s.acc.n / 1000000
  let tj := if s.acc.n = 0 then 0 else Config.latchRound ((s.acc.tpMax.foldl max 0) / 1000)
  let inlet := if s.acc.n = 0 then 0 else Config.latchRound ((s.acc.sIn : Rat) / s.acc.n / 1000)
  { s with mgmt := { s.mgmt with odo := { o with
    powered := o.powered + 1
    gearLaps := laps
    energy := o.energy + Config.latchRound (mean * 1048576 / 1000000)
    maxTj := max o.maxTj tj
    maxInlet := max o.maxInlet inlet } } }

/-! ### The mark and SET (R22, R26) -/

/-- The lap mark of the boundary: a missing one is a mark error of the new lap's first tick; a correct one clears
MARK_FAULT where the lap it closes had no mark error. -/
def boundaryMark (mark clean : Bool) (s : State) : State :=
  let s := { s with cad := { s.cad with markErrLap := false } }
  if !mark then markError s
  else if clean then alertEvents { s with cad := { s.cad with markFault := false } }
  else s

/-- The new lap: its number is CAD_SYNC_LAP where a SET is armed. -/
def newLap (s : State) : State :=
  if s.cad.syncArmed && decide (s.cad.syncMode = 1) then
    { s with cad := { s.cad with lap := s.cad.syncLapHi ++ s.cad.syncLapLo, tick := 0, synced := true, syncArmed := false } }
  else { s with cad := { s.cad with lap := s.cad.lap + 1, tick := 0 } }

/-! ### Ports (R310, R327) -/

/-- A lap through which the link was down counts as a whole lap down. -/
def downStep (x : PortSt) : PortSt :=
  { x with downLaps := if x.downLap && !x.linkUp then satAdd x.downLaps 1 else x.downLaps, downLap := !x.linkUp }

/-! ### Routing (R227) -/

/-- The start of the image whose switch is pending can take place at this boundary (R138, R170). -/
def switchCanStart (s : State) : Bool := match s.rte.pending with
  | none => true
  | some i => s.clear && (s.image i).gears.getLsbD s.gear.gear.toNat

/-- The lap of the pending switch moves by one at each boundary that defers the start. -/
def deferSwitch (s : State) : State := match s.rte.switchLap with
  | none => s
  | some l =>
    if s.rte.pending.isSome && decide (l.toNat ≤ s.cad.lap.toNat) then
      { s with rte := { s.rte with switchLap := some (if switchCanStart s then s.cad.lap else s.cad.lap + 1) } }
    else s

/-! ### Activation (R407) -/

/-- A refused activation: the result, disarmed, an UPDATE event. -/
def activationRefused (result : BitVec 4) (s : State) : State :=
  queueEvent 0x000A 0 0 0 { s with upd := { s.upd with armed := none, result := result } }

/-- The activation itself: the active-bank word names the bank of the session, the odometer is updated, as the flash has it where S2
has not read it, and a module reset follows. -/
def activate (s : State) : State :=
  let s := readOdo s
  let s := { s with flash := { s.flash with active := s.upd.bank, activating := true },
                    upd := { s.upd with armed := none },
                    mgmt := { s.mgmt with odo := { s.mgmt.odo with activations := s.mgmt.odo.activations + 1 } } }
  moduleReset (updateOdo s.flash.prk s)

/-- The activation armed for the lap that begins: evaluated in the order of R407; whether the module resets. -/
def activation (s : State) : State × Bool :=
  if s.upd.armed = some s.cad.lap then
    if s.upd.state ≠ 3 then (activationRefused 0xC s, false)
    else if !s.allots.isEmpty || s.frc.saved || s.lodge.pairLost || s.thm.trip then (activationRefused 0xD s, false)
    else (activate s, true)
  else (s, false)

/-! ### The boundary -/

/-- The sums of the new lap. -/
def freshAcc (s : State) : State := { s with acc := { held := s.hold.hold } }

/-- What is made of the ended lap: the odometer counts it, in every lap that is counted (R370), and the control units calibrate and set
the ceilings (R277, R288, R291, R294). DESIGN CHOICE: assumption 11. -/
def closeLap (m : LapMeasure) (s : State) : State :=
  let s := odoLap s
  if s.ctl then ceilings s.cad.lap (calibrate m s) else s

/-- What the edge of tick 00000 brings before the activation is evaluated: the lease's count, and the permitted gear from the new basis
(R276, R279, R410). -/
def sameEdge (s : State) : State :=
  if s.timed then recompute (if s.ctl then alertEvents (leaseStep s) else s) else s

/-- What follows in the new lap, where no module reset is registered. -/
def openLap (s : State) : State :=
  let s := (s.modPort 0 downStep).modPort 1 downStep
  let s := { s with spokes := smapD {} (fun x => { x with authLap := 0 }) s.spokes }
  let s := holdStep s
  let s := s.allotNums.foldl (fun s n => allotBoundary n s) s
  beginCycle (drainEnd s)

/-- LAP_BOUNDARY (R36): after tick 65535. During a hold-up save the lap is counted and its armed activation evaluated (R407). DESIGN
CHOICE: assumption 121. -/
def execLapBoundary (mark : Bool) (m : LapMeasure) (s : State) : Res :=
  .next (if s.counting && decide (s.cad.tick.toNat = 65535) then
    let clean := !s.cad.markErrLap
    let latched := s.cad.lap.setWidth 32
    let s := if s.timed then scrubLap s else s
    let s := freshAcc (closeLap m (latchCounters s))
    let s := newLap { s with cad := { s.cad with latchLap := latched } }
    let s := sameEdge (takeBack (boundaryMark mark clean s))
    let (s, reset) := activation s
    if reset || !s.timed then s else openLap s
   else s)

/-! ### CADREF cycles -/

/-- FIRST_LAP_MARK (R21): the first lap mark from S1 on sets tick 00000 and lap 0 and starts the count. DEDUCED: assumption
15. -/
def execFirstLapMark (s : State) : Res :=
  .next (if s.clocked && !s.cad.aligned && decide (1 ≤ s.boot.step.toNat) then
    let s := { s with cad := { s.cad with lap := 0, tick := 0, aligned := true } }
    beginCycle ((s.modPort 0 downStep).modPort 1 downStep) else s)

/-- What a tick ends with: once tick 00000 has shown whether a hold begins, the starts of allotments and runs take place, and the shift
point and the start of a routing version are decided (R34, R159, R170, R227, R410). -/
def endTick (s : State) : State := if s.cad.tick = 0 then deferSwitch (shiftPoint (takeStarts s)) else s

/-- The tick counter counts one CADREF cycle. -/
def countTick (s : State) : State := { s with cad := { s.cad with tick := s.cad.tick + 1 } }

/-- A CADREF cycle in which no command waits: the tick counter counts up to 65535, and LAP_BOUNDARY wraps it (R21); before ALIGNED
nothing is counted (R437, R438). DESIGN CHOICE: assumption 2. -/
def idleCycle (s : State) : State :=
  if s.timed then
    if s.cad.tick.toNat < 65535 then beginCycle (countTick (endTick s)) else s
  else if s.counting then
    if s.cad.tick.toNat < 65535 then countTick s else s
  else if s.clocked then beginCycle s
  else s

end Sys2Proof.Machine
end

