-- ==== Sys2Proof/Machine/Lodge.lean ====
section
/-! DEFINITION. The lodge's mailbox, reports and sessions (R338, R343 to R346, R353), the entropy failure (R334), and SPDM
with TDISP (R354, R355). -/

namespace Sys2Proof.Machine

/-! ### Confidential mode (R353, R289) -/

/-- The module is in confidential mode (R353). DEDUCED: assumption 84. -/
def State.confMode (s : State) : Bool :=
  s.flash.confAlways || s.images.any (fun e => e.2.confidential)
  || (match s.lodge.confUntil with
    | none => false
    | some l => decide (s.cad.lap.toNat ≤ l.toNat))

/-- The nearest whole number; a value half way between two goes the way Config.tieUp says. DESIGN CHOICE: assumption 13. -/
def nearestInt (x : Rat) : Int :=
  let f := x - x.floor
  if f < 1 / 2 then x.floor else if 1 / 2 < f then x.floor + 1 else if Config.tieUp x then x.floor + 1 else x.floor

/-- The nearest multiple of a step (R289). DESIGN CHOICE: assumption 13. -/
def nearestStep (k x : Rat) : Rat := (nearestInt (x / k) : Rat) * k

/-- A lap figure as a host or tray reader gets it: coarsened to a step in confidential mode (R289). DESIGN CHOICE: assumption
13. -/
def State.coarse (s : State) (k x : Rat) : Rat := if s.confMode then nearestStep k x else x

/-! ### The mailbox (R338) -/

/-- What the lodge makes of a request: status, response, and the state it leaves. -/
abbrev Answer := BitVec 8 × List Byte × State

/-- The lodge serves the request of a port where it is that port's turn and the request has the opcode (R338). DEDUCED:
assumption 87. -/
def serve (p : Port) (op : Nat) (f : List Byte → State → Answer) (s : State) : State :=
  let s := answerBad s
  let m := (s.port p).mailbox
  if s.ctl && decide (s.lodge.waiting.head? = some p.val) && decide (m.opcode = some op) then
    let (st, r, s) := f m.bytes (popRequest s)
    answerBad (answer p st r s)
  else s

/-- A request holds n bytes of opcode and arguments: its length in words is theirs, and bytes 1 to 7 and the bytes after them
are 0. DEDUCED: assumption 88. -/
def requestOk (b : List Byte) (n : Nat) : Bool :=
  decide (b.length = (n + 3) / 4 * 4) && zeroAt b 1 7 && zeroAt b n ((n + 3) / 4 * 4 - n)

/-! ### Reports (R343) -/

/-- SHA-384 of the settings in force. DESIGN CHOICE: assumption 112. -/
def State.settings (s : State) : List Byte :=
  digestBytes (sha384 (Config.settingsRecord s.flash.leaseLaps s.flash.lapseCap s.flash.confAlways))

/-- FW_DIGEST (R398): SHA-384 of the header and manifest of the bundle that the booted bank holds. -/
def State.fwDigest (s : State) : BitVec 384 := (s.flash.bank s.boot.bank).digest

/-- An IDE stream of the port has a key. -/
def PortSt.ideOn (x : PortSt) : Bool := !x.ide.isEmpty

/-- A TDI is in RUN. -/
def PortSt.running (x : PortSt) : Bool := decide (x.tdi = .run)

/-- FLAGS of a report. -/
def reportFlags (p : Port) (s : State) : Byte :=
  ofBit 1 (decide (p.val = 1)) ++ ofBit 1 (s.port 1).running ++ ofBit 1 (s.port 0).running ++ ofBit 1 (s.port 1).ideOn ++
  ofBit 1 (s.port 0).ideOn ++ ofBit 1 s.boot.debug ++ ofBit 1 s.flash.confAlways ++ ofBit 1 s.confMode

/-- The record of an allotment in a report (Table 12-5). -/
def reportAllot (s : State) (n : Nat) (a : AllotSt) : List Byte :=
  let i := s.image a.image
  let flags : Byte := (0 : BitVec 5) ++ ofBit 1 a.faulted ++ ofBit 1 a.port ++ ofBit 1 i.confidential
  leBytes 1 n ++ [flags] ++ bytesOf 2 a.slice ++ [0, 0, 0, 0] ++ bytesOf 8 i.jobId ++ digestBytes i.digest ++
  bytesOf 8 (a.session.getD 0) ++ bytesOf 8 a.commitAt ++ bytesOf 2 a.groups ++ List.replicate 14 0

/-- The report body (Table 12-4) with the public parts of random request n. -/
def reportBody (p : Port) (nonce : List Byte) (n : Nat) (s : State) : List Byte :=
  [0x48, 0x34, 0x52, 0x50] ++ leBytes 2 1 ++ leBytes 2 s.allots.length ++ [reportFlags p s, 0, 0, 0] ++
  bytesOf 4 s.boot.step ++ fit 32 nonce ++ bytesOf 8 s.boot.uniqueId ++ idDigest s.boot.idPub ++ bytesOf 8 s.boot.fwset ++
  bytesOf 4 s.boot.svn ++ bytesOf 4 s.boot.variant ++ bytesOf 8 s.now ++ digestBytes s.fwDigest ++
  digestBytes (sha384 s.boot.repair) ++ s.settings ++ fit 1568 (Config.kemPublic n) ++ fit 97 (Config.ecdhPublic n) ++
  List.replicate 15 0 ++ s.allots.flatMap (fun e => reportAllot s e.1 e.2)

/-- GET_REPORT's answer: a fresh ephemeral pair, the body and the identity signature pair over it. -/
def makeReport (p : Port) (req : List Byte) (s : State) : Answer :=
  if !requestOk req 40 then (0x01, [], s)
  else if !s.boot.identity then (0x05, [], s)
  else
    let nonce := bytesAt req 8 32
    let (s, n) := takeRandom s
    let (s, r) := takeRandom s
    let body := reportBody p nonce n s
    (0x00, body ++ signPair s.lodge.prk (drbgBytes r 48) body,
      { s with lodge := { s.lodge with ephs := sset s.lodge.ephs p.val ⟨nonce, n, body⟩ } })

/-- GET_REPORT (R343). -/
def execGetReport (p : Port) (s : State) : Res := .next (serve p 1 (makeReport p) s)

/-! ### Sessions (R344 to R346) -/

/-- The nonce of a session message: 4 zero bytes and the count, big-endian (R345). DEDUCED: assumption 7. -/
def msgNonce (count : BitVec 64) : List Byte := [0, 0, 0, 0] ++ beBytes 8 count.toNat

/-- A message of the module under k_mt: ciphertext and tag, with sid as additional data. DEDUCED: assumption 89. -/
def sealMsg (x : Session) (plain : List Byte) : List Byte :=
  let c := gcmCrypt x.kmt (msgNonce x.tx) plain
  c ++ beBytes 16 (gcmTag x.kmt (msgNonce x.tx) (bytesOf 8 x.sid) c).toNat

/-- The keys of a session (R345). -/
def newSession (e : Eph) (jobId : BitVec 64) (ct point : List Byte) : Session :=
  let prk := hkdfExtract e.nonce (fit 32 (Config.kemDecap e.drbgN ct) ++ fit 48 (Config.ecdh e.drbgN point))
  let th := digestBytes (sha384 (e.body ++ ct ++ point ++ bytesOf 8 jobId))
  { sid := le 64 (hkdfExpand prk (label "H4 sid" ++ th) 48) 0 8, jobId := jobId,
    ktm := hkdfExpand prk (label "H4 t2m" ++ th) 32, kmt := hkdfExpand prk (label "H4 m2t" ++ th) 32,
    prk := prk, rx := 0, tx := 0, keys := [] }

/-- OPEN_SESSION's answer: BUSY, NO_SESSION, or sid under k_mt. DEDUCED: assumption 90. -/
def openSession (p : Port) (req : List Byte) (s : State) : Answer :=
  let jobId := le 64 req 40 8
  if !requestOk req 1713 then (0x01, [], s)
  else if !s.boot.identity then (0x05, [], s)
  else if s.lodge.sessions.any (fun x => decide (x.jobId = jobId)) || decide (16 ≤ s.lodge.sessions.length) then (0x02, [], s)
  else match sfind s.lodge.ephs p.val with
    | none => (0x04, [], s)
    | some e =>
      if e.nonce ≠ bytesAt req 8 32 then (0x04, [], s)
      else
        let x := newSession e jobId (bytesAt req 48 1568) (bytesAt req 1616 97)
        (0x00, sealMsg x (bytesOf 8 x.sid),
          { s with lodge := { s.lodge with ephs := sdel s.lodge.ephs p.val, sessions := s.lodge.sessions ++ [{ x with tx := 1 }] } })

/-- OPEN_SESSION (R344). -/
def execOpenSession (p : Port) (s : State) : Res := .next (serve p 2 (openSession p) s)

/-- The session of a request: its sid at byte 8. -/
def State.sessionOf (s : State) (req : List Byte) : Option Session :=
  s.lodge.sessions.find? (fun x => decide (x.sid = le 64 req 8 8))

/-- A session is replaced by what it has become. -/
def putSession (x : Session) (s : State) : State :=
  { s with lodge := { s.lodge with sessions := s.lodge.sessions.map (fun y => if y.sid = x.sid then x else y) } }

/-- A message of the tenant, n bytes of ciphertext after sid and count: its plaintext, where the count is the next and the tag
holds (R345). DEDUCED: assumption 89. -/
def openMsg (x : Session) (req : List Byte) (n : Nat) : Option (List Byte) :=
  let c := bytesAt req 24 n
  let count : BitVec 64 := BitVec.ofNat 64 (leNat (bytesAt req 16 8).reverse)
  if count = x.rx ∧ bytesAt req (24 + n) 16 = beBytes 16 (gcmTag x.ktm (msgNonce x.rx) (bytesOf 8 x.sid) c).toNat then
    some (gcmCrypt x.ktm (msgNonce x.rx) c)
  else none

/-- A session message of n bytes of ciphertext: its checks, and what the lodge makes of the plaintext in the session whose
count has gone on. DEDUCED: assumption 89. -/
def sessionMsg (n : Nat) (f : Session → List Byte → State → Answer) (req : List Byte) (s : State) : Answer :=
  if !requestOk req (40 + n) then (0x01, [], s)
  else match s.sessionOf req with
    | none => (0x04, [], s)
    | some x => match openMsg x req n with
      | none => (0x03, [], s)
      | some plain => f { x with rx := x.rx + 1 } plain s

/-- A released key is held, in place of an earlier one of its KEY_ID; a session holds at most 64 (R346). DEDUCED: assumption
90. -/
def holdKey (x : Session) (plain : List Byte) (s : State) : Answer :=
  let k : RelKey := ⟨le 64 plain 0 8, bytesAt plain 8 32, bytesAt plain 40 48⟩
  let others := x.keys.filter (fun y => !decide (y.keyId = k.keyId))
  if 64 ≤ others.length then (0x02, [], putSession x s)
  else (0x00, [], putSession { x with keys := others ++ [k] } s)

/-- RELEASE_KEY (R346). -/
def execReleaseKey (p : Port) (s : State) : Res := .next (serve p 3 (sessionMsg 88 holdKey) s)

/-- The counters and readings of an allotment that its tenant's report carries (R353). DEDUCED: assumption 92. -/
def telemetryAllot (s : State) (n : Nat) (a : AllotSt) : List Byte :=
  let c := fun (k : Nat) => bytesOf 4 (sget (0 : Word) s.latched k)
  let mine := s.trns.filter (fun e => decide (e.2.owner = some (BitVec.ofNat 4 n)))
  a.arrayIxs.flatMap (fun x => (List.range 13).flatMap (fun i => c (cArr x i))) ++
  a.movers.flatMap (fun m => c (cMovDone m) ++ c (cMovWords m)) ++
  (List.range 36).flatMap (fun k => c (cSlice a.slice k 0) ++ c (cSlice a.slice k 1)) ++
  mine.flatMap (fun e => bytesOf 4 e.2.count) ++
  [0, 2, 6, 7].flatMap (fun i => c (s.trnCounter n 0 i))

/-- What GET_TELEMETRY returns: LAP, the values of the session's allotments, and the coarsened power. DEDUCED: assumption
92. -/
def telemetry (sid : BitVec 64) (s : State) : List Byte :=
  bytesOf 4 s.cad.latchLap ++
  (s.allots.filter (fun e => decide (e.2.session = some sid))).flatMap (fun e => telemetryAllot s e.1 e.2) ++
  leBytes 4 (toUnits (nearestStep 50 s.pwr.powerL))

/-- GET_TELEMETRY's answer under k_mt. -/
def sendTelemetry (x : Session) (_ : List Byte) (s : State) : Answer :=
  (0x00, sealMsg x (telemetry x.sid s), putSession { x with tx := x.tx + 1 } s)

/-- GET_TELEMETRY (R353). -/
def execGetTelemetry (p : Port) (s : State) : Res := .next (serve p 4 (sessionMsg 0 sendTelemetry) s)

/-- The session's keys and sid are destroyed; keys in key slots stay (R346). DEDUCED: assumption 90. -/
def endSession (x : Session) (_ : List Byte) (s : State) : Answer :=
  (0x00, [], { s with lodge := { s.lodge with sessions := s.lodge.sessions.filter (fun y => !decide (y.sid = x.sid)) } })

/-- CLOSE_SESSION (R346). -/
def execCloseSession (p : Port) (s : State) : Res := .next (serve p 5 (sessionMsg 0 endSession) s)

/-- GET_CREDENTIAL's answer: the link credential (R339). DESIGN CHOICE: assumption 91. -/
def giveCredential (req : List Byte) (s : State) : Answer :=
  if !requestOk req 8 then (0x01, [], s)
  else if !s.boot.identity then (0x05, [], s)
  else if s.lodge.cred.isEmpty then (Config.earlyCredential, [], s)
  else (0x00, s.lodge.cred, s)

/-- GET_CREDENTIAL (R339). -/
def execGetCredential (p : Port) (s : State) : Res := .next (serve p 6 giveCredential s)

/-! ### Entropy (R334) -/

/-- The lodge runs: from S2 on, with no pair lost. -/
def State.lodgeRuns (s : State) : Bool := s.clocked && decide (2 ≤ s.boot.step.toNat) && !s.lodge.pairLost

/-- ENTROPY (R334, R358): a health test has failed; while S2 runs, S2 fails with it (Table 14-1). DEDUCED: assumption 93. -/
def execEntropy (test : BitVec 16) (s : State) : Res :=
  .next (if s.lodgeRuns then
    let s := writeFault (faultCode 0x8 0x003 test) 0 6 0xFF none { s with lodge := { s.lodge with entropyDead := true } }
    if s.boot.step = 2 ∧ s.boot.state = 0 then { s with boot := { s.boot with state := 2 } } else s
   else s)

/-! ### SPDM (R354) -/

/-- A measurement block, where the index names one (Table 12-7). -/
def State.measurement (s : State) (index : Nat) : Option (List Byte) :=
  if index = 1 then some (digestBytes s.fwDigest)
  else if index = 2 then some (digestBytes (sha384 s.boot.repair))
  else if index = 3 then some s.settings
  else if index = 4 then some (idDigest s.boot.idPub)
  else if 0x10 ≤ index then (s.allot (index - 0x10)).map (fun a => digestBytes (s.image a.image).digest)
  else none

/-- What a request comes to: the response's code and data, and the state. -/
abbrev Answered := Byte × List Byte × State

/-- An SPDM or TDISP response of a port in clear. PRESUMED: assumption 60. -/
def spdmSend (p : Port) (a : Answered) : State := a.2.2.emit (.spdm (decide (p.val = 1)) a.1 a.2.1)

/-- What the responder supports (R354): versions 1.2 and 1.3; CERT, CHAL, MEAS with signature, ENCRYPT, MAC and KEY_EX; RSASSA-PSS-3072,
SHA-384, secp384r1 and AES-256-GCM. PRESUMED: assumption 60. -/
def spdmVersions : List Byte := leBytes 2 0x1200 ++ leBytes 2 0x1300
def spdmCapabilities : List Byte := leBytes 4 0x2D6
def spdmAlgorithms : List Byte := leBytes 4 0x8 ++ leBytes 4 0x2 ++ leBytes 2 0x10 ++ leBytes 2 0x2

/-- An SPDM error. PRESUMED: assumption 60. -/
def spdmError (s : State) : Answered := (0x7F, Config.protocolBytes 0x10 0x7F, s)

/-- An SPDM response with the RSA identity signature over what it holds. PRESUMED: assumption 60. -/
def spdmSigned (code : Byte) (data : List Byte) (s : State) : Answered :=
  let (s, n) := takeRandom s
  (code, data ++ fit 384 (Config.rsaSign (seedRsa s.lodge.prk) (drbgBytes n 48) (Config.protocolBytes 0x10 code.toNat ++ data)), s)

/-- A change to the SPDM responder of a port. -/
def modSpdm (p : Port) (f : Spdm → Spdm) (s : State) : State := s.modPort p (fun x => { x with spdm := f x.spdm })

/-- KEY_EXCHANGE: a fresh P-384 pair, the shared secret, and the signed answer. PRESUMED: assumption 60. -/
def spdmExchange (p : Port) (nonce point : List Byte) (s : State) : Answered :=
  let (s, n) := takeRandom s
  spdmSigned 0x64 (fit 97 (Config.ecdhPublic n) ++ nonce) (modSpdm p (fun _ => { secret := some (fit 48 (Config.ecdh n point)) }) s)

/-- FINISH: the HMAC that follows from the shared secret opens the secure session, with keys of its own. PRESUMED: assumption 60. -/
def spdmFinish (p : Port) (mac : List Byte) (s : State) : Answered := match (s.port p).spdm.secret with
  | none => spdmError s
  | some k =>
    if mac = Config.finishMac k then (0x65, Config.protocolBytes 0x10 0x65, modSpdm p (fun x => { x with secure := true, rx := 0, tx := 0 }) s)
    else spdmError s

/-! ### IDE and TDISP (R355) -/

/-- An IDE key of a stream, programmed by IDE_KM inside a secure session. PRESUMED: assumption 60. -/
def ideProgram (p : Port) (stream : Fin 2) (key : List Byte) (s : State) : Answered :=
  if (s.port p).spdm.secure then
    (0x00, Config.protocolBytes 0x12 0, s.modPort p (fun x => { x with ide := sset x.ide stream.val key }))
  else spdmError s

/-- A TDISP request that a state of the TDI takes; in another state the response is an error. PRESUMED: assumption 60.
DEDUCED: assumption 94. -/
def moveTdi (p : Port) (src dst : Tdi) (code : Byte) (s : State) : Answered :=
  if (s.port p).tdi = src then (code, Config.protocolBytes 0x11 code.toNat, s.modPort p (fun x => { x with tdi := dst }))
  else (0x7F, Config.protocolBytes 0x11 0x7F, s)

/-- An SPDM or TDISP request, in clear or inside a session: its FINISH, its end and the keys of IDE streams are taken inside one only.
PRESUMED: assumption 60. -/
def spdmAnswer (p : Port) (inside : Bool) (req : SpdmRequest) (s : State) : Answered := match req with
  | .version => (0x04, spdmVersions, s)
  | .capabilities => (0x61, spdmCapabilities, s)
  | .algorithms => (0x63, spdmAlgorithms, s)
  | .digests => (0x01, digestBytes (sha384 Config.certChain), s)
  | .certificate off n => (0x02, (Config.certChain.drop off.toNat).take n.toNat, s)
  | .challenge nonce => spdmSigned 0x03 (digestBytes (sha384 Config.certChain) ++ nonce) s
  | .measurement i nonce => match s.measurement i.toNat, nonce with
    | some d, none => (0x60, d, s)
    | some d, some x => spdmSigned 0x60 (d ++ x) s
    | none, _ => spdmError s
  | .keyExchange nonce point => spdmExchange p nonce point s
  | .finish mac => if inside then spdmFinish p mac s else spdmError s
  | .endSession => if inside then (0x6C, Config.protocolBytes 0x10 0x6C, modSpdm p (fun _ => {}) s) else spdmError s
  | .lockInterface => moveTdi p .unlocked .locked 0x03 s
  | .startInterface => moveTdi p .locked .run 0x06 s
  | .ideKeys stream key => if inside then ideProgram p stream key s else spdmError s
  | .secured _ => spdmError s
  | .other c => (c, Config.protocolBytes 0x10 c.toNat, s)

/-! ### Secure sessions (R354) -/

/-- The AES-256-GCM key and nonce of a way of the session, 0 to the responder and 1 from it. PRESUMED: assumption 60. -/
def Spdm.key (x : Spdm) (way : Nat) : List Byte :=
  fit 44 (Config.sessionKey (x.secret.getD []) ((if x.secure then 2 else 0) + way))

/-- The nonce of record n under a key. PRESUMED: assumption 60. -/
def recordNonce (key : List Byte) (n : BitVec 64) : List Byte :=
  List.zipWith (fun a b => a ^^^ b) (key.drop 32) (bytesOf 8 n ++ [0, 0, 0, 0])

/-- A record of the session as it leaves: the session's four bytes and the length, which are authenticated, the ciphertext, and the tag.
PRESUMED: assumption 60. -/
def Spdm.seal (x : Spdm) (session plain : List Byte) : List Byte :=
  let key := x.key 1
  let head := fit 4 session ++ leBytes 2 plain.length
  let c := gcmCrypt (key.take 32) (recordNonce key x.tx) plain
  head ++ c ++ beBytes 16 (gcmTag (key.take 32) (recordNonce key x.tx) head c).toNat

/-- What a received record holds, none where there is no session or the tag fails. PRESUMED: assumption 60. -/
def Spdm.opened (x : Spdm) (record : List Byte) : Option (List Byte) :=
  let key := x.key 0
  let c := (record.drop 6).take (record.length - 22)
  if x.secret.isSome ∧ 22 ≤ record.length ∧
      record.drop (record.length - 16) = beBytes 16 (gcmTag (key.take 32) (recordNonce key x.rx) (record.take 6) c).toNat
  then some (gcmCrypt (key.take 32) (recordNonce key x.rx) c) else none

/-- The request that the plaintext of a record is. PRESUMED: assumption 60. -/
def sessionRequest (b : List Byte) : SpdmRequest := match (byteAt b 0).toNat with
  | 0xE0 => .measurement (byteAt b 1) (if b.length ≤ 2 then none else some (b.drop 2))
  | 0xE5 => .finish (b.drop 1)
  | 0xEC => .endSession
  | 0x83 => .lockInterface
  | 0x85 => .startInterface
  | 0xFE => .ideKeys ⟨(byteAt b 1).toNat % 2, Nat.mod_lt _ (by decide)⟩ (b.drop 2)
  | _ => .other (byteAt b 0)

/-- A sealed record comes in (R354): it is opened and answered by a sealed record under the keys in use, or it is an error. PRESUMED:
assumption 60. -/
def spdmSecured (p : Port) (record : List Byte) (s : State) : State :=
  let x := (s.port p).spdm
  match x.opened record with
  | none => spdmSend p (spdmError s)
  | some b =>
    let a := spdmAnswer p true (sessionRequest b) (modSpdm p (fun x => { x with rx := x.rx + 1, tx := x.tx + 1 }) s)
    a.2.2.emit (.secured (decide (p.val = 1)) (x.seal (record.take 4) (a.1 :: a.2.1)))

/-- SPDM_MESSAGE (R354, R355). -/
def execSpdmMessage (p : Port) (req : SpdmRequest) (s : State) : Res :=
  .next (hostWrite p (fun s => match req with
    | .secured record => spdmSecured p record s
    | req => spdmSend p (spdmAnswer p false req s)) s)

/-- STOP_INTERFACE (R355): the TDI leaves ERROR, and every other state, for CONFIG_UNLOCKED. DEDUCED: assumption 94. -/
def execStopInterface (p : Port) (s : State) : Res :=
  .next (hostWrite p (fun s => spdmSend p (0x07, Config.protocolBytes 0x11 7, s.modPort p (fun x => { x with tdi := .unlocked }))) s)

end Sys2Proof.Machine
end

