-- ==== Sys2Proof/Machine/Window.lean ====
section
/-! DEFINITION. Allotment pages and the staging window (R307, R316, R351, R436). -/

namespace Sys2Proof.Machine

/-- The allotment of a page that a port reaches (R308). -/
def State.page (s : State) (p : Port) (n : Nat) : Option AllotSt := match s.allot n with
  | none => none
  | some a => if portOf a.port = p then some a else none

/-- The image of an allotment is confidential. -/
def State.confidential (s : State) (a : AllotSt) : Bool := (s.image a.image).confidential

/-- The module memory address of the start of a mapped run: BASE carries address [47:24], its bit 23 the tier. -/
def winAddr (base : BitVec 24) : Nat := base.toNat * 2 ^ 24

/-- A write of ALLOT_WIN (R307, R351): a run outside the partitions is ignored whole, and so is every write for a
confidential allotment. A run of 16 MiB lies within one granule. -/
def writeWin (p : Port) (n : Nat) (data : Word) (s : State) : State := match s.page p n with
  | none => s
  | some a => guarded p (fun s =>
      if s.confidential a || (bit data 31 && !a.covers (winAddr (fld data 0 24))) then s
      else s.modAllot n (fun a => { a with winEn := bit data 31, winBase := fld data 0 24 })) s

/-- STAGING_WINDOW_MAP (R307). -/
def execStagingWindowMap (p : Port) (a : Allot) (data : Word) (s : State) : Res :=
  .next (hostWrite p (writeWin p a.val data) s)

/-- The allotment owns a strobe group (R314). -/
def State.ownsGroup (s : State) (n g : Nat) : Bool := decide ((s.strobe g).owner = some (BitVec.ofNat 4 n))

/-- A write of ALLOT_SCHED (R316): ignored whole where it names another group that the allotment does not own, or a period
outside 1 to 4,096. -/
def writeSched (p : Port) (n : Nat) (data : Word) (s : State) : State := match s.page p n with
  | none => s
  | some a =>
    let g := fld data 16 4
    let poll := fld data 0 13
    if (g ≠ a.sgrp ∧ s.ownsGroup n g.toNat = false) ∨ poll = 0 ∨ 4096 < poll.toNat then s
    else s.modAllot n (fun a => { a with sgrp := g, poll := a.poll.write s.now poll })

/-- ALLOT_SCHED_WRITE (R316). -/
def execAllotSchedWrite (p : Port) (a : Allot) (data : Word) (s : State) : Res :=
  .next (hostWrite p (writeSched p a.val data) s)

/-- Where a BAR2 offset lies in module memory, where its slice is mapped for the port (R307, R351). -/
def State.window (s : State) (p : Port) (offset : Nat) : Option Nat := match s.page p (offset / 2 ^ 24) with
  | none => none
  | some a => if a.winEn && !s.confidential a then some (winAddr a.winBase + offset % 2 ^ 24) else none

/-- The parts of an access of n bytes that lie in one slice each: offset and length. An access has at most 4,096 bytes, so that it meets
the end of at most one slice. -/
def slices (offset n : Nat) : List (Nat × Nat) :=
  let first := min n (2 ^ 24 - offset % 2 ^ 24)
  (offset, first) :: if first < n then [(offset + first, n - first)] else []

/-- The gatehouse that serves a port's window: the one that holds the port (R303). -/
def portGh (p : Port) : Nat := p.val

/-- A word that the port's gatehouse reads for a host, as word k of its path: zeros, and true, where it is uncorrectable in its store or
at a bridge on the way (R436). -/
def hostRead (p : Port) (path : List PathNoise) (k w : Nat) (s : State) : State × List Byte × Bool :=
  match readWord 0 w s with
  | (s, .good b) =>
    let c := carry [s.dieOf 0 w, 4 + portGh p] path k b s
    (c.state, if c.bad.isSome then List.replicate 32 0 else c.word, c.bad.isSome)
  | (s, _) => (s, List.replicate 32 0, true)

/-- A word that the port's gatehouse writes for a host, as word k of its path: dropped where it is uncorrectable at a bridge. DESIGN
CHOICE: assumption 123. -/
def hostPut (p : Port) (path : List PathNoise) (k w : Nat) (b : List Byte) (s : State) : State :=
  let c := carry [4 + portGh p, s.dieOf 0 w] path k b s
  if c.bad.isSome then c.state else writeWord 0 w c.word c.state

/-- One part of a read, the first word of which is word k: its bytes, and whether a word of it is uncorrectable. Every word is read,
whatever the others are. A slice that is not mapped reads 0. -/
def readSlice (p : Port) (path : List PathNoise) (k : Nat) (e : Nat × Nat) (s : State) : State × List Byte × Bool :=
  match s.window p e.1 with
  | none => (s, List.replicate e.2 0, false)
  | some a =>
    let (s, b, bad) := (wordsOf a e.2).zipIdx.foldl (fun (s, acc, bad) (w, i) =>
      let (s, b, worse) := hostRead p path (k + i) w s
      (s, acc ++ b, bad || worse)) (s, [], false)
    (s, bytesAt b (a % 32) e.2, bad)

/-- The number on its path of the first word of a part that begins at an offset: the words count on over the whole access. -/
def wordFrom (first : BitVec 28) (offset : Nat) : Nat := offset / 32 - first.toNat / 32

/-- STAGING_WINDOW_READ (R307, R436): every word that the access touches is read, decoded and decrypted; an uncorrectable one poisons
the completion, whose data reads 0. -/
def execStagingWindowRead (p : Port) (offset : BitVec 28) (bytes : BitVec 13) (way : Passage) (s : State) : Res :=
  .next (if s.hears p then
    let (s, b, bad) := (slices offset.toNat bytes.toNat).foldl (fun (s, b, bad) e =>
      let (s, c, worse) := readSlice p way.path (wordFrom offset e.1) e s
      (s, b ++ c, bad || worse)) (applyNoise way.noise s, [], false)
    s.emit (.readData (decide (p.val = 1)) (if bad then List.replicate bytes.toNat 0 else b) bad)
   else s)

/-- The bytes of a write that fall into word w: the offset within the word and the bytes. -/
def wordPart (a : Nat) (data : List Byte) (w : Nat) : Nat × List Byte :=
  let lo := max a (32 * w)
  let hi := min (a + data.length) (32 * w + 32)
  (lo - 32 * w, (data.drop (lo - a)).take (hi - lo))

/-- One word of a host write: a whole word is written, part of a word is merged into what is read, and dropped where that
cannot be read (R436). -/
def hostWord (p : Port) (path : List PathNoise) (a : Nat) (data : List Byte) (s : State) (k w : Nat) : State :=
  let (off, part) := wordPart a data w
  if part.length = 32 then hostPut p path k w part s
  else match hostRead p path k w s with
    | (s, b, false) => hostPut p path k w (b.take off ++ part ++ b.drop (off + part.length)) s
    | (s, _, true) => s

/-- One part of a write, the first word of which is word k; a slice that is not mapped drops it. -/
def writeSlice (p : Port) (path : List PathNoise) (k : Nat) (data : List Byte) (s : State) (offset : Nat) : State :=
  match s.window p offset with
  | none => s
  | some a => (wordsOf a data.length).zipIdx.foldl (fun s (w, i) => hostWord p path a data s (k + i) w) s

/-- STAGING_WINDOW_WRITE (R307, R436). -/
def execStagingWindowWrite (p : Port) (offset : BitVec 28) (data : List Byte) (way : Passage) (s : State) : Res :=
  .next (if s.hears p then
    (slices offset.toNat data.length).foldl (fun s e =>
      writeSlice p way.path (wordFrom offset e.1) (bytesAt data (e.1 - offset.toNat) e.2) s e.1) (applyNoise way.noise s)
   else s)

end Sys2Proof.Machine
end

