-- ==== Sys2Proof/Machine/Views.lean ====
section
/-! DEFINITION. What a read of a register returns (R6, R7, R306, R308, R312): the registers of BAR0 by block, the inventory
record, and the coarsening of confidential mode (R72, R109, R235, R264, R289). A read changes no state. -/

namespace Sys2Proof.Machine

/-! ### Figures -/

/-- A figure in a register field. DESIGN CHOICE: assumption 12. -/
def figure (w lo : Nat) (x : Rat) : Word := put32 (BitVec.ofNat w (toUnits x)) lo

/-- A bit in a register. -/
def flag (b : Bool) (i : Nat) : Word := put32 (ofBit 1 b) i

/-- A latched counter. -/
def State.count (s : State) (k : Nat) : Word := sget 0 s.latched k

/-! ### The inventory and odometer record (R370, Table 13-5) -/

/-- The part number of a variant. -/
def partNumber (v : BitVec 8) : List Byte :=
  fit 16 (label (if v = 1 then "MH4-512" else if v = 2 then "MH4-640" else if v = 3 then "MH4-768" else ""))

/-- FWSET_OTHER: the set of the bank that S2 did not boot, 0 while it holds no verified bundle. -/
def State.otherSet (s : State) : BitVec 64 := (s.flash.bank (!s.boot.bank)).set

/-- The record up to its MAC. -/
def State.inventoryBody (s : State) : List Byte :=
  leBytes 2 1 ++ [s.boot.variant, s.boot.slot.setWidth 8] ++ bytesOf 4 (if s.self.set then s.ownCoord else 0) ++
  bytesOf 8 s.boot.uniqueId ++ partNumber s.boot.variant ++ bytesOf 16 Config.unitSerial ++ bytesOf 4 Config.unitMfgDay ++
  bytesAt s.boot.repair 4 4 ++ bytesOf 8 s.boot.fwset ++ bytesOf 4 s.boot.svn ++ [0, 0, 0, 0] ++ bytesOf 8 s.otherSet ++
  s.mgmt.inv.counters ++ bytesOf 2 s.mgmt.odo.ddrGib ++ leBytes 1 s.nStacks ++
  List.replicate 21 0

/-- The inventory and odometer record, 256 bytes. -/
def State.inventory (s : State) : List Byte := s.inventoryBody ++ flashMac s.lodge.prk s.inventoryBody

/-! ### Identity, ports, rings (11_host_interface) -/

/-- HST_PORT of port q. -/
def hstPort (x : PortSt) : Word :=
  flag x.linkUp 31 ||| put32 x.width 27 ||| put32 x.speed 24 ||| put32 x.nsWrites 12 ||| put32 x.downLaps 0

/-- A register of a ring block at offset o. DEDUCED: assumption 95. -/
def ringReg (s : State) (r o : Nat) : Word :=
  let g := s.ring r
  match o with
  | 0x00 => put32 g.sqLo 12 ||| put32 g.size 0
  | 0x04 => g.sqHi
  | 0x08 => put32 g.cqLo 12
  | 0x0C => g.cqHi
  | 0x10 => flag g.enable 31 ||| put32 g.holdoff 16 ||| put32 g.vector 0
  | 0x14 =>
    (if r < 2 then 0 else match s.allot (r - 2) with
      | none => 0
      | some a => flag a.run.isSome 31 ||| flag a.pendRun.isSome 30 ||| flag a.faulted 29) ||| put32 g.lost 0
  | 0x18 => put32 g.sqHead 16 ||| put32 g.cqTail 0
  | _ => 0

/-- A strobe group's registers. -/
def strobeReg (s : State) (g o : Nat) : Word :=
  let x := s.strobe g
  match o with
  | 0 => (match x.owner with | none => 0x100000 | some n => put32 n 16) ||| flag x.refused 3 ||| flag x.armed.isSome 2
      ||| flag x.armed.isSome 1
  | 4 => x.atLo
  | 8 => x.atHi.setWidth 32
  | _ => 0

/-- HST registers, 0x1000 to 0x1FFF. -/
def hstReg (s : State) (p : Port) (o : Nat) : Word :=
  let x := s.port p
  if o < 0x1010 then (if o = 0x1000 then flag s.steward 0 else 0)
  else if o < 0x1030 then
    let q : Port := if o < 0x1020 then 0 else 1
    if o % 16 = 0 then hstPort (s.port q) else if o % 16 = 4 then put32 (maskOf 16 (s.owned q)) 0 else 0
  else if o = 0x1040 then put32 x.indSpace 28 ||| flag x.indInc 27 ||| flag x.indErr 26 ||| put32 x.indWord 0
  else if o = 0x1050 then put32 (evtBits s) 0
  else if o = 0x1054 then put32 x.evtVec 16 ||| put32 x.evtEn 0
  else if o = 0x1060 then put32 s.sgrpSel 0
  else if 0x1100 ≤ o ∧ o < 0x1120 then ringReg s p.val (o - 0x1100)
  else if 0x1200 ≤ o ∧ o < 0x1300 then strobeReg s ((o - 0x1200) / 16) (o % 16)
  else 0

/-- Fault store and identity, 0x0000 to 0x0FFF. -/
def idReg (s : State) (p : Port) (o : Nat) : Word :=
  if o = 0 then put32 s.boot.variant 24 ||| flag (decide (p.val = 1)) 8 ||| flag (s.isSteward p) 0
  else if 0x800 ≤ o ∧ o < 0xC00 then
    let r := sget {} s.frc.recs ((o - 0x800) / 32)
    match o % 32 with
    | 0x00 => r.code
    | 0x04 => fld r.ctx 0 32
    | 0x08 => fld r.ctx 32 32
    | 0x0C => fld r.stamp 0 32
    | 0x10 => put32 (fld r.stamp 32 24) 0
    | 0x14 => r.seq
    | _ => 0
  else if o = 0xC00 then s.frc.seq
  else if o = 0xC04 then flag s.frc.saved 31 ||| flag s.frc.restored 30
  else if o = 0xC10 then flag (decide ((s.port p).resetting ≠ 0)) 31
  else 0

/-! ### Cadence and SPK_SELF -/

/-- The PLLs of a pavilion as CAD_PLL_STATUS shows them: in ticks 00002 and 00003 of a lap that shifts, the domain is on the other
PLL already (R33). -/
def State.pllShown (s : State) (p : Nat) : Pll :=
  let x := s.pll p
  if s.shiftComes && (decide (s.cad.tick = 2) || decide (s.cad.tick = 3)) then
    { x with active := !x.active, activeLock := x.idleLock, idleLock := x.activeLock }
  else x

/-- CAD_PLL_STATUS. -/
def pllStatus (s : State) : Word :=
  (List.range 4).foldl (fun w p =>
    let x := s.pllShown p
    w ||| flag x.active (4 * p) ||| flag x.idleLock (4 * p + 1) ||| flag x.activeLock (4 * p + 2))
    (put32 (BitVec.ofNat 5 (cptOf s.gear.gear.toNat)) 16)

/-- CAD, SPK_SELF and SPK_PLAN_CTL, 0x2000 to 0x2FFF. -/
def cadReg (s : State) (o : Nat) : Word := match o with
  | 0x2000 => fld s.now 0 32
  | 0x2004 => put32 (fld s.now 32 24) 0
  | 0x2008 => cadStatus s.cad
  | 0x200C => flag s.cad.syncRefused 17 ||| flag s.cad.syncArmed 16 ||| put32 s.cad.syncSpoke 8 ||| put32 s.cad.syncMode 0
  | 0x2010 => s.cad.syncLapLo
  | 0x2014 => put32 s.cad.syncLapHi 0
  | 0x2018 => s.cad.markErr
  | 0x201C => s.cad.latchLap
  | 0x2020 => pllStatus s
  | 0x2400 => flag s.self.set 31 ||| put32 s.self.rack 10 ||| put32 s.self.tray 5 ||| put32 s.self.slot 3
  | 0x2404 => flag s.self.planOpen 30 ||| put32 s.self.kept 0
  | _ => 0

/-! ### Power and cooling (R289, R301) -/

/-- BRAKE_LVL of a brake level. -/
def brakeCode (l : Nat) : BitVec 2 := if l = 15 then 1 else if l = 14 then 2 else 0

/-- PWR_STATUS. -/
def pwrStatus (s : State) : Word :=
  flag (s.hold.hold) 31 ||| flag s.pwr.capUnmet 30 ||| flag s.pwr.lapsed 29 ||| flag s.pwr.vinLow 28 ||| flag s.pwr.calFlag 27
  ||| flag s.gear.rcIncomplete 26 ||| put32 s.gear.gear 20 ||| put32 s.pwr.permitted 16 ||| put32 s.gear.decided 12
  ||| put32 (BitVec.ofNat 3 s.ceiling) 8 ||| put32 (brakeCode s.pwr.brake) 4

/-- PWR_CORE of pavilion p. -/
def pwrCore (s : State) (p : Nat) : Word :=
  if s.confMode then 0 else figure 16 16 (s.pwr.vcoreL.getD p 0) ||| figure 11 0 (s.pwr.icoreL.getD p 0 / 1000)

/-- PWR and THM, 0x3000 to 0x3FFF. -/
def pwrReg (s : State) (o : Nat) : Word := match o with
  | 0x3000 => pwrStatus s
  | 0x3004 => put32 s.pwr.hostGear 16 ||| put32 s.pwr.hostCap 0
  | 0x3008 => put32 s.pwr.trayGear 16 ||| put32 s.pwr.trayCap 0
  | 0x300C => put32 s.pwr.leaseLeft 0
  | 0x3010 => put32 s.pwr.lapseCap 16 ||| put32 s.pwr.leaseLaps 0
  | 0x3014 => figure 16 16 (s.pwr.vinL / 10) ||| figure 16 0 (s.coarse 50 s.pwr.powerL)
  | 0x3018 => figure 16 16 (s.pwr.k * 4096) ||| figure 16 0 (s.coarse 50 s.pwr.estL)
  | 0x3020 => pwrCore s 0
  | 0x3024 => pwrCore s 1
  | 0x3028 => pwrCore s 2
  | 0x302C => pwrCore s 3
  | 0x3030 => put32 s.gear.rcMissRank 16 ||| put32 s.gear.rcIgnored 11 ||| put32 s.gear.rcReceived 0
  | 0x3034 => s.gear.rcLap
  | 0x3038 => flag (bit s.pwr.sched.buf 19) 31 ||| put32 (fld s.pwr.sched.buf 0 19) 0
  | 0x303C => (match s.gear.rcJob with | none => 0 | some j => flag true 31 ||| put32 j 0)
  | 0x3400 => flag s.thm.trip 31 ||| flag s.thm.leak 30 ||| flag s.thm.flowSubst 29 ||| flag s.thm.flowLow 28
      ||| flag s.thm.thermal 27 ||| flag s.thm.inletHigh 26 ||| put32 (BitVec.ofNat 3 (thermCeil s.thm)) 16
  | 0x3410 => thmPav s 0
  | 0x3414 => thmPav s 1
  | 0x3418 => thmPav s 2
  | 0x341C => thmPav s 3
  | 0x3420 => figure 8 24 (s.thm.tInL / 250) ||| figure 8 16 (s.coarse 1000 s.thm.tOutL / 250) ||| figure 16 0 s.thm.flowL
  | 0x3424 => figure 16 0 s.thm.rawL
  | _ => 0
where
  /-- THM_PAV of pavilion p. -/
  thmPav (s : State) (p : Nat) : Word :=
    let f := s.thm.failed.getD p 0
    figure 8 24 (s.coarse 5000 (s.thm.tgovL.getD p 0) / 1000) ||| put32 (BitVec.ofNat 5 (popcount f)) 16 ||| put32 f 0

/-! ### Boot, lodge, management, update -/

/-- BOOT_KAT of pavilion p. -/
def bootKat (s : State) (p : Nat) : Word :=
  let k := sget {} s.boot.kats p
  flag k.run 31 ||| put32 k.groups 16 ||| put32 k.first 0

/-- The standby of a role runs in step: the lodges run from S2 on, wardens and power controllers once S2 has released them
(Table 14-1), and before that the bits hold their reset value 0. DEDUCED: assumption 110. -/
def State.standbyIn (s : State) (r : Nat) : Bool :=
  (if r = 2 then decide (2 ≤ s.boot.step.toNat) else s.fwUp) && (s.unit (2 * r + if s.active r then 0 else 1)).inStep

/-- LDG_STATUS. DEDUCED: assumption 110. -/
def ldgStatus (s : State) : Word :=
  flag s.confMode 31 ||| flag s.flash.confAlways 30 ||| flag s.boot.debug 29
  ||| flag (s.standbyIn 2) 28 ||| flag s.lodge.actLodge 24
  ||| put32 (BitVec.ofNat 5 s.lodge.sessions.length) 16 ||| put32 (fld s.boot.svn 0 16) 0

/-- WRD_STATUS. -/
def wrdStatus (s : State) : Word :=
  let fails := fun (r lo : Nat) => flag (s.unit (2 * r)).retired lo ||| flag (s.unit (2 * r + 1)).retired (lo + 1)
  flag s.lodge.pairLost 31 ||| flag (s.standbyIn 2) 22 ||| flag (s.standbyIn 1) 21 ||| flag (s.standbyIn 0) 20
  ||| flag (s.active 2) 18 ||| flag (s.active 1) 17 ||| flag (s.active 0) 16
  ||| fails 0 12 ||| fails 1 8 ||| fails 2 4

/-- The lowest piece of the session that is not present. -/
def Upd.next (u : Upd) : Option Nat := match u.bundle with
  | none => none
  | some b => (List.range b.pieces).find? (fun i => (sfind u.present i).isNone)

/-- A piece that the host submitted is being taken (UPD_PIECE_CTL.BUSY). -/
def Upd.hostBusy (u : Upd) : Bool := u.busy.any (fun e => !e.2.2.1)

/-- STATE of UPD_STATUS: ARMED while an activation is armed. -/
def Upd.shown (u : Upd) : BitVec 4 := if u.armed.isSome then 4 else u.state

/-- UPD registers, 0x7000 to 0x70FF. DEDUCED: assumption 95. -/
def updReg (s : State) (o : Nat) : Word :=
  let u := s.upd
  match o with
  | 0x7000 => put32 u.shown 28 ||| put32 u.result 24 ||| flag u.settingsReset 20 ||| flag u.path 16
      ||| put32 (match u.bundle with | none => (0 : BitVec 15) | some b => BitVec.ofNat 15 (b.pieces - u.present.length)) 0
  | 0x7004 => put32 u.verifyFails 16 ||| put32 (match u.next with | none => (0x7FFF : BitVec 15) | some i => BitVec.ofNat 15 i) 0
  | 0x7008 => (match u.bundle with | none => 0 | some b => fld b.fwset 0 32)
  | 0x700C => (match u.bundle with | none => 0 | some b => fld b.fwset 32 32)
  | 0x7010 => u.actLo
  | 0x7014 => put32 u.actHi 0
  | 0x7018 => flag u.armRefused 2 ||| flag u.armed.isSome 1 ||| flag u.armed.isSome 0
  | 0x701C => flag u.hostBusy 30 ||| put32 u.last 24 ||| put32 u.piece 0
  | _ => 0

/-- The other global blocks, 0x4000 to 0x3_FFFF. The inventory is set at boot, once wardens run (R370); before that MGT_INV
holds its reset value 0. DEDUCED: assumption 110. -/
def globalReg (s : State) (o : Nat) : Word :=
  if o = 0x4000 then put32 s.boot.step 28 ||| put32 s.boot.state 24 ||| flag s.boot.refused 20 ||| put32 s.boot.ms 0
  else if o = 0x4004 then flag s.boot.tripWait 31 ||| flag s.boot.fallback 8 ||| flag s.boot.bank 4 ||| flag s.boot.debug 0
  else if o = 0x4008 then s.boot.elapsed
  else if 0x4010 ≤ o ∧ o < 0x4020 then bootKat s ((o - 0x4010) / 4)
  else if o = 0x5000 then ldgStatus s
  else if o = 0x5004 then put32 s.lodge.linkFails 16
      ||| put32 (BitVec.ofNat 6 (((List.range 36).filter (fun k => (s.spk k).keyed)).length)) 8 ||| put32 s.lodge.linkLast 0
  else if o = 0x6000 then flag s.mgmt.addr.isSome 31 ||| flag (decide (s.mgmt.eid ≠ 0)) 30 ||| put32 (s.mgmt.addr.getD 0) 16
      ||| put32 s.mgmt.eid 8 ||| put32 s.mgmt.tid 0
  else if o = 0x6004 then put32 s.mgmt.evLost 16 ||| put32 (BitVec.ofNat 9 s.mgmt.events.length) 0
  else if o = 0x6008 then s.mgmt.nacks
  else if 0x6100 ≤ o ∧ o < 0x6200 then (if s.fwUp then le 32 s.inventory (o - 0x6100) 4 else 0)
  else if o = 0x6800 then wrdStatus s
  else if o = 0x6804 then put32 s.lodge.lastDetail 16 ||| put32 s.lodge.lastTick 0
  else if 0x7000 ≤ o ∧ o < 0x7100 then updReg s o
  else if 0x8000 ≤ o ∧ o < 0x9000 then sget 0 s.upd.window ((o - 0x8000) / 4)
  else 0

/-- A dword of the MSI-X table or of the pending bit array of a port. -/
def msixReg (x : PortSt) (o : Nat) : Word :=
  if o < 0x48000 then
    let e := sget {} x.msix ((o - 0x40000) / 16)
    match o % 16 with
    | 0 => e.addrLo | 4 => e.addrHi | 8 => e.data | _ => flag e.masked 0
  else if o < 0x48100 then
    (List.range 32).foldl (fun w i => w ||| flag (sget {} x.msix (8 * (o - 0x48000) + i)).pending i) 0
  else 0

/-! ### Gatehouses and pavilions -/

/-- The owner field of a status register: OWNED and the allotment. -/
def ownedBy (n : Option Nat) : Word := match n with
  | none => 0
  | some n => flag true 20 ||| put32 (BitVec.ofNat 4 n) 16

/-- A confidential allotment owns the part (R109). DEDUCED: assumption 108. -/
def State.hidden (s : State) (owner : Option Nat) : Bool := match owner with
  | none => false
  | some n => s.isConf n

/-- MOV_STATUS, MOV_DONE and MOV_WORDS of a module mover (R109). -/
def movReg (s : State) (m o : Nat) : Word :=
  let x := s.mover m
  let owner := s.moverOwner m
  match o with
  | 0 => flag x.active.isSome 31 ||| flag x.pending.isSome 30 ||| flag x.stopped 29 ||| ownedBy owner
      ||| put32 ((x.active.map (·.index)).getD x.last) 0
  | 4 => if s.hidden owner then 0 else s.count (cMovDone m)
  | 8 => if s.hidden owner then 0 else s.count (cMovWords m)
  | _ => 0

/-- A register of spoke k at page offset o (R235). -/
def spkReg (s : State) (k o : Nat) : Word :=
  let x := s.spk k
  if o = 0 then flag (decide (x.state = 5)) 31 ||| flag x.keyed 30 ||| flag x.farValid 29 ||| put32 x.state 24
      ||| put32 x.outcome 16 ||| put32 x.pair 8 ||| put32 (BitVec.ofNat 6 k) 0
  else if o = 4 then put32 x.cred0 16 ||| put32 x.cred1 8 ||| put32 x.cred2 0
  else if o = 8 then put32 x.rxCause 28 ||| put32 x.rxSlice 16 ||| put32 x.rxTick 0
  else if o = 0xC then put32 x.rxSrc 0
  else if o = 0x10 then put32 x.ups 16 ||| put32 x.attempts 0
  else if 0x40 ≤ o ∧ o < 0x64 then
    let n := (o - 0x40) / 4
    if s.confMode ∧ 7 ≤ n then 0 else s.count (cSpk k n)
  else if 0x80 ≤ o ∧ o < 0xC0 then le 32 x.far (o - 0x80) 4
  else 0

/-- The address of the latest uncorrectable word, low or high. -/
def ueReg (a : Option (BitVec 48)) (high : Bool) : Word := match a with
  | none => 0
  | some a => if high then flag true 31 ||| put32 (fld a 32 16) 0 else fld a 0 32

/-- A register of DDR5 channel c at offset o. -/
def ddrReg (s : State) (c o : Nat) : Word :=
  let x := s.ddr c
  match o with
  | 0x00 => flag x.present 31 ||| flag x.trained 30 ||| put32 x.gib 16 ||| put32 x.fail 0
  | 0x04 => s.count (cDdrCe c)
  | 0x08 => s.count (cDdrUe c)
  | 0x0C => s.count (cDdrTag c)
  | 0x10 => ueReg x.ueAddr false
  | 0x14 => ueReg x.ueAddr true
  | 0x18 => x.passes
  | _ => 0

/-- A register of HBM4 site i at offset o. DEDUCED: assumption 95. -/
def hbmReg (s : State) (i o : Nat) : Word :=
  let x := s.hbm i
  match o with
  | 0x00 => flag ((popSites s.boot.variant.toNat).contains i) 31 ||| flag x.trained 30 ||| flag x.hot 29
      ||| put32 (BitVec.ofNat 4 (((popSites s.boot.variant.toNat).findIdx? (fun j => decide (j = i))).getD 0)) 24
      ||| put32 x.lanes 8 ||| put32 x.fail 0
  | 0x04 => s.count (cHbmCe i)
  | 0x08 => s.count (cHbmUe i)
  | 0x0C => ueReg x.ueAddr false
  | 0x10 => ueReg x.ueAddr true
  | 0x14 => x.passes
  | _ => 0

/-- Gatehouse h at offset o of its block. -/
def ghReg (s : State) (h o : Nat) : Word :=
  if 0x40000 ≤ o ∧ o < 0x40200 then movReg s (64 + 8 * h + (o - 0x40000) / 64) (o % 64)
  else if 0x50000 ≤ o ∧ o < 0x50400 then ddrReg s (4 * h + (o - 0x50000) / 256) (o % 256)
  else if o = 0x50800 then
    let all := (List.range 8).all (fun c => (s.ddr c).trained)
    flag all 31 ||| put32 (if all then s.capGib else 0) 0
  else if o = 0x50C00 then s.count (cStage h)
  else if 0x60000 ≤ o ∧ o < 0x61200 then spkReg s (18 * h + (o - 0x60000) / 256) (o % 256)
  else if o = 0x62000 then s.count (cMiss h)
  else if o = 0x63000 then put32 (if h = 0 then s.self.hold0.buf else s.self.hold1.buf) 0
  else if 0x70000 ≤ o ∧ o < 0x70020 then s.count (cTrn h ((o - 0x70000) / 4))
  else 0

/-- The position of site i of a region in its group, where the region is enabled and the site is not its spare. -/
def sitePos (w : Word) (i : Nat) : Option Nat :=
  let on := fun (j : Nat) => bit w j && decide (j ≠ (fld w 17 5).toNat)
  if bit w 31 && on i then some ((List.range i).filter on).length else none

/-- An array issues vectors from the first array cycle of its ISSUE entry on (R153). DEDUCED: assumption 23. -/
def issuing (s : State) (x : Nat) : Bool := (s.arr x).issues.any (fun i => decide ((issueTick x i 0).toNat ≤ s.now.toNat))

/-- The array page of site st of pavilion p at offset o (R72, R78, R109); a disabled site reads 0. -/
def arrReg (s : State) (p st o : Nat) : Word :=
  let g := 4 * p + st / 17
  match sitePos (regionWord s.boot.repair g) (st % 17) with
  | none => 0
  | some q =>
    let x := 16 * g + q
    let a := s.arr x
    let owner := s.groupOwner g
    let al := owner.bind s.allot
    if o = 0 then
      flag true 31 ||| put32 (BitVec.ofNat 4 g) 24 ||| put32 (BitVec.ofNat 4 q) 16
      ||| put32 (match s.arrayOf x with | none => (0 : BitVec 2) | some (_, _, c, _) => c.mode) 12
      ||| flag (match al with | none => false | some y => y.planeBit) 8
      ||| flag a.full1 5 ||| flag a.full0 4 ||| flag a.slot 3 ||| flag (issuing s x) 0
    else if 0x40 ≤ o ∧ o < 0x74 then (if s.confMode then 0 else s.count (cArr x ((o - 0x40) / 4)))
    else 0

/-- The spare of region r of pavilion p, 0x1F where it is disabled or the map is not applied. -/
def spareOf (s : State) (g : Nat) : BitVec 5 := if s.groupExists g then fld (regionWord s.boot.repair g) 17 5 else 0x1F

/-- Pavilion p at offset o of its block. -/
def pavReg (s : State) (p o : Nat) : Word :=
  if o < 0x11000 then arrReg s p (o / 0x400) (o % 0x400)
  else if o = 0x20000 then
    (List.range 4).foldl (fun w r => w ||| flag (s.groupExists (4 * p + r)) r) (put32 (s.bridges.getD p 0) 8)
  else if o = 0x20004 then (List.range 4).foldl (fun w r => w ||| put32 (spareOf s (4 * p + r)) (8 * r)) 0
  else if o = 0x20008 then s.count (cPgl p)
  else if o = 0x2000C then put32 (s.rest p).buf 0
  else if 0x30000 ≤ o ∧ o < 0x300C0 then
    let b := (o - 0x30000) / 4
    let g := 4 * p + b / 12
    flag (s.groupExists g) 31 ||| ownedBy (s.groupOwner g) ||| flag (s.zeroing.contains (48 * p + b)) 8
  else if o = 0x30100 then s.count (cScr p)
  else if 0x40000 ≤ o ∧ o < 0x40400 then movReg s (16 * p + (o - 0x40000) / 64) (o % 64)
  else if 0x50000 ≤ o ∧ o < 0x50300 then hbmReg s (3 * p + (o - 0x50000) / 256) (o % 256)
  else 0

/-! ### Turnstiles, routing, allotment pages -/

/-- A confidential allotment owns the turnstile. -/
def State.trnHidden (s : State) (t : Nat) : Bool := s.hidden ((s.trn t).owner.map (·.toNat))

/-- TRN registers at offset o of their block (R264). -/
def trnReg (s : State) (o : Nat) : Word :=
  if o < 0x20000 then
    let t := s.trn (o / 16)
    match o % 16 with
    | 0 => if s.trnHidden (o / 16) then 0 else t.count
    | 4 => t.target
    | 8 => fld t.deadline 0 32
    | _ => put32 t.st 30 ||| put32 (fld t.deadline 32 24) 0
  else if o < 0x30000 then
    let t := s.trn ((o - 0x20000) / 8)
    if o % 8 = 0 then
      (match t.owner with
        | none => 0
        | some n => flag true 31 ||| put32 (s.sliceOf n.toNat) 16)
      ||| (match t.link with
        | none => 0
        | some k => flag true 30 ||| flag true 14 ||| put32 k 0)
    else match t.miss with
      | none => 0
      | some (pos, src) => flag true 31 ||| put32 pos 24 ||| put32 src 0
  else 0

/-- A dword of a routing entry (Table 8-10). -/
def routeWord (e : Option Route) (high : Bool) : Word := match e with
  | none => 0
  | some r => if high then put32 r.egress 0 else flag r.valid 31 ||| put32 r.slice 16 ||| put32 r.dst 0

/-- RTE registers at offset o of their block. -/
def rteReg (s : State) (o : Nat) : Word :=
  if o = 0 then flag s.rte.pending.isSome 31 ||| flag s.rte.draining 30 ||| flag s.rte.cur 0
  else if o = 4 then (if s.rte.pending.isSome then fld (s.rte.switchLap.getD 0) 0 32 else s.rte.lastLap)
  else if 8 ≤ o ∧ o < 0x18 then
    put32 (BitVec.ofNat 14 ((sget [] s.rte.tables ((o - 8) / 4)).filter (·.valid)).length) 0
  else if 0x10000 ≤ o ∧ o < 0x50000 then
    routeWord ((sget [] s.rte.tables ((o - 0x10000) / 0x10000))[o % 0x10000 / 8]?) (decide (o % 8 = 4))
  else 0

/-- An allotment page at offset o (R308, R316): 0 for every port but its owner. DEDUCED: assumption 95. -/
def pageReg (s : State) (p : Port) (n o : Nat) : Word := match s.page p n with
  | none => 0
  | some a =>
    if o < 0x20 then ringReg s (2 + n) o
    else if o = 0x20 then flag a.winEn 31 ||| put32 a.winBase 0
    else if o = 0x24 then flag true 31 ||| put32 a.slice 16 ||| put32 a.poll.eff 0
    else if o = 0x28 then put32 a.sgrp 16 ||| flag (s.ownsGroup n a.sgrp.toNat) 15 ||| put32 a.poll.buf 0
    else 0

/-- What a read of the dword at a BAR0 offset returns through a port (Table 11-1). HST_IND_DATA, whose read moves the
indirect address, is the command INDIRECT_DATA_ACCESS and reads 0 here. -/
def State.regRead (s : State) (p : Port) (off : Nat) : Word :=
  let o := off / 4 * 4
  if o < 0x1000 then idReg s p o
  else if o < 0x2000 then hstReg s p o
  else if o < 0x3000 then cadReg s o
  else if o < 0x4000 then pwrReg s o
  else if o < 0x40000 then globalReg s o
  else if o < 0x48100 then msixReg (s.port p) o
  else if o < 0x100000 then 0
  else if o < 0x300000 then ghReg s (o / 0x100000 - 1) (o % 0x100000)
  else if o < 0x400000 then 0
  else if o < 0x800000 then pavReg s (o / 0x100000 - 4) (o % 0x100000)
  else if o < 0x840000 then trnReg s (o - 0x800000)
  else if o < 0xA00000 then 0
  else if o < 0xA50000 then rteReg s (o - 0xA00000)
  else if 0x3000000 ≤ o ∧ o < 0x3100000 then pageReg s p ((o - 0x3000000) / 0x10000) (o % 0x10000)
  else 0

end Sys2Proof.Machine
end

