-- ==== Sys2Proof/Machine/Mgmt.lean ====
section
/-! DEFINITION. The management port (R360 to R371): CCCs, MCTP control, PLDM base, sensors, effecters, events and FRU data,
the odometer's update. The firmware update's commands stand in Machine/Update.lean. -/

namespace Sys2Proof.Machine

/-! ### Who answers (R362, R369) -/

/-- A direct CCC that the always-on domain answers, in every state in which VAUX is up: a target without a dynamic address is
not reached. DEDUCED: assumption 97. -/
def aonCcc (f : State → State) (s : State) : State :=
  if s.vaux && s.mgmt.addr.isSome then f s else s.emit .nack

/-- A direct CCC that needs an active warden. DEDUCED: assumption 97. -/
def ccc (f : State → State) (s : State) : State :=
  if s.ctl && s.mgmt.addr.isSome then f s else s.emit .nack

/-- The answer to a CCC. -/
def cccData (b : List Byte) (s : State) : State := s.emit (.ccc b)

/-- A private transfer: NACKed and counted without an address or an active warden (R362, R369). DEDUCED: assumption 97. -/
def transfer (f : State → State) (s : State) : State :=
  if s.ctl && s.mgmt.addr.isSome then f s
  else if s.vaux then { s with mgmt := { s.mgmt with nacks := satAdd s.mgmt.nacks 1 }, out := s.out ++ [.nack] }
  else s

/-! A transfer whose PEC fails is discarded unanswered and changes nothing (R361). SET_ENDPOINT_ID is given as the bytes of its
transfer; the other messages are given by what they say, each of their transfers having come with a right PEC. DESIGN CHOICE:
assumption 123. -/

/-- The PEC of a transfer (R361): the CRC-8 of the binding over the address byte and the bytes. PRESUMED: assumption 60. -/
def pec (addr : BitVec 7) (read : Bool) (b : List Byte) : Byte :=
  ((addr ++ ofBit 1 read) :: b).foldl (fun c x =>
    (List.range 8).foldl (fun c _ => if bit c 7 then (c <<< 1) ^^^ 0x07 else c <<< 1) (c ^^^ x)) 0

/-- The bytes of a private write that arrives, none where its PEC fails (R361). -/
def received (addr : BitVec 7) (b : List Byte) : Option (List Byte) :=
  if b.getLast? = some (pec addr false b.dropLast) then some b.dropLast else none

/-- An assembled message carries at most 4,224 bytes (R361). -/
def fitsMessage (msg : List Byte) : Bool := decide (msg.length ≤ 4224)

/-- The message of a private write of one transfer: without the PEC and the four bytes of the MCTP header, none where the PEC fails or
the message is too long (R361). PRESUMED: assumption 60. -/
def messageOf (addr : BitVec 7) (write : List Byte) : Option (List Byte) :=
  ((received addr write).map (List.drop 4)).filter fitsMessage

/-- The MCTP header of unit i of n that the module sends from its endpoint ID (R361). PRESUMED: assumption 60. -/
def mctpHeader (eid : BitVec 8) (i n : Nat) : List Byte :=
  [0x01, (Config.protocolBytes 0x61 0).headD 0, eid,
   ofBit 1 (decide (i = 0)) ++ ofBit 1 (decide (i + 1 = n)) ++ BitVec.ofNat 2 i ++ (0 : BitVec 4)]

/-- The transfers of a message that the module sends: units of 64 bytes, each behind its MCTP header and with its PEC (R361). -/
def unitsOf (addr : BitVec 7) (eid : BitVec 8) (msg : List Byte) : List (List Byte) :=
  let n := (msg.length + 63) / 64
  (List.range n).map (fun i =>
    let u := mctpHeader eid i n ++ (msg.drop (64 * i)).take 64
    u ++ [pec addr true u])

/-- The bytes of an MCTP control or PLDM response, which a message type byte opens (R361). PRESUMED: assumption 60. -/
def Out.message : Out → Option (List Byte)
  | .mctp cmd cc data => some (0x00 :: cmd :: cc :: data)
  | .pldm type cmd cc data => some (0x01 :: type :: cmd :: cc :: data)
  | _ => none

/-- What is on the bus of the latest output: none unless it is a message of at most 4,224 bytes (R361). -/
def State.onBus (s : State) : Option (List (List Byte)) :=
  ((s.out.getLast?.bind Out.message).filter fitsMessage).bind (fun m =>
    s.mgmt.addr.map (fun a => unitsOf a s.mgmt.eid m))

/-- A PLDM response. PRESUMED: assumption 60. -/
def reply (type cmd cc : Byte) (data : List Byte) (s : State) : State := s.emit (.pldm type cmd cc data)

/-- The commands of a supported type (Tables 13-1 and R404), by their codes. PRESUMED: assumption 60. -/
def pldmCodes (type : Nat) : Option (List Nat) := match type with
  | 0 => some [0x01, 0x02, 0x03, 0x04, 0x05]
  | 2 => some [0x0B, 0x0D, 0x11, 0x21, 0x31, 0x32, 0x39, 0x3A, 0x50, 0x51]
  | 4 => some [0x01, 0x02]
  | 5 => some [0x01, 0x02, 0x10, 0x13, 0x14, 0x15, 0x16, 0x17, 0x18, 0x1A, 0x1B, 0x1C, 0x1D]
  | _ => none

/-- A PLDM request of a type and command: unanswered until an endpoint ID is set (R361); one that Table 13-1 does not list completes
with ERROR_UNSUPPORTED_PLDM_CMD (R363). -/
def pldm (type cmd : Byte) (f : State → State) (s : State) : State :=
  transfer (fun s =>
    if s.mgmt.eid = 0 then s
    else if ((pldmCodes type.toNat).getD []).contains cmd.toNat then f s
    else reply type cmd 0x05 [] s) s

/-- An MCTP control response. PRESUMED: assumption 60. -/
def control (cmd cc : Byte) (data : List Byte) (s : State) : State := s.emit (.mctp cmd cc data)

/-- A queue that holds records is announced, where an IBI can be sent (R367). DEDUCED: assumption 98. -/
def announce (s : State) : State :=
  if s.ctl && s.mgmt.ibiEn && s.mgmt.addr.isSome && !s.mgmt.events.isEmpty then
    { s with mgmt := { s.mgmt with ibiLap := some s.cad.lap }, out := s.out ++ [.ibi 0xAE] }
  else s

/-! ### Laps (R367, R370) -/

/-- ODOMETER_UPDATE (R370): at every 57,220th lap. DEDUCED: assumption 99. -/
def execOdometerUpdate (s : State) : Res :=
  .next (if s.ctl && s.atTick 0 && decide (s.cad.lap.toNat % 57220 = 0) then updateOdo s.lodge.prk s else s)

/-- IBI_REPEAT (R367): 1,024 laps after the last IBI. DEDUCED: assumption 98. -/
def execIbiRepeat (s : State) : Res :=
  .next (if s.timed && (match s.mgmt.ibiLap with
      | none => true
      | some l => decide (l.toNat + 1024 ≤ s.cad.lap.toNat)) then announce s else s)

/-! ### Addresses (R360, R369) -/

/-- The dynamic address, the endpoint ID and the terminus ID are dropped. DEDUCED: assumption 97. -/
def dropAddress (s : State) : State := { s with mgmt := { s.mgmt with addr := none, eid := 0, tid := 0, ibiLap := none } }

/-- I3C_TARGET_RESET (R369). -/
def execI3cTargetReset (s : State) : Res := .next (if s.vaux then dropAddress s else s)

/-- RSTDAA (R369). -/
def execRstdaa (s : State) : Res := .next (if s.vaux then dropAddress s else s)

/-- ENTDAA (R360, R369): a target without a dynamic address takes one. DEDUCED: assumption 98. -/
def execEntdaa (addr : BitVec 7) (s : State) : Res :=
  .next (if s.vaux && s.mgmt.addr.isNone then announce { s with mgmt := { s.mgmt with addr := some addr } } else s)

/-! ### CCCs (R360 to R362) -/

/-- The provisioned ID (R360). -/
def provisionedId (slot : BitVec 2) : BitVec 48 :=
  (0x0B3A : BitVec 15) ++ (0 : BitVec 1) ++ (0x4834 : BitVec 16) ++ (0 : BitVec 2) ++ slot ++ (0 : BitVec 12)

/-- GETPID (R360). -/
def execGetpid (s : State) : Res := .next (ccc (cccData (beBytes 6 (provisionedId s.boot.slot).toNat)) s)

/-- GETBCR (R360). -/
def execGetbcr (s : State) : Res := .next (ccc (cccData [0x06]) s)

/-- GETDCR (R360). -/
def execGetdcr (s : State) : Res := .next (ccc (cccData [0x00]) s)

/-- GETSTATUS (R362): two bytes that the I3C specification defines. -/
def execGetstatus (s : State) : Res := .next (aonCcc (cccData (fit 2 (Config.protocolBytes 0x90 0))) s)

/-- GETMWL (R361). -/
def execGetmwl (s : State) : Res := .next (ccc (cccData (beBytes 2 s.mgmt.mwl.toNat)) s)

/-- GETMRL (R361), with the byte that the I3C specification adds for a target that sends IBI data. -/
def execGetmrl (s : State) : Res :=
  .next (ccc (cccData (beBytes 2 s.mgmt.mrl.toNat ++ fit 1 (Config.protocolBytes 0x8C 2))) s)

/-- SETMWL (R361): values up to 256 are accepted. DEDUCED: assumption 99. -/
def execSetmwl (n : BitVec 16) (s : State) : Res :=
  .next (ccc (fun s => if n.toNat ≤ 256 then { s with mgmt := { s.mgmt with mwl := n } } else s) s)

/-- SETMRL (R361): values up to 256 are accepted. DEDUCED: assumption 99. -/
def execSetmrl (n : BitVec 16) (s : State) : Res :=
  .next (ccc (fun s => if n.toNat ≤ 256 then { s with mgmt := { s.mgmt with mrl := n } } else s) s)

/-- ENEC (R360): IBIs are enabled. DEDUCED: assumption 98. -/
def execEnec (s : State) : Res := .next (if s.ctl then announce { s with mgmt := { s.mgmt with ibiEn := true } } else s)

/-- DISEC (R360): IBIs are disabled. -/
def execDisec (s : State) : Res := .next (if s.ctl then { s with mgmt := { s.mgmt with ibiEn := false } } else s)

/-- The 16 bytes of GETMODSTAT (R362). -/
def modStat (s : State) : List Byte :=
  bytesOf 7 s.now ++ [s.boot.step.setWidth 8,
    (0 : BitVec 2) ++ ofBit 1 s.confMode ++ ofBit 1 s.pwr.lapsed ++ ofBit 1 s.lodge.pairLost ++ ofBit 1 s.frc.saved ++
      ofBit 1 s.thm.trip ++ ofBit 1 (alertLow s),
    (0 : BitVec 5) ++ ofBit 1 s.lodge.actLodge ++ ofBit 1 s.lodge.actPower ++ ofBit 1 s.lodge.actWarden]
  ++ List.replicate 6 0

/-- GETMODSTAT (R362). -/
def execGetmodstat (s : State) : Res := .next (aonCcc (cccData (modStat s)) s)

/-- MODRESET (R362): 0xB0 then 0x07; anything else is NACKed. -/
def execModreset (data : List Byte) (s : State) : Res :=
  .next (aonCcc (fun s => if data = [0xB0, 0x07] then moduleReset s else s.emit .nack) s)

/-! ### MCTP control (R361); command codes and completion codes are the binding's (DSP0236) -/

/-- The operation and the endpoint ID of a Set Endpoint ID request, where a message is one. PRESUMED: assumption 60. -/
def eidRequest (msg : List Byte) : Option (BitVec 2 × BitVec 8) :=
  if byteAt msg 0 = 0x00 ∧ byteAt msg 2 = 0x01 ∧ msg.length = 5 then some (fld (byteAt msg 3) 0 2, byteAt msg 4) else none

/-- SET_ENDPOINT_ID (R361), as the bytes of its transfer: one whose PEC fails is discarded unanswered. 0 and 255 name no endpoint.
DEDUCED: assumption 99. -/
def execSetEndpointId (write : List Byte) (s : State) : Res :=
  .next (transfer (fun s => match (messageOf (s.mgmt.addr.getD 0) write).bind eidRequest with
    | none => s
    | some (op, eid) =>
      if 1 < op.toNat ∨ eid = 0 ∨ eid = 255 then control 0x01 0x02 [] s
      else control 0x01 0 [eid] { s with mgmt := { s.mgmt with eid := eid } }) s)

/-- GET_ENDPOINT_ID (R361). -/
def execGetEndpointId (s : State) : Res := .next (transfer (fun s => control 0x02 0 [s.mgmt.eid] s) s)

/-- GET_MCTP_VERSION_SUPPORT (R361): one version, 1.3, in the specification's coding. PRESUMED: assumption 60. -/
def execGetMctpVersionSupport (s : State) : Res := .next (transfer (control 0x04 0 [1, 0xF1, 0xF3, 0xFF, 0x00]) s)

/-- GET_MESSAGE_TYPE_SUPPORT (R361): control and PLDM. -/
def execGetMessageTypeSupport (s : State) : Res := .next (transfer (control 0x05 0 [0x00, 0x01]) s)

/-! ### PLDM base (R363); command codes are those of the specifications that Table 13-1 names -/

/-- GET_TID (R363). -/
def execGetTid (s : State) : Res := .next (pldm 0 0x02 (fun s => reply 0 0x02 0 [s.mgmt.tid] s) s)

/-- SET_TID (R363): 0 and 255 are no terminus IDs. DEDUCED: assumption 99. -/
def execSetTid (tid : BitVec 8) (s : State) : Res :=
  .next (pldm 0 0x01 (fun s =>
    if tid = 0 ∨ tid = 255 then reply 0 0x01 0x02 [] s
    else reply 0 0x01 0 [] { s with mgmt := { s.mgmt with tid := tid } }) s)

/-- GET_PLDM_VERSION (R363): the version of a supported type, in the specification's coding; and a request that is no row of the table,
which completes with ERROR_UNSUPPORTED_PLDM_CMD where Table 13-1 does not list it. -/
def execGetPldmVersion (query : PldmQuery) (s : State) : Res :=
  .next (match query with
    | .version type =>
      pldm 0 0x03 (fun s => if (pldmCodes type.toNat).isSome then reply 0 0x03 0 (Config.protocolBytes 0x0300 type.toNat) s
        else reply 0 0x03 0x83 [] s) s
    | .other type cmd => pldm type cmd id s)

/-- GET_PLDM_TYPES (R363): types 0, 2, 4 and 5. -/
def execGetPldmTypes (s : State) : Res := .next (pldm 0 0x04 (reply 0 0x04 0 (bytesOf 8 (maskOf 64 [0, 2, 4, 5]))) s)

/-- GET_PLDM_COMMANDS (R363): the commands of a type, one bit each. -/
def execGetPldmCommands (type : BitVec 8) (s : State) : Res :=
  .next (pldm 0 0x05 (fun s => match pldmCodes type.toNat with
    | some l => reply 0 0x05 0 (bytesOf 32 (maskOf 256 l)) s
    | none => reply 0 0x05 0x83 [] s) s)

/-! ### Sensors (R364, Table 13-2) -/

/-- A numeric sensor: none where it does not exist, and within it none where it is unavailable. -/
def State.sensor (s : State) (id : Nat) : Option (Option Rat) :=
  if id = 1 then some (some (s.pwr.vinL / 10))
  else if id = 2 then some (some (s.coarse 50 s.pwr.powerL))
  else if id = 3 then some (some (s.coarse 50 s.pwr.estL))
  else if 4 ≤ id ∧ id ≤ 7 then
    some (if s.confMode then none else some (s.pwr.vcoreL.getD (id - 4) 0 * s.pwr.icoreL.getD (id - 4) 0 / 1000000))
  else if 8 ≤ id ∧ id ≤ 11 then some (some (s.coarse 5000 (s.thm.tgovL.getD (id - 8) 0) / 1000))
  else if 12 ≤ id ∧ id ≤ 23 then
    match (popSites s.boot.variant.toNat)[id - 12]? with
    | none => none
    | some site => some (some (s.coarse 5000 (s.thm.stackL.getD site 0) / 1000))
  else if id = 24 then some (some (s.thm.tInL / 250))
  else if id = 25 then some (some (s.coarse 1000 s.thm.tOutL / 250))
  else if id = 26 then some (some s.thm.flowL)
  else if id = 27 then some (some s.thm.rawL)
  else none

/-- The states of a state sensor: gear, permitted gear, decided gear and ceiling; the causes of HST_EVT. -/
def State.stateSensor (s : State) (id : Nat) : Option (List Byte) :=
  if id = 28 then some [s.gear.gear.setWidth 8, s.pwr.permitted.setWidth 8, s.gear.decided.setWidth 8, leBytes 1 s.ceiling |>.getD 0 0]
  else if id = 29 then some ((List.range 8).map (fun i => ofBit 8 (bit (evtBits s) i)))
  else none

/-- The effecters of Table 13-3. -/
def numericEffecters : List Nat := [1, 2, 4, 5]
def stateEffecters : List Nat := [3, 6, 7]

/-- GET_PDR_REPOSITORY_INFO (R363). -/
def execGetPdrRepositoryInfo (s : State) : Res := .next (pldm 2 0x50 (reply 2 0x50 0 (Config.protocolBytes 2 0x50)) s)

/-- A record of the PDR repository exists: one for each sensor and each effecter, numbered by its ID, the effecters from 64.
PRESUMED: assumption 100. -/
def State.pdrExists (s : State) (h : Nat) : Bool :=
  (s.sensor h).isSome || (s.stateSensor h).isSome
  || (decide (64 ≤ h) && (numericEffecters ++ stateEffecters).contains (h - 64))

/-- The quantity a numeric sensor reads (Table 13-2): 1 V, 2 W, 3 °C, 4 L/min, and its resolution in hundredths of the unit.
PRESUMED: assumption 100. -/
def sensorUnit (id : Nat) : Byte × Nat :=
  if id = 1 then (1, 1)
  else if id ≤ 7 then (2, 100)
  else if id ≤ 23 then (3, 100)
  else if id ≤ 25 then (3, 25)
  else (4, 1)

/-- The range of an effecter (Table 13-3). -/
def effecterRange (id : Nat) : Nat × Nat := match id with
  | 1 | 5 => (420, 4200)
  | 2 => (1, 5)
  | 4 => (954, 65535)
  | 6 => (0, 1)
  | _ => (1, 1)

/-- What a PDR says of a sensor or effecter (R364, Tables 13-2 and 13-3): its ID, and the unit and resolution of a numeric sensor, the
composite states and the states of a state sensor with their greatest value, or the range of an effecter. PRESUMED: assumption
100. -/
def pdrData (h : Nat) : List Byte :=
  if 64 ≤ h then
    let (lo, hi) := effecterRange (h - 64)
    leBytes 2 (h - 64) ++ leBytes 2 lo ++ leBytes 2 hi ++ (if h = 65 then leBytes 2 65535 else [])
  else if h = 28 then leBytes 2 28 ++ [4, 0, 5]
  else if h = 29 then leBytes 2 29 ++ [8, 0, 1]
  else
    let (u, r) := sensorUnit h
    leBytes 2 h ++ [u] ++ leBytes 2 r

/-- GET_PDR (R364): record 0 is the first one. The rest of a record is the specification's. PRESUMED: assumption 100. -/
def execGetPdr (handle : BitVec 32) (s : State) : Res :=
  .next (pldm 2 0x51 (fun s =>
    let h := if handle = 0 then 1 else handle.toNat
    if s.pdrExists h then reply 2 0x51 0 (pdrData h ++ Config.protocolBytes 0x0251 h) s
    else reply 2 0x51 0x82 [] s) s)

/-- GET_SENSOR_READING (R364): the operational state, 0 enabled or 2 unavailable, and the reading in the sensor's unit.
PRESUMED: assumption 100. -/
def execGetSensorReading (id : BitVec 16) (s : State) : Res :=
  .next (pldm 2 0x11 (fun s => match s.sensor id.toNat with
    | none => reply 2 0x11 0x80 [] s
    | some none => reply 2 0x11 0 [2] s
    | some (some x) => reply 2 0x11 0 (0 :: leBytes 4 (toUnits x)) s) s)

/-- GET_STATE_SENSOR_READINGS (R364). -/
def execGetStateSensorReadings (id : BitVec 16) (s : State) : Res :=
  .next (pldm 2 0x21 (fun s => match s.stateSensor id.toNat with
    | none => reply 2 0x21 0x80 [] s
    | some l => reply 2 0x21 0 l s) s)

/-! ### Effecters (R365, Table 13-3) -/

/-- The value of a numeric effecter. -/
def State.effecter (s : State) (id : Nat) : Option (BitVec 16) := match id with
  | 1 => some s.pwr.trayCap
  | 2 => some (s.pwr.trayGear.setWidth 16)
  | 4 => some s.pwr.leaseLaps
  | 5 => some s.pwr.lapseCap
  | _ => none

/-- GET_NUMERIC_EFFECTER_VALUE (R365). -/
def execGetNumericEffecterValue (id : BitVec 16) (s : State) : Res :=
  .next (pldm 2 0x32 (fun s => match s.effecter id.toNat with
    | none => reply 2 0x32 0x80 [] s
    | some v => reply 2 0x32 0 (bytesOf 2 v) s) s)

/-- GET_STATE_EFFECTER_STATES (R365): CONF_ALWAYS; the renewal and the reset hold no state that the spec gives. -/
def execGetStateEffecterStates (id : BitVec 16) (s : State) : Res :=
  .next (pldm 2 0x3A (fun s =>
    if id = 6 then reply 2 0x3A 0 [ofBit 8 s.flash.confAlways] s
    else if stateEffecters.contains id.toNat then reply 2 0x3A 0 (Config.protocolBytes 0x023A id.toNat) s
    else reply 2 0x3A 0x80 [] s) s)

/-- A value out of range changes nothing and completes with ERROR_INVALID_DATA; a value in range has its effect. -/
def setEffecter (cmd : Byte) (ok : Bool) (f : State → State) (s : State) : State :=
  pldm 2 cmd (fun s => if ok then f s else reply 2 cmd 0x02 [] s) s

/-- TRAY_CAP (R365): the tray cap, and the lease renewed (R276). -/
def execTrayCap (v : BitVec 16) (s : State) : Res :=
  .next (setEffecter 0x31 (capOk v) (fun s =>
    reply 2 0x31 0 [] (renewLease { s with pwr := { s.pwr with trayCap := v } })) s)

/-- TRAY_GEAR_MAX (R365). -/
def execTrayGearMax (v : BitVec 16) (s : State) : Res :=
  .next (setEffecter 0x31 (decide (1 ≤ v.toNat) && decide (v.toNat ≤ 5)) (fun s =>
    reply 2 0x31 0 [] (recompute { s with pwr := { s.pwr with trayGear := v.setWidth 3 } })) s)

/-- LEASE_RENEWAL (R276, R365). -/
def execLeaseRenewal (st : BitVec 8) (s : State) : Res :=
  .next (setEffecter 0x39 (decide (st = 1)) (fun s => reply 2 0x39 0 [] (renewLease s)) s)

/-- A setting's flash record begins; its effect and the response follow at the commit. DEDUCED: assumption 101. -/
def queueSetting (id : BitVec 8) (v : BitVec 16) (s : State) : State :=
  { s with mgmt := { s.mgmt with setting := s.mgmt.setting ++ [(id, v)] } }

/-- LEASE_LAPS (R365). -/
def execLeaseLaps (v : BitVec 16) (s : State) : Res :=
  .next (setEffecter 0x31 (decide (954 ≤ v.toNat)) (queueSetting 4 v) s)

/-- LAPSE_CAP (R365). -/
def execLapseCap (v : BitVec 16) (s : State) : Res :=
  .next (setEffecter 0x31 (decide (420 ≤ v.toNat) && decide (v.toNat ≤ 4200)) (queueSetting 5 v) s)

/-- CONF_ALWAYS (R353, R365). -/
def execConfAlways (v : BitVec 8) (s : State) : Res :=
  .next (setEffecter 0x39 (decide (v.toNat ≤ 1)) (queueSetting 6 (v.setWidth 16)) s)

/-- The settings record in flash is written, with its HMAC (R335). -/
def writeSettings (f : Flash → Flash) (s : State) : State := { s with flash := (f s.flash).sealSettings s.lodge.prk }

/-- A committed setting takes effect: the lapse cap enters the effective cap at once where the lease has lapsed. DEDUCED:
assumption 101. -/
def applySetting (id : BitVec 8) (v : BitVec 16) (s : State) : State :=
  if id = 4 then
    let s := writeSettings (fun f => { f with leaseLaps := v }) s
    { s with pwr := { s.pwr with leaseLaps := v } }
  else if id = 5 then
    let s := writeSettings (fun f => { f with lapseCap := v }) s
    let s := { s with pwr := { s.pwr with lapseCap := v } }
    if s.pwr.lapsed then recompute s else s
  else writeSettings (fun f => { f with confAlways := decide (v = 1) }) s

/-- SETTING_RECORD_COMMIT (R365): the oldest record commits and the effecter's response is sent. DEDUCED: assumption 101. -/
def execSettingRecordCommit (s : State) : Res :=
  .next (match s.mgmt.setting with
    | [] => s
    | (id, v) :: rest =>
      if s.ctl then
        reply 2 (if id = 6 then 0x39 else 0x31) 0 [] (applySetting id v { s with mgmt := { s.mgmt with setting := rest } })
      else s)

/-- MODULE_RESET_EFFECTER (R365): the response, then the module reset. -/
def execModuleResetEffecter (st : BitVec 8) (s : State) : Res :=
  .next (setEffecter 0x39 (decide (st = 1)) (fun s => moduleReset (reply 2 0x39 0 [] s)) s)

/-! ### Events (R366 to R368) -/

/-- The record that an earlier poll returned leaves the queue when a later one acknowledges it. -/
def acknowledge (ack : Option (BitVec 32)) (m : Mgmt) : Mgmt := match m.events, ack with
  | e :: rest, some n => if n = e.seq ∧ m.polled = some n then { m with events := rest, polled := none } else m
  | _, _ => m

/-- POLL_FOR_PLATFORM_EVENT_MESSAGE (R367): the oldest record, as an OEM event of class 0xFA; no data where the queue is
empty. PRESUMED: assumption 100. -/
def execPollForPlatformEventMessage (ack : Option (BitVec 32)) (s : State) : Res :=
  .next (pldm 2 0x0B (fun s =>
    let m := acknowledge ack s.mgmt
    match m.events with
    | [] => reply 2 0x0B 0 [] { s with mgmt := m }
    | e :: _ => reply 2 0x0B 0 (0xFA :: eventBytes e) { s with mgmt := { m with polled := some e.seq } }) s)

/-- EVENT_MESSAGE_BUFFER_SIZE (R363). -/
def execEventMessageBufferSize (n : BitVec 16) (s : State) : Res :=
  .next (pldm 2 0x0D (fun s => reply 2 0x0D 0 (Config.protocolBytes 2 0x0D) { s with mgmt := { s.mgmt with bufSize := n } }) s)

/-! ### FRU data (R371) -/

/-- GET_FRU_RECORD_TABLE_METADATA (R371). -/
def execGetFruRecordTableMetadata (s : State) : Res := .next (pldm 4 0x01 (reply 4 0x01 0 (Config.protocolBytes 4 0x01)) s)

/-- The FRU fields, without the type and length bytes of the specification, and the inventory record. PRESUMED: assumption
100. -/
def State.fruTable (s : State) : List Byte :=
  label "Solansen" ++ label "Holulo H4" ++ partNumber s.boot.variant ++ bytesOf 16 Config.unitSerial ++
  bytesOf 4 Config.unitMfgDay ++ bytesOf 8 s.boot.fwset ++ s.inventory

/-- GET_FRU_RECORD_TABLE (R371). -/
def execGetFruRecordTable (s : State) : Res := .next (pldm 4 0x02 (fun s => reply 4 0x02 0 s.fruTable s) s)

end Sys2Proof.Machine
end

