-- ==== Sys2Proof/Machine/Update.lean ====
section
/-! DEFINITION. The firmware update (R396 to R407): the header check, pieces, verification, arming, and the PLDM type 5
commands. What a lap boundary and the boot steps make of an activation stands in Machine/Lap.lean and Machine/Boot.lean. -/

namespace Sys2Proof.Machine

/-- A change to the update region. -/
def modUpd (f : Upd → Upd) (s : State) : State := { s with upd := f s.upd }

/-- An UPDATE event (R366). -/
def updateEvent (s : State) : State := queueEvent 0x000A 0 0 0 s

/-! ### The header check (R398, R399, Tables 15-2 to 15-4) -/

/-- Piece i as it was accepted; absent pieces read as nothing. -/
def Upd.held (u : Upd) (i : Nat) : List Byte := (sfind u.present i).getD []

/-- RESULT of the header check of pieces 0 to 5: the first failing row of Table 15-4, or HDR_OK. DEDUCED: assumption 104. -/
def headerResult (h sig : List Byte) (s : State) : BitVec 4 :=
  let b := bundleOf h
  if !headerOk h sig then 0x2
  else if le 16 h 6 2 ≠ 0x4834 ∨ bit (byteAt h 8) s.boot.variant.toNat = false then 0x3
  else if le 64 h 0x10 8 ≠ 0 ∧ le 64 h 0x10 8 ≠ s.boot.uniqueId then 0x4
  else if verifyPair (Config.solansenKey 0) h (pairOf sig) = false then 0x5
  else if b.svn.toNat < (s.flash.floorIn s.lodge.prk).toNat ∨ b.svn.toNat < b.svnFloor.toNat then 0x6
  else if b.fwset = s.boot.fwset then 0x7
  else 0x1

/-- The bank that S2 did not boot, and a change to it. -/
def State.spare (s : State) : Bank := s.flash.bank (!s.boot.bank)
def modSpare (f : Bank → Bank) (s : State) : State := { s with flash := s.flash.modBank (!s.boot.bank) f }

/-- A session opens for the six pieces: the inactive bank is marked invalid (R399), and they are written to its first sector.
DEDUCED: assumption 103. -/
def openUpd (tray : Bool) (head : List (List Byte)) (s : State) : State :=
  let s := modUpd (fun u => { u with
    result := 0x1, state := 1, path := tray, bank := !s.boot.bank, bundle := some (bundleOf (head.headD [])), head := head, verifyFails := 0,
    tableOk := false, erased := [0] }) s
  modSpare (fun b => (head.zipIdx).foldl (fun b e => b.program e.2 e.1) { b.erase 0 with valid := false }) s

/-- Pieces 0 to 5 are held: they are checked, and a session opens or they are discarded (R399). -/
def headerCheck (tray : Bool) (s : State) : State :=
  let head := (List.range 6).map s.upd.held
  let r := headerResult (head.headD []) head.tail.flatten s
  updateEvent (if r = 0x1 then openUpd tray head s
    else modUpd (fun u => { u with result := r, present := [], started := [] }) s)

/-! ### Pieces (R400 to R402) -/

/-- Every table piece of a bundle is held. -/
def Upd.tableHeld (u : Upd) (b : Bundle) : Bool := (List.range b.table).all (fun i => (sfind u.present (6 + i)).isSome)

/-- The table entry of a body piece. -/
def Upd.entry (u : Upd) (i : Nat) : List Byte := bytesAt (u.held (6 + i / 128)) (32 * (i % 128)) 32

/-- A piece matches its table entry. -/
def Upd.fits (u : Upd) (i : Nat) (b : List Byte) : Bool :=
  decide ((digestBytes (sha384 b)).take 32 = u.entry i)

/-- A piece of the number is being taken. -/
def Upd.taking (u : Upd) (i : Nat) : Bool := u.busy.any (fun e => decide (e.1 = i))

/-- What a piece comes to while no activation is armed, in the codes of UPD_PIECE_CTL.LAST. DEDUCED: assumption 102. -/
def openCode (u : Upd) (i : Nat) (b : List Byte) : BitVec 4 :=
  let once : BitVec 4 := if u.taking i then 1 else 0
  match u.bundle with
  | none => if i < 6 then (if sfind u.present i = some b then 1 else once) else 2
  | some x =>
    if i < 6 then (if u.head.getD i [] = b then (if (sfind u.present i).isSome then 1 else once) else 5)
    else if x.pieces ≤ i then 4
    else if (sfind u.present i).isSome then 1
    else if i < 6 + x.table then once
    else if !(u.tableOk && u.tableHeld x) then 2
    else if u.fits i b then once else 3

/-- What a piece that reaches the module comes to: while an activation is armed a piece that is no duplicate is new, and BUSY (R400,
R406). DEDUCED: assumption 102. -/
def pieceCode (u : Upd) (i : Nat) (b : List Byte) : BitVec 4 :=
  if u.armed.isSome && decide (openCode u i b ≠ 1) then 5 else openCode u i b

/-- The same piece came by the tray path in this very tick and is being taken (R402). -/
def tied (i : Nat) (now : Time) (e : Nat × List Byte × Bool × Time) : Bool :=
  decide (e.1 = i) && e.2.2.1 && decide (e.2.2.2 = now)

/-- The first of the pieces that wait is the one being programmed: its sector is erased where that has not been done since the
session opened, and its started bit is programmed (R402). -/
def beginPiece (s : State) : State := match s.upd.busy with
  | [] => s
  | e :: _ =>
    let i := e.1
    let s := if s.upd.bundle.isSome && !s.upd.erased.contains (i / 16) then
        modSpare (Bank.erase i) (modUpd (fun u => { u with erased := u.erased ++ [i / 16] }) s)
      else s
    modUpd (fun u => { u with started := if u.started.contains i then u.started else u.started ++ [i] }) s

/-- A refused piece changes the session in nothing but what shows it: a digest that fails is counted (R401), and BUSY is the latest
RESULT, on either path (R400, R406). DEDUCED: assumption 102. -/
def noteRefusal (c : BitVec 4) (u : Upd) : Upd :=
  if c = 3 then { u with verifyFails := satAdd u.verifyFails 1 } else if c = 5 then { u with result := 0x8 } else u

/-- A piece from one of the two paths, and its code: an accepted one waits for its turn at the flash. Of the same piece from both paths
in one tick the host's is accepted, and the tray's is the duplicate (R402). DEDUCED: assumption 102. -/
def takePiece (tray : Bool) (i : Nat) (b : List Byte) (s : State) : State × BitVec 4 :=
  let tie := !tray && s.upd.busy.any (tied i s.now)
  let u := if tie then { s.upd with busy := s.upd.busy.filter (fun e => !tied i s.now e) } else s.upd
  let c := pieceCode u i b
  if c = 0 then
    let e := (i, b, tray, s.now)
    (beginPiece (modUpd (fun u => { u with
      busy := if tie then u.busy.map (fun x => if tied i s.now x then e else x) else u.busy ++ [e] }) s), 0)
  else (modUpd (noteRefusal c) s, c)

/-- The pieces of the sector of a piece lose their bits (R402, R403). -/
def clearSector (i : Nat) (u : Upd) : Upd :=
  { u with present := u.present.filter (fun e => !decide (e.1 / 16 = i / 16)),
           started := u.started.filter (fun j => !decide (j / 16 = i / 16)) }

/-- The table is complete where its digest is the header's; otherwise its pieces are discarded (R401). -/
def tableCheck (b : Bundle) (s : State) : State :=
  let bytes := (List.range b.table).flatMap (fun i => s.upd.held (6 + i))
  if digestBytes (sha384 bytes) = b.digest then modUpd (fun u => { u with tableOk := true }) s
  else
    let tab := fun (i : Nat) => decide (6 ≤ i) && decide (i < 6 + b.table)
    modUpd (fun u => { u with tableOk := false, present := u.present.filter (fun e => !tab e.1),
                              started := u.started.filter (fun i => !tab i) }) s

/-- What a piece that is present brings about: the header check, the table check, or the verification. -/
def afterPiece (tray : Bool) (i : Nat) (s : State) : State := match s.upd.bundle with
  | none => if [0, 1, 2, 3, 4, 5].all (fun j => (sfind s.upd.present j).isSome) then headerCheck tray s else s
  | some b =>
    let s := if decide (6 ≤ i) && decide (i < 6 + b.table) && s.upd.tableHeld b then tableCheck b s else s
    if s.upd.next.isNone then modUpd (fun u => { u with state := 2 }) s else s

/-! ### The tray's transfer (R404) -/

/-- The next piece the module asks the agent for: the lowest missing one. -/
def Upd.wanted (u : Upd) : Option Nat := match u.bundle with
  | none => [0, 1, 2, 3, 4, 5].find? (fun i => (sfind u.present i).isNone)
  | some _ => u.next

/-- VerifyComplete and ApplyComplete of a verified bundle. -/
def reportVerified (s : State) : State := (s.emit (.fwReport 0x17 0)).emit (.fwReport 0x18 0)

/-- While the transfer runs, the module asks for the next missing piece, or reports that the last one is in, and of a session that is
VERIFIED already what follows. -/
def askNext (s : State) : State :=
  if s.mgmt.updXfer then
    match s.upd.wanted with
    | some i => s.emit (.fwRequest (BitVec.ofNat 32 (4096 * i)) 4096)
    | none =>
      let s := ({ s with mgmt := { s.mgmt with updXfer := false } }).emit (.fwReport 0x16 0)
      if s.upd.state = 3 then reportVerified s else s
  else s

/-- A header that fails ends the transfer with its result. DEDUCED: assumption 104. -/
def askAfter (hadBundle : Bool) (s : State) : State :=
  if s.mgmt.updXfer && !hadBundle && s.upd.bundle.isNone && s.upd.present.isEmpty then
    ({ s with mgmt := { s.mgmt with updXfer := false } }).emit (.fwReport 0x16 (s.upd.result.setWidth 8))
  else askNext s

/-- The read-back of a piece is right: it matches its table entry, or for a piece that has none what was accepted. DEDUCED:
assumption 103. -/
def Upd.readsBack (u : Upd) (i : Nat) (b read : List Byte) : Bool := match u.bundle with
  | none => decide (read = b)
  | some x => if i < 6 + x.table then decide (read = b) else u.fits i read

/-- PIECE_PROGRAM_DONE (R402): the piece is programmed, and the flash then reads back as given, none where as it was written. A piece
that reads back right is present; one that does not stays started. The next one begins. DEDUCED: assumption 103. -/
def execPieceProgramDone (readBack : Option (List Byte)) (s : State) : Res :=
  .next (match s.upd.busy with
    | [] => s
    | (i, b, tray, _) :: rest =>
      if s.ctl then
        let had := s.upd.bundle.isSome
        let read := readBack.getD b
        let s := if had then modSpare (Bank.program i read) s else s
        let good := s.upd.readsBack i b read
        let s := modUpd (fun u => { u with busy := rest }) s
        beginPiece (if good then
          askAfter had (afterPiece tray i (modUpd (fun u => { u with present := sset u.present i b }) s))
        else askNext (modUpd (fun u => { u with last := if tray then u.last else 3 }) s))
      else s)

/-! ### Verification (R403) -/

/-- The session ends: no bundle, no pieces. -/
def closeUpd (result : BitVec 4) (s : State) : State :=
  modUpd (fun u => { u with state := 0, result := result, bundle := none, present := [], started := [], tableOk := false,
                            busy := [] }) s

/-- Piece i of the bank is what the session's bundle has there (R403): its table entry, and for the pieces that have none what was
accepted. DEDUCED: assumption 105. -/
def bankPieceOk (u : Upd) (k : Bank) (b : Bundle) (i : Nat) : Bool :=
  if i < 6 + b.table then decide (k.piece i = u.held i) else u.fits i (k.piece i)

/-- Every component of the bank has its manifest DIGEST. -/
def bankComponentsOk (h : List Byte) (k : Bank) : Bool :=
  (List.range (componentCount h)).all (fun i =>
    let c := componentPieces h i
    let bytes := (((List.range c.2).map (fun j => k.piece (c.1 + j))).flatten).take (componentAt h i).2
    decide (digestBytes (sha384 bytes) = bytesAt h (0x110 + 64 * i) 48))

/-- The sector of a piece is erased, and the bits of its pieces are cleared (R402, R403). -/
def dropSector (i : Nat) (s : State) : State :=
  modUpd (clearSector i) (modSpare (Bank.erase i) s)

/-- BUNDLE_VERIFY_DONE (R403): the read-back of the whole bundle, in which the pieces given read otherwise than they were programmed,
with the reports to the agent. DEDUCED: assumption 105. -/
def execBundleVerifyDone (changed : List (BitVec 15 × List Byte)) (s : State) : Res :=
  .next (match s.upd.bundle with
    | none => s
    | some b =>
      if s.ctl && decide (s.upd.state = 2) then
        let report := fun (f : State → State) (s : State) => if s.mgmt.updMode then f s else s
        let failed := report (fun s => s.emit (.fwReport 0x17 0x0A))
        let s := modSpare (fun k => changed.foldl (fun k e => k.program e.1.toNat e.2) k) s
        let bad := (List.range b.pieces).filter (fun i => !bankPieceOk s.upd s.spare b i)
        if !bad.isEmpty then
          failed (bad.foldl (fun s i => dropSector i s) (modUpd (fun u =>
            { u with state := 1, result := 0xA, verifyFails := satAdd u.verifyFails bad.length }) s))
        else if bankComponentsOk (s.upd.head.headD []) s.spare then
          report reportVerified (modSpare (fun k => { k with valid := true }) (modUpd (fun u => { u with state := 3, result := 0x9 }) s))
        else failed (closeUpd 0xA s)
      else s)

/-! ### The host path (R405, R406) -/

/-- The piece window as bytes. -/
def Upd.windowBytes (u : Upd) : List Byte := (List.range 1024).flatMap (fun i => bytesOf 4 (sget 0 u.window i))

/-- GO: the window is submitted as a piece, while the wardens run. DEDUCED: assumption 105. -/
def submitWindow (piece : BitVec 15) (s : State) : State :=
  if s.upd.hostBusy || !s.fwUp then s
  else
    let (s, c) := takePiece false piece.toNat s.upd.windowBytes s
    modUpd (fun u => { u with last := c }) s

/-- PIECE_SUBMIT (R405). -/
def execPieceSubmit (p : Port) (piece : BitVec 15) (s : State) : Res := .next (stewardWrite p (fun s => submitWindow piece (modUpd (fun u => { u with piece := piece }) s)) s)

/-- The arm of UPD_ACT_CTL is refused (R406). -/
def armBad (l : BitVec 40) (s : State) : Bool :=
  s.upd.bundle.isNone || !s.cad.synced || decide (l.toNat < s.cad.lap.toNat + 2)

/-- A write of ARM = 1 (R406). DEDUCED: assumption 105. -/
def armUpd (s : State) : State :=
  let l : BitVec 40 := s.upd.actHi ++ s.upd.actLo
  if armBad l s then modUpd (fun u => { u with armRefused := true }) s
  else modUpd (fun u => { u with armRefused := false, armed := some l }) s

/-- UPD_ARM (R406). -/
def execUpdArm (p : Port) (s : State) : Res := .next (stewardWrite p armUpd s)

/-- CANCEL from either path: the session ends and the activation is disarmed (R400, R406). -/
def cancelUpd (s : State) : State := modUpd (fun u => { u with armed := none }) (closeUpd 0xF s)

/-- UPD_CANCEL (R400). -/
def execUpdCancel (p : Port) (s : State) : Res := .next (stewardWrite p cancelUpd s)

/-! ### The tray path (R404, R406); completion codes are those of DSP0267 -/

/-- QUERY_DEVICE_IDENTIFIERS (R404). -/
def execQueryDeviceIdentifiers (s : State) : Res := .next (pldm 5 0x01 (reply 5 0x01 0 (Config.protocolBytes 5 0x01)) s)

/-- A number as 16 hexadecimal digits. -/
def hex16 (v : BitVec 64) : List Byte :=
  (List.range 16).map (fun i =>
    let d := v.toNat / 16 ^ (15 - i) % 16
    BitVec.ofNat 8 (if d < 10 then 48 + d else 55 + d))

/-- GET_FIRMWARE_PARAMETERS (R404): the active and the other set. -/
def execGetFirmwareParameters (s : State) : Res :=
  .next (pldm 5 0x02 (fun s => reply 5 0x02 0 (hex16 s.boot.fwset ++ hex16 s.otherSet) s) s)

/-- REQUEST_UPDATE (R404): an agent that has restarted enters update mode again and resumes the session. DEDUCED: assumption
105. -/
def execRequestUpdate (maxTransfer : BitVec 32) (s : State) : Res :=
  .next (pldm 5 0x10 (fun s =>
    if maxTransfer.toNat < 4096 then reply 5 0x10 0x8A [] s
    else reply 5 0x10 0 (Config.protocolBytes 5 0x10) { s with mgmt := { s.mgmt with updMode := true, updXfer := false } }) s)

/-- The bundle is one component, of classification 0xFFFF and identifier 0x4834. -/
def isBundle (classification identifier : BitVec 16) : Bool := decide (classification = 0xFFFF) && decide (identifier = 0x4834)

/-- PASS_COMPONENT_TABLE (R404). -/
def execPassComponentTable (classification identifier : BitVec 16) (s : State) : Res :=
  .next (pldm 5 0x13 (fun s =>
    if s.mgmt.updMode then
      reply 5 0x13 0 (if isBundle classification identifier then [0, 0] else [1, 6]) s
    else reply 5 0x13 0x80 [] s) s)

/-- The image size of the bundle (R404): that of the session, and without one that of some bundle. -/
def sizeOk (u : Upd) (size : Nat) : Bool := match u.bundle with
  | some b => decide (size = 4096 * b.pieces)
  | none => decide (size % 4096 = 0) && decide (199 ≤ size / 4096) && decide (size / 4096 ≤ 24576)

/-- UPDATE_COMPONENT (R404): the transfer of the bundle begins, and the module asks for its first missing piece. -/
def execUpdateComponent (classification identifier : BitVec 16) (size : BitVec 32) (s : State) : Res :=
  .next (pldm 5 0x14 (fun s =>
    if s.mgmt.updMode then
      if isBundle classification identifier && sizeOk s.upd size.toNat then
        askNext (reply 5 0x14 0 [0, 0] { s with mgmt := { s.mgmt with updXfer := true } })
      else reply 5 0x14 0 [1, 6] s
    else reply 5 0x14 0x80 [] s) s)

/-- The agent's data: the piece is taken; where it is not programmed, the module asks on. -/
def agentData (i : Nat) (data : List Byte) (s : State) : State :=
  let (s, c) := takePiece true i data s
  if c = 0 then s else askNext s

/-- REQUEST_FIRMWARE_DATA (R404): 4,096 bytes at a multiple of 4,096. -/
def execRequestFirmwareData (offset : BitVec 32) (data : List Byte) (s : State) : Res :=
  if data.length = 4096 then
    .next (pldm 5 0x15 (fun s =>
      if s.mgmt.updXfer && decide (offset.toNat % 4096 = 0) then agentData (offset.toNat / 4096) data s else s) s)
  else .fault .illFormed

/-- The lowest multiple of 4,096 at least 2,048 laps after a lap (R406). DEDUCED: assumption 106. -/
def trayLap (lap : BitVec 40) : BitVec 40 := BitVec.ofNat 40 ((lap.toNat + 2048 + 4095) / 4096 * 4096)

/-- ACTIVATE_FIRMWARE (R406): in the VERIFIED state only. -/
def execActivateFirmware (s : State) : Res :=
  .next (pldm 5 0x1A (fun s =>
    if s.upd.state = 3 then reply 5 0x1A 0 (Config.protocolBytes 5 0x1A) (modUpd (fun u => { u with armed := some (trayLap s.cad.lap) }) s)
    else reply 5 0x1A 0x85 [] s) s)

/-- GET_STATUS (R404): the status of the firmware device, in the specification's coding. -/
def execGetStatus (s : State) : Res :=
  .next (pldm 5 0x1B (fun s => reply 5 0x1B 0 (Config.protocolBytes 0x051B s.upd.shown.toNat) s) s)

/-- CANCEL_UPDATE_COMPONENT (R404): the tray path's CANCEL. DEDUCED: assumption 105. -/
def execCancelUpdateComponent (s : State) : Res :=
  .next (pldm 5 0x1C (fun s => reply 5 0x1C 0 [] (cancelUpd { s with mgmt := { s.mgmt with updXfer := false } })) s)

/-- CANCEL_UPDATE (R404): the agent leaves update mode; session and bitmap stay. -/
def execCancelUpdate (s : State) : Res :=
  .next (pldm 5 0x1D (fun s => reply 5 0x1D 0 (Config.protocolBytes 5 0x1D)
    { s with mgmt := { s.mgmt with updMode := false, updXfer := false } }) s)

end Sys2Proof.Machine
end

