-- ==== Sys2Proof/Machine/Registers.lean ====
section
/-! DEFINITION. Writes to BAR0 by offset (R7, R306, R308, R309, R312, R313) and the indirect spaces (R318, R338, R384). A
write to a register with a command of its own has that command's effect. -/

namespace Sys2Proof.Machine

/-! ### Indirect spaces (R318, Table 11-5) -/

/-- The number of words of an indirect space, 0 where it is reserved. -/
def spaceWords (n : Nat) : Nat := match n with
  | 1 => 144 | 2 => 1024 | 3 => 4096 | _ => 0

/-- The rack plan is writable: before S7, or while it is open (R213). -/
def State.planWritable (s : State) : Bool := decide (s.boot.step.toNat < 7) || s.self.planOpen

/-- A word of the lodge mailbox of a port. -/
def mailboxWord (m : Mailbox) (w : Nat) : Word :=
  if w = 0 then flag m.busy 30 ||| put32 m.status 16 ||| put32 m.reqWords 0
  else if w = 1 then BitVec.ofNat 32 m.response.length
  else if w = 2 then put32 m.page 0
  else if w < 16 then 0
  else if w < 2048 then sget 0 m.request w
  else le 32 m.response (8192 * m.page.toNat + 4 * (w - 2048)) 4

/-- A word of an indirect space. -/
def spaceWord (s : State) (p : Port) (space w : Nat) : Word := match space with
  | 1 => sget 0 s.self.plan w
  | 2 => if w < 128 then le 32 s.boot.repair (4 * w) 4 else 0
  | 3 => mailboxWord (s.port p).mailbox w
  | _ => 0

/-- A write to a word of the lodge mailbox: control, page and request words are writable. -/
def writeMailbox (p : Port) (w : Nat) (v : Word) (s : State) : State :=
  if w = 0 then mailboxControl p v s
  else if w = 2 then modMailbox p (fun m => { m with page := fld v 0 3 }) s
  else if 16 ≤ w ∧ w < 2048 then answerBad (modMailbox p (fun m => { m with request := sput 0 m.request w v }) s)
  else s

/-- The space refuses a write of the port: the rack plan while it is read-only or from a port that is not the steward.
DEDUCED: assumption 59. -/
def spaceRefuses (s : State) (p : Port) (space : Nat) : Bool :=
  decide (space = 1) && !(s.isSteward p && s.planWritable)

/-- The fields of word w of the rack plan, four words a record (Table 8-5); reserved bits read 0 (R7). -/
def planMask (w : Nat) : Word := match w % 4 with
  | 0 => 0x3FF
  | 1 => 0x3FFFF
  | 2 => 0xFF
  | _ => 0

/-- A write to a word of an indirect space. DEDUCED: assumption 59. -/
def writeSpace (p : Port) (space w : Nat) (v : Word) (s : State) : State := match space with
  | 1 => { s with self := { s.self with plan := sput 0 s.self.plan w (v &&& planMask w) } }
  | 3 => writeMailbox p w v s
  | _ => s

/-- WORD after a data access: INC moves it on, with a wrap within the space (R318). -/
def nextWord (space : Nat) (inc : Bool) (w : BitVec 16) : BitVec 16 :=
  if inc then (if w.toNat + 1 = spaceWords space then 0 else w + 1) else w

/-- A data access through the indirect pair: what it reads, and the state it leaves. DEDUCED: assumption 59. -/
def indirect (p : Port) (write : Option Word) (s : State) : State :=
  let x := s.port p
  let space := x.indSpace.toNat
  let w := x.indWord.toNat
  let ns := write.isSome && decide (space = 1) && !s.isSteward p
  let bad := decide (spaceWords space ≤ w) || (write.isSome && spaceRefuses s p space)
  let s := if ns then countNs p s else s
  let s := match write with
    | some v => if bad then s else writeSpace p space w v s
    | none => s.emit (.readData (decide (p.val = 1)) (bytesOf 4 (if bad then 0 else spaceWord s p space w)) false)
  s.modPort p (fun y => { y with indErr := bad, indWord := nextWord space x.indInc x.indWord })

/-- INDIRECT_DATA_ACCESS (R318): a read is served after the loss of a pair too (R376). DEDUCED: assumption 107. -/
def execIndirectDataAccess (p : Port) (write : Option Word) (s : State) : Res :=
  .next (if write.isSome then hostWrite p (indirect p write) s
    else if s.clocked && (s.port p).linkUp then indirect p none s else s)

/-! ### HST registers -/

/-- HST_STEWARD: GIVE acts first (R310); a write with neither GIVE from the steward nor CLAIM from the other port changes
nothing, and one of the other port without CLAIM is counted. -/
def writeSteward (p : Port) (data : Word) (s : State) : State :=
  if s.isSteward p then (if bit data 31 then giveSteward p s else s)
  else if bit data 30 then claimSteward p s
  else countNs p s

/-- HST_SGRP_SEL: a write that names a group of an allotment is ignored whole. -/
def writeSgrpSel (data : Word) (s : State) : State :=
  let v : BitVec 28 := fld data 0 28
  if (List.range 7).any (fun b => (s.strobe (v.toNat / 16 ^ b % 16)).owner.isSome) then s else { s with sgrpSel := v }

/-- HST_STROBE_CTL: ARM arms or cancels, APPLY strobes in the next tick (R315). DEDUCED: assumption 96. -/
def writeStrobeCtl (g : Nat) (data : Word) (s : State) : State :=
  let s := if bit data 1 then armStrobe g s else cancelStrobe g s
  if bit data 0 then owesStrobe g s else s

/-- A strobe group's registers (R314, R315). -/
def writeStrobe (g o : Nat) (data : Word) (s : State) : State :=
  strobeWrite g (fun s => match o with
    | 0 => writeStrobeCtl g data s
    | 4 => s.modStrobe g (fun x => { x with atLo := data })
    | 8 => s.modStrobe g (fun x => { x with atHi := fld data 0 24 })
    | _ => s) s

/-- A field of a ring block other than RING_CTL; ignored while ENABLE is 1 (R319). -/
def ringField (o : Nat) (data : Word) (g : Ring) : Ring :=
  if g.enable then g
  else match o with
    | 0x00 => if 12 < (fld data 0 4).toNat then g else { g with sqLo := fld data 12 20, size := fld data 0 4 }
    | 0x04 => { g with sqHi := data }
    | 0x08 => { g with cqLo := fld data 12 20 }
    | 0x0C => { g with cqHi := data }
    | _ => g

/-- A write to a ring block that the port reaches (R319); whatever the register, the TDI sees it (R355). -/
def writeRing (p : Port) (r o : Nat) (data : Word) (s : State) : State :=
  if o = 0x10 then (if bit data 31 then enableRing p r data s else clearRing p r data s)
  else if s.reaches p r then guarded p (fun s => if o < 0x10 then s.modRing r (ringField o data) else s) s
  else s

/-- HST_EVT_EN (R326, R355). -/
def writeEvtEn (p : Port) (data : Word) (s : State) : State :=
  guarded p (fun s => s.modPort p (fun x => { x with evtVec := fld data 16 11, evtEn := fld data 0 8 })) s

/-- A dword of an MSI-X table entry. -/
def msixField (o : Nat) (data : Word) (e : Msix) : Msix := match o with
  | 0 => { e with addrLo := data &&& 0xFFFFFFFC }
  | 4 => { e with addrHi := data }
  | 8 => { e with data := data }
  | _ => { e with masked := bit data 0 }

/-- A message that waits on a vector whose mask goes away is sent (R325). DEDUCED: assumption 107. -/
def releaseMsi (p : Port) (v : Nat) (s : State) : State :=
  let e := sget {} (s.port p).msix v
  if e.pending && !e.masked then
    (s.modPort p (fun x => { x with msix := smod {} x.msix v (fun e => { e with pending := false }) })).emit
      (.msi (decide (p.val = 1)) (BitVec.ofNat 11 v) (e.addrHi ++ e.addrLo) e.data)
  else s

/-- A write to the MSI-X table (R325, R355). -/
def writeMsix (p : Port) (o : Nat) (data : Word) (s : State) : State :=
  let v := o / 16
  guarded p (fun s => releaseMsi p v
    (s.modPort p (fun x => { x with msix := smod {} x.msix v (msixField (o % 16) data) }))) s

/-! ### Other global registers -/

/-- CAD_SYNC_CTL and CAD_SYNC_LAP (R26, R27). -/
def writeCad (o : Nat) (data : Word) (s : State) : State := match o with
  | 0x200C => syncWrite (fld data 0 2) (fld data 8 6) (bit data 16) s
  | 0x2010 => { s with cad := { s.cad with syncLapLo := data } }
  | 0x2014 => { s with cad := { s.cad with syncLapHi := fld data 0 8 } }
  | 0x2400 => writeSelf data s
  | 0x2404 => writePlanCtl (bit data 31) (bit data 30) s
  | _ => s

/-- PWR_HOST_SCHED: a value out of range makes the whole write ignored (R301, R313). -/
def writeSched' (data : Word) (s : State) : State :=
  if gearOk (fld data 16 3) && capOk (fld data 0 16) then
    { s with pwr := { s.pwr with sched := s.pwr.sched.write s.now (fld data 31 1 ++ fld data 0 19) } }
  else s

/-- PWR registers (R275, R276, R302). -/
def writePwr (o : Nat) (data : Word) (s : State) : State := match o with
  | 0x3004 => writeHostCap (fld data 16 3) (fld data 0 16) s
  | 0x300C => if bit data 31 then renewLease s else s
  | 0x3038 => writeSched' data s
  | _ => s

/-- UPD_ACT_CTL: CANCEL before ARM. DEDUCED: assumption 106. -/
def writeActCtl (data : Word) (s : State) : State :=
  let s := if bit data 8 then cancelUpd s else s
  if bit data 0 then armUpd s else s

/-- UPD_PIECE_CTL: PIECE, and with GO the window is submitted. -/
def writePieceCtl (data : Word) (s : State) : State :=
  let s := modUpd (fun u => { u with piece := fld data 0 15 }) s
  if bit data 31 then submitWindow (fld data 0 15) s else s

/-- UPD registers and the piece window (R405, R406). -/
def writeUpd (o : Nat) (data : Word) (s : State) : State :=
  if o = 0x7010 then modUpd (fun u => { u with actLo := data }) s
  else if o = 0x7014 then modUpd (fun u => { u with actHi := fld data 0 8 }) s
  else if o = 0x7018 then writeActCtl data s
  else if o = 0x701C then writePieceCtl data s
  else if s.upd.hostBusy then s
  else modUpd (fun u => { u with window := sput 0 u.window ((o - 0x8000) / 4) data }) s

/-- SPK_HOLD of gatehouse h (R205, R313). -/
def writeHold (h : Nat) (data : Word) (s : State) : State :=
  let v : BitVec 18 := fld data 0 18
  if h = 0 then { s with self := { s.self with hold0 := s.self.hold0.write s.now v } }
  else { s with self := { s.self with hold1 := s.self.hold1.write s.now v } }

/-- PGL_REST of a pavilion: 0b11 is ignored whole (R274, R313). -/
def writeRest (p : Nat) (data : Word) (s : State) : State :=
  let v : BitVec 2 := fld data 0 2
  if v = 3 then s else s.modRest p (fun f => f.write s.now v)

/-! ### BAR0 by offset (Table 11-1) -/

/-- The writable global registers (R309): what a steward write does to the dword at an offset, where it is one. DEDUCED:
assumption 107. -/
def globalWrite (o : Nat) : Option (Word → State → State) :=
  if o = 0x1060 then some writeSgrpSel
  else if 0x1200 ≤ o ∧ o < 0x1300 ∧ o % 16 < 12 then some (writeStrobe ((o - 0x1200) / 16) (o % 16))
  else if o = 0x200C ∨ o = 0x2010 ∨ o = 0x2014 ∨ o = 0x2400 ∨ o = 0x2404 then some (writeCad o)
  else if o = 0x3004 ∨ o = 0x300C ∨ o = 0x3038 then some (writePwr o)
  else if o = 0x4000 then some (fun data => advance (fld data 16 4).toNat)
  else if o = 0x7010 ∨ o = 0x7014 ∨ o = 0x7018 ∨ o = 0x701C ∨ (0x8000 ≤ o ∧ o < 0x9000) then some (writeUpd o)
  else if o = 0x163000 then some (writeHold 0)
  else if o = 0x263000 then some (writeHold 1)
  else if o = 0x42000C then some (writeRest 0)
  else if o = 0x52000C then some (writeRest 1)
  else if o = 0x62000C then some (writeRest 2)
  else if o = 0x72000C then some (writeRest 3)
  else none

/-- A write to a register that is no global state: the port-banked ones, HST_STEWARD and the port's allotment pages. An offset
that no chapter maps, or a register that is read-only, ignores it. DEDUCED: assumption 107. -/
def portWrite (p : Port) (o : Nat) (data : Word) (s : State) : State :=
  if o = 0xC10 then (setBits (fld data 0 16)).foldl (fun s n => beginAllotReset p n s) s
  else if o = 0x1000 then writeSteward p data s
  else if o = 0x1040 then s.modPort p (fun x => { x with
    indSpace := fld data 28 4, indInc := bit data 27, indWord := fld data 0 16 })
  else if o = 0x1044 then indirect p (some data) s
  else if o = 0x1054 then writeEvtEn p data s
  else if 0x1100 ≤ o ∧ o < 0x1120 then writeRing p p.val (o - 0x1100) data s
  else if 0x40000 ≤ o ∧ o < 0x48000 then writeMsix p (o - 0x40000) data s
  else if 0x3000000 ≤ o ∧ o < 0x3100000 then
    let n := (o - 0x3000000) / 0x10000
    let q := o % 0x10000
    if q < 0x20 then writeRing p (2 + n) q data s
    else if q = 0x20 then writeWin p n data s
    else if q = 0x28 then writeSched p n data s
    else s
  else s

/-- The gatehouse and pavilion blocks, which are global state as a whole (R309). -/
def partBlock (o : Nat) : Bool := (decide (0x100000 ≤ o) && decide (o < 0x300000)) || (decide (0x400000 ≤ o) && decide (o < 0x800000))

/-- A write of one dword through a port. -/
def regWrite (p : Port) (o : Nat) (data : Word) (s : State) : State := match globalWrite o with
  | some f => stewardWrite p (f data) s
  | none => if partBlock o then stewardWrite p id s else hostWrite p (portWrite p o data) s

/-- REGISTER_WRITE (R312). BOOT_RESET is written in every state in which the steward's link is up (R376). -/
def execRegisterWrite (p : Port) (offset : BitVec 26) (data : Word) (s : State) : Res :=
  let o := offset.toNat / 4 * 4
  if o = 0x400C then execBootReset p (fld data 0 16) s else .next (regWrite p o data s)

end Sys2Proof.Machine
end

