-- ==== Sys2Proof/Machine/Dispatch.lean ====
section
/-! DEFINITION. exec: one arm per command of spec/opcode_table.json, each one call of that command's meaning. -/

namespace Sys2Proof.Machine

def exec (i : Instr) (s : State) : Host.Outcome State Fault Refusal :=
  match i with
  | .firstLapMark => Sys2Proof.Machine.execFirstLapMark s
  | .lapBoundary mark m => Sys2Proof.Machine.execLapBoundary mark m s
  | .misplacedLapMark => Sys2Proof.Machine.execMisplacedLapMark s
  | .cadrefStop => Sys2Proof.Machine.execCadrefStop s
  | .syncArmSet p spoke => Sys2Proof.Machine.execSyncArmSet p spoke s
  | .syncArmAdopt p spoke => Sys2Proof.Machine.execSyncArmAdopt p spoke s
  | .syncCancel p => Sys2Proof.Machine.execSyncCancel p s
  | .lapBeaconSend => Sys2Proof.Machine.execLapBeaconSend s
  | .lapBeaconReceive k lap synced => Sys2Proof.Machine.execLapBeaconReceive k lap synced s
  | .idlePllLock p => Sys2Proof.Machine.execIdlePllLock p s
  | .pllLockCheck => Sys2Proof.Machine.execPllLockCheck s
  | .gearShift => Sys2Proof.Machine.execGearShift s
  | .recoveryRampStep => Sys2Proof.Machine.execRecoveryRampStep s
  | .rampStep => Sys2Proof.Machine.execRampStep s
  | .restRampStart a => Sys2Proof.Machine.execRestRampStart a s
  | .runRampStart a => Sys2Proof.Machine.execRunRampStart a s
  | .brakeLevelEval => Sys2Proof.Machine.execBrakeLevelEval s
  | .powerSample x => Sys2Proof.Machine.execPowerSample x s
  | .leaseRenew p => Sys2Proof.Machine.execLeaseRenew p s
  | .hostCapWrite p data => Sys2Proof.Machine.execHostCapWrite p data s
  | .rollCallSample => Sys2Proof.Machine.execRollCallSample s
  | .rollCallDecision => Sys2Proof.Machine.execRollCallDecision s
  | .holdBegin => Sys2Proof.Machine.execHoldBegin s
  | .brakeReleaseSample => Sys2Proof.Machine.execBrakeReleaseSample s
  | .holdRelease => Sys2Proof.Machine.execHoldRelease s
  | .vinLowDetect => Sys2Proof.Machine.execVinLowDetect s
  | .vinLowClear => Sys2Proof.Machine.execVinLowClear s
  | .holdupSave vin => Sys2Proof.Machine.execHoldupSave vin s
  | .savePageDone => Sys2Proof.Machine.execSavePageDone s
  | .undervoltageLockout => Sys2Proof.Machine.execUndervoltageLockout s
  | .thermalTrip p diode => Sys2Proof.Machine.execThermalTrip p diode s
  | .powerGood slot => Sys2Proof.Machine.execPowerGood slot s
  | .vauxStart => Sys2Proof.Machine.execVauxStart s
  | .bootAdvance p n => Sys2Proof.Machine.execBootAdvance p n s
  | .bootStepDone n ms => Sys2Proof.Machine.execBootStepDone n ms s
  | .stepTimeout ms => Sys2Proof.Machine.execStepTimeout ms s
  | .memoryTrainingDone r => Sys2Proof.Machine.execMemoryTrainingDone r s
  | .knownAnswerRunDone u g5 crc expected => Sys2Proof.Machine.execKnownAnswerRunDone u g5 crc expected s
  | .bootReset p key => Sys2Proof.Machine.execBootReset p key s
  | .railOffElapsed hot => Sys2Proof.Machine.execRailOffElapsed hot s
  | .allotReset p mask => Sys2Proof.Machine.execAllotReset p mask s
  | .allotResetQuiesced a => Sys2Proof.Machine.execAllotResetQuiesced a s
  | .allotResetDone a => Sys2Proof.Machine.execAllotResetDone a s
  | .bankZeroingDone b => Sys2Proof.Machine.execBankZeroingDone b s
  | .ringPoll r => Sys2Proof.Machine.execRingPoll r s
  | .submissionFetch r cqHead entries => Sys2Proof.Machine.execSubmissionFetch r cqHead entries s
  | .run a entry => Sys2Proof.Machine.execRun a entry s
  | .runStart a => Sys2Proof.Machine.execRunStart a s
  | .loadLayout p entry => Sys2Proof.Machine.execLoadLayout p entry s
  | .loadReadDone image => Sys2Proof.Machine.execLoadReadDone image s
  | .start p entry => Sys2Proof.Machine.execStart p entry s
  | .allotmentStartLap a => Sys2Proof.Machine.execAllotmentStartLap a s
  | .release p entry => Sys2Proof.Machine.execRelease p entry s
  | .releaseKeyRemoval a => Sys2Proof.Machine.execReleaseKeyRemoval a s
  | .give p entry => Sys2Proof.Machine.execGive p entry s
  | .take p entry => Sys2Proof.Machine.execTake p entry s
  | .completionWrite r => Sys2Proof.Machine.execCompletionWrite r s
  | .interruptHoldoffEnd r => Sys2Proof.Machine.execInterruptHoldoffEnd r s
  | .eventMessage p => Sys2Proof.Machine.execEventMessage p s
  | .stewardGive p => Sys2Proof.Machine.execStewardGive p s
  | .stewardClaim p => Sys2Proof.Machine.execStewardClaim p s
  | .ringEnable p r data => Sys2Proof.Machine.execRingEnable p r data s
  | .ringDisable p r data => Sys2Proof.Machine.execRingDisable p r data s
  | .portReset p cause => Sys2Proof.Machine.execPortReset p cause s
  | .hostAccessTimeout m => Sys2Proof.Machine.execHostAccessTimeout m s
  | .stagingWindowMap p a data => Sys2Proof.Machine.execStagingWindowMap p a data s
  | .allotSchedWrite p a data => Sys2Proof.Machine.execAllotSchedWrite p a data s
  | .stagingWindowRead p offset bytes noise => Sys2Proof.Machine.execStagingWindowRead p offset bytes noise s
  | .stagingWindowWrite p offset data noise => Sys2Proof.Machine.execStagingWindowWrite p offset data noise s
  | .indirectDataAccess p write => Sys2Proof.Machine.execIndirectDataAccess p write s
  | .strobeApply p g => Sys2Proof.Machine.execStrobeApply p g s
  | .strobeArm p g => Sys2Proof.Machine.execStrobeArm p g s
  | .strobeCancel p g => Sys2Proof.Machine.execStrobeCancel p g s
  | .armedStrobeDue g => Sys2Proof.Machine.execArmedStrobeDue g s
  | .registerWrite p offset data => Sys2Proof.Machine.execRegisterWrite p offset data s
  | .unitStart a noise => Sys2Proof.Machine.execUnitStart a noise s
  | .ttIssue a => Sys2Proof.Machine.execTtIssue a s
  | .vectorAdmit x places way => Sys2Proof.Machine.execVectorAdmit x places way s
  | .vectorResultReady r => Sys2Proof.Machine.execVectorResultReady r s
  | .ttMove a => Sys2Proof.Machine.execTtMove a s
  | .moverWordTransfer m host word => Sys2Proof.Machine.execMoverWordTransfer m host word s
  | .descriptorComplete m => Sys2Proof.Machine.execDescriptorComplete m s
  | .pergolaTransferArrive at_ src word => Sys2Proof.Machine.execPergolaTransferArrive at_ src word s
  | .ttShadow a => Sys2Proof.Machine.execTtShadow a s
  | .shadowLoadDone a noise => Sys2Proof.Machine.execShadowLoadDone a noise s
  | .planeSwap a => Sys2Proof.Machine.execPlaneSwap a s
  | .ttStrobe a => Sys2Proof.Machine.execTtStrobe a s
  | .ttComplete a => Sys2Proof.Machine.execTtComplete a s
  | .ttPhaseEnd a => Sys2Proof.Machine.execTtPhaseEnd a s
  | .ttTrnArm a => Sys2Proof.Machine.execTtTrnArm a s
  | .turnstileDeadline t => Sys2Proof.Machine.execTurnstileDeadline t s
  | .ttCollective a => Sys2Proof.Machine.execTtCollective a s
  | .segmentSendStart a plan stage seg noise => Sys2Proof.Machine.execSegmentSendStart a plan stage seg noise s
  | .segmentCompletionStep a plan stage seg noise => Sys2Proof.Machine.execSegmentCompletionStep a plan stage seg noise s
  | .segmentReductionDone a plan stage seg => Sys2Proof.Machine.execSegmentReductionDone a plan stage seg s
  | .scrubWord u noise => Sys2Proof.Machine.execScrubWord u noise s
  | .spokeTrainingStart k => Sys2Proof.Machine.execSpokeTrainingStart k s
  | .farEndSignal k => Sys2Proof.Machine.execFarEndSignal k s
  | .equalisationComplete k => Sys2Proof.Machine.execEqualisationComplete k s
  | .alignMeasurementDone k good => Sys2Proof.Machine.execAlignMeasurementDone k good s
  | .identityRecordSend k => Sys2Proof.Machine.execIdentityRecordSend k s
  | .identityRecordReceive k record => Sys2Proof.Machine.execIdentityRecordReceive k record s
  | .identityAckReceive k => Sys2Proof.Machine.execIdentityAckReceive k s
  | .trainingAttemptTimeout k => Sys2Proof.Machine.execTrainingAttemptTimeout k s
  | .lossOfSignal k => Sys2Proof.Machine.execLossOfSignal k s
  | .spkSelfWrite p data => Sys2Proof.Machine.execSpkSelfWrite p data s
  | .planOpen p => Sys2Proof.Machine.execPlanOpen p s
  | .planClose p => Sys2Proof.Machine.execPlanClose p s
  | .recheck p => Sys2Proof.Machine.execRecheck p s
  | .packetSend k => Sys2Proof.Machine.execPacketSend k s
  | .egressLate k => Sys2Proof.Machine.execEgressLate k s
  | .transitRingHop g station => Sys2Proof.Machine.execTransitRingHop g station s
  | .packetReceive k pkt rx => Sys2Proof.Machine.execPacketReceive k pkt rx s
  | .linkWordReceive k ret0 ret1 ret2 ack epoch => Sys2Proof.Machine.execLinkWordReceive k ret0 ret1 ret2 ack epoch s
  | .routingSwitch => Sys2Proof.Machine.execRoutingSwitch s
  | .linkKeyCred k cred => Sys2Proof.Machine.execLinkKeyCred k cred s
  | .linkKeyEncap k ct => Sys2Proof.Machine.execLinkKeyEncap k ct s
  | .linkKeyConfirm k mac => Sys2Proof.Machine.execLinkKeyConfirm k mac s
  | .linkKeyAbort k => Sys2Proof.Machine.execLinkKeyAbort k s
  | .linkKeyStepTimeout k => Sys2Proof.Machine.execLinkKeyStepTimeout k s
  | .linkKeyRetry k => Sys2Proof.Machine.execLinkKeyRetry k s
  | .linkEpochAdvance k d => Sys2Proof.Machine.execLinkEpochAdvance k d s
  | .getReport p => Sys2Proof.Machine.execGetReport p s
  | .openSession p => Sys2Proof.Machine.execOpenSession p s
  | .releaseKey p => Sys2Proof.Machine.execReleaseKey p s
  | .getTelemetry p => Sys2Proof.Machine.execGetTelemetry p s
  | .closeSession p => Sys2Proof.Machine.execCloseSession p s
  | .getCredential p => Sys2Proof.Machine.execGetCredential p s
  | .entropy test => Sys2Proof.Machine.execEntropy test s
  | .spdmMessage p req => Sys2Proof.Machine.execSpdmMessage p req s
  | .stopInterface p => Sys2Proof.Machine.execStopInterface p s
  | .unitErrorSignal g role src => Sys2Proof.Machine.execUnitErrorSignal g role src s
  | .unitResyncDone g role => Sys2Proof.Machine.execUnitResyncDone g role s
  | .odometerUpdate => Sys2Proof.Machine.execOdometerUpdate s
  | .ibiRepeat => Sys2Proof.Machine.execIbiRepeat s
  | .i3cTargetReset => Sys2Proof.Machine.execI3cTargetReset s
  | .getpid => Sys2Proof.Machine.execGetpid s
  | .getbcr => Sys2Proof.Machine.execGetbcr s
  | .getdcr => Sys2Proof.Machine.execGetdcr s
  | .getstatus => Sys2Proof.Machine.execGetstatus s
  | .getmwl => Sys2Proof.Machine.execGetmwl s
  | .getmrl => Sys2Proof.Machine.execGetmrl s
  | .setmwl n => Sys2Proof.Machine.execSetmwl n s
  | .setmrl n => Sys2Proof.Machine.execSetmrl n s
  | .entdaa addr => Sys2Proof.Machine.execEntdaa addr s
  | .rstdaa => Sys2Proof.Machine.execRstdaa s
  | .enec => Sys2Proof.Machine.execEnec s
  | .disec => Sys2Proof.Machine.execDisec s
  | .getmodstat => Sys2Proof.Machine.execGetmodstat s
  | .modreset data => Sys2Proof.Machine.execModreset data s
  | .setEndpointId write => Sys2Proof.Machine.execSetEndpointId write s
  | .getEndpointId => Sys2Proof.Machine.execGetEndpointId s
  | .getMctpVersionSupport => Sys2Proof.Machine.execGetMctpVersionSupport s
  | .getMessageTypeSupport => Sys2Proof.Machine.execGetMessageTypeSupport s
  | .getTid => Sys2Proof.Machine.execGetTid s
  | .setTid tid => Sys2Proof.Machine.execSetTid tid s
  | .getPldmVersion query => Sys2Proof.Machine.execGetPldmVersion query s
  | .getPldmTypes => Sys2Proof.Machine.execGetPldmTypes s
  | .getPldmCommands type => Sys2Proof.Machine.execGetPldmCommands type s
  | .getPdrRepositoryInfo => Sys2Proof.Machine.execGetPdrRepositoryInfo s
  | .getPdr handle => Sys2Proof.Machine.execGetPdr handle s
  | .getSensorReading id => Sys2Proof.Machine.execGetSensorReading id s
  | .getStateSensorReadings id => Sys2Proof.Machine.execGetStateSensorReadings id s
  | .getNumericEffecterValue id => Sys2Proof.Machine.execGetNumericEffecterValue id s
  | .getStateEffecterStates id => Sys2Proof.Machine.execGetStateEffecterStates id s
  | .trayCap v => Sys2Proof.Machine.execTrayCap v s
  | .trayGearMax v => Sys2Proof.Machine.execTrayGearMax v s
  | .leaseRenewal st => Sys2Proof.Machine.execLeaseRenewal st s
  | .leaseLaps v => Sys2Proof.Machine.execLeaseLaps v s
  | .lapseCap v => Sys2Proof.Machine.execLapseCap v s
  | .confAlways v => Sys2Proof.Machine.execConfAlways v s
  | .moduleResetEffecter st => Sys2Proof.Machine.execModuleResetEffecter st s
  | .pollForPlatformEventMessage ack => Sys2Proof.Machine.execPollForPlatformEventMessage ack s
  | .eventMessageBufferSize n => Sys2Proof.Machine.execEventMessageBufferSize n s
  | .getFruRecordTableMetadata => Sys2Proof.Machine.execGetFruRecordTableMetadata s
  | .getFruRecordTable => Sys2Proof.Machine.execGetFruRecordTable s
  | .queryDeviceIdentifiers => Sys2Proof.Machine.execQueryDeviceIdentifiers s
  | .getFirmwareParameters => Sys2Proof.Machine.execGetFirmwareParameters s
  | .requestUpdate maxTransfer => Sys2Proof.Machine.execRequestUpdate maxTransfer s
  | .passComponentTable classification identifier => Sys2Proof.Machine.execPassComponentTable classification identifier s
  | .updateComponent classification identifier size => Sys2Proof.Machine.execUpdateComponent classification identifier size s
  | .requestFirmwareData offset data => Sys2Proof.Machine.execRequestFirmwareData offset data s
  | .activateFirmware => Sys2Proof.Machine.execActivateFirmware s
  | .getStatus => Sys2Proof.Machine.execGetStatus s
  | .cancelUpdateComponent => Sys2Proof.Machine.execCancelUpdateComponent s
  | .cancelUpdate => Sys2Proof.Machine.execCancelUpdate s
  | .pieceSubmit p piece => Sys2Proof.Machine.execPieceSubmit p piece s
  | .pieceProgramDone readBack => Sys2Proof.Machine.execPieceProgramDone readBack s
  | .bundleVerifyDone changed => Sys2Proof.Machine.execBundleVerifyDone changed s
  | .updArm p => Sys2Proof.Machine.execUpdArm p s
  | .updCancel p => Sys2Proof.Machine.execUpdCancel p s
  | .pcieLinkUp p width speed => Sys2Proof.Machine.execPcieLinkUp p width speed s
  | .settingRecordCommit => Sys2Proof.Machine.execSettingRecordCommit s
  | .tripWaitEnd => Sys2Proof.Machine.execTripWaitEnd s

end Sys2Proof.Machine
end

