-- ==== Sys2Proof/Machine/Step.lean ====
section
/-! DEFINITION. One step of the machine: the command at the front of the queue, or a CADREF cycle where none waits. -/

namespace Sys2Proof.Machine

/-- A step: the command at the front runs on the state with the queue's rest; with no command waiting, one CADREF cycle
passes. DESIGN CHOICE: assumptions 1, 2, 113. -/
def step (s : State) : Host.Outcome State Fault Refusal :=
  match s.pending with
  | [] => .next (idleCycle s)
  | c :: rest => exec c { s with pending := rest }

/-- A command put at the front of the queue. DESIGN CHOICE: assumption 1. -/
def State.push (s : State) (c : Instr) : State := { s with pending := c :: s.pending }

/-- The command that a word spells by the table's bits, put at the front of the queue; no row of the table gives bits.
DESIGN CHOICE: assumption 1. -/
def State.withFetchWord (s : State) (nbits w : Nat) : State :=
  match decodeTableWord nbits w with
  | none => s
  | some c => s.push c

end Sys2Proof.Machine
end

