-- ==== Sys2Proof/Machine/Contacts.lean ====
section
/-! DEFINITION. The connectors and their contacts (R414, R415, R421, R425, R427, R428), and the level of the output that asks
the tray for RDIMM power (R419, R420, R427). The electrical and mechanical limits of chapter 17 are out (DESIGN CHOICE: assumption
122). -/

namespace Sys2Proof.Machine

/-- The module's connectors (R414, Table 17-1), the coolant couplings apart. -/
inductive Connector
  | power | signal | pcie | ddr5 | flyover (f : Fin 3)
  deriving DecidableEq, Repr

/-- How many contacts a connector has (R414, R415, Table 17-1). -/
def Connector.contacts : Connector → Nat
  | .power => 8
  | .signal => 40
  | .pcie => 144
  | .ddr5 => 1612
  | .flyover _ => 288

/-- A line of a differential pair. -/
inductive Line
  | pos | neg
  deriving DecidableEq, Repr

/-- What a contact carries. -/
inductive Contact
  /-- A ground contact. -/
  | gnd
  /-- A reserved contact, not connected. -/
  | open_
  | vin (n : Nat) | vrtn (n : Nat)
  | cadref (l : Line) | brake (l : Line) | alert | i3cScl | i3cSda | slot (n : Nat) | leakSource | leakSense | prsnt
  | pcieTx (p : Port) (lane : Nat) (l : Line) | pcieRx (p : Port) (lane : Nat) (l : Line) | perst (p : Port)
  | dq (n : Nat) | cb (n : Nat) | dqs (n : Nat) (l : Line) | ca (n : Nat) | cs (n : Nat) | ck (l : Line) | par | ddrReset | ddrAlert
  | spdScl (h : Gh) | spdSda (h : Gh) | ddrPwrEn (h : Gh)
  | spokeTx (k : Nat) (lane : Nat) (l : Line) | spokeRx (k : Nat) (lane : Nat) (l : Line)
  deriving DecidableEq, Repr

/-- The line of a pair that an even or odd place stands for. -/
def lineOf (n : Nat) : Line := if n % 2 = 0 then .pos else .neg

/-- The signal connector (R421, Table 17-4): position n, 1 to 20, of row A; everything else is ground. -/
def signalContact (n : Nat) : Contact :=
  match n with
  | 1 => .cadref .pos
  | 2 => .cadref .neg
  | 4 => .brake .pos
  | 5 => .brake .neg
  | 7 => .alert
  | 9 => .i3cScl
  | 10 => .i3cSda
  | 12 => .slot 0
  | 13 => .slot 1
  | 15 => .leakSource
  | 16 => .leakSense
  | 20 => .prsnt
  | _ => .gnd

/-- Contact r, 1 to 72, of the block of a port in the PCIe connector (R425). -/
def pcieContact (p : Port) (r : Nat) : Contact :=
  if r ≤ 64 then
    match (r - 1) % 8 + 1 with
    | 2 => .pcieTx p ((r - 1) / 8) .pos
    | 3 => .pcieTx p ((r - 1) / 8) .neg
    | 5 => .pcieRx p ((r - 1) / 8) .pos
    | 6 => .pcieRx p ((r - 1) / 8) .neg
    | _ => .gnd
  else if r = 65 then .perst p
  else if r = 66 then .gnd
  else .open_

/-- Signal j, counted from 0, of a DDR5 subchannel (R427), b saying whether it is subchannel B. -/
def ddrSignal (b : Bool) (j : Nat) : Contact :=
  if j < 32 then .dq j
  else if j < 40 then .cb (j - 32)
  else if j < 60 then .dqs ((j - 40) / 2) (lineOf j)
  else if j < 67 then .ca (j - 60)
  else if j < 69 then .cs (j - 67)
  else if j < 71 then .ck (lineOf (j - 69))
  else if j = 71 then .par
  else if j = 72 then (if b then .ddrAlert else .ddrReset)
  else .open_

/-- Contact k, 1 to 100, of a subchannel's block (R427): every fourth is ground, the others take the signals in order. -/
def ddrContact (b : Bool) (k : Nat) : Contact := if k % 4 = 0 then .gnd else ddrSignal b (k - 1 - k / 4)

/-- Contact c, 1 to 1,612, of the DDR5 mezzanine connector (R427), with the channel whose bank it stands in, if any. -/
def mezzanineContact (c : Nat) : Option Nat × Contact :=
  if c ≤ 1600 then (some ((c - 1) / 200), ddrContact (decide (100 ≤ (c - 1) % 200)) ((c - 1) % 100 + 1))
  else (none, match c with
    | 1601 => .spdScl 0
    | 1602 => .spdSda 0
    | 1603 => .ddrPwrEn 0
    | 1605 => .spdScl 1
    | 1606 => .spdSda 1
    | 1607 => .ddrPwrEn 1
    | _ => .gnd)

/-- The spoke that wafer w, 0 to 11, of a flyover connector carries (R428). -/
def waferSpoke (f : Fin 3) (w : Nat) : Nat :=
  match f with
  | 0 => if w < 6 then w else w + 12
  | 1 => w + 6
  | 2 => w + 24

/-- Contact c, 1 to 24, of wafer w of a flyover connector (R428): 3j + 1 is ground, the others take the four transmit pairs and
then the four receive pairs. -/
def flyoverContact (f : Fin 3) (w c : Nat) : Contact :=
  let j := (c - 1) - ((c - 1) / 3 + 1)
  if (c - 1) % 3 = 0 then .gnd
  else if j < 8 then .spokeTx (waferSpoke f w) (j / 2) (lineOf j)
  else .spokeRx (waferSpoke f w) ((j - 8) / 2) (lineOf j)

/-- The power connector (R415): four input contacts and four return contacts. -/
def powerContact (c : Nat) : Contact := if c < 4 then .vin c else .vrtn (c - 4)

/-- The SPD hub address of the socket of channel c on its gatehouse's bus (R427). -/
def spdAddress (c : Nat) : Nat := c % 4

/-- DDR_PWR_EN_0 and DDR_PWR_EN_1, which are driven alike: high from the entry of S0 (R419), low from a hold-up save on, without
supply, and for the 100 ms of rail-off of a module reset (R420). -/
def State.ddrPwrEn (s : State) : Bool := decide (s.boot.supply = .on)

end Sys2Proof.Machine
end

