-- ==== Sys2Proof/WellFormed.lean ====
section
/-! DEFINITION. Which commands are well formed: a byte string that a rule gives a length has it, and a sample holds the
readings of Table 10-1 in their numbers. The meaning of an ill-formed command is the fault illFormed. -/

namespace Sys2Proof

/-- A sample holds four pavilions, 64 diodes and 12 stacks (R266, R290). -/
def PowerSample.wellFormed (x : PowerSample) : Bool :=
  decide (x.vcore.length = 4) && decide (x.icore.length = 4) && decide (x.diodes.length = 64)
  && decide (x.stackT.length = 12) && decide (x.railI.length = 8)

/-- The check of a command: a submission entry is 64 bytes (Table 11-2), a poll reads at most four (R321), an identity record
is 64 bytes (R207), and the agent's answer is one piece of 4,096 bytes (R404). DESIGN CHOICE: assumption 4. -/
def Instr.wellFormed (c : Instr) : Bool := match c with
  | .firstLapMark | .lapBoundary .. | .misplacedLapMark | .cadrefStop | .syncArmSet .. | .syncArmAdopt ..
  | .syncCancel .. | .lapBeaconSend | .lapBeaconReceive .. | .idlePllLock .. | .pllLockCheck | .gearShift
  | .recoveryRampStep | .rampStep | .restRampStart .. | .runRampStart .. | .brakeLevelEval => true
  | .powerSample x => x.wellFormed
  | .leaseRenew .. | .hostCapWrite .. | .rollCallSample | .rollCallDecision | .holdBegin | .brakeReleaseSample
  | .holdRelease | .vinLowDetect | .vinLowClear | .holdupSave .. | .savePageDone | .undervoltageLockout
  | .thermalTrip .. | .powerGood .. | .vauxStart | .bootAdvance .. | .bootStepDone .. | .stepTimeout ..
  | .memoryTrainingDone .. | .knownAnswerRunDone .. | .bootReset .. | .railOffElapsed .. | .allotReset ..
  | .allotResetQuiesced .. | .allotResetDone .. | .bankZeroingDone .. | .ringPoll .. => true
  | .submissionFetch _ _ entries => decide (entries.length ≤ 4) && entries.all (fun b => decide (b.length = 64))
  | .run _ entry => decide (entry.length = 64)
  | .runStart .. => true
  | .loadLayout _ entry => decide (entry.length = 64)
  | .loadReadDone .. => true
  | .start _ entry => decide (entry.length = 64)
  | .allotmentStartLap .. => true
  | .release _ entry => decide (entry.length = 64)
  | .releaseKeyRemoval .. => true
  | .give _ entry => decide (entry.length = 64)
  | .take _ entry => decide (entry.length = 64)
  | .completionWrite .. | .interruptHoldoffEnd .. | .eventMessage .. | .stewardGive .. | .stewardClaim ..
  | .ringEnable .. | .ringDisable .. | .portReset .. | .hostAccessTimeout .. | .stagingWindowMap ..
  | .allotSchedWrite .. | .stagingWindowRead .. | .stagingWindowWrite .. | .indirectDataAccess .. | .strobeApply ..
  | .strobeArm .. | .strobeCancel .. | .armedStrobeDue .. | .registerWrite .. | .unitStart .. | .ttIssue ..
  | .vectorAdmit .. | .vectorResultReady .. | .ttMove .. | .moverWordTransfer .. | .descriptorComplete ..
  | .pergolaTransferArrive .. | .ttShadow .. | .shadowLoadDone .. | .planeSwap .. | .ttStrobe .. | .ttComplete ..
  | .ttPhaseEnd .. | .ttTrnArm .. | .turnstileDeadline .. | .ttCollective .. | .segmentSendStart ..
  | .segmentCompletionStep .. | .segmentReductionDone .. | .scrubWord .. | .spokeTrainingStart .. | .farEndSignal ..
  | .equalisationComplete .. | .alignMeasurementDone .. | .identityRecordSend .. => true
  | .identityRecordReceive _ record => decide (record.length = 64)
  | .identityAckReceive .. | .trainingAttemptTimeout .. | .lossOfSignal .. | .spkSelfWrite .. | .planOpen ..
  | .planClose .. | .recheck .. | .packetSend .. | .egressLate .. | .transitRingHop .. | .packetReceive ..
  | .linkWordReceive .. | .routingSwitch | .linkKeyCred .. | .linkKeyEncap .. | .linkKeyConfirm .. | .linkKeyAbort ..
  | .linkKeyStepTimeout .. | .linkKeyRetry .. | .linkEpochAdvance .. | .getReport .. | .openSession ..
  | .releaseKey .. | .getTelemetry .. | .closeSession .. | .getCredential .. | .entropy .. | .spdmMessage ..
  | .stopInterface .. | .unitErrorSignal .. | .unitResyncDone .. | .odometerUpdate | .ibiRepeat | .i3cTargetReset
  | .getpid | .getbcr | .getdcr | .getstatus | .getmwl | .getmrl | .setmwl .. | .setmrl .. | .entdaa .. | .rstdaa
  | .enec | .disec | .getmodstat | .modreset .. | .setEndpointId .. | .getEndpointId | .getMctpVersionSupport
  | .getMessageTypeSupport | .getTid | .setTid .. | .getPldmVersion .. | .getPldmTypes | .getPldmCommands ..
  | .getPdrRepositoryInfo | .getPdr .. | .getSensorReading .. | .getStateSensorReadings ..
  | .getNumericEffecterValue .. | .getStateEffecterStates .. | .trayCap .. | .trayGearMax .. | .leaseRenewal ..
  | .leaseLaps .. | .lapseCap .. | .confAlways .. | .moduleResetEffecter .. | .pollForPlatformEventMessage ..
  | .eventMessageBufferSize .. | .getFruRecordTableMetadata | .getFruRecordTable | .queryDeviceIdentifiers
  | .getFirmwareParameters | .requestUpdate .. | .passComponentTable .. | .updateComponent .. => true
  | .requestFirmwareData _ data => decide (data.length = 4096)
  | .activateFirmware | .getStatus | .cancelUpdateComponent | .cancelUpdate | .pieceSubmit .. | .pieceProgramDone ..
  | .bundleVerifyDone .. | .updArm .. | .updCancel .. | .pcieLinkUp .. | .settingRecordCommit | .tripWaitEnd => true

end Sys2Proof
end

