-- ==== Sys2Proof/Safety.lean ====
section
/-! DEFINITION. What the statements mean by a safe state and a safe step: the stores keep their one canonical form, and a
step answers a next state. -/

namespace Sys2Proof

open Sys2Proof.Machine

/-- The canonical form of module memory: addresses strictly rising. What an unlisted address reads as is a free value, so no
listed byte can be told equal to it. DESIGN CHOICE: assumption 5. -/
def Memory.wf (m : List Host.Cell) : Bool := rising m

/-- The canonical form of a store whose unlisted bytes read 0: addresses strictly rising, and no listed byte 0. DESIGN CHOICE:
assumption 6. -/
def Memory.zeroWf (m : List Host.Cell) : Bool := rising m && m.all (fun c => decide (c.2 ≠ 0))

/-- The four stores of the module are in canonical form. -/
def Machine.State.storesWf (s : State) : Bool :=
  Memory.wf s.mem && Memory.zeroWf s.scr && Memory.zeroWf s.wslots && Memory.zeroWf s.stage

/-- A command that its sender can have sent in this state: it is well formed, and the bytes that answer a load's read are
those the load asked for. DESIGN CHOICE: assumption 4. DEDUCED: assumption 77. -/
def Instr.sendable (c : Instr) (s : State) : Bool := c.wellFormed && match c with
  | .loadReadDone image => (match s.load with
    | none => true
    | some ld => decide (image.length = ld.length.toNat))
  | _ => true

/-- No word of a store (0 module memory, 1 scratchpads, 2 weight slots, 3 staging memories) holds an error. -/
def Machine.State.clean (s : State) (st : Nat) : Prop := ∀ w, sget [] s.upset (upsetKey st w) = []

/-- It is the turn of a port's mailbox request, and the request has the opcode (R338). -/
def Machine.State.turnOf (s : State) (p : Port) (op : Nat) : Prop :=
  s.ctl ∧ s.lodge.waiting.head? = some p.val ∧ (s.port p).mailbox.opcode = some op

/-- The queues that the spec bounds hold no more than it allows: 256 event records in the queue and in a save (R366), 1,024
completions of a ring (R323), 16 sessions (R344) with 64 released keys each (R346). -/
def Machine.State.bounded (s : State) : Prop :=
  s.mgmt.events.length ≤ 256 ∧ (∀ v, s.flash.save0 = some v ∨ s.flash.save1 = some v → v.events.length ≤ 256) ∧
  (∀ r : Nat, (s.ring r).pend.length ≤ 1024) ∧ s.lodge.sessions.length ≤ 16 ∧ ∀ x ∈ s.lodge.sessions, x.keys.length ≤ 64

/-- The step answers a next state. -/
def Machine.State.stepsOn (s : State) : Prop := ∃ t, step s = .next t

end Sys2Proof
end

