-- ==== Sys2Proof/Certificates/Slice0/Obligations.lean ====
section
/-! DEFINITION. The statements for the provers: what the rules of spec/ say that each command does, family by family, and the
invariants that every step keeps. -/

open Sys2Proof Sys2Proof.Machine

/-- A step runs the command at the front of the queue on the state with the queue's rest. With no command waiting one CADREF cycle
passes: a counted tick other than 00000 and 65535 with no strobe due moves the tick alone, tick 00000 ends with the starts of
allotments and runs, the shift point and the routing start, tick 65535 waits for LAP_BOUNDARY, and without CADREF nothing
changes. The queue of commands is the model's (assumption 1), and so is what an empty queue does (assumption 2). -/
def Obligations.StepRunsFrontCommand : Prop :=
  (∀ (s : State) (c : Instr) (rest : List Instr), s.pending = c :: rest → step s = exec c { s with pending := rest }) ∧
  (∀ s : State, s.pending = [] → step s = .next (idleCycle s)) ∧
  (∀ s : State, s.timed → s.cad.tick ≠ 0 → s.cad.tick ≠ 65535 → (∀ g : Sgrp, (s.strobe g.val).due = false) →
    idleCycle s = { s with cad := { s.cad with tick := s.cad.tick + 1 } }) ∧
  (∀ s : State, s.timed → s.cad.tick = 0 → idleCycle s = beginCycle (countTick (deferSwitch (shiftPoint (takeStarts s))))) ∧
  (∀ s : State, s.timed → s.cad.tick = 65535 → idleCycle s = s) ∧
  ∀ s : State, s.clocked = false → s.counting = false → idleCycle s = s

/-- R21, R22, R41, R42: the first lap mark starts cadence time at lap 0; a mark at any other tick is a counted error, which sets
MARK_FAULT and moves no time; the loss of CADREF, also during a hold-up save, freezes time and fails every clock and both host
links. R327: lap 0 counts for a port whose link is down. -/
def Obligations.CadenceMarkCommands : Prop :=
  (∀ s : State, s.clocked → s.cad.aligned = false → 1 ≤ s.boot.step.toNat → (∀ g : Sgrp, (s.strobe g.val).due = false) →
    ∃ t, exec .firstLapMark s = .next t ∧ t.cad = { s.cad with lap := 0, tick := 0, aligned := true } ∧
      (∀ p : Port, t.port p = { s.port p with
        downLaps := if (s.port p).downLap ∧ (s.port p).linkUp = false then satAdd (s.port p).downLaps 1 else (s.port p).downLaps
        downLap := !(s.port p).linkUp }) ∧
      t = { s with cad := t.cad, ports := t.ports }) ∧
  (∀ s : State, s.timed → s.cad.tick ≠ 0 →
    ∃ t, exec .misplacedLapMark s = .next t ∧
      t.cad = { s.cad with markErr := satAdd s.cad.markErr 1, markErrLap := true, markFault := true } ∧
      bit (evtBits t) 7 ∧ alertLow t ∧
      t = alertEvents { s with cad := t.cad }) ∧
  ∀ s : State, s.clocked ∨ (s.boot.supply = .saved ∧ s.cad.stopped = false) → rising s.plls →
    ∃ t, exec .cadrefStop s = .next t ∧ t.clocked = false ∧ t.timed = false ∧ t.counting = false ∧
      t.cad = { s.cad with stopped := true, fixedLock := false } ∧
      (∀ p : Port, t.port p = { s.port p with linkUp := false } ∧ t.hears p = false) ∧
      (∀ p : Nat, t.pll p = { s.pll p with activeLock := false, idleLock := false }) ∧
      t = { s with cad := t.cad, plls := t.plls, ports := t.ports }

/-- R26, R27, R309: the steward arms SET or ADOPT where nothing forbids it; an arm with a timetable loaded, with a timed event
armed, or of a SET to a lap of 2^39 or above shows REFUSED, clears ARM and moves no time; the steward cancels; a write from
the other port is ignored and counted; nothing else changes. R25, R26, R29: in tick 00008 a beacon with the lap and SYNCED
leaves on every spoke that is UP; a beacon received in ticks 00008 to 32767 is adopted where ADOPT is armed for its spoke and
its sender is synchronised, and a synchronised module otherwise compares it; one that arrives in another tick, or on a spoke
that is not UP, is ignored. That a beacon with SYNCED = 0 takes the spoke's earlier disagreement back is the model's choice
(assumption 118). -/
def Obligations.SynchronisationCommands : Prop :=
  (
    (∀ (s : State) (p : Port) (k : BitVec 6), s.hears p → s.isSteward p → s.cad.aligned →
      (∀ e ∈ s.allots, e.2.tables = []) → timedArmed s = false →
      (s.cad.syncLapHi.toNat < 0x80 → s.cad.tick ≠ 65535 →
        exec (.syncArmSet p k) s = .next { s with cad := { s.cad with
          syncMode := 1, syncSpoke := k, syncArmed := true, syncRefused := false } }) ∧
      (0x80 ≤ s.cad.syncLapHi.toNat →
        exec (.syncArmSet p k) s = .next { s with cad := { s.cad with
          syncMode := 1, syncSpoke := k, syncArmed := false, syncRefused := true } }) ∧
      exec (.syncArmAdopt p k) s = .next { s with cad := { s.cad with
          syncMode := 2, syncSpoke := k, syncArmed := true, syncRefused := false } }) ∧
    (∀ (s : State) (p : Port) (k : BitVec 6), s.hears p → s.isSteward p →
      timedArmed s ∨ (∃ e ∈ s.allots, e.2.tables ≠ []) →
      exec (.syncArmSet p k) s = .next { s with cad := { s.cad with
          syncMode := 1, syncSpoke := k, syncArmed := false, syncRefused := true } } ∧
      exec (.syncArmAdopt p k) s = .next { s with cad := { s.cad with
          syncMode := 2, syncSpoke := k, syncArmed := false, syncRefused := true } }) ∧
    (∀ (s : State) (p : Port), s.hears p → s.isSteward p →
      exec (.syncCancel p) s = .next { s with cad := { s.cad with syncArmed := false } }) ∧
    ∀ (s : State) (p : Port) (k : BitVec 6), s.hears p → s.isSteward p = false →
      exec (.syncArmSet p k) s = .next (countNs p s) ∧ exec (.syncArmAdopt p k) s = .next (countNs p s) ∧
      exec (.syncCancel p) s = .next (countNs p s)) ∧
  (
    (∀ s : State, s.timed → s.cad.tick = 8 →
      exec .lapBeaconSend s = .next { s with out := s.out ++ s.spokesUp.map (fun k =>
        .linkWord k { epoch := s.linkEpoch k, beacon := some (s.cad.lap, s.cad.synced) }) }) ∧
    (∀ (s : State) (k : Nat), k ∈ s.spokesUp ↔ k < 36 ∧ (s.spk k).state = 5) ∧
    (∀ (s : State) (k : Spoke) (lap : BitVec 40), s.timed → 8 ≤ s.cad.tick.toNat → s.cad.tick.toNat ≤ 32767 →
      (s.spk k.val).state = 5 → s.cad.syncArmed → s.cad.syncMode = 2 → s.cad.syncSpoke.toNat = k.val →
      exec (.lapBeaconReceive k lap true) s = .next { s with cad := { s.cad with
        lap := lap, synced := true, syncArmed := false, mismatch := s.cad.mismatch &&& ~~~BitVec.twoPow 36 k.val } }) ∧
    (∀ (s : State) (k : Spoke) (lap : BitVec 40) (sy : Bool), s.timed → 8 ≤ s.cad.tick.toNat → s.cad.tick.toNat ≤ 32767 →
      (s.spk k.val).state = 5 → s.cad.synced →
      (s.cad.syncArmed = false ∨ s.cad.syncMode ≠ 2 ∨ s.cad.syncSpoke.toNat ≠ k.val ∨ sy = false) →
      ∃ t, exec (.lapBeaconReceive k lap sy) s = .next t ∧
        t.cad = { s.cad with mismatch := t.cad.mismatch } ∧
        (t.cad.mismatch.getLsbD k.val ↔ sy ∧ lap ≠ s.cad.lap) ∧
        (∀ j, j ≠ k.val → t.cad.mismatch.getLsbD j = s.cad.mismatch.getLsbD j) ∧
        t = { s with cad := t.cad }) ∧
    (∀ (s : State) (k : Spoke) (lap : BitVec 40) (sy : Bool), s.cad.synced = false →
      (s.cad.syncArmed = false ∨ s.cad.syncMode ≠ 2 ∨ s.cad.syncSpoke.toNat ≠ k.val ∨ sy = false) →
      exec (.lapBeaconReceive k lap sy) s = .next s) ∧
    ∀ (s : State) (k : Spoke) (lap : BitVec 40) (sy : Bool),
      s.cad.tick.toNat < 8 ∨ 32767 < s.cad.tick.toNat ∨ (s.spk k.val).state ≠ 5 →
      exec (.lapBeaconReceive k lap sy) s = .next s)

/-- R36, R21, R22, R26: at the lap boundary the live counters, with what the scrubbers still owe of the lap (assumption 40), are
latched and restart from 0, the tick returns to 00000, the lap goes up by 1 or takes the lap of an armed SET, which sets
SYNCED and clears ARM, and a missing lap mark is counted. R276: the lease falls by 1 and lapses at 0, with its event. R288, R278: of
a lap with a power sample K, CAL_FLAG and the governing power follow from the measure and the estimate, and the basis is the
lap's unless it was held or shifted. R291: a diode implausible in 8 laps in a row has failed. R277: the two temperature ceilings and
the four thresholds of flow and inlet step by the lap's figures. R294: an open loop for a whole lap sets LEAK, a closed one clears
it. R279: PERMITTED is found from the new basis and the lease. R375: a unit of gatehouse 0 that is in step takes its role back.
R395: an allotment whose reset waits has its scratchpad zeroed, its banks report it, its turnstiles are idle, and no other
allotment changes. R227: draining ends. R169: H returns to 0 once the held lap has ended. R327, R370: a lap with the link down and the
lap itself are counted. R407: an activation armed for the lap is refused with 0xC or 0xD, or it names the bank of the session and the
module resets. The sums stand for the means of assumption 11, and what a reset zeroes at the boundary is assumption 52. -/
def Obligations.LapBoundaryLatches : Prop :=
  (∀ (s : State) (mark : Bool) (m : LapMeasure), s.timed → s.cad.tick = 65535 → s.upd.armed = none →
    (∀ g : Sgrp, (s.strobe g.val).due = false) →
    ∃ t, exec (.lapBoundary mark m) s = .next t ∧
      t.latched = (scrubLap s).live ∧ ((∀ u, s.scrubLeft u = 0) → (scrubLap s).live = s.live) ∧ t.live = [] ∧
      t.cad.tick = 0 ∧ t.cad.latchLap = s.cad.lap.setWidth 32 ∧
      t.cad.lap = (if s.cad.syncArmed ∧ s.cad.syncMode = 1 then s.cad.syncLapHi ++ s.cad.syncLapLo else s.cad.lap + 1) ∧
      (t.cad.synced ↔ s.cad.synced ∨ s.cad.syncArmed ∧ s.cad.syncMode = 1) ∧
      (t.cad.syncArmed ↔ s.cad.syncArmed ∧ s.cad.syncMode ≠ 1) ∧
      t.cad.markErrLap = !mark ∧
      t.cad.markErr = (if mark then s.cad.markErr else satAdd s.cad.markErr 1) ∧
      (t.cad.markFault ↔ mark = false ∨ (s.cad.markErrLap ∧ s.cad.markFault)) ∧
      t.mem = s.mem ∧ t.boot = s.boot ∧ t.steward = s.steward ∧ t.upd = s.upd ∧
      (s.ctl → t.pwr.leaseLeft = (if s.pwr.leaseLeft = 0 then 0 else s.pwr.leaseLeft - 1) ∧
        (t.pwr.lapsed ↔ s.pwr.lapsed ∨ s.pwr.leaseLeft = 1) ∧
        (s.pwr.leaseLeft = 1 → s.mgmt.lostRun = 0 → s.mgmt.events.length ≤ 200 →
          ∃ e ∈ t.mgmt.events, e.type = 0x0006 ∧ e.stamp = t.now) ∧
        t.pwr.permitted = BitVec.ofNat 3 (permittedOf t.offered t.ceiling t.gear.gear.toNat (effCap t.pwr) t.pwr.basis) ∧
        t.pwr.capUnmet = !fits (predict t.pwr.basis 1 14) (effCap t.pwr) 1) ∧
      (s.ctl → s.acc.n ≠ 0 →
        let meas : Rat := meanOf s.acc.sVI s.acc.n / 1000000
        let raw : Rat := (m.eRaw : Rat) / 1000
        let near : Bool := decide (|s.pwr.k * raw - meas| ≤ 15 / 100 * meas)
        t.pwr.powerL = meas ∧ t.pwr.estL = s.pwr.k * raw ∧
        (near → m.eRaw ≠ 0 → t.pwr.k = s.pwr.k + (meas / raw - s.pwr.k) / 8) ∧ (near = false → t.pwr.k = s.pwr.k) ∧
        (t.pwr.calFlag ↔ near = false ∨ 102 / 100 * meas < meanOf s.acc.sRails s.acc.n / 1000000) ∧
        (∃ pGov : Rat, pGov = (if near then meas else max meas (s.pwr.k * raw)) ∧
          t.pwr.history = (pGov :: s.pwr.history).take 64 ∧
          (s.acc.held = false → s.acc.shifted = false →
            t.pwr.basis.pGov = pGov ∧ t.pwr.basis.sH = (m.sH : Rat) / 1000 ∧ (s.gear.gear ≠ 0 → t.pwr.basis.gear = s.gear.gear) ∧
            t.pwr.basis.level = ((s.acc.lvlSum + s.pwr.brake * (65536 - s.acc.lvlFrom) : Nat) : Rat) / 65536)) ∧
        (s.acc.held ∨ s.acc.shifted → t.pwr.basis = s.pwr.basis) ∧
        (∀ i : Nat, i < 64 → s.thm.failed.length = 4 →
          let failed := (s.thm.failed.getD (i / 16) 0).getLsbD (i % 16)
          let bad := implausible (s.thm.failed.getD (i / 16) 0) ((s.acc.sDiode.drop (16 * (i / 16))).take 16) s.acc.sIn s.acc.n (i % 16)
          let laps := sget 0 s.thm.badLaps i
          ((t.thm.failed.getD (i / 16) 0).getLsbD (i % 16) ↔ failed ∨ bad ∧ 7 ≤ laps) ∧
          sget 0 t.thm.badLaps i = (if failed then laps else if bad ∧ laps < 7 then laps + 1 else 0)) ∧
        (∀ x ∈ [(s.acc.tpMax.any (fun x => decide (100000 ≤ x)), s.acc.tpMax.all (fun x => decide (x ≤ 92000)),
              s.thm.pavCeil, t.thm.pavCeil),
            (s.acc.stkMax.any (fun x => decide (95000 ≤ x)), s.acc.stkMax.all (fun x => decide (x ≤ 88000)),
              s.thm.hbmCeil, t.thm.hbmCeil)],
          let (hot, cool, c, c') := x
          let may := ∀ l ∈ c.setAt, l.toNat + 4 ≤ s.cad.lap.toNat
          (hot → may → c' = ⟨BitVec.ofNat 3 (min c.gear.toNat (nextBelow s.offered s.gear.gear.toNat)), some s.cad.lap, 0⟩) ∧
          (hot = false → cool → c.gear ≠ 5 → 255 ≤ c.okLaps → c' = { c with
            gear := if nextAbove s.offered c.gear.toNat = c.gear.toNat then 5 else BitVec.ofNat 3 (nextAbove s.offered c.gear.toNat)
            okLaps := 0 }) ∧
          (hot = false → cool → c.gear ≠ 5 → c.okLaps < 255 → c' = { c with okLaps := c.okLaps + 1 }) ∧
          ((hot ∧ ¬may) ∨ (hot = false ∧ (cool = false ∨ c.gear = 5)) → c' = { c with okLaps := 0 })) ∧
        (∀ x ∈ [(decide (meanOf s.acc.sFlow s.acc.n < 600), s.thm.flow60, t.thm.flow60),
            (decide (meanOf s.acc.sFlow s.acc.n < 450), s.thm.flow45, t.thm.flow45),
            (decide (40000 < meanOf s.acc.sIn s.acc.n), s.thm.inlet40, t.thm.inlet40),
            (decide (45000 < meanOf s.acc.sIn s.acc.n), s.thm.inlet45, t.thm.inlet45)],
          let (beyond, b, b') := x
          (beyond → b' = ⟨true, 0⟩) ∧ (beyond = false → b.on → 255 ≤ b.okLaps → b' = ⟨false, 0⟩) ∧
          (beyond = false → b.on → b.okLaps < 255 → b' = ⟨true, b.okLaps + 1⟩) ∧ (beyond = false → b.on = false → b' = b)) ∧
        (t.thm.leak ↔ s.acc.open_ ∨ (s.acc.closed = false ∧ s.thm.leak))) ∧
      (s.ctl → ∀ r ∈ [0, 1], (t.active r ↔ s.active r ∧ (s.unit (unitIx r false)).inStep = false)) ∧
      (∀ (n : Nat) (a : AllotSt), s.allot n = some a → a.reset ≠ .boundary → t.allot n = some a) ∧
      (∀ (n : Nat) (a : AllotSt), s.allot n = some a → a.reset = .boundary →
        t.allot n = some { a with shadow := none, stopped := false, faulted := false, plans := [], tiles := []
                                  restLap := some t.cad.lap, reset := .zeroing } ∧
        (∀ g : Fin 16, a.groups.getLsbD g.val → ∀ i : Nat, i < 2 ^ 26 → t.byte 1 (g.val * 2 ^ 26 + i) = 0) ∧
        (∀ b ∈ a.banks, b ∈ t.zeroing) ∧ (∀ mv ∈ a.movers, (t.mover mv).stopped = false) ∧
        (∀ x ∈ a.arrayIxs, (t.arr x).flights = [] ∧ (t.arr x).issues = []) ∧
        ∀ k : Nat, (s.trn k).owner = some (BitVec.ofNat 4 n) →
          t.trn k = { owner := (s.trn k).owner, link := (s.trn k).link, plan := (s.trn k).plan, seg := (s.trn k).seg }) ∧
      t.rte = { s.rte with draining := false } ∧
      t.hold = { s.hold with h := if s.hold.hold = false ∧ s.hold.lapEnd.toNat ≤ t.now.toNat then 0 else s.hold.h } ∧
      (∀ p : Port, t.port p = { s.port p with
        downLaps := if (s.port p).downLap ∧ (s.port p).linkUp = false then satAdd (s.port p).downLaps 1 else (s.port p).downLaps
        downLap := !(s.port p).linkUp, evtDue := (t.port p).evtDue }) ∧
      t.mgmt.odo.powered = s.mgmt.odo.powered + 1) ∧
  ∀ (s : State) (mark : Bool) (m : LapMeasure) (l : BitVec 40), s.timed → s.cad.tick = 65535 → s.cad.syncArmed = false →
    s.upd.armed = some l → l = s.cad.lap + 1 → (∀ g : Sgrp, (s.strobe g.val).due = false) →
    ∃ t, exec (.lapBoundary mark m) s = .next t ∧ t.pending = s.pending ∧
      (s.upd.state ≠ 3 → t.upd = { s.upd with armed := none, result := 0xC } ∧ t.boot = s.boot) ∧
      (s.upd.state = 3 → s.allots ≠ [] ∨ s.frc.saved ∨ s.lodge.pairLost ∨ s.thm.trip →
        t.upd = { s.upd with armed := none, result := 0xD } ∧ t.boot = s.boot) ∧
      (s.upd.state = 3 → s.allots = [] → s.frc.saved = false → s.lodge.pairLost = false → s.thm.trip = false →
        t.flash.active = s.upd.bank ∧ t.upd.armed = none ∧ t.boot = { supply := .railOff, slot := s.boot.slot } ∧
        t.cad = {} ∧ t.allots = [] ∧
        (s.mgmt.odoRead → t.mgmt.odo.activations = s.mgmt.odo.activations + 1 ∧ t.mgmt.inv = t.mgmt.odo))

/-- R32, R33, R34, R170, R268, R269, R270: an idle PLL that is programmed locks, and where an upshift is due the VCORE of its
pavilion slews to the new level from the next tick on; after a trip it stays off (R295). At tick 32767 a lock check that finds every idle PLL locked lets the
shift stand; one that finds one unlocked cancels it, records PLL_LOCK for the lowest such pavilion and takes ALERT_N low, and
the shift point then stops every timetable. In tick 00004 of the lap of a shift GEAR takes the programmed gear, every pavilion
has changed to its other PLL, an upshift lets fills of 16 restart at 14, a downshift slews every VCORE down, and an event
names both gears; a hold, H not 0 or a trip lets the shift wait. -/
def Obligations.GearShiftCommands : Prop :=
  (∀ (s : State) (p : Pav), s.clocked → s.gear.programmed ≠ 0 → (s.pll p.val).idleLock = false →
    ∃ t, exec (.idlePllLock p) s = .next t ∧ t.pll p.val = { s.pll p.val with idleLock := true } ∧
      (∀ q : Nat, q ≠ p.val → t.pll q = s.pll q) ∧
      (s.gear.shiftDue = false ∨ s.gear.programmed.toNat ≤ s.gear.gear.toNat ∨ s.thm.trip → t.gear = s.gear) ∧
      (s.gear.shiftDue → s.gear.gear.toNat < s.gear.programmed.toNat → s.thm.trip = false →
        t.gear = { s.gear with slews := t.gear.slews } ∧
        sget {} t.gear.slews p.val = ⟨coreLevel (sget {} s.gear.slews p.val) s.now, coreMv s.gear.programmed.toNat, later 1 s.now⟩ ∧
        ∀ q : Nat, q ≠ p.val → sget {} t.gear.slews q = sget {} s.gear.slews q) ∧
      t = { s with plls := t.plls, gear := t.gear }) ∧
  (∀ s : State, s.ctl → s.timed → s.cad.tick = 32767 → s.gear.shiftDue → (∀ p : Pav, (s.pll p.val).idleLock) →
    exec .pllLockCheck s = .next s) ∧
  (∀ s : State, s.gear.shiftDue = false → exec .pllLockCheck s = .next s) ∧
  (∀ s : State, s.ctl → s.timed → s.cad.tick = 32767 → s.gear.shiftDue → ∀ p : Pav, (s.pll p.val).idleLock = false →
    (∀ q : Pav, q < p → (s.pll q.val).idleLock) →
    ∃ t, exec .pllLockCheck s = .next t ∧
      t = writeFault (0x10010000#32 + BitVec.ofNat 32 p.val) 0 7 0xFF none { s with gear := { s.gear with
        shiftDue := false, lockFailed := some (BitVec.ofNat 2 p.val), pllFault := true } } ∧
      t.gear.gear = s.gear.gear ∧ alertLow t) ∧
  (∀ s : State, s.gear.lockFailed ≠ none → s.clear →
    shiftPoint s = stopAll { s with gear := { s.gear with lockFailed := none } }) ∧
  (∀ s : State, s.ctl → s.timed → s.cad.tick = 4 → s.gear.shiftDue → s.clear → s.thm.trip = false → rising s.ramps →
    ∃ t, exec .gearShift s = .next t ∧
      t.gear = { s.gear with gear := s.gear.programmed, programmed := s.gear.gear, shiftDue := false, slews := t.gear.slews } ∧
      (∀ p : Pav, t.pll p.val = {
        active := !(s.pll p.val).active, activeLock := (s.pll p.val).idleLock
        idleLock := (s.pll p.val).activeLock, ratio := BitVec.ofNat 5 (cptOf s.gear.gear.toNat) }) ∧
      (s.gear.gear.toNat < s.gear.programmed.toNat → t.gear.slews = s.gear.slews ∧
        ∀ g : Nat, t.ramp g = if (s.ramp g).level = 16 then
          { s.ramp g with level := 14, recover := decide ((s.ramp g).target = 16) } else s.ramp g) ∧
      (s.gear.programmed.toNat ≤ s.gear.gear.toNat → t.ramps = s.ramps ∧
        ∀ p : Pav, sget {} t.gear.slews p.val =
          ⟨coreLevel (sget {} s.gear.slews p.val) s.now, coreMv s.gear.programmed.toNat, s.now⟩) ∧
      t = queueEvent 0x0007 0 (BitVec.ofNat 32 (16 * s.gear.gear.toNat + s.gear.programmed.toNat)) 0
        { s with plls := t.plls, gear := t.gear, acc := { s.acc with shifted := true }, ramps := t.ramps }) ∧
  ∀ s : State, s.clear = false ∨ s.thm.trip ∨ s.gear.shiftDue = false → exec .gearShift s = .next s

/-- R269, R273: a ramp step moves every array group's level by 1 toward its goal and changes nothing else; a recovery step raises
by 1 the level of every group on the recovery ramp of an upshift, which ends at 16. R274: the arrays of an allotment take the
rest level of their pavilion as their target, or 16 before and during a run; every other group keeps its target, no level
moves in the command's own tick, and where no ramp was under way the first step is due 15 ticks on (assumption 19). -/
def Obligations.RampCommands : Prop :=
  (
    (∀ s : State, s.ctl → s.timed → s.ramping → s.gear.rampNext.toNat ≤ s.now.toNat →
      (s.now.toNat - s.gear.rampNext.toNat) % 16 = 0 → rising s.ramps →
      ∃ t, exec .rampStep s = .next t ∧
        (∀ g : Nat, (s.ramp g).recover = false →
          (t.ramp g).target = (s.ramp g).target ∧ (t.ramp g).recover = false ∧
          ((s.ramp g).level < rampGoal s.hold (s.ramp g) → (t.ramp g).level = (s.ramp g).level + 1) ∧
          (rampGoal s.hold (s.ramp g) < (s.ramp g).level → (t.ramp g).level + 1 = (s.ramp g).level) ∧
          ((s.ramp g).level = rampGoal s.hold (s.ramp g) → (t.ramp g).level = (s.ramp g).level)) ∧
        (∀ g : Nat, (s.ramp g).recover → t.ramp g = s.ramp g) ∧
        t = { s with ramps := t.ramps }) ∧
    (∀ s : State, s.ramping = false ∨ s.now.toNat < s.gear.rampNext.toNat ∨
      (s.now.toNat - s.gear.rampNext.toNat) % 16 ≠ 0 → exec .rampStep s = .next s) ∧
    ∀ s : State, s.ctl → s.timed → 260 ≤ s.cad.tick.toNat → (s.cad.tick.toNat - 4) % 256 = 0 → rising s.ramps →
      ∃ t, exec .recoveryRampStep s = .next t ∧
        (∀ g : Nat, (s.ramp g).recover → t.ramp g = { s.ramp g with
          level := (s.ramp g).level + 1, recover := decide ((s.ramp g).level + 1 < 16) }) ∧
        (∀ g : Nat, (s.ramp g).recover = false → t.ramp g = s.ramp g) ∧
        t = { s with ramps := t.ramps }) ∧
  (
    (∀ (s : State) (a : Allot) (x : AllotSt) (l : BitVec 40), s.allot a.val = some x → s.ctl → s.timed → x.run = none →
      x.pendRun = none → x.restLap = some l → l.toNat ≤ s.cad.lap.toNat →
      ∃ t, exec (.restRampStart a) s = .next t ∧
        (∀ g : Nat, t.ramp g = if g < 16 ∧ x.groups.getLsbD g then
          { s.ramp g with target := s.restLevel g, recover := false } else s.ramp g) ∧
        t.allot a.val = some { x with restLap := none } ∧ (∀ b : Nat, b ≠ a.val → t.allot b = s.allot b) ∧
        t = { s with ramps := t.ramps, allots := t.allots, gear := { s.gear with
          rampNext := if s.ramping then s.gear.rampNext else timeOf (s.now.toNat + 15) } }) ∧
    ∀ (s : State) (a : Allot) (x : AllotSt), s.allot a.val = some x → s.ctl → s.timed →
      x.run ≠ none ∨ x.pendRun ≠ none →
      ∃ t, exec (.runRampStart a) s = .next t ∧
        (∀ g : Nat, t.ramp g = if g < 16 ∧ x.groups.getLsbD g then { s.ramp g with target := 16 } else s.ramp g) ∧
        t.allot a.val = some { x with restLap := none } ∧ (∀ b : Nat, b ≠ a.val → t.allot b = s.allot b) ∧
        t = { s with ramps := t.ramps, allots := t.allots, gear := { s.gear with
          rampNext := if s.ramping then s.gear.rampNext else timeOf (s.now.toNat + 15) } })

/-- R272, R280: the brake level is 14 while no cap can be met or a governing temperature is at 100 °C, else the highest of 16, 15
and 14 whose predicted power fits under the effective cap; in tick 00004 a shift of the lap comes first, and in S6 the level stays
where the known-answer runs have it (R386). R286, R287, R169:
BRAKE sampled high at a brake point begins a hold, in which every ramp falls; BRAKE sampled low sets the release 320 ticks on,
which a later high sample cancels, up to and including that of the release brake point itself; at the release H grows by the ticks the hold has lasted and every timetable is delayed by
them. -/
def Obligations.BrakeCommands : Prop :=
  (
    (∀ s : State, s.ctl → s.timed → (s.pwr.brakeDue ∨ s.cad.tick = 4) → s.shiftNow = false → s.inS6 = false →
      ∃ t, exec .brakeLevelEval s = .next t ∧
        ((s.pwr.capUnmet ∨ ∃ x ∈ s.thm.tp, (100000 : Rat) ≤ x) → t.pwr.brake = 14) ∧
        (s.pwr.capUnmet = false → (∀ x ∈ s.thm.tp, x < (100000 : Rat)) →
          (fits (predict s.pwr.basis s.gear.gear.toNat 16) (effCap s.pwr) 1 → t.pwr.brake = 16) ∧
          (fits (predict s.pwr.basis s.gear.gear.toNat 16) (effCap s.pwr) 1 = false →
            fits (predict s.pwr.basis s.gear.gear.toNat 15) (effCap s.pwr) 1 → t.pwr.brake = 15) ∧
          (fits (predict s.pwr.basis s.gear.gear.toNat 16) (effCap s.pwr) 1 = false →
            fits (predict s.pwr.basis s.gear.gear.toNat 15) (effCap s.pwr) 1 = false → t.pwr.brake = 14)) ∧
        t = { s with pwr := { s.pwr with brake := t.pwr.brake, brakeDue := false }, acc := { s.acc with
          lvlSum := s.acc.lvlSum + s.pwr.brake * (s.cad.tick.toNat - s.acc.lvlFrom), lvlFrom := s.cad.tick.toNat } }) ∧
    ∀ s : State, s.shiftNow ∨ s.inS6 ∨ s.pwr.brakeDue = false ∧ s.cad.tick ≠ 4 → exec .brakeLevelEval s = .next s) ∧
  (
    (∀ s : State, s.ctl → s.brakePoint → s.hold.hold = false → (∀ r, s.hold.resumed = some r → r.at_ ≠ s.now) → rising s.ramps →
      ∃ t, exec .holdBegin s = .next t ∧
        t.hold = { s.hold with hold := true, at_ := s.now, releaseAt := none } ∧ t.allots = s.allots ∧
        (∀ g : Nat, t.ramp g = { s.ramp g with recover := false } ∧ rampGoal t.hold (t.ramp g) = 0) ∧
        t = { s with hold := t.hold, acc := { s.acc with held := true }, ramps := t.ramps, gear := { s.gear with
          rampNext := if s.ramping then s.gear.rampNext else timeOf (s.now.toNat + 15) } }) ∧
    (∀ s : State, s.ctl → s.brakePoint → s.hold.hold → s.hold.releaseAt ≠ none →
      exec .holdBegin s = .next { s with hold := { s.hold with releaseAt := none }, gear := { s.gear with
        rampNext := if s.ramping then s.gear.rampNext else timeOf (s.now.toNat + 15) } }) ∧
    (∀ s : State, s.ctl → s.brakePoint → s.hold.hold → s.hold.releaseAt = none →
      exec .holdBegin s = .next s ∧
      exec .brakeReleaseSample s = .next { s with
        hold := { s.hold with releaseAt := some (timeOf (s.now.toNat + 320)) }
        gear := { s.gear with rampNext := if s.ramping then s.gear.rampNext else timeOf (s.now.toNat + 15) } }) ∧
    (∀ s : State, s.brakePoint = false → exec .holdBegin s = .next s ∧ exec .brakeReleaseSample s = .next s) ∧
    ∀ s : State, s.timed → s.hold.hold → s.hold.releaseAt = some s.now →
      ∃ t, exec .holdRelease s = .next t ∧ t.hold.hold = false ∧ t.hold.releaseAt = none ∧
        t.hold.h = s.hold.h + (s.now.toNat - s.hold.at_.toNat) ∧
        (∀ (n : Nat) (a : AllotSt), s.allot n = some a →
          (t.allot n).map (·.pos) = some (a.pos.map (movePos (later (s.now.toNat - s.hold.at_.toNat))))) ∧
        t = moveAll (later (s.now.toNat - s.hold.at_.toNat)) s.hold.at_ { s with hold := t.hold } ∧
        (s.ctl → s.brakePoint → ∃ u, exec .holdBegin t = .next u ∧ u.hold = { s.hold with releaseAt := none, resumed := none }))

/-- R275, R276, R279, R301, R309, R363, R365: a cap or a gear limit in range is taken, by the steward's register write or by the
tray's effecter, and a renewal gives LEFT the lease length and clears LAPSED; each is followed by a recompute, which sets
PERMITTED and CAP_UNMET, calls for the brake level and queues the alert events; a write from the other port is ignored and
counted; a value out of range changes nothing, and an effecter answers it with ERROR_INVALID_DATA. The command codes 0x31 and
0x39 and the completion code 0x02 of the effecters are presumed (assumption 60). -/
def Obligations.CapCommands : Prop :=
  (∀ (s : State) (p : Port) (d : Word), s.hears p → s.isSteward p → 1 ≤ (fld d 16 3).toNat → (fld d 16 3).toNat ≤ 5 →
    (fld d 0 16 = 0xFFFF#16 ∨ 420 ≤ (fld d 0 16).toNat ∧ (fld d 0 16).toNat ≤ 4200) →
    exec (.hostCapWrite p d) s =
      .next (recompute { s with pwr := { s.pwr with hostGear := fld d 16 3, hostCap := fld d 0 16 } })) ∧
  (∀ (s : State) (p : Port) (d : Word), s.hears p → s.isSteward p →
    ((fld d 16 3).toNat = 0 ∨ 5 < (fld d 16 3).toNat ∨
      fld d 0 16 ≠ 0xFFFF#16 ∧ ((fld d 0 16).toNat < 420 ∨ 4200 < (fld d 0 16).toNat)) →
    exec (.hostCapWrite p d) s = .next s) ∧
  (∀ (s : State) (p : Port) (d : Word), s.hears p → s.isSteward p = false →
    exec (.hostCapWrite p d) s = .next (s.modPort p (fun x => { x with nsWrites := satAdd x.nsWrites 1 })) ∧
    exec (.leaseRenew p) s = .next (s.modPort p (fun x => { x with nsWrites := satAdd x.nsWrites 1 }))) ∧
  (∀ (s : State) (p : Port), s.hears p → s.isSteward p →
    exec (.leaseRenew p) s = .next (recompute { s with pwr := { s.pwr with leaseLeft := s.pwr.leaseLaps, lapsed := false } })) ∧
  (∀ s : State, s.ctl → s.mgmt.addr ≠ none → s.mgmt.eid ≠ 0 →
    (∀ v : BitVec 16, (v = 0xFFFF ∨ 420 ≤ v.toNat ∧ v.toNat ≤ 4200) →
      exec (.trayCap v) s = .next ((recompute { s with pwr := { s.pwr with
        trayCap := v, leaseLeft := s.pwr.leaseLaps, lapsed := false } }).emit (.pldm 2 0x31 0 []))) ∧
    (∀ v : BitVec 16, v ≠ 0xFFFF → v.toNat < 420 ∨ 4200 < v.toNat →
      exec (.trayCap v) s = .next (s.emit (.pldm 2 0x31 0x02 []))) ∧
    (∀ v : BitVec 16, 1 ≤ v.toNat → v.toNat ≤ 5 →
      exec (.trayGearMax v) s = .next ((recompute { s with pwr := { s.pwr with
        trayGear := v.setWidth 3 } }).emit (.pldm 2 0x31 0 []))) ∧
    (∀ v : BitVec 16, v.toNat = 0 ∨ 5 < v.toNat → exec (.trayGearMax v) s = .next (s.emit (.pldm 2 0x31 0x02 []))) ∧
    exec (.leaseRenewal 1) s = .next ((recompute { s with pwr := { s.pwr with
      leaseLeft := s.pwr.leaseLaps, lapsed := false } }).emit (.pldm 2 0x39 0 [])) ∧
    ∀ v : BitVec 8, v ≠ 1 → exec (.leaseRenewal v) s = .next (s.emit (.pldm 2 0x39 0x02 []))) ∧
  ∀ s : State, s.ctl → recompute s = alertEvents { s with pwr := { s.pwr with
    permitted := (recompute s).pwr.permitted, capUnmet := (recompute s).pwr.capUnmet, brakeDue := true } }

/-- R279, R275: after a recompute PERMITTED is the highest offered gear at or below the ceiling whose predicted power at brake
level 16 fits under the effective cap, or under 0.97 of it where it lies above the gear in force; G1 where none does.
CAP_UNMET says whether G1 at level 14 exceeds the effective cap. -/
def Obligations.PermittedGearRule : Prop :=
  ∀ s : State, s.ctl →
    (∀ g ∈ s.offered, g ≤ s.ceiling → fits (predict s.pwr.basis g 16) (effCap s.pwr) (if s.gear.gear.toNat < g then 97 / 100 else 1) →
      g ≤ (recompute s).pwr.permitted.toNat) ∧
    ((recompute s).pwr.permitted.toNat = 1 ∨
      (recompute s).pwr.permitted.toNat ∈ s.offered ∧ (recompute s).pwr.permitted.toNat ≤ s.ceiling ∧
      fits (predict s.pwr.basis (recompute s).pwr.permitted.toNat 16) (effCap s.pwr)
        (if s.gear.gear.toNat < (recompute s).pwr.permitted.toNat then 97 / 100 else 1)) ∧
    ((recompute s).pwr.capUnmet ↔ ∃ c, effCap s.pwr = some c ∧ (c : Rat) < predict s.pwr.basis 1 14) ∧
    effCap (recompute s).pwr = effCap s.pwr ∧ (recompute s).gear = s.gear

/-- R335, R353, R365: a setting in range begins its flash record, and takes effect with its response when the record, with its
HMAC under the flash key, commits; a lapse cap enters the effective cap at once where the lease has lapsed; a setting out of
range is answered ERROR_INVALID_DATA and changes nothing. The codes 0x31, 0x39 and 0x02 of the responses are presumed
(assumption 60), and the bytes under the record's HMAC are the model's choice (assumption 112). -/
def Obligations.SettingCommands : Prop :=
  (∀ (s : State) (v : BitVec 16), s.ctl → s.mgmt.addr ≠ none → s.mgmt.eid ≠ 0 →
    exec (.leaseLaps v) s = .next (if 954 ≤ v.toNat then { s with mgmt := { s.mgmt with setting := s.mgmt.setting ++ [(4, v)] } }
      else s.emit (.pldm 2 0x31 0x02 [])) ∧
    exec (.lapseCap v) s = .next (if 420 ≤ v.toNat ∧ v.toNat ≤ 4200 then
        { s with mgmt := { s.mgmt with setting := s.mgmt.setting ++ [(5, v)] } }
      else s.emit (.pldm 2 0x31 0x02 []))) ∧
  (∀ (s : State) (v : BitVec 8), s.ctl → s.mgmt.addr ≠ none → s.mgmt.eid ≠ 0 →
    exec (.confAlways v) s = .next (if v.toNat ≤ 1 then
        { s with mgmt := { s.mgmt with setting := s.mgmt.setting ++ [(6, v.setWidth 16)] } }
      else s.emit (.pldm 2 0x39 0x02 []))) ∧
  (∀ (s : State) (v : BitVec 16) (rest : List (BitVec 8 × BitVec 16)), s.ctl → s.mgmt.setting = (4, v) :: rest →
    exec .settingRecordCommit s = .next (State.emit { s with
      flash := Flash.sealSettings s.lodge.prk { s.flash with leaseLaps := v }
      pwr := { s.pwr with leaseLaps := v }, mgmt := { s.mgmt with setting := rest } } (.pldm 2 0x31 0 []))) ∧
  (∀ (s : State) (v : BitVec 16) (rest : List (BitVec 8 × BitVec 16)), s.ctl → s.mgmt.setting = (5, v) :: rest →
    exec .settingRecordCommit s = .next (State.emit (
      let t := { s with
        flash := Flash.sealSettings s.lodge.prk { s.flash with lapseCap := v }
        pwr := { s.pwr with lapseCap := v }, mgmt := { s.mgmt with setting := rest } }
      if s.pwr.lapsed then recompute t else t) (.pldm 2 0x31 0 []))) ∧
  ∀ (s : State) (v : BitVec 16) (rest : List (BitVec 8 × BitVec 16)), s.ctl → s.mgmt.setting = (6, v) :: rest →
    exec .settingRecordCommit s = .next (State.emit { s with
      flash := Flash.sealSettings s.lodge.prk { s.flash with confAlways := decide (v = 1) }
      mgmt := { s.mgmt with setting := rest } } (.pldm 2 0x39 0 []))

/-- R181, R266, R272, R290, R293: a sample at a brake point is added to the sums of the lap and gives the governing temperatures,
THERMAL, INLET_HIGH, FLOW_SUBST and FLOW_LOW; a trained stack above 85 °C refreshes at twice the rate; a crossing of 100 °C
calls for the brake level; a sample at another tick is none. -/
def Obligations.PowerSampleCommand : Prop :=
  (∀ (s : State) (x : PowerSample), x.wellFormed → s.ctl → s.brakePoint →
    ∃ t, exec (.powerSample x) s = .next t ∧ t.acc.n = s.acc.n + 1 ∧ t.acc.sVI = s.acc.sVI + x.vin * x.iin ∧
      t.acc.sIn = s.acc.sIn + x.tIn ∧ t.acc.sOut = s.acc.sOut + x.tOut ∧
      t.acc = addSample { x with stackT := stackReadings x s } t.thm.tp
        (usedFlow (s.pwr.history.headD s.pwr.basis.pGov) x).1 s.acc ∧
      t.thm.tp = (List.range 4).map (fun p => governing x (s.thm.failed.getD p 0) p) ∧
      (t.thm.thermal ↔ ∃ y ∈ t.thm.tp, (105000 : Rat) ≤ y) ∧ (t.thm.inletHigh ↔ 45000 < x.tIn) ∧
      t.thm.flowSubst = (usedFlow (s.pwr.history.headD s.pwr.basis.pGov) x).2 ∧
      (t.thm.flowLow ↔ (usedFlow (s.pwr.history.headD s.pwr.basis.pGov) x).1 < 300) ∧
      t.thm = { s.thm with tp := t.thm.tp, thermal := t.thm.thermal, inletHigh := t.thm.inletHigh,
                           flowSubst := t.thm.flowSubst, flowLow := t.thm.flowLow } ∧
      (∀ i : Fin 12, t.hbm i.val = if (s.hbm i.val).trained then
        { s.hbm i.val with hot := decide (85000 < x.stackT.getD i.val 0) } else s.hbm i.val) ∧
      (t.pwr.brakeDue ↔ s.pwr.brakeDue ∨ ¬((∃ y ∈ t.thm.tp, (100000 : Rat) ≤ y) ↔ ∃ y ∈ s.thm.tp, (100000 : Rat) ≤ y)) ∧
      t = alertEvents { s with acc := t.acc, thm := t.thm, pwr := { s.pwr with brakeDue := t.pwr.brakeDue }, hbms := t.hbms }) ∧
  ∀ (s : State) (x : PowerSample), x.wellFormed → s.brakePoint = false → exec (.powerSample x) s = .next s

/-- R265, R295, R300, R326, R388, R389: VIN_LOW follows its detection and shows on ALERT_N; a trip opens the VCORE regulators,
latches TRIP, is counted, records the fault of its diode and stops every timetable, and shows on ALERT_N; one that comes
before the wardens run, from VAUX on (R419), records no fault; a trip that has latched already changes nothing. A fault record takes the next of the
32 places with the next sequence number; where it arises in the tick of the record before and ranks ahead of it, by class and
then die, the two stand in that order. -/
def Obligations.AlarmCommands : Prop :=
  (∀ s : State, s.ctl →
    ∃ t, exec .vinLowDetect s = .next t ∧ alertLow t ∧ bit (evtBits t) 5 ∧
      t = alertEvents { s with pwr := { s.pwr with vinLow := true } }) ∧
  (∀ s : State, s.ctl →
    ∃ t, exec .vinLowClear s = .next t ∧ bit (evtBits t) 5 = false ∧
      t = alertEvents { s with pwr := { s.pwr with vinLow := false } }) ∧
  (∀ (s : State) (p : Pav) (d : Fin 16), s.ctl → s.thm.trip = false →
    ∃ t, exec (.thermalTrip p d) s = .next t ∧ t.thm = { s.thm with trip := true } ∧ alertLow t ∧
      t.mgmt.odo.trips = s.mgmt.odo.trips + 1 ∧
      (∀ q : Pav, sget {} t.gear.slews q.val = ⟨0, 0, s.now⟩) ∧
      t.frc = (writeFault (0x70020000#32 + BitVec.ofNat 32 (256 * p.val + d.val)) 0 (BitVec.ofNat 3 p.val) 0xFF none s).frc ∧
      (∀ (n : Nat) (a : AllotSt), s.allot n = some a → t.allot n = some a.fault) ∧
      t = { s with thm := t.thm, gear := { s.gear with slews := t.gear.slews }, frc := t.frc, allots := t.allots,
                   mgmt := t.mgmt, out := t.out, ports := t.ports, evtSeen := t.evtSeen, evtMsg := t.evtMsg }) ∧
  (∀ (s : State) (p : Pav) (d : Fin 16), s.boot.supply ≠ .off → s.ctl = false → s.thm.trip = false →
    ∃ t, exec (.thermalTrip p d) s = .next t ∧ t.thm = { s.thm with trip := true } ∧ t.frc = s.frc ∧ t.allots = s.allots ∧
      (∀ q : Pav, sget {} t.gear.slews q.val = ⟨0, 0, s.now⟩) ∧ t.mgmt.odo.trips = s.mgmt.odo.trips + 1) ∧
  (∀ (s : State) (p : Pav) (d : Fin 16), s.thm.trip → exec (.thermalTrip p d) s = .next s) ∧
  ∀ (s : State) (code : Word) (slice : BitVec 12) (die : BitVec 3) (array : Byte) (entry : Option (BitVec 24)),
    let new : FaultRec := ⟨s.frc.seq + 1, code, faultCtx slice die array entry s.cad.tick, if s.s1Done then s.now else 0⟩
    let old : FaultRec := sget {} s.frc.recs (slotOf s.frc.seq)
    let f := (writeFault code slice die array entry s).frc
    f.seq = s.frc.seq + 1 ∧
    (s.ofTick s.now = 0 ∨ s.ofTick s.now = 1 ∧ old.rank ≤ new.rank → ∀ i : Nat,
      sget {} f.recs i = if i = slotOf (s.frc.seq + 1) then new else sget {} s.frc.recs i) ∧
    (s.ofTick s.now = 1 → new.rank < old.rank → ∀ i : Nat,
      sget {} f.recs i = if i = slotOf (s.frc.seq + 1) then { old with seq := s.frc.seq + 1 }
        else if i = slotOf s.frc.seq then { new with seq := s.frc.seq } else sget {} s.frc.recs i)

/-- R281, R282, R283: the roll-call tick samples the permitted gear and queues for every other member of every peloton a message
with the lap, the own rank and the permitted gear. At tick 16384 the roll call of the lap before is decided: the lowest gear
of the members, one offered gear above the gear in force at most and only where every member has been heard; the messages are
cleared, and the idle PLLs are programmed where the gear changes. -/
def Obligations.RollCallCommands : Prop :=
  (∀ s : State, s.ctl → s.timed → s.cad.tick = 65472 →
    ∃ t, exec .rollCallSample s = .next t ∧
      t.gear = { s.gear with sampled := s.pwr.permitted, sampledLap := some s.cad.lap, msgs := [] } ∧
      t = s.pelotons.foldl (fun s p => sendRollCall p s) { s with gear := t.gear } ∧
      (s.pelotons = [] → t = { s with gear := t.gear }) ∧ t.pwr = s.pwr ∧ t.cad = s.cad ∧ t.mem = s.mem) ∧
  (∀ (s : State) (p : Peloton), (rollPayload s p).length = 32 ∧ leNat (bytesAt (rollPayload s p) 0 4) = s.cad.lap.toNat % 2 ^ 32 ∧
    leNat (bytesAt (rollPayload s p) 4 2) = p.rank % 2 ^ 16 ∧ (byteAt (rollPayload s p) 6).toNat = s.pwr.permitted.toNat ∧
    byteAt (rollPayload s p) 8 = p.variant) ∧
  (∀ s : State, s.cad.tick ≠ 65472 → exec .rollCallSample s = .next s) ∧
  (∀ s : State, s.ctl → s.timed → s.cad.tick = 16384 → s.boot.step = 8 → s.gear.sampledLap = some (s.cad.lap - 1) →
    ∃ t, exec .rollCallDecision s = .next t ∧ t.gear.decided = BitVec.ofNat 3 (decideGear s) ∧ t.gear.gear = s.gear.gear ∧
      t.gear.msgs = [] ∧ t.gear.ignored = 0 ∧ t.gear.rcLap = (s.cad.lap - 1).setWidth 32 ∧
      (t.gear.shiftDue ↔ decideGear s ≠ s.gear.gear.toNat) ∧
      (t.gear.rcIncomplete ↔ ∃ p ∈ s.pelotons, missingRank s p ≠ none) ∧
      t.gear.programmed = (if decideGear s = s.gear.gear.toNat then s.gear.programmed else BitVec.ofNat 3 (decideGear s)) ∧
      (∀ p : Pav, t.pll p.val = if decideGear s = s.gear.gear.toNat ∨ s.gear.programmed.toNat = decideGear s then s.pll p.val
        else { s.pll p.val with idleLock := false, ratio := BitVec.ofNat 5 (cptOf (decideGear s)) }) ∧
      t = takeDecision (s.cad.lap - 1) s ∧ t = { s with gear := t.gear, plls := t.plls }) ∧
  (∀ s : State, s.cad.tick ≠ 16384 ∨ s.boot.step ≠ 8 ∨ s.gear.sampledLap ≠ some (s.cad.lap - 1) →
    exec .rollCallDecision s = .next s) ∧
  (∀ s : State, s.pelotons = [] → decideGear s = offeredAtMost s.offered (if s.gear.gear.toNat < s.gear.sampled.toNat
    then nextAbove s.offered s.gear.gear.toNat else s.gear.sampled.toNat)) ∧
  ∀ (s : State) (p : Peloton) (g : Nat), s.pelotons = [p] →
    g = (s.gear.msgs.filter (fun m => decide (m.slice = p.slice))).foldl (fun g m => min g m.gear.toNat) s.gear.sampled.toNat →
    decideGear s = offeredAtMost s.offered (if missingRank s p ≠ none then min g s.gear.gear.toNat
      else if s.gear.gear.toNat < g then nextAbove s.offered s.gear.gear.toNat else g)

/-- R265, R296, R298, R335, R393: a power loss is recorded, stops every timetable, takes the spokes and host links down and starts
the save, with its HMAC under the flash key, in the slot that was not written last; its pages are programmed one by one and
the commit word after the 23rd, with the other slot erased and the odometer updated (R370), unless CADREF has stopped (R41); below 44.0 V everything but the flash is at its reset value. R265,
R298, R378, R388, R394, R419: VAUX rises from the lockout; with the input risen the slot is sampled, a committed save that
verifies, and that no boot has restored or reported, gives the fault store back with RESTORED, and S0 is entered and counted; S0 follows a rail-off of 100 ms and
waits for the diodes to cool. R420, R427: DDR_PWR_EN is high from the entry of S0 on, and low from a save and in a lockout. The
bytes under the save's HMAC (assumption 45), that the flash key judges the save in S0 already (assumption 123) and what a
lockout keeps (assumption 44) are the model's. -/
def Obligations.SupplyCommands : Prop :=
  (
    (∀ (s : State) (vin : BitVec 16), s.ctl →
      ∃ t, exec (.holdupSave vin) s = .next t ∧ t.boot = { s.boot with supply := .saved } ∧ t.ddrPwrEn = false ∧ alertLow t ∧
        t.frc = { (writeFault (0x70010000#32 + vin.setWidth 32) 0 7 0xFF none s).frc with saved := true } ∧
        (∀ (n : Nat) (a : AllotSt), s.allot n = some a → t.allot n = some a.fault) ∧
        (∃ sv : Save, t.flash = s.flash.beginSave sv ∧ sv = {
          recs := t.frc.recs, seq := t.frc.seq, events := t.mgmt.events
          odo := { s.mgmt.odo with saves := s.mgmt.odo.saves + 1 }
          pwr := s.pwr, at_ := s.now, pages := 0, commit := false, mac := flashMac s.lodge.prk sv.bytes }) ∧
        (∀ p : Port, t.port p = { s.port p with linkUp := false }) ∧ (∀ k : Spoke, (t.spk k.val).state = 0) ∧
        t.gear = { s.gear with slews := [] } ∧ t.upd = { s.upd with busy := [] } ∧
        t.mem = s.mem ∧ t.scr = s.scr ∧ t.pwr = s.pwr ∧ t.thm = s.thm ∧ t.lodge = s.lodge) ∧
    (∀ s : State, s.cad.stopped → exec .savePageDone s = .next s) ∧
    (∀ (s : State) (sv : Save), s.flash.save = some sv → s.boot.supply = .saved → s.cad.stopped = false → sv.pages < 23 →
      exec .savePageDone s = .next { s with flash := s.flash.setSave (some { sv with pages := sv.pages + 1 }) }) ∧
    (∀ (s : State) (sv : Save), s.flash.save = some sv → s.boot.supply = .saved → s.cad.stopped = false → 23 ≤ sv.pages →
      sv.commit = false → exec .savePageDone s = .next { s with
        flash := ((s.flash.setSave (some { sv with commit := true })).eraseOther).writeOdo s.lodge.prk sv.odo
        mgmt := { s.mgmt with odo := sv.odo, inv := sv.odo } }) ∧
    ∀ s : State, ∃ t, exec .undervoltageLockout s = .next t ∧ t.flash = s.flash ∧ t.ddrPwrEn = false ∧
      t = { State.reset with
        boot := { supply := .off }, flash := s.flash, fresh := s.fresh, out := s.out, pending := s.pending
        upd := { s.upd with busy := [], window := [], piece := 0, last := 0, armRefused := false } }) ∧
  (
    (∀ s : State, s.boot.supply = .off → exec .vauxStart s = .next { s with boot := { s.boot with supply := .aux } }) ∧
    (∀ (s : State) (slot : BitVec 2), s.boot.supply = .aux →
      ∃ t, exec (.powerGood slot) s = .next t ∧ t.ddrPwrEn = true ∧
        (∀ sv : Save, s.flash.save = some sv → sv.verifies s.flash.prk → sv.told = false → sv.restored = false →
          t.frc = { recs := sv.recs, seq := sv.seq, restored := true } ∧ t.flash = s.flash.setSave (some { sv with restored := true })) ∧
        ((∀ sv : Save, s.flash.save = some sv → sv.verifies s.flash.prk = false ∨ sv.told ∨ sv.restored) →
          t.frc = s.frc ∧ t.flash = s.flash) ∧
        t = { s with
          boot := { s.boot with slot := slot, supply := .on, step := 0, state := 0, ms := 0, elapsed := 0 }
          self := { s.self with slot := slot }
          frc := t.frc, flash := t.flash
          mgmt := { s.mgmt with odo := { s.mgmt.odo with cycles := s.mgmt.odo.cycles + 1 } } }) ∧
    (∀ s : State, s.boot.supply ≠ .off → exec .vauxStart s = .next s) ∧
    (∀ (s : State) (hot : Bool), s.boot.supply = .railOff →
      exec (.railOffElapsed hot) s = .next { s with
        boot := { s.boot with supply := .on, step := 0, state := 0, ms := 0, elapsed := 0, tripWait := hot }
        mgmt := { s.mgmt with odo := { s.mgmt.odo with cycles := s.mgmt.odo.cycles + 1 } } }) ∧
    ∀ s : State, s.boot.supply = .on → s.boot.step = 0 →
      exec .tripWaitEnd s = .next { s with boot := { s.boot with tripWait := false } })

/-- R309, R332, R378, R383, R386: the steward advances the boot to the next step once the running one is done and the step's
precondition holds; any other advance shows REFUSED and changes nothing else. Entering S6 starts the arrays on PLL A at G1
with the idle PLLs at the ratio of G5 and the brake at 14; S8 is done on entry and the root secret is gone. -/
def Obligations.BootAdvanceCommand : Prop :=
  (∀ (s : State) (p : Port) (n : BitVec 4), s.hears p → s.isSteward p → s.boot.state = 1 → n.toNat = s.boot.step.toNat + 1 →
    n.toNat ≤ 8 → (n = 5 → s.self.set) → (n = 7 → s.self.plan ≠ []) → (n = 8 → s.cad.synced ∧ s.cad.mismatch = 0) →
    ∃ t, exec (.bootAdvance p n) s = .next t ∧ t.boot.step = n ∧ t.boot.refused = false ∧ t.boot.ms = 0 ∧
      t.boot.state = (if n = 8 then 1 else 0) ∧ (n = 8 → t.lodge.root = none) ∧
      (n = 6 → t.gear.gear = 1 ∧ t.gear.programmed = 5 ∧ t.pwr.brake = 14 ∧ ∀ q : Pav, t.pll q.val = {
        active := false, activeLock := true, idleLock := true, ratio := BitVec.ofNat 5 (cptOf 5) }) ∧
      (n.toNat ≤ 4 → t = { s with boot := { s.boot with step := n, state := 0, refused := false, ms := 0 } }) ∧
      (n = 5 → s.boot.identity = false →
        t = { s with boot := { s.boot with step := n, state := 0, refused := false, ms := 0 } }) ∧
      t = enterStep n.toNat { s with boot := { s.boot with step := n, state := 0, refused := false, ms := 0 } } ∧
      t.mem = s.mem ∧ t.flash = s.flash ∧ t.allots = s.allots ∧ t.frc = s.frc) ∧
  (∀ (s : State) (p : Port) (n : BitVec 4), s.hears p → s.isSteward p →
    (s.boot.state ≠ 1 ∨ n.toNat ≠ s.boot.step.toNat + 1 ∨ 8 < n.toNat ∨ n = 5 ∧ s.self.set = false ∨ n = 7 ∧ s.self.plan = [] ∨
      n = 8 ∧ (s.cad.synced = false ∨ s.cad.mismatch ≠ 0)) →
    exec (.bootAdvance p n) s = .next { s with boot := { s.boot with refused := true } }) ∧
  ∀ (s : State) (p : Port) (n : BitVec 4), s.hears p → s.isSteward p = false → exec (.bootAdvance p n) s = .next (countNs p s)

/-- R378, R379, R382, R199, R99, R386, R408, Table 14-1: what the end of each boot step within its timeout brings, with the
milliseconds the step took. R378: a step that is not done within its timeout fails with STEP_TIMEOUT, also where its action
ends later; a failed step takes ALERT_N low; within the timeout, and in S1, S5, S7 and S8, nothing times out. With CADREF stopped
no step after S0 ends (R41). That every bridge is trained with the memories at the end of S4 is the model's choice
(assumption 119). -/
def Obligations.BootStepCommands : Prop :=
  (
    (∀ (s : State) (ms : BitVec 16), s.boot.supply = .on → s.boot.step = 0 → s.boot.state = 0 → s.boot.tripWait = false →
      s.thm.trip = false → ms.toNat ≤ 500 →
      ∃ t, exec (.bootStepDone s.boot.step ms) s = .next t ∧
        (∀ p : Pav, sget {} t.gear.slews p.val = ⟨580, 580, 0⟩) ∧
        t = { s with
          boot := { s.boot with step := 1, state := 0, ms := 0, elapsed := satAdd s.boot.elapsed ms.toNat }
          gear := { s.gear with slews := t.gear.slews } }) ∧
    (∀ (s : State) (ms : BitVec 16), s.boot.supply = .on → s.boot.step = 1 → s.boot.state = 0 → s.cad.aligned → s.cad.stopped = false →
      exec (.bootStepDone s.boot.step ms) s = .next { s with
        cad := { s.cad with fixedLock := true }
        boot := { s.boot with state := 1, ms := ms, elapsed := satAdd s.boot.elapsed ms.toNat } }) ∧
    (∀ (s : State) (ms : BitVec 16), s.boot.supply = .on → s.boot.step = 1 → s.cad.aligned = false →
      exec (.bootStepDone s.boot.step ms) s = .next s) ∧
    (∀ (s : State) (ms : BitVec 16), s.boot.step ≠ 0 → s.cad.stopped → s.overdue ms = false →
      exec (.bootStepDone s.boot.step ms) s = .next s) ∧
    (∀ (s : State) (ms : BitVec 16), s.clocked → s.boot.step = 4 → s.boot.state = 0 → s.memoryDone → ms.toNat ≤ 8000 →
      exec (.bootStepDone s.boot.step ms) s = .next { s with
        mgmt := { s.mgmt with odo := { s.mgmt.odo with ddrGib := s.commonGib.setWidth 16 } }
        capGib := s.commonGib, bridges := [0x1F, 0x1F, 0x1F, 0x1F]
        boot := { s.boot with state := 1, ms := ms, elapsed := satAdd s.boot.elapsed ms.toNat } }) ∧
    (∀ (s : State) (ms : BitVec 16), s.clocked → s.boot.step = 5 → s.boot.state = 0 →
      (s.spokesUp.length = 36 ∨ 10000 ≤ ms.toNat) →
      exec (.bootStepDone s.boot.step ms) s = .next { s with
        boot := { s.boot with state := 1, ms := ms, elapsed := satAdd s.boot.elapsed ms.toNat } }) ∧
    (∀ (s : State) (ms : BitVec 16), s.clocked → s.boot.step = 6 → s.boot.state = 0 → s.katsPass → ms.toNat ≤ 4000 →
      ∃ t, exec (.bootStepDone s.boot.step ms) s = .next t ∧ t.boot.state = 1 ∧ t.boot.ms = ms ∧ t.scr = [] ∧ t.wslots = [] ∧ t.stage = [] ∧
        t.zeroing = [] ∧ t.mem = s.mem ∧ t.pwr.brake = 16 ∧ t.pwr.brakeDue ∧ (∀ p : Pav, (t.pll p.val).active = false) ∧
        t.flash.activating = false ∧ (s.flash.activating = false → t.upd = s.upd ∧ t.flash = s.flash) ∧
        (s.flash.activating → t.upd.result = 0xB ∧ t.upd.state = 0 ∧ t.upd.bundle = none ∧ t.flash.floor.toNat =
          max (s.flash.floorIn s.lodge.prk).toNat (s.flash.bank s.boot.bank).header.svnFloor.toNat)) ∧
    ∀ (s : State) (ms : BitVec 16), s.clocked → s.boot.step = 7 → s.boot.state = 0 →
      exec (.bootStepDone s.boot.step ms) s = .next { s with
        boot := { s.boot with state := 1, ms := ms, elapsed := satAdd s.boot.elapsed ms.toNat } }) ∧
  (
    (∀ (s : State) (ms : BitVec 16), s.boot.supply = .on → s.boot.state = 0 → s.boot.tripWait = false →
      (s.boot.step = 0 ∧ 500 < ms.toNat ∨ s.boot.step = 2 ∧ 10000 < ms.toNat ∨ s.boot.step = 3 ∧ 1000 < ms.toNat ∨
        s.boot.step = 4 ∧ 8000 < ms.toNat ∨ s.boot.step = 6 ∧ 4000 < ms.toNat) →
      ∃ t, exec (.stepTimeout ms) s = .next t ∧ exec (.bootStepDone s.boot.step ms) s = .next t ∧ alertLow t ∧
        t.boot = { s.boot with state := 2, ms := ms, elapsed := satAdd s.boot.elapsed ms.toNat } ∧
        t.frc = (writeFault (0xA0010000#32 + s.boot.step.setWidth 32) 0 7 0xFF none s).frc ∧
        t = { s with boot := t.boot, frc := t.frc, mgmt := t.mgmt, out := t.out }) ∧
    ∀ (s : State) (ms : BitVec 16), (s.boot.step = 1 ∨ s.boot.step = 5 ∨ s.boot.step = 7 ∨ s.boot.step = 8 ∨
      s.boot.state ≠ 0 ∨ s.boot.tripWait) → exec (.stepTimeout ms) s = .next s)

/-- R331, R332, R333, R335, R356, R357, R384, R385: S2 rebuilds prk_id and boots the active bank where its signatures verify and
its SVN is not below the floor, else the other; where neither boots, or the derived identity is not the endorsed one and no
debug grant stands, the step fails with its fault. S3 takes the verified repair map of the flash, or fails with the first
failing field. -/
def Obligations.FirmwareBoot : Prop :=
  (∀ (s : State) (ms : BitVec 16), s.clocked → s.boot.step = 2 → s.boot.state = 0 → ms.toNat ≤ 10000 →
    s.flash.activating = false →
    let prk := prkId Config.rootSecret s.flash.debugGrant
    let boots := fun b => bankBoots (s.flash.floorIn prk) (s.flash.bank b)
    let booted := if boots s.flash.active then s.flash.active else !s.flash.active
    let late := { s with boot := { s.boot with ms := ms, elapsed := satAdd s.boot.elapsed ms.toNat } }
    ∃ t, exec (.bootStepDone s.boot.step ms) s = .next t ∧ t.mem = s.mem ∧ t.cad = s.cad ∧ t.flash.floor = s.flash.floor ∧
      if boots false || boots true then
        if s.flash.endorses (identityKey prk) || s.flash.debugGrant then
          t.boot = { late.boot with
            state := 1, bank := booted, fallback := booted != s.flash.active
            debug := s.flash.debugGrant, identity := s.flash.endorses (identityKey prk) && !s.flash.debugGrant
            uniqueId := if s.flash.debugGrant then ownUnit else unitIdOf (identityKey prk)
            idPub := identityKey prk, fwset := (s.flash.bank booted).header.fwset
            svn := (s.flash.bank booted).header.svn, fmt := (s.flash.bank booted).header.fmt } ∧
          t.lodge.prk = prk ∧ t.lodge.root = some Config.rootSecret ∧
          t.pwr.leaseLaps = (s.flash.readSettings prk).leaseLaps ∧ t.pwr.lapseCap = (s.flash.readSettings prk).lapseCap ∧
          t.mgmt.odoRead ∧ t.frc = s.frc
        else
          t = { late with boot := { late.boot with state := 2 }, frc := t.frc, mgmt := t.mgmt, out := t.out } ∧
          t.frc = (writeFault 0x80020000#32 0 6 0xFF none s).frc ∧ alertLow t
      else
        t = { late with boot := { late.boot with state := 2 }, frc := t.frc, mgmt := t.mgmt, out := t.out } ∧
        t.frc = (writeFault 0xA0020000#32 0 6 0xFF none s).frc ∧ alertLow t) ∧
  ∀ (s : State) (ms : BitVec 16), s.clocked → s.boot.step = 3 → s.boot.state = 0 → ms.toNat ≤ 1000 →
    let late := { s with boot := { s.boot with ms := ms, elapsed := satAdd s.boot.elapsed ms.toNat } }
    ∃ t, exec (.bootStepDone s.boot.step ms) s = .next t ∧
      match if s.flash.mapSigned then repairFailure s.boot.uniqueId s.flash.mapBody else some 0xFFFF with
      | none => t = { late with boot := { late.boot with
          state := 1, variant := byteAt s.flash.mapBody 0x10, repair := s.flash.mapBody } }
      | some d => t = { late with boot := { late.boot with state := 2 }, frc := t.frc, mgmt := t.mgmt, out := t.out } ∧
          t.frc = (writeFault (faultCode 0xA 0x003 (BitVec.ofNat 16 d)) 0 6 0xFF none s).frc ∧ alertLow t

/-- R178, R197, R198, R199: a stack of the map that trains is noted with its lanes and its logical number; one that is absent or
does not train fails S4, and the others train on; a channel keeps what it found and its cause, and fails nothing. R74, R386, R387: a known-answer run
whose CRC-64 is the expected one, and that of the unit's run at the other gear, is noted; the first that is not fails S6 with
the fault of its unit, and its group shows in BOOT_KAT; while the runs of a pavilion are not all done, those of another are not made. R178, R179, R191, R192: a scrubbing unit walks the words of its stack
or channel one by one, as many in a lap as its share has, and counts its passes; a word without an error stays as it is. -/
def Obligations.MemoryTestCommands : Prop :=
  (
    (∀ (s : State) (i : Fin 12) (lanes : BitVec 8) (ex : Bool), s.clocked → s.boot.step = 4 → s.boot.state ≠ 1 →
      i.val ∈ popSites s.boot.variant.toNat →
      ∃ t, exec (.memoryTrainingDone (.stack i true true lanes ex)) s = .next t ∧
        t.hbm i.val = { s.hbm i.val with
          present := true, trained := true, lanes := lanes, fail := 0, logical := (t.hbm i.val).logical } ∧
        (∀ j, j ≠ i.val → t.hbm j = s.hbm j) ∧
        (popSites s.boot.variant.toNat)[(t.hbm i.val).logical.toNat]? = some i.val ∧ t = { s with hbms := t.hbms }) ∧
    (∀ (s : State) (i : Fin 12) (lanes : BitVec 8), s.clocked → s.boot.step = 4 → s.boot.state ≠ 1 →
      i.val ∈ popSites s.boot.variant.toNat →
      (∃ t, exec (.memoryTrainingDone (.stack i false false lanes false)) s = .next t ∧ (t.hbm i.val).fail = 1 ∧
        t.boot = { s.boot with state := 2 } ∧ alertLow t ∧
        t.frc = (writeFault (0xA0040100#32 + BitVec.ofNat 32 i.val) 0 (BitVec.ofNat 3 (i.val / 3)) 0xFF none s).frc) ∧
      ∀ ex : Bool, ∃ t, exec (.memoryTrainingDone (.stack i true false lanes ex)) s = .next t ∧
        (t.hbm i.val).fail = (if ex then 3 else 2) ∧ (t.hbm i.val).trained = (s.hbm i.val).trained ∧
        t.boot = { s.boot with state := 2 } ∧ alertLow t ∧
        t.frc = (writeFault (0xA0040000#32 + (t.hbm i.val).logical.setWidth 32) 0 (BitVec.ofNat 3 (i.val / 3)) 0xFF none s).frc) ∧
    (∀ (s : State) (i : Fin 12) (a b : Bool) (lanes : BitVec 8) (ex : Bool), i.val ∉ popSites s.boot.variant.toNat →
      exec (.memoryTrainingDone (.stack i a b lanes ex)) s = .next s) ∧
    ∀ (s : State) (c : Fin 8) (present ecc speed : Bool) (gib : BitVec 9) (trained : Bool),
      s.clocked → s.boot.step = 4 → s.boot.state ≠ 1 →
      exec (.memoryTrainingDone (.channel c present ecc speed gib trained)) s = .next (s.modDdr c.val (fun x => { x with
        present := present, gib := if present then gib else 0
        trained := present && ecc && speed && trained && decide (16 ≤ gib.toNat) && decide (gib.toNat ≤ 256)
        fail := if !present then 1 else if !ecc then 2 else if !speed then 3
          else if gib.toNat < 16 ∨ 256 < gib.toNat then 4 else if !trained then 5 else 0 }))) ∧
  (
    (∀ (s : State) (x : ArrayIx) (g5 : Bool) (crc : BitVec 64), s.clocked → s.boot.step = 6 → s.boot.state ≠ 1 → s.katFree (.array x) →
      (∀ e ∈ s.boot.katRuns, e.1 = .array x → e.2.1 ≠ g5 → e.2.2 = crc) →
      ∃ t, exec (.knownAnswerRunDone (.array x) g5 crc crc) s = .next t ∧ (sget {} t.boot.kats (x.val / 64)).run ∧
        (sget {} t.boot.kats (x.val / 64)).groups = (sget {} s.boot.kats (x.val / 64)).groups ∧
        (KatUnit.array x, g5, crc) ∈ t.boot.katRuns ∧ (t.pll (x.val / 64)).active = g5 ∧
        t = { s with boot := { s.boot with kats := t.boot.kats, katRuns := t.boot.katRuns }, plls := t.plls }) ∧
    (∀ (s : State) (u : KatUnit) (g5 : Bool) (crc : BitVec 64), s.clocked → s.boot.step = 6 → s.boot.state ≠ 1 → s.katFree u →
      katArray u = none →
      exec (.knownAnswerRunDone u g5 crc crc) s = .next { s with boot := { s.boot with
        katRuns := s.boot.katRuns.filter (fun e => !(decide (e.1 = u) && (e.2.1 == g5))) ++ [(u, g5, crc)] } }) ∧
    (∀ (s : State) (u : KatUnit) (g5 : Bool) (crc want : BitVec 64), s.katFree u = false →
      exec (.knownAnswerRunDone u g5 crc want) s = .next s) ∧
    ∀ (s : State) (x : ArrayIx) (g5 : Bool) (crc want : BitVec 64), s.clocked → s.boot.step = 6 → s.boot.state = 0 → s.katFree (.array x) →
      s.boot.katFailed = false →
      (crc ≠ want ∨ ∃ e ∈ s.boot.katRuns, e.1 = .array x ∧ e.2.1 ≠ g5 ∧ e.2.2 ≠ crc) →
      ∃ t, exec (.knownAnswerRunDone (.array x) g5 crc want) s = .next t ∧ t.boot.state = 2 ∧ t.boot.katFailed ∧ alertLow t ∧
        (sget {} t.boot.kats (x.val / 64)).groups.getLsbD (x.val % 64 / 16) ∧
        t.frc = (writeFault (0xA0050000#32 + (if g5 then 16 else 0)) 0 (BitVec.ofNat 3 (x.val / 64)) (BitVec.ofNat 8 (x.val % 64))
          none s).frc) ∧
  (
    (∀ (s : State) (i : Fin 12), s.clocked → s.scrubLeft (.stack i) ≠ 0 → s.clean 0 →
      ∃ t, exec (.scrubWord (.stack i) []) s = .next t ∧ (∀ b, t.byte 0 b = s.byte 0 b) ∧ (∀ k, sget [] t.upset k = sget [] s.upset k) ∧
        t.hbm i.val = (if (s.hbm i.val).scrub + 1 < 2 ^ 31
          then { s.hbm i.val with scrub := (s.hbm i.val).scrub + 1, scrubbed := (s.hbm i.val).scrubbed + 1 }
          else { s.hbm i.val with
            scrub := 0, passes := satAdd (s.hbm i.val).passes 1, scrubbed := (s.hbm i.val).scrubbed + 1 }) ∧
        (∀ j, j ≠ i.val → t.hbm j = s.hbm j) ∧ t = { s with hbms := t.hbms, upset := t.upset }) ∧
    (∀ (s : State) (c : Fin 8), s.clocked → s.scrubLeft (.channel c) ≠ 0 → s.clean 0 →
      ∃ t, exec (.scrubWord (.channel c) []) s = .next t ∧ (∀ b, t.byte 0 b = s.byte 0 b) ∧
        (∀ k, sget [] t.upset k = sget [] s.upset k) ∧
        t.ddr c.val = (if (s.ddr c.val).scrub + 1 < s.capGib.toNat * 2 ^ 25
          then { s.ddr c.val with scrub := (s.ddr c.val).scrub + 1, scrubbed := (s.ddr c.val).scrubbed + 1 }
          else { s.ddr c.val with
            scrub := 0, passes := satAdd (s.ddr c.val).passes 1, scrubbed := (s.ddr c.val).scrubbed + 1 }) ∧
        (∀ j, j ≠ c.val → t.ddr j = s.ddr j) ∧ t = { s with ddrs := t.ddrs, upset := t.upset }) ∧
    (∀ (s : State) (u : ScrubUnit) (noise : List Noise), s.clocked = false ∨ s.scrubLeft u = 0 →
      exec (.scrubWord u noise) s = .next s) ∧
    ∀ (s : State) (i : Fin 12) (c : Fin 8),
      (s.scrubLeft (.stack i) ≠ 0 ↔ (s.hbm i.val).trained ∧ (s.hbm i.val).scrubbed < 64) ∧
      (s.scrubLeft (.channel c) ≠ 0 ↔ (s.ddr c.val).trained ∧ s.capGib ≠ 0 ∧ (s.ddr c.val).scrubbed < 256))

/-- R303, R305, R309, R310, R326, R327, R379, R419, R425: a link that trains to a width and speed of the port comes up, once CADREF is
there and while PERST_N is high, and ends DOWN_LAPS; a port's reset disables its rings, clears its interrupt table and the message it owes, and lets the
movers' accesses through it fail; the steward gives its role to a port whose link is up, and the other port claims it after
954 laps. -/
def Obligations.PortCommands : Prop :=
  (∀ (s : State) (p : Port) (w : BitVec 4) (v : BitVec 3), s.linksRun → w ∈ [1#4, 2#4, 4#4, 8#4] → 1 ≤ v.toNat → v.toNat ≤ 6 →
    exec (.pcieLinkUp p w ⟨v, true⟩) s = .next (s.modPort p (fun x =>
      { x with linkUp := true, perst := false, width := w, speed := v, downLaps := 0, downLap := false })) ∧
    exec (.pcieLinkUp p w ⟨v, false⟩) s = .next (s.modPort p (fun x => { x with perst := true }))) ∧
  (∀ (s : State) (p : Port) (w : BitVec 4) (v : LinkTrained), s.linksRun = false → exec (.pcieLinkUp p w v) s = .next s) ∧
  (∀ (s : State) (p : Port) (c : PortResetCause), s.boot.supply = .on →
    ∃ t, exec (.portReset p c) s = .next t ∧ (t.ring p.val).enable = false ∧
      (∀ n ∈ s.owned p, (t.ring (2 + n)).enable = false) ∧
      t.port p = { s.port p with
        msix := [], evtEn := 0, evtVec := 0, evtDue := false, indSpace := 0, indInc := false, indErr := false, indWord := 0
        linkUp := (s.port p).linkUp && !(decide (c = .linkDown) || decide (c = .perst))
        downLap := if (c = .linkDown ∨ c = .perst) ∧ (s.port p).linkUp then false else (s.port p).downLap
        perst := if c = .perst then true else (s.port p).perst } ∧
      (∀ q, q ≠ p → t.port q = s.port q) ∧
      t = { failHostAccesses p { s with rings := t.rings } with ports := t.ports }) ∧
  (∀ (s : State) (p : Port), s.hears p → s.isSteward p →
    exec (.stewardGive p) s = .next (if (s.port (other p)).linkUp then { s with steward := decide (p.val = 0) } else s)) ∧
  (∀ (s : State) (p : Port), s.hears p → s.isSteward p = false → exec (.stewardGive p) s = .next (countNs p s)) ∧
  (∀ (s : State) (p : Port), s.hears p → s.isSteward p = false → 954 ≤ (s.port (other p)).downLaps.toNat →
    exec (.stewardClaim p) s = .next { s with steward := decide (p.val = 1) }) ∧
  ∀ (s : State) (p : Port), s.isSteward p ∨ (s.port (other p)).downLaps.toNat < 954 → exec (.stewardClaim p) s = .next s

/-- R362, R365, R369, R376, R393, R394, R43, R309: every way of resetting the module leaves the fault store, the flash and the
dynamic address and puts everything else at its reset value, in the rail-off of 100 ms; the steward's reset works with CADREF
stopped or a pair lost; the I3C target reset drops the address alone. After a save the fault store that stays is not restored from
it again (R388). The codes 0x39 and 2 of the reset effecter are presumed (assumption 60). R395, R99: the reset of an allotment stops its timetable
and discards its runs, waits for its movers, its sends, its reductions and for the lap boundary, and ends when its banks are
zeroed; bits of another port's allotments are ignored. -/
def Obligations.ResetDomainCommands : Prop :=
  (
    (∀ s : State, s.boot.supply ≠ .aux →
      moduleReset s = { State.reset with
        boot := { supply := .railOff, slot := s.boot.slot }, self := { slot := s.boot.slot }
        frc := { s.frc with saved := false, inTick := 0 }, fresh := s.fresh, out := s.out, pending := s.pending
        flash := if s.boot.supply = .saved then s.flash.markRestored else s.flash
        mgmt := { addr := s.mgmt.addr, odo := s.mgmt.odo, odoRead := s.mgmt.odoRead, inv := s.mgmt.inv }
        upd := { s.upd with busy := [] } }) ∧
    (∀ (s : State) (p : Port), s.boot.supply = .on → (s.port p).linkUp →
      (s.isSteward p → exec (.bootReset p 0xB007) s = .next (moduleReset s) ∧
        ∀ key, key ≠ 0xB007 → exec (.bootReset p key) s = .next s) ∧
      (s.isSteward p = false → ∀ key, exec (.bootReset p key) s = .next (countNs p s))) ∧
    (∀ s : State, s.ctl → s.mgmt.addr ≠ none → s.mgmt.eid ≠ 0 →
      exec (.moduleResetEffecter 1) s = .next (moduleReset (s.emit (.pldm 2 0x39 0 []))) ∧
      ∀ v, v ≠ 1 → exec (.moduleResetEffecter v) s = .next (s.emit (.pldm 2 0x39 2 []))) ∧
    (∀ s : State, s.boot.supply ≠ .off → s.mgmt.addr ≠ none →
      exec (.modreset [0xB0, 0x07]) s = .next (moduleReset s) ∧
      ∀ b, b ≠ [0xB0, 0x07] → exec (.modreset b) s = .next (s.emit .nack)) ∧
    ∀ s : State, s.boot.supply ≠ .off →
      exec .i3cTargetReset s = .next { s with mgmt := { s.mgmt with addr := none, eid := 0, tid := 0, ibiLap := none } }) ∧
  (
    (∀ (s : State) (p : Port) (mask : BitVec 16) (n : Nat) (a : AllotSt), s.hears p → mask.getLsbD n → s.allot n = some a →
      portOf a.port = p → a.reset = .none →
      ∃ t, exec (.allotReset p mask) s = .next t ∧
        t.allot n = some { a with
          stopped := true, run := none, pos := none, pendRun := none, swapDue := none, swapAt := none, reset := .draining } ∧
        (t.port p).resetting.getLsbD n ∧ (∀ m, mask.getLsbD m = false → t.allot m = s.allot m) ∧
        (∀ (m : Nat) (b : AllotSt), s.allot m = some b → portOf b.port ≠ p → t.allot m = some b) ∧
        (∀ q : Port, t.port q = { s.port q with resetting := (t.port q).resetting }) ∧
        t = { s with allots := t.allots, ports := t.ports }) ∧
    (∀ (s : State) (n : Allot) (a : AllotSt), s.clocked → s.allot n.val = some a → a.reset = .draining →
      (s.moversIdle a → s.sendingSlice a.slice = false → (∀ q ∈ a.plans, q.reduces = []) →
        ∃ t, exec (.allotResetQuiesced n) s = .next t ∧ t.allot n.val = some { a with reset := .boundary } ∧
          (∀ m, m ≠ n.val → t.allot m = s.allot m) ∧ t = { s with allots := t.allots }) ∧
      (s.moversIdle a = false ∨ s.sendingSlice a.slice ∨ (∃ q ∈ a.plans, q.reduces ≠ []) →
        exec (.allotResetQuiesced n) s = .next s)) ∧
    (∀ (s : State) (n : Allot) (a : AllotSt), s.clocked → s.allot n.val = some a → a.reset = .zeroing →
      (∀ b ∈ a.banks, b ∉ s.zeroing) →
      ∃ t, exec (.allotResetDone n) s = .next t ∧ t.allot n.val = some { a with reset := .none } ∧
        (∀ q : Port, t.port q = { s.port q with resetting := (t.port q).resetting } ∧
          ∀ m, (t.port q).resetting.getLsbD m = ((s.port q).resetting.getLsbD m && decide (m ≠ n.val))) ∧
        (∀ m, m ≠ n.val → t.allot m = s.allot m) ∧ t = { s with allots := t.allots, ports := t.ports }) ∧
    ∀ (s : State) (b : Sys2Proof.Bank), s.clocked →
      ∃ t, exec (.bankZeroingDone b) s = .next t ∧ (∀ x, x ∈ t.zeroing ↔ x ∈ s.zeroing ∧ x ≠ b.val) ∧
        t = { s with zeroing := t.zeroing })

/-- R319, R321, R308, R355, R395: a host that reaches a ring enables it, with its head, tail and phases at their first values, and
disables it; a write that reaches no ring of the port changes nothing; with the TDI locked or running it moves the TDI to
ERROR, in which a ring takes the other fields of a write and stays disabled; at a poll tick a served ring reads, through its port and at its host addresses, the header and the entries at the head.
-/
def Obligations.RingCommands : Prop :=
  (∀ (s : State) (p : Port) (r : RingIx) (d : Word), s.hears p → s.reaches p r.val → (s.port p).tdi = .unlocked →
    ((s.ring r.val).enable = false → exec (.ringEnable p r d) s = .next (s.modRing r.val (fun g => { g with
      enable := true, holdoff := fld d 16 12, vector := fld d 0 11, sqHead := 0, cqTail := 0, sqPhase := true, cqPhase := true
      cqHead := 0, lost := 0, reading := false }))) ∧
    ((s.ring r.val).enable → exec (.ringEnable p r d) s = .next s) ∧
    ((s.ring r.val).enable →
      exec (.ringDisable p r d) s = .next (s.modRing r.val (fun g => { g with enable := false, reading := false }))) ∧
    ((s.ring r.val).enable = false →
      exec (.ringDisable p r d) s = .next (s.modRing r.val (fun g => { g with holdoff := fld d 16 12, vector := fld d 0 11 })))) ∧
  (∀ (s : State) (p : Port) (r : RingIx) (d : Word), s.hears p → s.reaches p r.val → (s.port p).tdi = .error →
    (s.ring r.val).enable = false →
    exec (.ringEnable p r d) s = .next (s.modRing r.val (fun g => { g with holdoff := fld d 16 12, vector := fld d 0 11 }))) ∧
  (∀ (s : State) (p : Port) (r : RingIx) (d : Word), s.hears p → s.reaches p r.val = false →
    exec (.ringEnable p r d) s = .next s ∧ exec (.ringDisable p r d) s = .next s) ∧
  (∀ (s : State) (p : Port) (r : RingIx) (d : Word), s.hears p → s.reaches p r.val →
    (s.port p).tdi = .run ∨ (s.port p).tdi = .locked →
    (∃ t, exec (.ringEnable p r d) s = .next t ∧ (t.port p).tdi = .error ∧ (t.ring p.val).enable = false) ∧
    ∃ t, exec (.ringDisable p r d) s = .next t ∧ (t.port p).tdi = .error ∧ (t.ring p.val).enable = false) ∧
  ∀ (s : State) (r : RingIx) (p : Port), s.timed → s.ringPort r.val = some p → s.ringServed r.val →
    (s.ring r.val).reading = false → s.ringResets r.val = false →
    (s.ring r.val).pend.length ≤ 1008 → s.now.toNat % max 1 (s.pollPeriod r.val) = 0 →
    ∃ t, exec (.ringPoll r) s = .next t ∧ t.ring r.val = { s.ring r.val with reading := true } ∧
      t.out = s.out ++ [.ringRead (decide (p.val = 1)) r.val ((s.ring r.val).sqHi ++ (s.ring r.val).sqLo ++ (0 : BitVec 12))
        ((s.ring r.val).sqHi ++ (s.ring r.val).sqLo ++ (0 : BitVec 12)
          + BitVec.ofNat 64 (64 + 64 * (s.ring r.val).sqHead.toNat)) (s.pollCount r.val)] ∧
      (∀ q, q ≠ r.val → t.ring q = s.ring q) ∧ t = { s with rings := t.rings, out := t.out }

/-- R322, R323, R325, R326: the oldest pending entry is written at the tail, which moves on, and brings the ring's message at once
or owes it to the end of the holdoff; a region without room takes none. A message on a masked vector waits there. An enabled
cause that has risen brings the port's message, once. -/
def Obligations.CompletionCommands : Prop :=
  (∀ (s : State) (r : RingIx) (p : Port) (c : Completion) (rest : List Completion), s.clocked → s.ringPort r.val = some p →
    s.ringServed r.val → (s.ring r.val).pend = c :: rest → (s.ring r.val).room →
    let g := s.ring r.val
    let e : Msix := sget {} (s.port p).msix g.vector.toNat
    let free := match g.lastMsg with
      | none => true
      | some u => decide (g.holdoff = 0) || decide (u.toNat + g.holdoff.toNat ≤ s.now.toNat)
    let next := (g.cqTail.toNat + 1) % g.n
    ∃ t, exec (.completionWrite r) s = .next t ∧
      t.ring r.val = { g with
        pend := rest, lostFlag := false, cqTail := BitVec.ofNat 16 next, cqPhase := if next = 0 then !g.cqPhase else g.cqPhase
        lastMsg := if free then some s.now else g.lastMsg, owed := !free } ∧
      t.out = s.out ++ .hostWrite (decide (p.val = 1))
        ((g.cqHi ++ g.cqLo ++ (0 : BitVec 12)) + BitVec.ofNat 64 (32 * g.cqTail.toNat))
        (completionBytes c g.sqHead g.cqPhase g.lostFlag) ::
        (if free && !e.masked then [.msi (decide (p.val = 1)) g.vector (e.addrHi ++ e.addrLo) e.data] else []) ∧
      t.port p = (if free && e.masked then
        { s.port p with msix := smod {} (s.port p).msix g.vector.toNat (fun e => { e with pending := true }) } else s.port p) ∧
      (∀ q, q ≠ p → t.port q = s.port q) ∧ (∀ q, q ≠ r.val → t.ring q = s.ring q) ∧
      t = { s with rings := t.rings, ports := t.ports, out := t.out }) ∧
  (∀ (s : State) (r : RingIx), (s.ring r.val).room = false → exec (.completionWrite r) s = .next s) ∧
  (∀ (s : State) (r : RingIx) (p : Port) (u : Time), s.timed → s.ringPort r.val = some p → (s.port p).linkUp →
    (s.ring r.val).owed → (s.ring r.val).lastMsg = some u → u.toNat + (s.ring r.val).holdoff.toNat ≤ s.now.toNat →
    exec (.interruptHoldoffEnd r) s = .next (sendMsi p (s.ring r.val).vector
      (s.modRing r.val (fun g => { g with lastMsg := some s.now, owed := false })))) ∧
  (∀ (s : State) (r : RingIx), (s.ring r.val).owed = false → exec (.interruptHoldoffEnd r) s = .next s) ∧
  (∀ (s : State) (p : Port), s.clocked → (s.port p).linkUp → (s.port p).evtDue →
    exec (.eventMessage p) s = .next (sendMsi p (s.port p).evtVec (s.modPort p (fun x => { x with evtDue := false })))) ∧
  (∀ (s : State) (p : Port), (s.port p).evtDue = false → exec (.eventMessage p) s = .next s) ∧
  ∀ (s : State) (p : Port) (v : BitVec 11),
    let e : Msix := sget {} (s.port p).msix v.toNat
    (e.masked = false → sendMsi p v s = { s with out := s.out ++ [.msi (decide (p.val = 1)) v (e.addrHi ++ e.addrLo) e.data] }) ∧
    (e.masked → sendMsi p v s = s.modPort p (fun x => { x with
      msix := smod {} x.msix v.toNat (fun e => { e with pending := true }) }))

/-- R321, R319, R323, R395: a read whose first entry does not carry the expected phase changes the completion head alone. An entry
with the expected phase moves the submission head on and has its command's effect; one with no opcode of a port ring is
answered BAD_ENTRY. The ring of an allotment that is being reset, or that has a pending run, takes no entry; a read that no
poll asked for is none. R158, R395, Table 11-4: a RUN entry of a started allotment that runs, whose phase is in front, becomes
the pending run; one of a stopped allotment is answered RUN_REFUSED with detail 6, and an entry with another opcode BAD_ENTRY;
while a run is pending, or the allotment is being reset, no entry is taken. -/
def Obligations.SubmissionCommands : Prop :=
  (
    (∀ (s : State) (r : RingIx) (h : BitVec 32) (l : List (List Byte)), s.timed → s.ringServed r.val → (s.ring r.val).reading →
      l.length ≤ 4 → (∀ b ∈ l, b.length = 64) →
      ((∀ b ∈ l.head?, bit (byteAt b 0x3F) 7 ≠ (s.ring r.val).sqPhase) ∨ s.ringResets r.val ∨ s.runRoom r.val = 0) →
      exec (.submissionFetch r h l) s = .next (s.modRing r.val (fun g => { g with reading := false, cqHead := fld h 0 16 }))) ∧
    (∀ (s : State) (r : RingIx) (h : BitVec 32) (b : List Byte), s.timed → s.ringServed r.val → (s.ring r.val).reading →
      b.length = 64 → bit (byteAt b 0x3F) 7 = (s.ring r.val).sqPhase → (s.ring r.val).sqHead.toNat < (s.ring r.val).n →
      s.ringResets r.val = false → 0 < s.runRoom r.val →
      let next := ((s.ring r.val).sqHead.toNat + 1) % (s.ring r.val).n
      let head := BitVec.ofNat 16 next
      let op := (byteAt b 0).toNat
      let p : Port := if r.val = 0 then 0 else 1
      let moved := s.modRing r.val (fun g => { g with
        reading := false, cqHead := fld h 0 16, sqHead := head, sqPhase := if next = 0 then !g.sqPhase else g.sqPhase })
      exec (.submissionFetch r h [b]) s = .next (
        if 2 ≤ r.val then actRun (r.val - 2) b head moved
        else if op = 0x10 then actLoad p b head moved
        else if op = 0x11 then actStart p b head moved
        else if op = 0x12 then actRelease p b head moved
        else if op = 0x13 then actGive p b head moved
        else if op = 0x14 then actTake p b head moved
        else complete r.val ⟨0x04, 0x04, head, entryTag b, s.now, 0, 0, 0xFF⟩ moved)) ∧
    ∀ (s : State) (r : RingIx) (h : BitVec 32) (l : List (List Byte)), (s.ring r.val).reading = false ∨ s.ringServed r.val = false →
      l.length ≤ 4 → (∀ b ∈ l, b.length = 64) → exec (.submissionFetch r h l) s = .next s) ∧
  (
    (∀ (s : State) (a : Allot) (x : AllotSt) (b : List Byte), b.length = 64 → s.timed → s.ringServed (2 + a.val) →
      s.allot a.val = some x → x.reset = .none → sfind s.dying a.val = none → x.pendRun = none → byteAt b 0 = 0x01 →
      entryDirt b [(3, 1), (0x38, 7)] = none →
      (x.stopped → exec (.run a b) s = .next (complete (2 + a.val)
        ⟨0x02, 0x05, (s.ring (2 + a.val)).sqHead, entryTag b, s.now, 0, 6, BitVec.ofNat 8 a.val⟩ s)) ∧
      (x.stopped = false → x.started → x.run ≠ none →
        (byteAt b 2).toNat ≤ (s.image x.image).regroups.toNat → (byteAt b 1).toNat < (s.image x.image).phases.toNat →
        (∃ c ∈ (s.image x.image).rosters.getD (byteAt b 2).toNat [], modNum c = modNum s.ownCoord) → le 64 b 8 8 = 0 →
        x.inFront (byteAt b 1).toNat →
        exec (.run a b) s = .next (s.modAllot a.val (fun x => { x with pendRun := some {
          firstPhase := byteAt b 1, regroup := byteAt b 2, tag := entryTag b, start := 0, stepBase := le 64 b 0x10 8
          iters := (List.range 8).map (fun i => le 32 b (0x18 + 4 * i) 4)
          fetchedAt := s.now, sqHead := (s.ring (2 + a.val)).sqHead } })))) ∧
    (∀ (s : State) (a : Allot) (x : AllotSt) (b : List Byte), b.length = 64 → s.timed → s.ringServed (2 + a.val) →
      s.allot a.val = some x → x.reset = .none → sfind s.dying a.val = none → x.pendRun = none → byteAt b 0 ≠ 0x01 →
      exec (.run a b) s = .next (complete (2 + a.val)
        ⟨0x02, 0x04, (s.ring (2 + a.val)).sqHead, entryTag b, s.now, 0, 0, BitVec.ofNat 8 a.val⟩ s)) ∧
    ∀ (s : State) (a : Allot) (x : AllotSt) (b : List Byte), b.length = 64 → s.allot a.val = some x →
      x.reset ≠ .none ∨ x.pendRun ≠ none → exec (.run a b) s = .next s)

/-- R138, R159, R160, R170, R248, R262, R410: at its lap, and for a run at its boundary, the start of an allotment or of its pending run
is due, and takes place at the end of tick 00000 unless a hold has begun in it: the allotment starts with the swap to phase 0
due; the run starts at the head of its first phase, with its RUN_STARTED entry, or is refused where the timetable has stopped or
the module has tripped; both return the allotment's turnstiles to IDLE. Nothing falls due in a hold. -/
def Obligations.RunStartCommands : Prop :=
  (∀ (s : State) (a : Allot) (x : AllotSt) (l : BitVec 40), s.timed → s.clear → s.cad.tick = 0 → s.allot a.val = some x →
    x.startLap = some l → x.started = false → l.toNat ≤ s.cad.lap.toNat → (s.image x.image).gears.getLsbD s.gear.gear.toNat →
    exec (.allotmentStartLap a) s = .next (s.modAllot a.val (fun x => { x with startDue := true }))) ∧
  (∀ (s : State) (a : Allot) (x : AllotSt) (r : Run), s.timed → s.clear → s.cad.tick = 0 → s.allot a.val = some x →
    x.pendRun = some r → (x.started ∨ x.startDue) → x.run = none → r.start.toNat ≤ s.cad.lap.toNat →
    exec (.runStart a) s = .next (s.modAllot a.val (fun x => { x with runDue := true }))) ∧
  (∀ (s : State) (n : Nat) (x : AllotSt), s.allot n = some x → s.clear = false ∨ (x.startDue = false ∧ x.runDue = false) →
    startsOf s n = s.modAllot n (fun x => { x with startDue := false, runDue := false })) ∧
  (∀ (s : State) (n : Nat) (x : AllotSt), s.allot n = some x → s.clear → x.startDue → x.startLap ≠ none → x.runDue = false →
    startsOf s n = resetTrns n ((s.modAllot n (fun x => { x with startDue := false, runDue := false })).modAllot n
      (fun x => { x with started := true, swapDue := some (0, s.now) }))) ∧
  (∀ (s : State) (n : Nat) (x : AllotSt) (r : Run) (f : Plane), s.allot n = some x → s.clear → x.runDue → x.startDue = false →
    x.pendRun = some r → x.stopped = false → s.thm.trip = false →
    x.front = some f → f.phase.toNat = r.firstPhase.toNat → x.swapDue = none →
    let free : Time := s.cad.lap ++ (4 : BitVec 16)
    let head : RunPos := { phase := BitVec.ofNat 3 r.firstPhase.toNat, loops := (r.iters.getD r.firstPhase.toNat 0).toNat
                           step := r.stepBase, execs := [], free := free }
    startsOf s n = swapbackLoad n free (complete (2 + n)
      ⟨0x02, 0x00, r.sqHead, r.tag, s.now, 0, 0, BitVec.ofNat 8 n⟩ (resetTrns n
        ((s.modAllot n (fun x => { x with startDue := false, runDue := false })).modAllot n (fun x => { x with
          run := some r, pendRun := none, variant := r.regroup, restLap := none, tiles := [], pos := some head, swapDue := none }))))) ∧
  (∀ (s : State) (n : Nat) (x : AllotSt) (r : Run), s.allot n = some x → s.clear → x.runDue → x.startDue = false →
    x.pendRun = some r → x.stopped ∨ s.thm.trip →
    startsOf s n = complete (2 + n) ⟨0x02, 0x05, r.sqHead, r.tag, s.now, 0, 6, BitVec.ofNat 8 n⟩
      ((s.modAllot n (fun x => { x with startDue := false, runDue := false })).modAllot n (fun x => { x with pendRun := none }))) ∧
  (∀ (s : State) (a : Allot), s.clear = false → exec (.allotmentStartLap a) s = .next s ∧ exec (.runStart a) s = .next s) ∧
  ∀ (n : Nat) (s : State), rising s.trns →
    (∀ k, (resetTrns n s).trn k = if (s.trn k).owner = some (BitVec.ofNat 4 n) then
      { owner := (s.trn k).owner, link := (s.trn k).link, plan := (s.trn k).plan, seg := (s.trn k).seg } else s.trn k) ∧
    resetTrns n s = { s with trns := (resetTrns n s).trns, chunkCrcs := (resetTrns n s).chunkCrcs }

/-- R112, R133, R134, R135, R136, R137, R138: a load request in S8 of a synchronised module with none in progress starts the read
of the image; an earlier boot step, a module that is not synchronised and a load in progress refuse it. The image that has
been read is refused with the first failing check, and changes nothing but the load, or commits: its allotments take the
lowest free numbers. -/
def Obligations.LoadCommands : Prop :=
  (∀ (s : State) (p : Port) (b : List Byte), s.timed → s.ringServed p.val → b.length = 64 → byteAt b 0 = 0x10 →
    entryDirt b [(1, 3), (0x14, 4), (0x1F, 1), (0x28, 0x17)] = none → (le 64 b 0x20 8).toNat % 64 = 0 →
    exec (.loadLayout p b) s = .next (match requestFailure s with
      | some r => refuseLoad p (entryTag b) (le 64 b 0x20 8) (s.ring p.val).sqHead r s
      | none => { s with
        load := some { port := decide (p.val = 1), tag := entryTag b, addr := le 64 b 8 8, length := le 32 b 0x10 4,
                       start := le 64 b 0x18 8, resultAddr := le 64 b 0x20 8, at_ := s.now, sqHead := (s.ring p.val).sqHead }
        out := s.out ++ [.imageRead (decide (p.val = 1)) (le 64 b 8 8) (le 32 b 0x10 4)] })) ∧
  (∀ s : State, (s.boot.step ≠ 8 → requestFailure s = some { code := 0x01, detail := s.boot.step.toNat }) ∧
    (s.boot.step = 8 → (s.cad.synced = false ∨ s.cad.mismatch ≠ 0) →
      requestFailure s = some { code := 0x02, detail := (cadStatus s.cad).toNat }) ∧
    (s.boot.step = 8 → s.cad.synced → s.cad.mismatch = 0 → (requestFailure s = none ↔ s.load = none))) ∧
  (∀ (p : Port) (tag : Word) (addr : BitVec 64) (head : BitVec 16) (r : Refuse) (s : State),
    refuseLoad p tag addr head r s = complete p.val ⟨0x04, 0x01, head, tag, s.now, 0, BitVec.ofNat 32 r.code, 0xFF⟩
      { s with out := s.out ++ [.hostWrite (decide (p.val = 1)) addr (loadResult r 0 noMap 0 s.now)] }) ∧
  ∀ (s : State) (ld : LoadSt) (image : List Byte), s.load = some ld → s.timed → s.hears (portOf ld.port) →
    image.length = ld.length.toNat → s.lodge.entropyDead = false →
    ∃ t, exec (.loadReadDone image) s = .next t ∧ t.load = none ∧ match imageFailure ld image s with
      | some r => t = refuseLoad (portOf ld.port) ld.tag ld.resultAddr ld.sqHead r { s with load := none }
      | none => t = commitImage ld (parseImg image) s ∧
        sfind t.images s.nextImage = some ((parseImg image).share ld.port) ∧ t.nextImage = s.nextImage + 1 ∧
        ((parseImg image).allots.length ≤ s.freeNumbers.length →
          ∀ n ∈ s.freeNumbers.take (parseImg image).allots.length, ∃ y, t.allot n = some y ∧ y.image = s.nextImage ∧
            y.port = ld.port ∧ y.started = false ∧ y.restLap = some s.cad.lap ∧ y.commitAt = s.now ∧
            y.startLap = if ld.start = 0 then none else some (BitVec.ofNat 40 (ld.start.toNat / 65536))) ∧
        (∀ n, n ∉ s.freeNumbers.take (parseImg image).allots.length → t.allot n = s.allot n) ∧
        t.cad = s.cad ∧ t.boot = s.boot ∧ t.pwr = s.pwr

/-- R227, R324: START names the lap of a whole image's allotments, each with its load of phase 0, where the lap is not too early,
and the lap of the image's routing switch; a lap that is too early is answered with the first one that is not, and allotments
that are no whole image of the port not yet given a lap with 0xFFFFFFFF. So are allotments no load of whose phase 0 can complete
(assumption 85), and that an accepted START ends 'not yet started' is the model's choice (assumption 123). -/
def Obligations.StartCommand : Prop :=
  ∀ (s : State) (p : Port) (b : List Byte), s.timed → s.ringServed p.val → b.length = 64 → byteAt b 0 = 0x11 →
    entryDirt b [(1, 3), (0x0A, 6), (0x17, 1), (0x18, 0x27)] = none →
    let l := setBits (entryAllots b)
    let t := leNat (bytesAt b 0x10 8)
    let answer := fun (status : Byte) (detail : Word) (s : State) =>
      complete p.val ⟨0x04, status, (s.ring p.val).sqHead, entryTag b, s.now, 0, detail, 0xFF⟩ s
    (s.notOwned p (entryAllots b) ≠ 0 →
      exec (.start p b) s = .next (answer 0x03 ((s.notOwned p (entryAllots b)).setWidth 32) s)) ∧
    (s.notOwned p (entryAllots b) = 0 → (s.unstarted p l = none ∨ s.phase0Ready l = none) →
      exec (.start p b) s = .next (answer 0x07 0xFFFFFFFF s)) ∧
    ∀ image ready : Nat, s.notOwned p (entryAllots b) = 0 → s.unstarted p l = some image → s.phase0Ready l = some ready →
      (t % 65536 ≠ 0 ∨ t / 65536 < earliestStart s.now.toNat ready →
        exec (.start p b) s = .next (answer 0x07 (BitVec.ofNat 32 (earliestStart s.now.toNat ready)) s)) ∧
      (t % 65536 = 0 → earliestStart s.now.toNat ready ≤ t / 65536 →
        let lap : BitVec 40 := BitVec.ofNat 40 (t / 65536)
        ∃ u, exec (.start p b) s = .next u ∧
          (∀ (n : Nat) (x : AllotSt), s.allot n = some x →
            u.allot n = some (if (entryAllots b).getLsbD n then { x with startLap := some lap } else x)) ∧
          (∀ n : Nat, s.allot n = none → u.allot n = none) ∧
          u = { (answer 0x00 (lap.setWidth 32) s) with
            allots := u.allots
            rte := if s.rte.pending = some image then { s.rte with switchLap := some lap } else s.rte })

/-- R147, R195, R323, R348: RELEASE takes allotments that run nothing; where their movers are idle their resources are free at
once, and the removal of the last one's keys completes it; allotments that run make it fail with their mask. -/
def Obligations.ReleaseCommands : Prop :=
  (∀ (s : State) (p : Port) (b : List Byte), s.timed → s.ringServed p.val → b.length = 64 → byteAt b 0 = 0x12 →
    entryDirt b [(1, 3), (0x0A, 6), (0x10, 0x2F)] = none → s.notOwned p (entryAllots b) = 0 →
    s.busyRuns (setBits (entryAllots b)) = 0 → entryAllots b ≠ 0 →
    (∀ (n : Nat) (x : AllotSt), (entryAllots b).getLsbD n → s.allot n = some x → s.moversIdle x) →
    ∃ t, exec (.release p b) s = .next t ∧
      t = (setBits (entryAllots b)).foldl (releaseOne p (entryTag b) (s.ring p.val).sqHead (entryAllots b)) s ∧
      (∀ n, (entryAllots b).getLsbD n → t.allot n = none ∧ ∃ d, sfind t.dying n = some d ∧ d.freed ∧ d.tag = entryTag b ∧
        d.mask = entryAllots b ∧ d.sqHead = (s.ring p.val).sqHead ∧ portOf d.port = p) ∧
      (∀ n, (entryAllots b).getLsbD n = false → t.allot n = s.allot n ∧ sfind t.dying n = sfind s.dying n) ∧
      t.cad = s.cad ∧ t.boot = s.boot ∧ t.flash = s.flash) ∧
  (∀ (s : State) (a : Allot) (d : Dying), s.clocked → sfind s.dying a.val = some d → d.freed →
    exec (.releaseKeyRemoval a) s = .next (
      if (sdel s.dying a.val).any (fun e => decide (e.2.mask = d.mask) && decide (e.2.port = d.port)) then
        { s with dying := sdel s.dying a.val }
      else complete (portOf d.port).val ⟨0x04, 0x00, d.sqHead, d.tag, s.now, 0, 0, 0xFF⟩ { s with dying := sdel s.dying a.val })) ∧
  (∀ (s : State) (a : Allot) (d : Dying) (x : AllotSt), sfind s.dying a.val = some d → d.freed = false → s.allot a.val = some x →
    s.moversIdle x = false → exec (.releaseKeyRemoval a) s = .next s) ∧
  ∀ (s : State) (p : Port) (b : List Byte), s.timed → s.ringServed p.val → b.length = 64 → byteAt b 0 = 0x12 →
    entryDirt b [(1, 3), (0x0A, 6), (0x10, 0x2F)] = none → s.notOwned p (entryAllots b) = 0 →
    s.busyRuns (setBits (entryAllots b)) ≠ 0 →
    exec (.release p b) s = .next (complete p.val ⟨0x04, 0x02, (s.ring p.val).sqHead, entryTag b, s.now, 0,
      (s.busyRuns (setBits (entryAllots b))).setWidth 32, 0xFF⟩ s)

/-- R311: GIVE moves allotments to the other port where that port's link is up and its port ring enabled; TAKE moves them from a
port that has been down for 954 laps; the allotment rings are disabled and everything else of the allotments stands; where it
cannot, either is answered with the laps the other port has been down. -/
def Obligations.GiveTakeCommands : Prop :=
  ∀ (s : State) (p : Port) (b : List Byte), s.timed → s.ringServed p.val → b.length = 64 →
    entryDirt b [(1, 3), (0x0A, 6), (0x10, 0x2F)] = none →
    let done := fun (status : Byte) (detail : Word) (s : State) =>
      complete p.val ⟨0x04, status, (s.ring p.val).sqHead, entryTag b, s.now, 0, detail, 0xFF⟩ s
    let moved := fun (q : Port) (t : State) =>
      (∀ n, t.allot n = (s.allot n).map (fun x => if (entryAllots b).getLsbD n then { x with port := decide (q.val = 1) } else x)) ∧
      (∀ n, (entryAllots b).getLsbD n → t.ring (2 + n) = { s.ring (2 + n) with enable := false, reading := false }) ∧
      (∀ n, (entryAllots b).getLsbD n = false → t.ring (2 + n) = s.ring (2 + n)) ∧
      t.ring 0 = (done 0x00 0 s).ring 0 ∧ t.ring 1 = (done 0x00 0 s).ring 1 ∧ t = { s with allots := t.allots, rings := t.rings }
    (byteAt b 0 = 0x13 → s.notOwned p (entryAllots b) = 0 →
      ((s.port (other p)).linkUp → (s.ring (other p).val).enable → ∃ t, exec (.give p b) s = .next t ∧ moved (other p) t) ∧
      ((s.port (other p)).linkUp = false ∨ (s.ring (other p).val).enable = false →
        exec (.give p b) s = .next (done 0x06 ((s.port (other p)).downLaps.setWidth 32) s))) ∧
    (byteAt b 0 = 0x14 → s.notOther p (entryAllots b) = 0 →
      (954 ≤ (s.port (other p)).downLaps.toNat → ∃ t, exec (.take p b) s = .next t ∧ moved p t) ∧
      ((s.port (other p)).downLaps.toNat < 954 →
        exec (.take p b) s = .next (done 0x06 ((s.port (other p)).downLaps.setWidth 32) s)))

/-- R307, R316, R351, R436: a port maps its allotment's slice of the staging window inside the partitions, and a mapping outside
them or of a confidential allotment is ignored. An access goes slice by slice: a write changes exactly the bytes it names and
a read returns them; an unmapped slice reads zeros and drops writes. A word that cannot be corrected poisons the read.
ALLOT_SCHED takes a strobe group of the allotment and a poll period of 1 to 4,096. -/
def Obligations.StagingWindowCommands : Prop :=
  (∀ (s : State) (p : Port) (a : Allot) (x : AllotSt) (d : Word), s.hears p → s.page p a.val = some x → (s.port p).tdi = .unlocked →
    exec (.stagingWindowMap p a d) s = .next (
      if s.confidential x = false ∧ (bit d 31 → x.covers (winAddr (fld d 0 24))) then
        s.modAllot a.val (fun x => { x with winEn := bit d 31, winBase := fld d 0 24 })
      else s)) ∧
  (∀ (s : State) (p : Port) (a : Allot) (x : AllotSt) (d : Word), s.hears p → s.page p a.val = some x →
    exec (.allotSchedWrite p a d) s = .next (
      if (fld d 16 4 = x.sgrp ∨ s.ownsGroup a.val (fld d 16 4).toNat) ∧ 1 ≤ (fld d 0 13).toNat ∧ (fld d 0 13).toNat ≤ 4096 then
        s.modAllot a.val (fun x => { x with sgrp := fld d 16 4, poll := x.poll.write s.now (fld d 0 13) })
      else s)) ∧
  (∀ (s : State) (p : Port) (a : Allot) (d : Word), s.page p a.val = none →
    exec (.stagingWindowMap p a d) s = .next s ∧ exec (.allotSchedWrite p a d) s = .next s) ∧
  (∀ (s : State) (p : Port) (o : BitVec 28) (n : BitVec 13), s.hears p → s.clean 0 →
    exec (.stagingWindowRead p o n ⟨[], []⟩) s = .next { s with out := s.out ++ [.readData (decide (p.val = 1))
      ((slices o.toNat n.toNat).flatMap (fun e => match s.window p e.1 with
        | none => List.replicate e.2 0
        | some a => s.bytes 0 a e.2)) false] }) ∧
  (∀ (s : State) (p : Port) (o : BitVec 28) (n : BitVec 13) (a w : Nat), s.hears p → s.window p o.toNat = some a →
    o.toNat % 2 ^ 24 + n.toNat ≤ 2 ^ 24 → w ∈ wordsOf a n.toNat → sget [] s.upset (upsetKey 0 w) ≠ [] →
    trellisDecode ((sget [] s.upset (upsetKey 0 w)).take 36) = .uncorrectable →
    ∃ t, exec (.stagingWindowRead p o n ⟨[], []⟩) s = .next t ∧
      t.out = s.out ++ [.readData (decide (p.val = 1)) (List.replicate n.toNat 0) true] ∧
      t = { s with out := t.out, hbms := t.hbms, ddrs := t.ddrs, live := t.live, mgmt := t.mgmt }) ∧
  ∀ (s : State) (p : Port) (o : BitVec 28) (data : List Byte), s.hears p → s.clean 0 →
    ∃ t, exec (.stagingWindowWrite p o data ⟨[], []⟩) s = .next t ∧
      (∀ x, t.byte 0 x = (((slices o.toNat data.length).filterMap (fun e => match s.window p e.1 with
        | none => none
        | some a => if a ≤ x ∧ x < a + e.2 then some (byteAt data (e.1 - o.toNat + (x - a))) else none)).getLast?).getD (s.byte 0 x)) ∧
      t = { s with mem := t.mem, upset := t.upset } ∧ ∀ k, sget [] t.upset k = sget [] s.upset k

/-- R6, R7, R309, R312, R313, R318: a write to a dword outside the writable registers, whether it is read-only or unmapped, is
ignored; a write to a global register, or to any dword of a gatehouse or pavilion block, takes effect from the steward alone, and is
counted from the other port; of the buffered fields, PGL_REST of pavilion 1 keeps what is in effect until its strobe; a write to
PWR_HOST_CAP, BOOT_ADVANCE, BOOT_RESET, FRC_ALLOT_RESET, HST_IND_DATA, the staging window or the schedule of an allotment is the command
of that name (assumption 107); UPD_PIECE_CTL stores PIECE and with GO submits the window; HST_IND_SEL is stored, and the indirect pair
reads and writes the word of the rack plan it names, whose reserved bits read 0. -/
def Obligations.RegisterCommands : Prop :=
  (∀ (s : State) (p : Port) (v : Word), s.hears p → s.isSteward p →
    exec (.registerWrite p 0x52000C v) s = .next (if fld v 0 2 = 3#2 then s else s.modRest 1 (fun f => { f with
      buf := fld v 0 2, old := if f.at_ = some s.now then f.old else f.buf, at_ := some s.now })) ∧
    exec (.registerWrite p 0x701C v) s = .next (
      let t := { s with upd := { s.upd with piece := fld v 0 15 } }
      if bit v 31 then submitWindow (fld v 0 15) t else t)) ∧
  (∀ (s : State) (p : Port) (o : BitVec 26) (v : Word), s.hears p → s.isSteward p →
    let d := o.toNat / 4 * 4
    d ∉ [0xC10, 0x1000, 0x1040, 0x1044, 0x1054, 0x1060, 0x200C, 0x2010, 0x2014, 0x2400, 0x2404, 0x3004, 0x300C, 0x3038, 0x4000,
      0x400C, 0x7010, 0x7014, 0x7018, 0x701C, 0x163000, 0x263000, 0x42000C, 0x52000C, 0x62000C, 0x72000C] →
    (d < 0x1100 ∨ 0x1114 ≤ d) → (d < 0x1200 ∨ 0x1300 ≤ d ∨ d % 16 = 12) → (d < 0x8000 ∨ 0x9000 ≤ d) → (d < 0x40000 ∨ 0x48000 ≤ d) →
    (d < 0x3000000 ∨ 0x3100000 ≤ d ∨ (0x14 ≤ d % 0x10000 ∧ d % 0x10000 < 0x20) ∨ 0x2C ≤ d % 0x10000 ∨ d % 0x10000 = 0x24) →
    (s.port p).tdi ≠ .locked → (s.port p).tdi ≠ .run → exec (.registerWrite p o v) s = .next s) ∧
  (∀ (s : State) (p : Port) (o : BitVec 26) (v : Word), s.hears p → s.isSteward p = false →
    (globalWrite (o.toNat / 4 * 4) ≠ none ∨ partBlock (o.toNat / 4 * 4)) →
    exec (.registerWrite p o v) s = .next (s.modPort p (fun x => { x with nsWrites := satAdd x.nsWrites 1 }))) ∧
  (∀ (s : State) (p : Port) (v : Word), exec (.registerWrite p 0x0000010 v) s = .next s ∧
    exec (.registerWrite p 0x3004 v) s = exec (.hostCapWrite p v) s ∧
    exec (.registerWrite p 0x4000 v) s = exec (.bootAdvance p (fld v 16 4)) s ∧
    exec (.registerWrite p 0x400C v) s = exec (.bootReset p (fld v 0 16)) s ∧
    exec (.registerWrite p 0xC10 v) s = exec (.allotReset p (fld v 0 16)) s ∧
    exec (.registerWrite p 0x1044 v) s = exec (.indirectDataAccess p (some v)) s ∧
    ∀ a : Allot, exec (.registerWrite p (BitVec.ofNat 26 (0x3000020 + 0x10000 * a.val)) v) s = exec (.stagingWindowMap p a v) s ∧
      exec (.registerWrite p (BitVec.ofNat 26 (0x3000028 + 0x10000 * a.val)) v) s = exec (.allotSchedWrite p a v) s) ∧
  (∀ (s : State) (p : Port) (v : Word), s.hears p →
    exec (.registerWrite p 0x1040 v) s = .next (s.modPort p (fun x =>
      { x with indSpace := fld v 28 4, indInc := bit v 27, indWord := fld v 0 16 }))) ∧
  (∀ (s : State) (p : Port) (v : Word), s.hears p → s.isSteward p → (s.port p).indSpace = 1 → (s.port p).indWord.toNat < 144 →
    s.boot.step.toNat < 7 →
    let w := (s.port p).indWord.toNat
    ∃ t, exec (.indirectDataAccess p (some v)) s = .next t ∧
      (∀ k, sget 0 t.self.plan k = if k ≠ w then sget 0 s.self.plan k
        else if w % 4 = 0 then v &&& 0x3FF else if w % 4 = 1 then v &&& 0x3FFFF else if w % 4 = 2 then v &&& 0xFF else 0) ∧
      t.port p = { s.port p with
        indErr := false, indWord := if (s.port p).indInc then BitVec.ofNat 16 ((w + 1) % 144) else (s.port p).indWord } ∧
      (∀ q, q ≠ p → t.port q = s.port q) ∧ t = { s with ports := t.ports, self := { s.self with plan := t.self.plan } }) ∧
  ∀ (s : State) (p : Port), s.clocked → (s.port p).linkUp → (s.port p).indSpace = 1 → (s.port p).indWord.toNat < 144 →
    let w := (s.port p).indWord.toNat
    ∃ t, exec (.indirectDataAccess p none) s = .next t ∧
      t.out = s.out ++ [.readData (decide (p.val = 1)) (bytesOf 4 (sget 0 s.self.plan w)) false] ∧
      t.port p = { s.port p with
        indErr := false, indWord := if (s.port p).indInc then BitVec.ofNat 16 ((w + 1) % 144) else (s.port p).indWord } ∧
      (∀ q, q ≠ p → t.port q = s.port q) ∧ t = { s with ports := t.ports, out := t.out }

/-- R37, R38, R205, R302, R313, R314, R315, R437: a steward's APPLY makes the strobe of a module group due in the next tick, which
applies what was buffered before it in every block of the group: in a pavilion PGL_REST, whose arrays at rest take the new level as their
target; in a gatehouse SPK_HOLD, which takes a spoke DOWN that it holds and starts one that it frees; in the global block
PWR_HOST_SCHED, which with EN writes the host cap and gear limit and clears EN, also in the buffer unless it was written in the strobe's
own tick, and renews no lease; an arm at least two ticks ahead and outside ticks 00001 to 00007 is
taken, any other is refused and leaves an earlier one; an armed strobe applies in its tick; a group of an allotment ignores
the steward's strobe. -/
def Obligations.StrobeCommands : Prop :=
  (∀ (s : State) (p : Port) (g : Sgrp), s.hears p → s.isSteward p → (s.strobe g.val).owner = none →
    exec (.strobeApply p g) s = .next (s.modStrobe g.val (fun x => { x with due := true })) ∧
    exec (.strobeCancel p g) s = .next (s.modStrobe g.val (fun x => { x with armed := none })) ∧
    let at_ : Time := (s.strobe g.val).atHi ++ (s.strobe g.val).atLo
    exec (.strobeArm p g) s = .next (s.modStrobe g.val (fun x =>
      if s.cad.aligned = true ∧ s.now.toNat + 2 ≤ at_.toNat ∧ (at_.toNat % 65536 = 0 ∨ 8 ≤ at_.toNat % 65536) then
        { x with refused := false, armed := some at_ }
      else { x with refused := true }))) ∧
  (∀ (s : State) (p : Port) (g : Sgrp), s.hears p → s.isSteward p → (s.strobe g.val).owner ≠ none →
    exec (.strobeApply p g) s = .next s ∧ exec (.strobeArm p g) s = .next s ∧ exec (.strobeCancel p g) s = .next s) ∧
  (∀ (s : State) (p : Port) (g : Sgrp), s.hears p → s.isSteward p = false →
    exec (.strobeApply p g) s = .next (countNs p s) ∧ exec (.strobeArm p g) s = .next (countNs p s) ∧
    exec (.strobeCancel p g) s = .next (countNs p s)) ∧
  (∀ (s : State) (g : Sgrp), s.pending = [] → s.timed → 0 < s.cad.tick.toNat → s.cad.tick.toNat < 65535 → (s.strobe g.val).due →
    (∀ h, h ≠ g.val → (s.strobe h).due = false) →
    let u := { s with cad := { s.cad with tick := s.cad.tick + 1 } }
    step s = .next (applyStrobe g.val (later 1 u.now) (u.modStrobe g.val (fun x => { x with due := false })))) ∧
  (∀ (s : State) (g : Sgrp) (u : Time), s.timed → (s.strobe g.val).armed = some u →
    s.now = (if u.toNat % 65536 = 0 then later 7 u else u) →
    exec (.armedStrobeDue g) s = .next (applyStrobe g.val s.now (s.modStrobe g.val (fun x => { x with armed := none })))) ∧
  ∀ (g : Nat) (u : Time) (s : State),
    let t := applyStrobe g u s
    (∀ q : Pav, t.rest q.val = if s.groupOfBlock (3 + q.val) = g then { s.rest q.val with eff := (s.rest q.val).applied u }
      else s.rest q.val) ∧
    (∀ q : Nat, 4 ≤ q → t.rest q = s.rest q) ∧
    t.self.hold0 = (if s.groupOfBlock 1 = g then { s.self.hold0 with eff := s.self.hold0.applied u } else s.self.hold0) ∧
    t.self.hold1 = (if s.groupOfBlock 2 = g then { s.self.hold1 with eff := s.self.hold1.applied u } else s.self.hold1) ∧
    (∀ (q : Pav) (k : Nat), s.groupOfBlock (3 + q.val) = g → (s.rest q.val).applied u ≠ (s.rest q.val).eff →
      k ∈ s.restingGroups q.val → (t.ramp k).target = ((s.rest q.val).applied u).toNat) ∧
    (∀ k, (t.ramp k).level = (s.ramp k).level) ∧ t.mem = s.mem ∧ (s.groupOfBlock 0 ≠ g → t.pwr = s.pwr) ∧
    (s.groupOfBlock 0 = g →
      let f := s.pwr.sched
      let v := f.applied u
      let cap := fld v 0 16
      let good := v.getLsbD 19 ∧ 1 ≤ (fld v 16 3).toNat ∧ (fld v 16 3).toNat ≤ 5 ∧
        (cap = 0xFFFF#16 ∨ 420 ≤ cap.toNat ∧ cap.toNat ≤ 4200)
      t.pwr.sched.eff = v &&& 0x7FFFF ∧
      t.pwr.sched.buf = (if v.getLsbD 19 ∧ f.at_ ≠ some u then f.buf &&& 0x7FFFF else f.buf) ∧
      (good → t.pwr.hostGear = fld v 16 3 ∧ t.pwr.hostCap = cap ∧ (s.ctl → t.pwr.brakeDue)) ∧
      (¬good → t.pwr.hostGear = s.pwr.hostGear ∧ t.pwr.hostCap = s.pwr.hostCap ∧ t.pwr.brakeDue = s.pwr.brakeDue) ∧
      t.pwr.leaseLeft = s.pwr.leaseLeft ∧ t.pwr.lapsed = s.pwr.lapsed) ∧
    (∀ (h : Gh) (j : Fin 18), s.groupOfBlock (1 + h.val) = g →
      let k := 18 * h.val + j.val
      let hold := if h.val = 0 then s.self.hold0 else s.self.hold1
      let held := (hold.applied u).getLsbD j.val
      let was := hold.eff.getLsbD j.val
      (held → was = false → (t.spk k).state = 0 ∧ (t.spk k).keyed = false ∧ (t.spk k).data = [] ∧ (t.spk k).ctl = []) ∧
      (held = false → was → 5 ≤ s.boot.step.toNat → s.self.set → (s.spk k).state = 0 → (t.spk k).state = 1) ∧
      (held = was → (t.spk k).state = (s.spk k).state)) ∧
    (s.groupOfBlock 1 ≠ g → s.groupOfBlock 2 ≠ g →
      t.spokes = s.spokes ∧ t.allots = s.allots ∧ t.cad = s.cad ∧ t.frc = s.frc)

/-- R149, R152, R155, R157, R160, R161, R166, R187, R274, R316: a unit that is due starts in the gear in force, with its step
count and its execution counted; COMPLETE writes its entry, STROBE applies the allotment's buffered poll period, and PHASE_END
in the last execution of the last unit ends the run or makes the swap to NEXT due. The timetable then stands at the entry that
follows. What has happened to an entry stays in its store (R188, assumption 27), and an entry that cannot be read stops the
timetable. -/
def Obligations.TimetableCommands : Prop :=
  (∀ (s : State) (a : Allot) (x : AllotSt) (r : Run) (p : RunPos) (tb : Timetable) (u loops : Nat) (noise : List (Nat × List Byte)),
    s.allot a.val = some x → x.run = some r → x.pos = some p → x.table p.phase.toNat s.gear.gear.toNat x.variant.toNat = some tb →
    nextUnit tb p = some (u, loops) → s.timed → s.hold.hold = false → x.stopped = false → s.shiftNow = false →
    s.thm.trip = false → p.ended = none →
    let w : TtUnit := tb.units.getD u ⟨0, 0, 1⟩
    let done := sget 0 p.execs p.phase.toNat
    unitDue w.length p s →
    ∃ t, exec (.unitStart a noise) s = .next t ∧ t = { s with allots := t.allots, upset := t.upset } ∧
      t.allots = (s.modAllot a.val (fun x => { x with pos := some { p with
        unit := u, loops := loops, step := r.stepBase + BitVec.ofNat 64 done
        execs := sput 0 p.execs p.phase.toNat (done + 1), free := later w.length s.now
        running := some (s.now, s.gear.gear, w.first), lastTick := later (w.length - 1) s.now } })).allots ∧
      (noise = [] → t.upset = s.upset) ∧
      (∀ (ix : Nat) (e : List Byte), noise = [(ix, e)] → e.length = 36 → sget [] s.upset (entryKey a.val (x.tableIx tb) ix) = [] →
        e.any (fun b => b != 0) → sget [] t.upset (entryKey a.val (x.tableIx tb) ix) = e ∧
        ∀ k, k ≠ entryKey a.val (x.tableIx tb) ix → sget [] t.upset k = sget [] s.upset k)) ∧
  (∀ (s : State) (a : Allot) (d : Due) (tag : Word), s.due a.val = some d → sget [] s.upset (entryKey a.val d.table d.ix) = [] → d.kind = .complete tag →
    ∃ t, exec (.ttComplete a) s = .next t ∧
      t.rings = (complete (2 + a.val) ⟨0x01, 0x00, 0, tag, s.now, d.pos.step, 0, BitVec.ofNat 8 a.val⟩ s).rings ∧
      t.allot a.val = some { d.al with pos := some { d.pos with running := some (d.start, d.gear, d.ix + 1) } } ∧
      (∀ m, m ≠ a.val → t.allot m = s.allot m) ∧ t = { s with rings := t.rings, allots := t.allots }) ∧
  (∀ (s : State) (a : Allot) (d : Due) (g : Byte), s.due a.val = some d → sget [] s.upset (entryKey a.val d.table d.ix) = [] → d.kind = .strobe g →
    ∃ t, exec (.ttStrobe a) s = .next t ∧
      t.allot a.val = some { d.al with
        pos := some { d.pos with running := some (d.start, d.gear, d.ix + 1) }
        poll := if d.al.sgrp.toNat = g.toNat then { d.al.poll with eff := d.al.poll.applied s.now } else d.al.poll } ∧
      (∀ m, m ≠ a.val → t.allot m = s.allot m) ∧ t = { s with allots := t.allots }) ∧
  (∀ (s : State) (a : Allot) (d : Due) (r : Run) (tb : Timetable) (next : Byte), s.due a.val = some d → sget [] s.upset (entryKey a.val d.table d.ix) = [] →
    d.kind = .phaseEnd next → d.al.run = some r → d.al.anyTable d.pos.phase.toNat d.al.variant.toNat = some tb →
    ∃ t, exec (.ttPhaseEnd a) s = .next t ∧
      (nextUnit tb d.pos ≠ none → t.rings = s.rings ∧
        t.allot a.val = some { d.al with pos := some { d.pos with running := some (d.start, d.gear, d.ix + 1) } }) ∧
      (nextUnit tb d.pos = none → next = 0xFF →
        t.allot a.val = some { d.al with run := none, pos := none, restLap := some (s.cad.lap + 16) } ∧
        t.rings = (complete (2 + a.val) ⟨0x03, 0x00, r.sqHead, r.tag, s.now,
          r.stepBase + BitVec.ofNat 64 (sget 0 d.pos.execs d.pos.phase.toNat), 0, BitVec.ofNat 8 a.val⟩ s).rings) ∧
      (nextUnit tb d.pos = none → next ≠ 0xFF → t.rings = s.rings ∧
        t.allot a.val = some { d.al with
          pos := some { d.pos with ended := some next, running := some (d.start, d.gear, d.ix + 1) }
          swapDue := some (fld next 0 3, later 1 d.pos.lastTick) }) ∧
      (∀ m, m ≠ a.val → t.allot m = s.allot m) ∧ t = { s with rings := t.rings, allots := t.allots }) ∧
  (∀ (s : State) (a : Allot), s.due a.val = none → exec (.ttComplete a) s = .next s ∧ exec (.ttStrobe a) s = .next s) ∧
  ∀ (s : State) (a : Allot) (d : Due) (tag : Word) (e : List Byte), s.due a.val = some d →
    sget [] s.upset (entryKey a.val d.table d.ix) = e → d.kind = .complete tag → trellisDecode (fit 36 e) = .uncorrectable →
    ∃ t, exec (.ttComplete a) s = .next t ∧ t.allot a.val = some d.al.fault ∧ t.rings = s.rings ∧
      t.frc = (writeFault (0x50018000#32 + BitVec.ofNat 32 (ghOfPages d.al)) d.al.slice (BitVec.ofNat 3 (4 + ghOfPages d.al)) 0xFF
        (some (BitVec.ofNat 24 d.ix)) s).frc ∧
      (∀ m, m ≠ a.val → t.allot m = s.allot m) ∧ t.upset = s.upset ∧
      t = { s with allots := t.allots, frc := t.frc, mgmt := t.mgmt, out := t.out }

/-- R82, R83, R84, R85, R86, R89, R93, R153, R184, R187: an ISSUE entry joins those at work on the arrays it selects; the next
vector enters in its tick, gathered word by word from the front joins, meets the active tile, switches slots where it must,
and is in flight for 160 array cycles; a switch to a slot that is not full stops the array and the timetable with NO_TILE; a
vector whose results are ready leaves the flight with its output, which goes where the front joins carry it. R56, R57, R58: a block
sum is the exact sum of the products, each truncated to the window's unit in a windowed pair, times the shared scales, rounded once to
the nearest FP32 value, ties to even, or held at the largest. R55: a NaN makes it NaN and special. R59: block sums are added in
increasing block index to the initial value, each sum rounded once. R63: an edge program that is one QUANT of the accumulator writes
them as output blocks, whose draws count on from the blocks of the tile that this step has emitted. R65: a block with a NaN or an
infinity is written with a NaN scale and zeros. That the places of the joins' words and the tile come with the command, and what
an unjoined input holds, is the model's choice (assumption 24). -/
def Obligations.ArrayCommands : Prop :=
  (∀ (s : State) (a : Allot) (d : Due) (sw co : Bool) (g : Byte) (mask vec slots stride : BitVec 16), s.due a.val = some d →
    sget [] s.upset (entryKey a.val d.table d.ix) = [] → d.kind = .issue sw co g mask vec slots stride →
    let i : Issue := { entry := d.entry, at_ := s.now, total := vec.toNat, slotMask := slots, stride := stride.toNat, switch := sw,
                       cohort := co, cpt := cptOf d.gear.toNat, step := d.pos.step }
    ∃ t, exec (.ttIssue a) s = .next t ∧
      (∀ q, mask.getLsbD q →
        t.arr (16 * g.toNat + q) = { s.arr (16 * g.toNat + q) with issues := (s.arr (16 * g.toNat + q)).issues ++ [i] }) ∧
      (∀ x, (∀ q, mask.getLsbD q → x ≠ 16 * g.toNat + q) → t.arr x = s.arr x) ∧
      t.allot a.val = some { d.al with pos := some { d.pos with running := some (d.start, d.gear, d.ix + 1) } } ∧
      (∀ m, m ≠ a.val → t.allot m = s.allot m) ∧ t = { s with arrays := t.arrays, allots := t.allots }) ∧
  (∀ (s : State) (x : ArrayIx) (places : List (BitVec 17)) (n : Nat) (al : AllotSt) (c : ArrCfg) (e : EdgeProg) (i : Issue),
    s.arrayOf x.val = some (n, al, c, e) → (s.arr x.val).nextIssue x.val = some i → s.timed → s.hold.hold = false →
    al.stopped = false → s.thm.trip = false → s.domainsStopped = false → c.mode ≠ 0 →
    s.now = issueTick x.val i (slotCycle i i.admitted) →
    let a := s.arr x.val
    (mustSwitch c i a → a.full (!a.slot) → s.clean 1 → s.clean 2 →
      ∃ t, exec (.vectorAdmit x places ⟨[], []⟩) s = .next t ∧
        t.arr x.val = lastUse c ({ (a.switch c.uses.toNat) with flights := a.flights ++ [({
          bytes := fit (vectorBytes c.wFmt.toNat c.aFmt.toNat) (gather x.val al i places []
            ((vectorBytes c.wFmt.toNat c.aFmt.toNat + 31) / 32) s).word
          weights := s.bytes 2 (slotAddr x.val (!a.slot) 0) (tileBytes c.wFmt.toNat), entry := i.entry, vector := i.admitted
          step := i.step, readyAt := issueTick x.val i (slotCycle i i.admitted + 160) } : Flight)] }.admitted i) ∧
        (∀ y, y ≠ x.val → t.arr y = s.arr y) ∧ t = { s with arrays := t.arrays, live := (s.bump (cArr x.val 12) 1).live }) ∧
    (mustSwitch c i a = false → s.clean 1 → s.clean 2 →
      ∃ t, exec (.vectorAdmit x places ⟨[], []⟩) s = .next t ∧
        t.arr x.val = lastUse c ({ a with flights := a.flights ++ [({
          bytes := fit (vectorBytes c.wFmt.toNat c.aFmt.toNat) (gather x.val al i places []
            ((vectorBytes c.wFmt.toNat c.aFmt.toNat + 31) / 32) s).word
          weights := s.bytes 2 (slotAddr x.val a.slot 0) (tileBytes c.wFmt.toNat), entry := i.entry, vector := i.admitted
          step := i.step, readyAt := issueTick x.val i (slotCycle i i.admitted + 160) } : Flight)] }.admitted i) ∧
        (∀ y, y ≠ x.val → t.arr y = s.arr y) ∧ t = { s with arrays := t.arrays, live := (s.bump (cArr x.val 12) 1).live }) ∧
    (mustSwitch c i a → a.full (!a.slot) = false →
      exec (.vectorAdmit x places ⟨[], []⟩) s = .next (arrayFault n x.val 0x20010000#32 i.entry s))) ∧
  (∀ (s : State) (x : Nat) (al : AllotSt) (i : Issue) (places : List (BitVec 17)) (n : Nat), s.clean 1 →
    gather x al i places [] n s = ⟨s, (List.range n).flatMap (fun k => match joinWord (al.inJoins x) k with
      | none => (List.range 32).map (fun b => Config.unjoined x i.entry.toNat i.admitted (32 * k + b))
      | some (j, p, r) => if j.src.toNat / 4096 = 3
        then s.bytes 1 (32 * (bankByte (j.src.toNat % 4096) (32 * (((places.getD p 0).toNat + r) % 131072)) / 32)) 32
        else bytesAt (s.arr (j.src.toNat % 4096)).lastOut (32 * r) 32), none⟩) ∧
  (∀ (n x : Nat) (code : Word) (entry : BitVec 24) (s : State),
    let t := arrayFault n x code entry s
    t.frc = (writeFault code (s.sliceOf n) (BitVec.ofNat 3 (x / 64)) (BitVec.ofNat 8 (x % 64)) (some entry) s).frc ∧
    (∀ m, t.allot m = if m = n then (s.allot m).map AllotSt.fault else s.allot m) ∧
    (∀ y, t.arr y = if y = x then { s.arr y with issues := [] } else s.arr y) ∧
    t = { s with arrays := t.arrays, allots := t.allots, frc := t.frc, mgmt := t.mgmt, out := t.out }) ∧
  (∀ (s : State) (x : ArrayIx) (tile : BitVec 32) (places : List (BitVec 17)) (cycle : BitVec 4) (path : List PathNoise) (n : Nat)
    (al : AllotSt) (c : ArrCfg) (e : EdgeProg) (v : Flight) (rest : List Flight),
    s.arrayOf x.val = some (n, al, c, e) → (s.arr x.val).flights = v :: rest → s.timed → s.thm.trip = false → s.now = v.readyAt →
    let r := edgeRun n x.val al c e v tile s
    exec (.vectorResultReady ⟨x, tile, places, cycle, path⟩) s = .next (putOutputs n x.val al places cycle path v.entry r.2 r.1) ∧
    (al.outJoins x.val = [] → putOutputs n x.val al places cycle path v.entry r.2 r.1 = r.1) ∧
    (r.1.arr x.val).flights = rest ∧ (r.1.arr x.val).lastOut = r.2 ∧ (r.1.arr x.val).outEntry = some v.entry ∧
    (∃ y, r.1.allot n = some y ∧
      y.emitted c.tensor tile v.step = al.emitted c.tensor tile v.step + 128 / blockElems c.outFmt.toNat ∧
      (∀ u w z, (u, w, z) ≠ (c.tensor, tile, v.step) → y.emitted u w z = al.emitted u w z) ∧ y = { al with tiles := y.tiles }) ∧
    (∀ o : EdgeOp, c.progLen = 1 → e.ops.head? = some o → o.opc = 10 → o.srcA = 64 →
      let fw := c.wFmt.toNat
      let fa := c.aFmt.toNat
      let sums := fun (lane : Nat) => (List.range (kOf fw / blockElems fa)).map (fun j => (blockSum fw fa
        (decBlock fw (bytesAt v.weights ((lane * blocksOf fw + j) * blockBytes fw) (blockBytes fw)))
        (decBlock fa (bytesAt v.bytes (j * blockBytes fa) (blockBytes fa)))).bits)
      r.2 = (quantLanes c.outFmt.toNat
        (if c.qmode then some (random16 ⟨(s.image al.image).jobSeed, c.tensor, tile, v.step⟩) else none)
        (al.emitted c.tensor tile v.step)
        ((List.range 128).map (fun lane => (sums lane).foldl (fun z b => (fpAdd z b).1)
          (if c.accInit then sget 0 (s.arr x.val).lanes (64 * lane + c.accReg.toNat) else 0)))).1) ∧
    (c.progLen = 0 → r.2 = [] ∧ (r.1.arr x.val).lanes = (s.arr x.val).lanes) ∧
    (∀ y, y ≠ x.val → r.1.arr y = s.arr y) ∧
    r.1 = { s with arrays := r.1.arrays, live := r.1.live, allots := r.1.allots }) ∧
  (∀ (fw fa : Nat) (w a : Block) (ns na : Bool) (ms ma : Nat) (es ea : Int), w.scale = some (ns, ms, es) → a.scale = some (na, ma, ea) →
    (∀ x ∈ w.elems ++ a.elems, ∃ n m e, x = Machine.Num.fin n m e) →
    let val := fun (x : Machine.Num) => match x with
      | .fin n m e => (if n then -1 else 1) * (m : Rat) * (2 : Rat) ^ e
      | _ => 0
    let pairs := w.elems.zip a.elems
    let scale : Rat := val (.fin ns ms es) * val (.fin na ma ea)
    let rounded := fun (v : Rat) => if v = 0 then 0 else (toFp32 (decide (v < 0)) v.num.natAbs v.den).1
    (windowed fw = false → (blockSum fw fa w a).bits = rounded ((pairs.map (fun p => val p.1 * val p.2)).sum * scale) ∧
      (blockSum fw fa w a).loss = 0) ∧
    (windowed fw →
      let exponent := fun (p : Machine.Num × Machine.Num) => match p.1, p.2 with
        | .fin _ _ e, .fin _ _ f => e + manBits fw + (f + manBits fa)
        | _, _ => 0
      let nonzero := pairs.filter (fun p => decide (val p.1 * val p.2 ≠ 0))
      (nonzero = [] → (blockSum fw fa w a).bits = 0 ∧ (blockSum fw fa w a).loss = 0) ∧
      ∀ q ∈ nonzero.map exponent, (∀ r ∈ nonzero.map exponent, r ≤ q) →
        let unit : Rat := (2 : Rat) ^ (q - 24)
        let cut := fun (v : Rat) => (if v < 0 then -1 else 1) * ((⌊|v| / unit⌋ : Int) : Rat) * unit
        (blockSum fw fa w a).bits = rounded ((nonzero.map (fun p => cut (val p.1 * val p.2))).sum * scale) ∧
        ((blockSum fw fa w a).loss = 1 ↔ ∃ p ∈ nonzero, cut (val p.1 * val p.2) ≠ val p.1 * val p.2))) ∧
  (∀ (fw fa : Nat) (w a : Block), (w.scale = none ∨ a.scale = none ∨ ∃ x ∈ w.elems ++ a.elems, x = Machine.Num.nan) →
    (blockSum fw fa w a).bits = 0x7FC00000 ∧ (blockSum fw fa w a).special = 1) ∧
  (∀ (neg : Bool) (num den : Nat), 0 < num → 0 < den →
    let v : Rat := (num : Rat) / den
    (((2 ^ 25 - 1) * 2 ^ 103 : Rat) ≤ v → toFp32 neg num den = (if neg then 0xFF7FFFFF else 0x7F7FFFFF, true)) ∧
    (v < ((2 ^ 25 - 1) * 2 ^ 103 : Rat) → ∃ m e, decFp32 (toFp32 neg num den).1 = .fin neg m e ∧ (toFp32 neg num den).2 = false ∧
      ∀ (y : Word) (n : Bool) (k : Nat) (f : Int), decFp32 y = .fin n k f →
        |(m : Rat) * (2 : Rat) ^ e - v| ≤ |(k : Rat) * (2 : Rat) ^ f - v| ∧
        (|(m : Rat) * (2 : Rat) ^ e - v| = |(k : Rat) * (2 : Rat) ^ f - v| → (m : Rat) * (2 : Rat) ^ e ≠ (k : Rat) * (2 : Rat) ^ f →
          (toFp32 neg num den).1.getLsbD 0 = false))) ∧
  (∀ (x y : Word) (m k : Nat) (e f : Int) (n n' : Bool), decFp32 x = .fin n m e → decFp32 y = .fin n' k f →
    let v : Rat := (if n then -1 else 1) * (m : Rat) * (2 : Rat) ^ e + (if n' then -1 else 1) * (k : Rat) * (2 : Rat) ^ f
    (v ≠ 0 → fpAdd x y = toFp32 (decide (v < 0)) v.num.natAbs v.den) ∧
    (v = 0 → fpAdd x y = (if m = 0 ∧ k = 0 ∧ n ∧ n' then 0x80000000 else 0, false))) ∧
  (∀ x y : Word, (decFp32 x = .nan ∨ decFp32 y = .nan → fpAdd x y = (0x7FC00000, false)) ∧
    (∀ n, decFp32 x = .inf n → decFp32 y = .inf (!n) → fpAdd x y = (0x7FC00000, false)) ∧
    (∀ n m e b, decFp32 x = .inf n → decFp32 y = .fin b m e → fpAdd x y = (if n then 0xFF800000 else 0x7F800000, false))) ∧
  (∀ (f : Nat) (draw : Option (Nat → Nat → Nat)) (b0 : Nat) (x : List Word), 1 ≤ f → f ≤ 9 → x.length = blockElems f →
    (∃ w ∈ x, (decFp32 w).isNan ∨ (decFp32 w).isInf) →
    quantLanes f draw b0 x = ((if f = 9 then 0x7F else 0xFF) :: List.replicate (blockBytes f - 1) 0, { special := 1 })) ∧
  ∀ (s : State) (x : ArrayIx) (tile : BitVec 32) (places : List (BitVec 17)) (cycle : BitVec 4) (path : List PathNoise),
    (s.arr x.val).flights = [] → exec (.vectorResultReady ⟨x, tile, places, cycle, path⟩) s = .next s

/-- R103, R104, R105, R106, R187, R305: a MOVE starts its descriptor on an idle mover, queues it behind the active one, and is an
overrun behind a pending one; a stopped mover takes none. A complete descriptor, whose packets have all left, makes way for
the pending one; then its NEXT starts, unless the timetable is stopped. An unanswered read of host memory or of the staging window
stops the mover and its timetable; a mover that reads neither goes on. -/
def Obligations.MoverCommands : Prop :=
  (∀ (s : State) (a : Allot) (d : Due) (mv ds : BitVec 16), s.due a.val = some d → sget [] s.upset (entryKey a.val d.table d.ix) = [] → d.kind = .move mv ds →
    exec (.ttMove a) s = .next (passEntry a.val (startMover a.val (moverOf mv) (fld ds 0 9) d.entry s))) ∧
  (∀ (s : State) (n m : Nat) (ix : BitVec 9) (entry : BitVec 24),
    let t := startMover n m ix entry s
    ((s.mover m).stopped → t = s) ∧
    ((s.mover m).stopped = false → s.frontDesc n m ix.toNat = none → t = overrun n m ix entry s) ∧
    ∀ z : Desc, (s.mover m).stopped = false → s.frontDesc n m ix.toNat = some z →
      ((s.mover m).active = none →
        t = s.modMover m (fun x => { x with active := some { index := ix, desc := z, entry := entry } })) ∧
      ((s.mover m).active ≠ none → (s.mover m).pending = none →
        t = s.modMover m (fun x => { x with pending := some { index := ix, desc := z, entry := entry } })) ∧
      ((s.mover m).active ≠ none → (s.mover m).pending ≠ none →
        t.frc = (writeFault (faultCode 0x3 0x002 (moverDetail m ix)) (s.sliceOf n) (moverDie m) (BitVec.ofNat 8 (moverNum m))
          (some entry) s).frc ∧
        (∀ k, t.allot k = if k = n then (s.allot k).map AllotSt.fault else s.allot k) ∧
        t = { s with allots := t.allots, frc := t.frc, mgmt := t.mgmt, out := t.out })) ∧
  (∀ (s : State) (m : MoverIx) (n : Nat) (x : AllotSt) (z : Xfer), s.clocked → s.moverOwner m.val = some n → s.allot n = some x →
    (s.mover m.val).active = some z → z.moved = z.desc.total → s.sending m.val = false → pavHeld m.val s = false →
    swapHeld m.val x s = false →
    let ended := (s.modMover m.val (fun y => { y with active := y.pending, pending := none, last := z.index })).bump (cMovDone m.val) 1
    (z.desc.trnEn = false → z.desc.nextEn = false ∨ x.stopped → exec (.descriptorComplete m) s = .next ended) ∧
    (z.desc.trnEn = false → z.desc.nextEn → x.stopped = false →
      exec (.descriptorComplete m) s = .next (startMover n m.val z.desc.next z.entry ended)) ∧
    (z.desc.trnEn → z.bad = false → z.desc.nextEn = false → exec (.descriptorComplete m) s = .next (promote m.val
      (increment z.desc.trnIdx.toNat z.desc.trnInc.toNat (withDie (modNum s.ownCoord) (moverDie m.val).toNat)
        ((s.modMover m.val (fun y => { y with last := z.index })).bump (cMovDone m.val) 1))))) ∧
  (∀ (s : State) (m : MoverIx), s.sending m.val → exec (.descriptorComplete m) s = .next s) ∧
  (∀ (s : State) (m : MoverIx) (n : Nat) (z : Xfer), s.clocked → s.moverOwner m.val = some n →
    (s.mover m.val).active = some z →
    let read := (z.desc.op ≠ 2 ∧ (z.desc.srcSp = 3 ∨ z.desc.srcSp = 4)) ∨ (z.desc.op = 3 ∧ (z.desc.dstSp = 3 ∨ z.desc.dstSp = 4))
    (read → exec (.hostAccessTimeout m) s =
      .next (moverFault n m.val (faultCode 0x3 0x004 (moverDetail m.val z.index)) z.entry s)) ∧
    (¬read → exec (.hostAccessTimeout m) s = .next s)) ∧
  (∀ (s : State) (m : MoverIx), (s.mover m.val).active = none → exec (.hostAccessTimeout m) s = .next s) ∧
  ∀ (n m : Nat) (code : Word) (entry : BitVec 24) (s : State),
    let t := moverFault n m code entry s
    t.frc = (writeFault code (s.sliceOf n) (moverDie m) (BitVec.ofNat 8 (moverNum m)) (some entry) s).frc ∧
    (∀ k, t.allot k = if k = n then (s.allot k).map AllotSt.fault else s.allot k) ∧
    (∀ j, t.mover j = if j = m then { s.mover j with active := none, pending := none, stopped := true } else s.mover j) ∧
    t = { s with movers := t.movers, allots := t.allots, frc := t.frc, mgmt := t.mgmt, out := t.out }

/-- R82, R94, R97, R98, R103, R184: the transfer of a word of COPY writes the bytes of the source word at the destination and
nothing else, FILL writes zeros; of two writes to one bank word in one array cycle the later source's stays. A word of a tile
fills its weight slot with the last one. A transfer bound to another slice is recorded and stops the allotment whose tag it
carries. -/
def Obligations.WordTransferCommands : Prop :=
  (∀ (s : State) (m : MoverIx) (host : List Byte) (cycle : BitVec 4) (n : Nat) (x : AllotSt) (z : Xfer) (st w st' w' : Nat), s.clocked →
    s.moverOwner m.val = some n → s.allot n = some x → (s.mover m.val).active = some z → z.moved < z.desc.total →
    wordHeld m.val z.desc s = false → swapHeld m.val x s = false → z.desc.usesHost = false →
    (z.desc.op = 1 ∨ z.desc.op = 2) → s.clean st →
    (z.desc.op = 1 → placeIn' n x z.desc.srcSp.toNat
      (rowAddr z.desc.src.toNat z.desc.srcStride.toNat z.desc.rowWords.toNat z.moved) = .store st w) →
    placeIn' n x z.desc.dstSp.toNat (rowAddr z.desc.dst.toNat z.desc.dstStride.toNat z.desc.rowWords.toNat z.moved) = .store st' w' →
    let later := st' = 1 ∧ ∃ b ∈ s.bankWrites, b.at_ = s.now ∧ b.word = w' ∧ b.cycle = cycle ∧
      moverRank m.val (bankOf (32 * w')) < b.rank
    ∃ t, exec (.moverWordTransfer m host ⟨[], [], cycle⟩) s = .next t ∧
      (¬later → ∀ i, i < 32 → t.byte st' (32 * w' + i) = if z.desc.op = 1 then s.byte st (32 * w + i) else 0) ∧
      (later → ∀ u b, t.byte u b = s.byte u b) ∧
      (∀ u b, u < 4 → (u ≠ st' ∨ b < 32 * w' ∨ 32 * w' + 32 ≤ b) → t.byte u b = s.byte u b) ∧
      t.mover m.val = { s.mover m.val with active := some { z with moved := z.moved + 1, held := [] } } ∧
      (∀ j, j ≠ m.val → t.mover j = s.mover j) ∧ t.live = (s.bump (cMovWords m.val) 1).live ∧
      t = { s with movers := t.movers, live := t.live, mem := t.mem, scr := t.scr, stage := t.stage, wslots := t.wslots,
                   upset := t.upset, bankWrites := t.bankWrites }) ∧
  (∀ (x : Transfer) (s : State) (a : Nat) (slot : Bool) (off : Nat) (b : List Byte) (c : ArrCfg) (e : EdgeProg),
    x.a.arrayCfg a = some (c, e) → (slot ≠ (s.arr a).slot ∨ (s.arr a).released) → off + 32 ≤ 32 * c.tileWords.toNat →
    b.length = 32 → off % 32 = 0 →
    ∃ t, putSlot x a slot off b s = .ok t ∧ (∀ i, i < 32 → t.byte 2 (slotAddr a slot off + i) = byteAt b i) ∧
      (t.arr a).full slot = decide (off + 32 = 32 * c.tileWords.toNat) ∧ (∀ y, y ≠ a → t.arr y = s.arr y)) ∧
  (∀ (s : State) (p : FabricPort) (u : TransferSource) (b : BitVec 12) (err : List Byte) (n : Nat), s.clocked →
    s.sourceOwner u = some n →
    (s.sliceOf n ≠ b → exec (.pergolaTransferArrive p u ⟨b, err⟩) s =
      .next (allotFault n (faultCode 0x2 0x002 (portDetail p).2) (portDetail p).1 0xFF none s)) ∧
    (s.sliceOf n = b → (trellisDecode (fit 36 err) = .clean → exec (.pergolaTransferArrive p u ⟨b, err⟩) s = .next s) ∧
      (∀ left, trellisDecode (fit 36 err) = .corrected left →
        exec (.pergolaTransferArrive p u ⟨b, err⟩) s = .next (s.bump (portCounter p) 1)) ∧
      (trellisDecode (fit 36 err) = .uncorrectable → exec (.pergolaTransferArrive p u ⟨b, err⟩) s =
        .next (sourceFault n u (memFault false (portPlace p))
          { s with mgmt := { s.mgmt with odo := { s.mgmt.odo with ueWords := s.mgmt.odo.ueWords + 1 } } })))) ∧
  ∀ (s : State) (p : FabricPort) (u : TransferSource) (b : BitVec 12) (err : List Byte), s.sourceOwner u = none →
    exec (.pergolaTransferArrive p u ⟨b, err⟩) s = .next s

/-- R140, R141, R142, R143, R145, R174: a SHADOW entry starts the load of its phase, whose last tick fills the shadow planes from
the configuration store; the swap begins in tick 00004 and exchanges the planes in tick 00005; a swap whose load is not
complete stops the timetable with PLANE_LATE. -/
def Obligations.ShadowCommands : Prop :=
  (∀ (s : State) (a : Allot) (d : Due) (phase : Byte), s.due a.val = some d → sget [] s.upset (entryKey a.val d.table d.ix) = [] → d.kind = .shadow phase → s.clean 0 →
    ∃ t, exec (.ttShadow a) s = .next t ∧
      t.allot a.val = some { d.al with
        pos := some { d.pos with running := some (d.start, d.gear, d.ix + 1) }
        shadow := some { phase := BitVec.ofNat 3 phase.toNat, byEntry := some d.entry
                         doneAt := later (shadowTicks d.al phase.toNat - 1) s.now } } ∧
      (∀ m, m ≠ a.val → t.allot m = s.allot m) ∧ t = { s with allots := t.allots }) ∧
  (∀ (s : State) (a : Allot) (x : AllotSt) (h : Shadow), s.timed → s.allot a.val = some x → x.shadow = some h → h.plane = none →
    h.stopped = false → s.now = h.doneAt → s.clean 0 →
    exec (.shadowLoadDone a ⟨[], []⟩) s = .next (s.modAllot a.val (fun x => { x with shadow := some { h with
      plane := some (planeFrom h.phase ((x.phaseSecs h.phase.toNat).map (fun c =>
        (c, s.bytes 0 (32 * (c.addr.toNat / 32)) (c.count * recBytes c.type.toNat))))) } }))) ∧
  (∀ (s : State) (a : Allot) (x : AllotSt), s.allot a.val = some x → x.shadow = none →
    exec (.shadowLoadDone a ⟨[], []⟩) s = .next s) ∧
  (∀ (s : State) (a : Allot) (x : AllotSt) (ph : BitVec 3) (u : Time), s.timed → s.clear → s.cad.tick = 4 →
    s.allot a.val = some x → x.swapDue = some (ph, u) → u.toNat ≤ s.cad.lap.toNat * 65536 →
    (swapReady x ph ≠ none → x.stopped = false →
      exec (.planeSwap a) s = .next (s.modAllot a.val (fun x => { x with swapAt := some s.now }))) ∧
    (swapReady x ph ≠ none → x.stopped → exec (.planeSwap a) s = .next s) ∧
    (swapReady x ph = none →
      ∃ t, exec (.planeSwap a) s = .next t ∧ t.allot a.val = some { x with swapDue := none, stopped := true, faulted := true } ∧
        t.frc = (writeFault (0x40010000#32 + ph.setWidth 32) x.slice (BitVec.ofNat 3 (4 + ghOfPages x)) 0xFF
          (x.shadow.bind (·.byEntry)) s).frc ∧
        (∀ m, m ≠ a.val → t.allot m = s.allot m) ∧
        t = { s with allots := t.allots, frc := t.frc, mgmt := t.mgmt, out := t.out })) ∧
  ∀ (s : State) (a : Allot) (x : AllotSt) (ph : BitVec 3) (u : Time) (p : Plane), s.timed → s.cad.tick = 5 →
    s.allot a.val = some x → x.swapDue = some (ph, u) → x.swapAt = some (s.cad.lap ++ (4 : BitVec 16)) → swapReady x ph = some p →
    ∃ t y, exec (.planeSwap a) s = .next t ∧ t = swapPlanes a.val p s ∧ t.allot a.val = some y ∧ y.front = some p ∧
      y.planeBit = !x.planeBit ∧ y.swapDue = none ∧ y.run = x.run ∧ (∀ m, m ≠ a.val → t.allot m = s.allot m) ∧
      (x.run = none → y.pos = none ∧
        y.shadow = x.front.map (fun q => { phase := q.phase, doneAt := s.now, plane := some q }) ∧
        t = { s with allots := t.allots, arrays := t.arrays }) ∧
      (∀ r, x.run = some r → y.pos = some { phase := BitVec.ofNat 3 p.phase.toNat, loops := (r.iters.getD p.phase.toNat 0).toNat
                                            step := r.stepBase, execs := (x.pos.map (·.execs)).getD []
                                            free := s.cad.lap ++ (7 : BitVec 16) })

/-- R156, R242, R243, R246, R247: TRN_ARM loads TARGET and DEADLINE and keeps COUNT; a COUNT that equals TARGET completes at once,
and one above it is an overcount of an unlinked turnstile. A turnstile still armed once its deadline tick is over is MISSED,
the lowest of the allotment's is recorded, and the allotment's timetable stops. -/
def Obligations.TurnstileCommands : Prop :=
  (∀ (s : State) (a : Allot) (d : Due) (ti dl : BitVec 16) (tg : Word), s.due a.val = some d → sget [] s.upset (entryKey a.val d.table d.ix) = [] →
    d.kind = .trnArm ti dl tg →
    let k := ti.toNat
    let early := match (s.trn k).earlyAt with
      | some (w, n) => if w = s.now then n else 0
      | none => 0
    let armed : TrnSt := { s.trn k with
      target := tg, deadline := later dl.toNat d.start, entry := d.entry, st := 1, doneAt := none, earlyAt := none }
    let back : State := { s with live := smod 0 s.live (s.trnPlace k 2) (fun v => v - BitVec.ofNat 32 early) }
    ((s.trn k).count.toNat < tg.toNat → ∃ t, exec (.ttTrnArm a) s = .next t ∧ t.trn k = armed ∧ (∀ j, j ≠ k → t.trn j = s.trn j) ∧
      t.allot a.val = some { d.al with pos := some { d.pos with running := some (d.start, d.gear, d.ix + 1) } } ∧
      t = { back with trns := t.trns, allots := t.allots }) ∧
    ((s.trn k).count = tg → ∃ t, exec (.ttTrnArm a) s = .next t ∧
      t.trn k = { armed with st := 2, count := 0, roster := [], doneAt := some s.now } ∧ (∀ j, j ≠ k → t.trn j = s.trn j) ∧
      t.allot a.val = some { d.al with pos := some { d.pos with running := some (d.start, d.gear, d.ix + 1) } } ∧
      t = { (back.bump (s.trnPlace k 0) 1) with trns := t.trns, allots := t.allots }) ∧
    (tg.toNat < (s.trn k).count.toNat → (s.trn k).link = none → (s.trn k).owner = some (BitVec.ofNat 4 a.val) →
      ∃ t, exec (.ttTrnArm a) s = .next t ∧ t.trn k = armed ∧ (∀ j, j ≠ k → t.trn j = s.trn j) ∧
        t.frc = (writeFault (0x60020000#32 + BitVec.ofNat 32 k) d.al.slice (trnDie k) 0xFF (some d.entry) s).frc ∧
        (t.allot a.val).map (·.stopped) = some true ∧
        t = { back with trns := t.trns, allots := t.allots, frc := t.frc, mgmt := t.mgmt, out := t.out })) ∧
  (∀ (s : State) (k : Trn) (n : BitVec 4) (x : AllotSt), s.timed → (s.trn k.val).owner = some n → (s.trn k.val).st = 1 →
    s.over (s.trn k.val).deadline → s.now.toNat = (s.trn k.val).deadline.toNat + 1 → s.allot n.toNat = some x → x.stopped = false →
    rising s.trns →
    let misses := fun (j : Nat) => (s.trn j).owner = some n ∧ (s.trn j).st = 1 ∧ (s.trn j).deadline = (s.trn k.val).deadline
    ∃ t low, exec (.turnstileDeadline k) s = .next t ∧ misses low ∧ (∀ j, misses j → low ≤ j) ∧
      (∀ j, misses j → t.trn j = { s.trn j with
        st := 3
        miss := some (match shortPos s (s.trn j) with
          | none => (0x1F, 0x3FFFF)
          | some (p, c) => (BitVec.ofNat 5 p, c)) }) ∧
      (∀ j, ¬misses j → t.trn j = s.trn j) ∧
      t.frc = (writeFaultAt (s.trn k.val).deadline (faultCode 0x6 0x001 (BitVec.ofNat 16 low)) x.slice (trnDie low)
        (match shortPos s (s.trn low) with | none => 0xFF | some (p, _) => BitVec.ofNat 8 p) (some (s.trn low).entry) s).frc ∧
      (∀ m, t.allot m = if m = n.toNat then some x.fault else s.allot m) ∧
      t.live = ((s.missing n.toNat (s.trn k.val).deadline).foldl (fun s j => missTrn j s) s).live ∧
      t = { s with trns := t.trns, live := t.live, allots := t.allots, frc := t.frc, mgmt := t.mgmt, out := t.out }) ∧
  ∀ (s : State) (k : Trn), (s.trn k.val).st ≠ 1 → exec (.turnstileDeadline k) s = .next s

/-- R249, R251, R252, R253, R254, R256: a COLLECTIVE entry starts its plan anew; a segment's sends begin in its tick: its contribution
to each position is read from its input, copied for its own and sent in packets for the others; its completion step in the tick after the deadline finds the turnstile DONE and adds the slots in position order or
declares the gathered output valid; the reduction writes its output in its last tick. -/
def Obligations.CollectiveCommands : Prop :=
  (∀ (s : State) (a : Allot) (d : Due) (pl : BitVec 16), s.due a.val = some d → sget [] s.upset (entryKey a.val d.table d.ix) = [] → d.kind = .collective pl →
    ∃ t, exec (.ttCollective a) s = .next t ∧
      t.allot a.val = some { d.al with
        pos := some { d.pos with running := some (d.start, d.gear, d.ix + 1) }
        plans := d.al.plans.filter (fun p => decide (p.plan ≠ pl)) ++ [{ plan := pl, at_ := s.now, entry := d.entry }] } ∧
      (∀ m, m ≠ a.val → t.allot m = s.allot m) ∧ t = { s with allots := t.allots }) ∧
  (∀ (s : State) (a : Allot) (pn : Fin 256) (sn : Fin 4) (gn : Fin 256) (x : AllotSt) (r : PlanRun) (pl : Plan) (i : StageInfo)
      (own : Nat), s.timed → s.hold.hold = false → s.allot a.val = some x → x.planRun pn.val = some r →
    (s.image x.image).plans[pn.val]? = some pl → (s.planInfo x pn.val)[sn.val]? = some i → x.stopped = false → r.halted = false →
    gn.val < pl.segments → i.stage.level ≠ 0 → s.now = later (i.stage.start + gn.val * i.stage.period) r.at_ →
    posOf i.group i.stage.level.toNat (s.image x.image).coord = some own →
    exec (.segmentSendStart a pn sn gn ⟨[], []⟩) s = .next (
      modPlan a.val pn.val (fun p => { p with sent := p.sent ++ [(sn.val, gn.val)] })
        (sendSegment ⟨a.val, x, pn.val, i, gn.val, own, inputBuf pl (s.planInfo x pn.val) sn.val, r.entry, []⟩ s))) ∧
  (∀ (x : SegSend) (h k : Nat) (s : State), (∀ st, st < 4 → s.clean st) → x.path = [] →
    let off := x.seg * x.i.size + shareOff x.i k
    let slot := slotBytesOf x.i.stage.check x.own (fit x.i.contribution (match s.buffer x.a x.input with
      | none => List.replicate x.i.contribution 0
      | some b => s.bytes (bufPlace b).1 (32 * (((bufPlace b).2 + off) / 32)) x.i.contribution))
    let buf := x.i.stage.recvBuf + BitVec.ofNat 16 x.own
    (k ≠ x.own → x.share h k s = ((sendRuns x.i.stage.check slot).zipIdx.foldl (fun s (run, j) =>
      sendRun h (s.image x.a.image).longMode x.a.slice (modNum (x.i.group.getD k 0)) buf (x.seg * x.i.slotLen + 65536 * j)
        (fld (x.i.stage.trn + BitVec.ofNat 16 x.seg) 0 13) (slot.length - 65536 * j) run s) s, none)) ∧
    (k = x.own → x.share h k s = ((writeBuf h [] (x.i.n * (x.i.size / 32)) x.a buf (x.seg * x.i.slotLen) slot s).1, none))) ∧
  (∀ (gh k off : Nat) (x : AllotSt) (id : BitVec 16) (l : List Byte) (s : State) (b : StagingBuf), s.buffer x id = some b →
    b.pool ≠ 2 → ((bufPlace b).2 + off) % 32 = 0 → l.length % 32 = 0 →
    let t := (writeBuf gh [] k x id off l s).1
    (∀ i, i < l.length → t.byte (bufPlace b).1 ((bufPlace b).2 + off + i) = byteAt l i) ∧
    (∀ u y, u < 4 → u ≠ (bufPlace b).1 ∨ y < (bufPlace b).2 + off ∨ (bufPlace b).2 + off + l.length ≤ y →
      t.byte u y = s.byte u y)) ∧
  (∀ (s : State) (a : Allot) (pn : Fin 256) (sn : Fin 4) (gn : Fin 256) (x : AllotSt) (r : PlanRun) (pl : Plan) (i : StageInfo),
    s.timed → s.hold.hold = false → s.allot a.val = some x → x.planRun pn.val = some r →
    (s.image x.image).plans[pn.val]? = some pl → (s.planInfo x pn.val)[sn.val]? = some i → x.stopped = false → r.halted = false →
    gn.val < pl.segments → (s.trn (segTrn i gn.val)).st = 2 → s.now = later 1 (s.trn (segTrn i gn.val)).deadline →
    (∀ st, st < 4 → s.clean st) →
    let slots := (List.range i.n).map (fun k => slotData i.stage.check (
      match s.buffer x (i.stage.recvBuf + BitVec.ofNat 16 k) with
      | none => List.replicate i.slotLen 0
      | some b => s.bytes (bufPlace b).1 (32 * (((bufPlace b).2 + gn.val * i.slotLen) / 32)) i.slotLen))
    exec (.segmentCompletionStep a pn sn gn ⟨[], []⟩) s = .next (
      if i.stage.method.toNat < 2 then
        modPlan a.val pn.val (fun p => { p with reduces := p.reduces ++ [(sn.val, gn.val,
            later (reduceTicks s x i gn.val) (s.trn (segTrn i gn.val)).deadline, (sumSlots pl.fmt.toNat slots).1)] })
          (s.bump (s.trnCounter a.val (segGh i gn.val) 7) (sumSlots pl.fmt.toNat slots).2)
      else modPlan a.val pn.val (fun p => { p with done := p.done ++ [(sn.val, gn.val)] }) s)) ∧
  (∀ (s : State) (a : Allot) (pn : Fin 256) (sn : Fin 4) (gn : Fin 256) (x : AllotSt) (r : PlanRun) (i : StageInfo) (e : Time)
      (sum : List Byte), s.timed → s.allot a.val = some x → x.planRun pn.val = some r → (s.planInfo x pn.val)[sn.val]? = some i →
    r.reduces.find? (fun q => decide (q.1 = sn.val) && decide (q.2.1 = gn.val)) = some (sn.val, gn.val, e, sum) → s.now = e →
    exec (.segmentReductionDone a pn sn ⟨gn, []⟩) s = .next (modPlan a.val pn.val (fun p => { p with
        reduces := p.reduces.filter (fun q => !(decide (q.1 = sn.val) && decide (q.2.1 = gn.val)))
        done := p.done ++ [(sn.val, gn.val)] })
      ((writeBuf (segGh i gn.val) [] 0 x i.stage.outBuf (gn.val * i.outLen) sum s).1.bump
        (s.trnCounter a.val (segGh i gn.val) 6) 1))) ∧
  ∀ (s : State) (a : Allot) (pn : Fin 256) (sn : Fin 4) (gn : Fin 256) (x : AllotSt), s.allot a.val = some x →
    x.planRun pn.val = none →
    exec (.segmentSendStart a pn sn gn ⟨[], []⟩) s = .next s ∧ exec (.segmentCompletionStep a pn sn gn ⟨[], []⟩) s = .next s ∧
    exec (.segmentReductionDone a pn sn ⟨gn, []⟩) s = .next s

/-- R29, R204, R205, R206, R222, R223: a spoke starts from DETECT, goes to EQUALISE on a far-end signal, which begins an attempt,
to ALIGN, and to IDENTIFY or back; an attempt that times out returns to DETECT and keeps the far record; a spoke that loses
its signal goes DOWN, discards and counts what is queued, and loses its keys, its credit book, which no packet pays into any
more, and its disagreement; in any other state each changes nothing. -/
def Obligations.SpokeTrainingCommands : Prop :=
  (∀ (s : State) (k : Spoke),
    exec (.spokeTrainingStart k) s = .next (
      if s.clocked ∧ 5 ≤ s.boot.step.toNat ∧ s.self.set ∧ s.spokeHeld k.val = false ∧ (s.spk k.val).state = 0 then
        { (s.modSpk k.val (fun x => { x with state := 1 })) with self := { s.self with training := true } }
      else s)) ∧
  (∀ (s : State) (k : Spoke), s.clocked →
    exec (.farEndSignal k) s = .next (if (s.spk k.val).state = 1 then
      s.modSpk k.val (fun x => { x with state := 2, attempts := satAdd x.attempts 1 }) else s) ∧
    exec (.equalisationComplete k) s = .next (if (s.spk k.val).state = 2 then s.modSpk k.val (fun x => { x with state := 3 }) else s) ∧
    (∀ good : Bool, exec (.alignMeasurementDone k good) s = .next (if (s.spk k.val).state = 3 then
      s.modSpk k.val (fun x => { x with state := if good then 4 else 1 }) else s)) ∧
    exec (.trainingAttemptTimeout k) s = .next (
      if (s.spk k.val).state = 2 ∨ (s.spk k.val).state = 3 ∨ (s.spk k.val).state = 4 then
        s.modSpk k.val (fun x => { x with state := 1, ownAck := false, recIn := false })
      else s)) ∧
  (∀ (s : State) (k : Spoke), (s.spk k.val).state ≠ 5 → exec (.lossOfSignal k) s = .next s) ∧
  ∀ (s : State) (k : Spoke), s.clocked → (s.spk k.val).state = 5 → rising s.spokes → rising s.stations →
    let x := s.spk k.val
    let free := List.map (Queued.unowed k.val)
    ∃ t, exec (.lossOfSignal k) s = .next t ∧
      t.spk k.val = { x with
        state := 0, keyed := false, farValid := false, recIn := false, ownAck := false, matchAt := none, cred0 := 0, cred1 := 0
        cred2 := 0, ingress := free x.ingress, ctl := [], data := [], lastCtl := false, farEpoch := false, key := {} } ∧
      (∀ j, j ≠ k.val → t.spk j = { s.spk j with ingress := free (s.spk j).ingress, ctl := free (s.spk j).ctl }) ∧
      (∀ i, t.station i = { ring := free (s.station i).ring, entry := free (s.station i).entry }) ∧
      (∀ c, sget 0 t.live c = if c = cSpk k.val 2 then satAdd (sget 0 s.live c) (x.ctl.length + x.data.length) else sget 0 s.live c) ∧
      t.out = s.out ++ (x.ctl ++ x.data).filterMap (fun q => q.back.bind (fun b =>
        if (s.spk b.1).state = 5 then some (.linkWord b.1 (creditWord b.2 (s.linkEpoch b.1))) else none)) ∧
      t = { s with spokes := t.spokes, stations := t.stations, live := t.live, out := t.out
                   cad := { s.cad with mismatch := s.cad.mismatch &&& ~~~BitVec.twoPow 36 k.val } }

/-- R205, R206, R207, R208, R223, R340: a spoke in IDENTIFY sends its record until it is acknowledged; a record that passes its
checks is held and acknowledged, any other is ignored; with its own record acknowledged and the far one in, in one attempt,
the spoke is UP with a full credit book, keeps its outcome for the far end of the last check, and begins to key where it is a
MATCH. -/
def Obligations.IdentityCommands : Prop :=
  (∀ (s : State) (k : Spoke), s.clocked → (s.spk k.val).state = 4 →
    exec (.identityRecordSend k) s = .next (if (s.spk k.val).ownAck then s
      else { s with out := s.out ++ [.identity k.val (ownRecord k.val s)] })) ∧
  (∀ (s : State) (k : Spoke) (b : List Byte), b.length = 64 → s.clocked → (s.spk k.val).state = 4 → recordOk b →
    let held := { (s.modSpk k.val (fun x => { x with far := b, farValid := true, recIn := true })) with
                  out := s.out ++ [.linkWord k.val { ack := true, epoch := s.linkEpoch k.val }] }
    exec (.identityRecordReceive k b) s = .next (if (s.spk k.val).ownAck then spokeUp k.val held else held)) ∧
  (∀ (s : State) (k : Spoke) (b : List Byte), b.length = 64 → recordOk b = false → exec (.identityRecordReceive k b) s = .next s) ∧
  (∀ (s : State) (k : Spoke), s.clocked → (s.spk k.val).state = 4 →
    let acked := s.modSpk k.val (fun x => { x with ownAck := true })
    exec (.identityAckReceive k) s = .next (if (s.spk k.val).recIn then spokeUp k.val acked else acked)) ∧
  (∀ (s : State) (k : Spoke), (s.spk k.val).state ≠ 4 →
    exec (.identityRecordSend k) s = .next s ∧ exec (.identityAckReceive k) s = .next s) ∧
  ∀ (s : State) (k : Nat),
    let x := s.spk k
    let t := spokeUp k s
    let kept := !(x.wasUp && s.s7Begun && decide (x.checked ≠ some x.identity))
    let keys := (if kept then x.outcome else 1) = 3 ∧ s.boot.identity ∧ x.key.step = .idle
    t.spk k = { x with
      state := 5, cred0 := 16, cred1 := 8, cred2 := 8, ups := satAdd x.ups 1, wasUp := true
      outcome := if kept then x.outcome else 1, pair := if kept then x.pair else 0x3F
      key := if keys then { x.key with step := .cred, since := s.now } else x.key } ∧
    (∀ j, j ≠ k → t.spk j = s.spk j) ∧ t.stations = (if keys then (sendKeyMsg k 1 s.lodge.cred s).stations else s.stations) ∧
    t = { s with spokes := t.spokes, stations := t.stations }

/-- R204, R209, R210, R213, R309: the steward gives the module its coordinate before training; it opens, closes and rechecks the
rack plan once S7 is done; a recheck gives every spoke that no loaded image uses its outcome against the plan, and a spoke
that becomes a MATCH begins to key; anything else of these writes is ignored. -/
def Obligations.CoordinateCommands : Prop :=
  (∀ (s : State) (p : Port) (v : Word), s.hears p → s.isSteward p →
    exec (.spkSelfWrite p v) s = .next (
      if s.self.training = false ∧ bit v 31 ∧ (fld v 5 5).toNat ≤ 23 then
        { s with self := { s.self with set := true, rack := fld v 10 8, tray := fld v 5 5 } }
      else s)) ∧
  (∀ (s : State) (p : Port), s.hears p → s.isSteward p → s.s7Done →
    exec (.planOpen p) s = .next { s with self := { s.self with planOpen := true } } ∧
    exec (.planClose p) s = .next { s with self := { s.self with planOpen := false } } ∧
    ∃ t, exec (.recheck p) s = .next t ∧
      t = applyPlan s.spokesInUse { s with self := t.self } ∧
      t.self = { s.self with planOpen := false, kept := BitVec.ofNat 6 (popcount s.spokesInUse) } ∧
      (∀ k : Spoke, s.spokesInUse.getLsbD k.val → t.spk k.val = s.spk k.val) ∧
      (∀ k : Spoke, s.spokesInUse.getLsbD k.val = false →
        let x := s.spk k.val
        let o := outcomeOf (rackPlan s) s k.val
        t.spk k.val = { x with
          outcome := o.1, pair := o.2, matchAt := if o.1 = 3 ∧ x.outcome ≠ 3 then some s.now else x.matchAt
          checked := if x.farValid then some x.identity else none
          key := if x.state = 5 ∧ o.1 = 3 ∧ s.boot.identity ∧ x.key.step = .idle then { x.key with step := .cred, since := s.now }
            else x.key }) ∧
      (s.boot.identity = false → t.stations = s.stations) ∧ t = { s with self := t.self, spokes := t.spokes, stations := t.stations }) ∧
  (∀ (s : State) (p : Port), s.hears p → s.isSteward p → s.s7Done = false →
    exec (.planOpen p) s = .next s ∧ exec (.planClose p) s = .next s ∧ exec (.recheck p) s = .next s) ∧
  ∀ (s : State) (p : Port) (v : Word), s.hears p → s.isSteward p = false →
    exec (.spkSelfWrite p v) s = .next (countNs p s) ∧ exec (.planOpen p) s = .next (countNs p s) ∧
    exec (.planClose p) s = .next (countNs p s) ∧ exec (.recheck p) s = .next (countNs p s)

/-- R202, R211, R222, R223, R224, R230, R232, R341: at a packet boundary the first control packet with a credit leaves ahead of data
and spends its credit, but where the packet before it was a control packet and data waits, the data goes first, and a control packet
without credit holds up neither data nor another one; a packet leaves a spoke that may carry it and is counted, is discarded
and counted where the spoke may not carry it; a packet that has waited more than 64 ticks is counted late once; credits return
to the sender's book up to its size; none leaves while a new epoch is due. -/
def Obligations.EgressCommands : Prop :=
  let credit := fun (s : State) (q : Queued) => (q.back.bind (fun b =>
    if (s.spk b.1).state = 5 then some (Out.linkWord b.1 (creditWord b.2 (s.linkEpoch b.1))) else none)).toList
  (∀ (s : State) (k : Spoke) (q : Queued) (rest : List Queued), s.clocked → epochDue (s.spk k.val) = false →
    ((s.spk k.val).lastCtl ∨ ∀ c ∈ (s.spk k.val).ctl, usable k.val c.pkt s ∧ (s.spk k.val).hasCredit c.pkt = false) →
    (s.spk k.val).data = q :: rest → q.pkt.cls = 1 →
    let x := s.spk k.val
    ∃ t, exec (.packetSend k) s = .next t ∧ (∀ j, j ≠ k.val → t.spk j = s.spk j) ∧
      t = { s with spokes := t.spokes, live := t.live, out := t.out } ∧
      if usable k.val q.pkt s then
        t.out = s.out ++ .packet k.val (sealPacket k.val s q.pkt) :: credit s q ∧
        t.spk k.val = { x with
          data := rest, lastCtl := false, key := if x.keyed then { x.key with txCount := x.key.txCount + 1 } else x.key } ∧
        t.live = (bumpSlice q.pkt.slice k.val 0 (s.bump (cSpk k.val 7) 1)).live
      else
        t.out = s.out ++ credit s q ∧ t.spk k.val = { x with data := rest } ∧ t.live = (s.bump (cSpk k.val 2) 1).live) ∧
  (∀ (s : State) (k : Spoke) (q : Queued) (before rest : List Queued), s.clocked → epochDue (s.spk k.val) = false →
    (s.spk k.val).ctl = before ++ q :: rest →
    (∀ c ∈ before, usable k.val c.pkt s ∧ (s.spk k.val).hasCredit c.pkt = false) →
    ((s.spk k.val).data = [] ∨ (s.spk k.val).lastCtl = false) → usable k.val q.pkt s → (s.spk k.val).hasCredit q.pkt → q.pkt.cls = 2 →
    let x := s.spk k.val
    ∃ t, exec (.packetSend k) s = .next t ∧ t.out = s.out ++ .packet k.val (sealPacket k.val s q.pkt) :: credit s q ∧
      t.spk k.val = { x with
        ctl := before ++ rest, lastCtl := true, key := if x.keyed then { x.key with txCount := x.key.txCount + 1 } else x.key
        cred0 := if q.pkt.hops = 0 then x.cred0 - 1 else x.cred0
        cred1 := if q.pkt.hops = 1 then x.cred1 - 1 else x.cred1
        cred2 := if 2 ≤ q.pkt.hops.toNat then x.cred2 - 1 else x.cred2 } ∧
      t.live = (bumpSlice q.pkt.slice k.val 0 (s.bump (cSpk k.val 7) 1)).live ∧
      (∀ j, j ≠ k.val → t.spk j = s.spk j) ∧ t = { s with spokes := t.spokes, live := t.live, out := t.out }) ∧
  (∀ (s : State) (k : Spoke) (q : Queued) (before rest : List Queued), s.clocked → epochDue (s.spk k.val) = false →
    (s.spk k.val).ctl = before ++ q :: rest →
    (∀ c ∈ before, usable k.val c.pkt s ∧ (s.spk k.val).hasCredit c.pkt = false) →
    ((s.spk k.val).data = [] ∨ (s.spk k.val).lastCtl = false) → usable k.val q.pkt s = false →
    ∃ t, exec (.packetSend k) s = .next t ∧ t.out = s.out ++ credit s q ∧ t.spk k.val = { s.spk k.val with ctl := before ++ rest } ∧
      t.live = (s.bump (cSpk k.val 2) 1).live ∧ (∀ j, j ≠ k.val → t.spk j = s.spk j) ∧
      t = { s with spokes := t.spokes, live := t.live, out := t.out }) ∧
  (∀ (s : State) (k : Spoke), epochDue (s.spk k.val) ∨ ((s.spk k.val).data = [] ∧
      ∀ c ∈ (s.spk k.val).ctl, usable k.val c.pkt s ∧ (s.spk k.val).hasCredit c.pkt = false) →
    exec (.packetSend k) s = .next s) ∧
  (∀ (s : State) (k : Spoke) (q : Queued) (rest : List Queued), s.timed → (s.spk k.val).ctl = [] → (s.spk k.val).data = q :: rest →
    q.late = false → q.since.toNat + 64 < s.now.toNat →
    exec (.egressLate k) s = .next ((s.modSpk k.val (fun x => { x with data := { q with late := true } :: rest })).bump (cSpk k.val 4) 1)) ∧
  (∀ (s : State) (k : Spoke), (∀ q ∈ (s.spk k.val).ctl ++ (s.spk k.val).data, q.late ∨ s.now.toNat ≤ q.since.toNat + 64) →
    exec (.egressLate k) s = .next s) ∧
  (∀ (s : State) (k : Spoke) (r0 r1 r2 : BitVec 5) (ep : Bool), s.clocked → (s.spk k.val).state = 4 →
    exec (.linkWordReceive k r0 r1 r2 true ep) s = exec (.identityAckReceive k) s) ∧
  ∀ (s : State) (k : Spoke) (r0 r1 r2 : BitVec 5) (ack ep : Bool), s.clocked → (s.spk k.val).state = 5 →
    exec (.linkWordReceive k r0 r1 r2 ack ep) s = .next (s.modSpk k.val (fun x => { x with
      cred0 := BitVec.ofNat 5 (min 16 (x.cred0.toNat + r0.toNat)), cred1 := BitVec.ofNat 4 (min 8 (x.cred1.toNat + r1.toNat))
      cred2 := BitVec.ofNat 4 (min 8 (x.cred2.toNat + r2.toNat)), farEpoch := ep }))

/-- R218, R219, R220, R225, R227, R228, R229, R233: a packet that a spoke may not take in is discarded with its cause; a good
packet waits in the ingress FIFO, for this module with its increment withheld under a spoiled mark, for another one with the
egress its table names and one hop more. A packet moves around its ring by one station where there is room, ahead of one that
enters, or leaves it; a packet enters a free station once no lower station of its gatehouse that has not been served in the cycle can
take one in (assumption 113). The pending routing version becomes current in tick 00007 of its lap, before a packet is cut in it. -/
def Obligations.FabricCommands : Prop :=
  (∀ (s : State) (k : Spoke) (p : Packet) (rx : RxState), s.clocked → (s.spk k.val).state = 5 → (s.spk k.val).keyed = false →
    p.cls = 1 →
    let x := s.spk k.val
    let failed := !rx.headerWhole || rx.headerUe
    let counted := (s.bump (cSpk k.val 0) rx.corrected).live
    let bad := fun (cause : BitVec 4) (header : Bool) (counter : Nat) (t : State) =>
      t.spk k.val = { x with
        rxCause := cause, rxTick := s.cad.tick, rxSlice := if header then 0 else p.slice, rxSrc := if header then 0 else p.src
        marks := x.marks.spoil header p } ∧
      t.live = ({ s with live := counted }.bump (cSpk k.val counter) 1).live
    let good := fun (q : Queued) (marks : Marks) (t : State) =>
      t.spk k.val = { x with marks := marks, ingress := x.ingress ++ [q] } ∧
      t.live = (let u := bumpSlice p.slice k.val 1 ({ s with live := counted }.bump (cSpk k.val 8) 1)
        if q.withheld then u.bump (cSpk k.val 6) 1 else u).live
    ∃ t, exec (.packetReceive k p rx) s = .next t ∧ (∀ j, j ≠ k.val → t.spk j = s.spk j) ∧
      t = { s with spokes := t.spokes, live := t.live } ∧
      if rx.whole = false then bad 1 failed 3 t
      else if rx.headerUe || rx.payloadUe then bad 2 failed 1 t
      else if s.matched k.val = false then bad 3 false 3 t
      else if headerBad (s.isHere p) p then bad 5 true 3 t
      else if 16 ≤ x.ingress.length then bad 6 false 3 t
      else if s.isHere p then
        match deliverCause s p with
        | some c => bad (BitVec.ofNat 4 c) false 3 t
        | none => good { pkt := p, since := s.now, egress := 62, checked := true, withheld := p.trnEn && x.marks.hit p }
            (if p.trnEn && x.marks.hit p then x.marks.cleared p else x.marks) t
      else if p.hops = 2 then bad 7 false 3 t
      else match s.route (k.val / 18) p.ver p.slice (modNum p.dst) with
        | some e => good { pkt := { p with hops := p.hops + 1 }, since := s.now, egress := e } x.marks t
        | none => t.spk k.val = x ∧ (t.live =
            ((bumpSlice p.slice k.val 1 ({ s with live := counted }.bump (cSpk k.val 8) 1)).bump (cMiss (k.val / 18)) 1).live)) ∧
  (∀ (s : State) (k : Spoke) (p : Packet) (rx : RxState), s.clocked → (s.spk k.val).state = 5 → rx.whole → rx.headerWhole →
    rx.headerUe = false → rx.payloadUe = false → s.matched k.val → p.cls = 1 → openPacket k.val s p = none →
    (s.spk k.val).authLap ≠ 15 →
    let x := countRx p (s.spk k.val)
    ∃ t, exec (.packetReceive k p rx) s = .next t ∧ (∀ j, j ≠ k.val → t.spk j = s.spk j) ∧
      t.spk k.val = { x with
        rxCause := 4, rxTick := s.cad.tick, rxSlice := 0, rxSrc := 0, marks := x.marks.spoil true p, authLap := x.authLap + 1 } ∧
      t.live = (((s.bump (cSpk k.val 0) rx.corrected).bump (cSpk k.val 3) 1).bump (cSpk k.val 5) 1).live ∧
      t = { s with spokes := t.spokes, live := t.live }) ∧
  (∀ (s : State) (g : Gh) (j : Fin 22) (path : List PathNoise) (q : Queued) (rest : List Queued), s.clocked →
    (s.station (22 * g.val + j.val)).ring = q :: rest → s.exitStation g.val q ≠ j.val →
    (s.station (22 * g.val + (j.val + 1) % 22)).ring.length < 4 →
    ∃ t, exec (.transitRingHop g ⟨j, path⟩) s = .next t ∧
      t.station (22 * g.val + j.val) = { s.station (22 * g.val + j.val) with ring := rest } ∧
      t.station (22 * g.val + (j.val + 1) % 22) = { s.station (22 * g.val + (j.val + 1) % 22) with
        ring := (s.station (22 * g.val + (j.val + 1) % 22)).ring ++ [q] } ∧
      (∀ i, i ≠ 22 * g.val + j.val → i ≠ 22 * g.val + (j.val + 1) % 22 → t.station i = s.station i) ∧
      t = { s with stations := t.stations }) ∧
  (∀ (s : State) (g : Gh) (j : Fin 22) (q : Queued) (rest : List Queued), s.clocked →
    (s.station (22 * g.val + j.val)).ring = q :: rest → s.exitStation g.val q = j.val →
    let t := s.modStation (22 * g.val + j.val) (fun x => { x with ring := rest })
    exec (.transitRingHop g ⟨j, []⟩) s = .next (
      if j.val = 20 then t.modStation (22 * (1 - g.val) + 20) (fun x => { x with entry := x.entry ++ [q] })
      else if q.egress = 62 then giveBack q (if q.checked then deliverQueued g.val [] q t else deliverOwn g.val [] q.pkt t)
      else enqueue q.egress.toNat q t)) ∧
  (∀ (s : State) (g : Gh) (j : Fin 22) (path : List PathNoise), s.clocked → (s.station (22 * g.val + j.val)).ring = [] →
    let mine := s.entries g.val j.val
    let served := sget (0, 22) s.ringAt g.val
    let lower := ∃ k, k < j.val ∧ ¬(served.1 = s.now ∧ served.2 < j.val ∧ k ≤ served.2) ∧ (s.enterable g.val k).isSome
    (s.comesOn g.val ((j.val + 21) % 22) ∨ (∀ q ∈ mine, q.since = later 1 s.now) ∨ lower →
      exec (.transitRingHop g ⟨j, path⟩) s = .next s) ∧
    ∀ (early rest : List Queued) (q : Queued), s.comesOn g.val ((j.val + 21) % 22) = false → ¬lower → mine = early ++ q :: rest →
      (∀ e ∈ early, e.since = later 1 s.now) → q.since ≠ later 1 s.now →
      ∃ t, exec (.transitRingHop g ⟨j, path⟩) s = .next t ∧ sget (0, 22) t.ringAt g.val = (s.now, j.val) ∧
        t.station (22 * g.val + j.val) =
          (if j.val < 18 then { s.station (22 * g.val + j.val) with ring := [q] } else { ring := [q], entry := early ++ rest }) ∧
        (∀ k, t.spk k = if j.val < 18 ∧ k = 18 * g.val + j.val then { s.spk k with ingress := early ++ rest } else s.spk k) ∧
        (∀ i, i ≠ 22 * g.val + j.val → t.station i = s.station i) ∧
        t = { s with stations := t.stations, spokes := t.spokes, ringAt := t.ringAt }) ∧
  (∀ (s : State) (h : Nat) (slice : BitVec 12) (dst : BitVec 15) (buf : BitVec 16) (off : Nat) (trn : Option (BitVec 13))
      (b : List Byte), (dataPacket s h slice dst buf off trn b).ver = (s.rte.cur != s.switchNow)) ∧
  (∀ (s : State) (i : Nat) (l : BitVec 40), s.timed → s.cad.tick = 7 → s.clear → s.rte.pending = some i → s.rte.switchLap = some l →
    exec .routingSwitch s = .next (if l = s.cad.lap then { s with rte := { s.rte with
      cur := !s.rte.cur, pending := none, draining := true, lastLap := s.cad.lap.setWidth 32, switchLap := none } } else s)) ∧
  ∀ s : State, s.rte.pending = none → exec .routingSwitch s = .next s

/-- R340, R341, R342, R357: the four messages of the exchange, once whole, bring a spoke from one step to the next, and a correct
CONFIRM installs epoch 0 and KEYED; a failed check ends the attempt and is counted; the far end's abort and the timeout end
it; the retry begins anew; the sender's epoch advances after 2^32 packets, and the receiver derives the key after next. A
message of another kind waits. -/
def Obligations.LinkKeyCommands : Prop :=
  let ended := fun (s t : State) (k : Nat) =>
    t.spk k = { s.spk k with key := { step := .failed, since := s.now } } ∧ (∀ j, j ≠ k → t.spk j = s.spk j) ∧
    t.stations = (sendKeyMsg k 4 [] s).stations ∧ t = { s with
      spokes := t.spokes, stations := t.stations
      lodge := { s.lodge with linkFails := satAdd s.lodge.linkFails 1, linkLast := BitVec.ofNat 6 k } }
  (∀ (s : State) (k : Spoke) (c : List Byte) (rest : List (Byte × List Byte)), s.keyAt k.val .cred →
    (s.spk k.val).key.inbox = (1, c) :: rest →
    let ct := Config.kemCipher (credEk c) s.fresh
    ∃ t, exec (.linkKeyCred k c) s = .next t ∧
      if credOk (s.spk k.val).far c then
        t.spk k.val = { s.spk k.val with key := { (s.spk k.val).key with
          inbox := rest, step := .encap, since := s.now, farCred := c, drbgN := s.fresh, ownCt := ct } } ∧
        (∀ j, j ≠ k.val → t.spk j = s.spk j) ∧ t.stations = (sendKeyMsg k.val 2 ct s).stations ∧
        t = { s with spokes := t.spokes, stations := t.stations, fresh := s.fresh + 1 }
      else ended s t k.val) ∧
  (∀ (s : State) (k : Spoke) (ct : List Byte) (rest : List (Byte × List Byte)), s.keyAt k.val .encap →
    (s.spk k.val).key.inbox = (2, ct) :: rest →
    let x := (s.spk k.val).key
    let ls := linkSecret (s.isLo k.val) s.lodge.cred x.farCred s.lodge.credN x.drbgN ct
    ∃ t, exec (.linkKeyEncap k ct) s = .next t ∧
      t.spk k.val = { s.spk k.val with key := { x with inbox := rest, step := .confirm, since := s.now, farCt := ct, ls := ls } } ∧
      (∀ j, j ≠ k.val → t.spk j = s.spk j) ∧
      t.stations = (sendKeyMsg k.val 3 (confirmOf ls (s.isLo k.val) (s.isLo k.val) s.lodge.cred x.farCred x.ownCt ct) s).stations ∧
      t = { s with spokes := t.spokes, stations := t.stations }) ∧
  (∀ (s : State) (k : Spoke) (m : List Byte) (rest : List (Byte × List Byte)), s.keyAt k.val .confirm →
    (s.spk k.val).key.inbox = (3, m) :: rest →
    ∃ t, exec (.linkKeyConfirm k m) s = .next t ∧
      if m = s.confirm k.val false then
        t.spk k.val = { s.spk k.val with keyed := true, key := { (s.spk k.val).key with
          inbox := rest, step := .keyed, txEpoch := 0, rxEpoch := 0, txCount := 0, rxCount := 0, rxNext := 0, rxDerived := true } } ∧
        (∀ j, j ≠ k.val → t.spk j = s.spk j) ∧ t = { s with spokes := t.spokes }
      else ended s t k.val) ∧
  (∀ (s : State) (k : Spoke) (m : List Byte) (rest : List (Byte × List Byte)), s.ctl →
    (s.spk k.val).key.inbox = (4, m) :: rest →
    ∃ t, exec (.linkKeyAbort k) s = .next t ∧
      t.spk k.val = { s.spk k.val with key := if s.keying k.val then { step := .failed, since := s.now }
        else { (s.spk k.val).key with inbox := rest } } ∧
      (∀ j, j ≠ k.val → t.spk j = s.spk j) ∧ t = { s with spokes := t.spokes }) ∧
  (∀ (s : State) (k : Spoke) (m : List Byte), (s.spk k.val).key.inbox = [] →
    exec (.linkKeyCred k m) s = .next s ∧ exec (.linkKeyEncap k m) s = .next s ∧ exec (.linkKeyConfirm k m) s = .next s ∧
    exec (.linkKeyAbort k) s = .next s) ∧
  (∀ (s : State) (k : Spoke), s.timed → s.keying k.val →
    ((s.spk k.val).key.since.toNat + 6250000 ≤ s.now.toNat → ∃ t, exec (.linkKeyStepTimeout k) s = .next t ∧ ended s t k.val) ∧
    (s.now.toNat < (s.spk k.val).key.since.toNat + 6250000 → exec (.linkKeyStepTimeout k) s = .next s)) ∧
  (∀ (s : State) (k : Spoke), s.timed → s.keyAt k.val .failed → (s.spk k.val).key.since.toNat + 62500000 ≤ s.now.toNat →
    s.boot.identity →
    ∃ t, exec (.linkKeyRetry k) s = .next t ∧
      t.spk k.val = { s.spk k.val with key := {
        step := .cred, since := s.now, part := (s.spk k.val).key.part, inbox := (s.spk k.val).key.inbox } } ∧
      t.stations = (sendKeyMsg k.val 1 s.lodge.cred s).stations ∧
      (∀ j, j ≠ k.val → t.spk j = s.spk j) ∧ t = { s with spokes := t.spokes, stations := t.stations }) ∧
  ∀ (s : State) (k : Spoke), s.clocked → (s.spk k.val).keyed →
    exec (.linkEpochAdvance k .send) s = .next (if 2 ^ 32 ≤ (s.spk k.val).key.txCount.toNat then
      s.modSpk k.val (fun x => { x with key := { x.key with txEpoch := x.key.txEpoch + 1, txCount := 0 } }) else s) ∧
    exec (.linkEpochAdvance k .receive) s = .next (s.modSpk k.val (fun x => { x with key := { x.key with rxDerived := true } }))

/-- R372, R373, R374, R375, R376, R389: an error of an active unit whose partner is in step fails over to it; with no partner in
step the pair is lost, and from then on no unit acts; a standby unit only drops out, and one that is out of service changes
nothing; an error of a gatehouse is signalled by every role; a unit that has restarted re-enters step unless it is retired,
which the third failure does. -/
def Obligations.PairCommands : Prop :=
  (∀ (s : State) (g : Gh) (r : Role) (e : ErrSrc), s.clocked → s.fwUp →
    let b := decide (g.val = 1)
    (e = .localMemory ∨ e = .busProtocol ∨ e = .exception →
      exec (.unitErrorSignal g r e) s = .next (unitError (roleNum r) b (errCode e) s)) ∧
    (e = .vghRail ∨ e = .controlPll → exec (.unitErrorSignal g r e) s =
      .next (unitError 2 b (errCode e) (unitError 1 b (errCode e) (unitError 0 b (errCode e) s))))) ∧
  (∀ (s : State) (r : Fin 3) (b : Bool) (src : BitVec 4),
    let own := unitIx r.val b
    let t := unitError r.val b src s
    let out : UnitSt := { s.unit own with
      inStep := false, fails := (s.unit own).fails + 1, retired := decide (3 ≤ (s.unit own).fails + 1), src := src }
    ((s.unit own).inStep = false → t = s) ∧
    ((s.unit own).inStep → t.unit own = out ∧ ∀ i, i ≠ own → t.unit i = s.unit i) ∧
    ((s.unit own).inStep → s.active r.val ≠ b → t = { s with lodge := { s.lodge with units := t.lodge.units } }) ∧
    ((s.unit own).inStep → s.active r.val = b → (s.unit (unitIx r.val (!b))).inStep →
      t.active r.val = !b ∧ (∀ q : Fin 3, q ≠ r → t.active q.val = s.active q.val) ∧ t.lodge.pairLost = s.lodge.pairLost ∧
      t.lodge.lastDetail = pairDetail r.val src (!b) ∧ t.lodge.lastTick = s.cad.tick ∧
      t.frc = (writeFault (faultCode 0x9 0x001 (pairDetail r.val src (!b))) 0 (if b then 5 else 4) 0xFF none s).frc ∧
      t.mgmt.odo = { s.mgmt.odo with
        failovers := s.mgmt.odo.failovers.set r.val (s.mgmt.odo.failovers.getD r.val 0 + 1) } ∧
      t = { s with lodge := t.lodge, frc := t.frc, mgmt := t.mgmt, out := t.out }) ∧
    ((s.unit own).inStep → s.active r.val = b → (s.unit (unitIx r.val (!b))).inStep = false →
      t.lodge.pairLost ∧ t.lodge.lastDetail = pairDetail r.val src b ∧ t.lodge.lastTick = s.cad.tick ∧ t.ctl = false ∧ (∀ p, t.hears p = false) ∧ alertLow t ∧ (∀ q, t.active q = s.active q) ∧
      t.frc = (writeFault (faultCode 0x9 0x002 (pairDetail r.val src b)) 0 (if b then 5 else 4) 0xFF none s).frc ∧
      (∀ (n : Nat) (a : AllotSt), s.allot n = some a → t.allot n = some a.fault) ∧
      (r ≠ 1 → t.gear = s.gear) ∧ (r = 1 → ∀ q : Pav, sget {} t.gear.slews q.val = ⟨0, 0, s.now⟩) ∧
      t = { s with lodge := t.lodge, frc := t.frc, mgmt := t.mgmt, out := t.out, allots := t.allots
                   gear := { s.gear with slews := t.gear.slews } })) ∧
  (∀ (s : State) (g : Gh) (r : Role) (e : ErrSrc), s.clocked = false ∨ s.fwUp = false → exec (.unitErrorSignal g r e) s = .next s) ∧
  ∀ (s : State) (g : Gh) (r : Role), s.ctl →
    let i := unitIx (roleNum r) (decide (g.val = 1))
    exec (.unitResyncDone g r) s = .next (if (s.unit i).inStep = false ∧ (s.unit i).retired = false then
      s.modUnit i (fun u => { u with inStep := true }) else s)

/-- R338, R339, R343 to R346, R353: a mailbox request is served in its turn, and the malformed ones behind it are answered in
theirs. A report holds a fresh ephemeral pair bound to its nonce; a session opens once with that pair; a message that its tag
and count do not allow changes no session; a released key replaces an earlier one of its KEY_ID; the tenant's telemetry is
sealed under k_mt; a closed session is gone; the link credential is returned as it is, and before S8 with an open status
(assumption 91). -/
def Obligations.LodgeCommands : Prop :=
  let taken := fun (s : State) (l : Lodge) => { s with lodge := { l with waiting := s.lodge.waiting.tail } }
  let req := fun (s : State) (p : Port) => (s.port p).mailbox.bytes
  (∀ s : State, (∀ n ∈ s.lodge.waiting, (s.port (if n = 0 then 0 else 1)).mailbox.opcode ≠ none) → answerBad s = s) ∧
  (∀ (s : State) (p : Port), s.ctl → s.lodge.waiting = [p.val] → (s.port p).mailbox.opcode = none →
    answerBad s = answer p 0x01 [] (taken s s.lodge)) ∧
  (∀ (s : State) (p : Port), answerBad s = s → s.ctl = false ∨ s.lodge.waiting.head? ≠ some p.val →
    ∀ c ∈ [Instr.getReport p, .openSession p, .releaseKey p, .getTelemetry p, .closeSession p, .getCredential p],
      exec c s = .next s) ∧
  (∀ (s : State) (p : Port), s.turnOf p 1 →
    let body := reportBody p (bytesAt (req s p) 8 32) s.fresh s
    exec (.getReport p) s = .next (answerBad (
      if requestOk (req s p) 40 = false then answer p 0x01 [] (taken s s.lodge)
      else if s.boot.identity = false then answer p 0x05 [] (taken s s.lodge)
      else answer p 0x00 (body ++ signPair s.lodge.prk (drbgBytes (s.fresh + 1) 48) body)
        { taken s { s.lodge with ephs := sset s.lodge.ephs p.val ⟨bytesAt (req s p) 8 32, s.fresh, body⟩ } with
          fresh := s.fresh + 2 }))) ∧
  (∀ (s : State) (p : Port), s.turnOf p 2 →
    let b := req s p
    let job := le 64 b 40 8
    exec (.openSession p) s = .next (answerBad (
      if requestOk b 1713 = false then answer p 0x01 [] (taken s s.lodge)
      else if s.boot.identity = false then answer p 0x05 [] (taken s s.lodge)
      else if (∃ x ∈ s.lodge.sessions, x.jobId = job) ∨ 16 ≤ s.lodge.sessions.length then answer p 0x02 [] (taken s s.lodge)
      else match (sfind s.lodge.ephs p.val).filter (fun e => decide (e.nonce = bytesAt b 8 32)) with
        | none => answer p 0x04 [] (taken s s.lodge)
        | some e =>
          let x := newSession e job (bytesAt b 48 1568) (bytesAt b 1616 97)
          answer p 0x00 (sealMsg x (bytesOf 8 x.sid)) (taken s { s.lodge with
            ephs := sdel s.lodge.ephs p.val, sessions := s.lodge.sessions ++ [{ x with tx := 1 }] })))) ∧
  (∀ (s : State) (p : Port) (op n : Nat) (c : Instr),
    (op, n, c) ∈ [(3, 88, Instr.releaseKey p), (4, 0, .getTelemetry p), (5, 0, .closeSession p)] → s.turnOf p op →
    (requestOk (req s p) (40 + n) = false → exec c s = .next (answerBad (answer p 0x01 [] (taken s s.lodge)))) ∧
    (requestOk (req s p) (40 + n) → s.sessionOf (req s p) = none → exec c s = .next (answerBad (answer p 0x04 [] (taken s s.lodge)))) ∧
    ∀ x, requestOk (req s p) (40 + n) → s.sessionOf (req s p) = some x → openMsg x (req s p) n = none →
      exec c s = .next (answerBad (answer p 0x03 [] (taken s s.lodge)))) ∧
  (∀ (s : State) (p : Port) (x : Session) (plain : List Byte), s.turnOf p 3 → requestOk (req s p) 128 → s.sessionOf (req s p) = some x →
    openMsg x (req s p) 88 = some plain →
    let others := x.keys.filter (fun y => !decide (y.keyId = le 64 plain 0 8))
    let put := fun (x' : Session) => taken s { s.lodge with sessions := s.lodge.sessions.map (fun y => if y.sid = x.sid then x' else y) }
    exec (.releaseKey p) s = .next (answerBad (
      if others.length < 64 then answer p 0x00 [] (put { x with
        rx := x.rx + 1, keys := others ++ [⟨le 64 plain 0 8, bytesAt plain 8 32, bytesAt plain 40 48⟩] })
      else answer p 0x02 [] (put { x with rx := x.rx + 1 })))) ∧
  (∀ (s : State) (p : Port) (x : Session) (plain : List Byte), s.turnOf p 4 → requestOk (req s p) 40 → s.sessionOf (req s p) = some x →
    openMsg x (req s p) 0 = some plain →
    exec (.getTelemetry p) s = .next (answerBad (answer p 0x00 (sealMsg x (telemetry x.sid s)) (taken s { s.lodge with
      sessions := s.lodge.sessions.map (fun y => if y.sid = x.sid then { x with rx := x.rx + 1, tx := x.tx + 1 } else y) })))) ∧
  (∀ (s : State) (p : Port) (x : Session) (plain : List Byte), s.turnOf p 5 → requestOk (req s p) 40 → s.sessionOf (req s p) = some x →
    openMsg x (req s p) 0 = some plain →
    exec (.closeSession p) s = .next (answerBad (answer p 0x00 [] (taken s { s.lodge with
      sessions := s.lodge.sessions.filter (fun y => decide (y.sid ≠ x.sid)) })))) ∧
  ∀ (s : State) (p : Port), s.turnOf p 6 →
    exec (.getCredential p) s = .next (answerBad (
      if requestOk (req s p) 8 = false then answer p 0x01 [] (taken s s.lodge)
      else if s.boot.identity = false then answer p 0x05 [] (taken s s.lodge)
      else if s.lodge.cred = [] then answer p Config.earlyCredential [] (taken s s.lodge)
      else answer p 0x00 s.lodge.cred (taken s s.lodge)))

/-- R334, R354, R355: a failed health test stops key generation, records ENTROPY, and fails S2 while it runs; every SPDM request
has its answer; a key exchange agrees the secret of a session, whose records are sealed with AES-256-GCM: a record that does not open
is an error, and one that does is answered by a sealed one, whether it confirms the session, ends it, or programs the key of an IDE
stream, which are taken in no other way; the interface is locked from CONFIG_UNLOCKED and started from locked, any other state answers an error, and
STOP_INTERFACE brings it back from any of its states. Codes and codings of SPDM and TDISP are presumed (assumption 60). -/
def Obligations.SecurityCommands : Prop :=
  let sent := fun (s : State) (p : Port) (code : Byte) (d : List Byte) => { s with out := s.out ++ [.spdm (decide (p.val = 1)) code d] }
  let signed := fun (s : State) (p : Port) (code : Byte) (d : List Byte) => { s with
    fresh := s.fresh + 1
    out := s.out ++ [.spdm (decide (p.val = 1)) code (d ++ fit 384 (Config.rsaSign (seedRsa s.lodge.prk) (drbgBytes s.fresh 48)
      (Config.protocolBytes 0x10 code.toNat ++ d)))] }
  let chain := digestBytes (sha384 Config.certChain)
  let bad := Config.protocolBytes 0x10 0x7F
  (∀ (s : State) (n : BitVec 16), s.lodgeRuns →
    ∃ t, exec (.entropy n) s = .next t ∧ t.lodge = { s.lodge with entropyDead := true } ∧
      t.frc = (writeFault (0x80030000#32 + n.setWidth 32) 0 6 0xFF none s).frc ∧
      t.boot = { s.boot with state := if s.boot.step = 2 ∧ s.boot.state = 0 then 2 else s.boot.state } ∧
      t = { s with lodge := t.lodge, frc := t.frc, mgmt := t.mgmt, out := t.out, boot := t.boot }) ∧
  (∀ (s : State) (n : BitVec 16), s.lodgeRuns = false → exec (.entropy n) s = .next s) ∧
  (∀ (s : State) (p : Port) (r : SpdmRequest), s.hears p = false → exec (.spdmMessage p r) s = .next s ∧ exec (.stopInterface p) s = .next s) ∧
  (∀ (s : State) (p : Port), s.hears p →
    exec (.spdmMessage p .version) s = .next (sent s p 0x04 [0x00, 0x12, 0x00, 0x13]) ∧
    exec (.spdmMessage p .capabilities) s = .next (sent s p 0x61 [0xD6, 0x02, 0, 0]) ∧
    exec (.spdmMessage p .algorithms) s = .next (sent s p 0x63 [8, 0, 0, 0, 2, 0, 0, 0, 0x10, 0, 2, 0]) ∧
    exec (.spdmMessage p .digests) s = .next (sent s p 0x01 chain) ∧
    (∀ off n : BitVec 16, exec (.spdmMessage p (.certificate off n)) s =
      .next (sent s p 0x02 ((Config.certChain.drop off.toNat).take n.toNat))) ∧
    (∀ nonce : List Byte, exec (.spdmMessage p (.challenge nonce)) s = .next (signed s p 0x03 (chain ++ nonce))) ∧
    (∀ (i : BitVec 8) (nonce : Option (List Byte)), exec (.spdmMessage p (.measurement i nonce)) s = .next (
      match s.measurement i.toNat, nonce with
      | some d, none => sent s p 0x60 d
      | some d, some x => signed s p 0x60 (d ++ x)
      | none, _ => sent s p 0x7F bad)) ∧
    (∀ (mac key : List Byte) (stream : Fin 2), ∀ r ∈ [SpdmRequest.endSession, .finish mac, .ideKeys stream key],
      exec (.spdmMessage p r) s = .next (sent s p 0x7F bad)) ∧
    ∀ code : Byte, exec (.spdmMessage p (.other code)) s = .next (sent s p code (Config.protocolBytes 0x10 code.toNat))) ∧
  (∀ s : State, s.measurement 1 = some (digestBytes s.fwDigest) ∧ s.measurement 2 = some (digestBytes (sha384 s.boot.repair)) ∧
    s.measurement 3 = some s.settings ∧ s.measurement 4 = some (idDigest s.boot.idPub) ∧
    (∀ (n : Nat) (a : AllotSt), s.allot n = some a → s.measurement (0x10 + n) = some (digestBytes (s.image a.image).digest)) ∧
    (∀ n : Nat, s.allot n = none → s.measurement (0x10 + n) = none) ∧ ∀ n : Nat, n = 0 ∨ 5 ≤ n → n < 0x10 → s.measurement n = none) ∧
  (∀ (s : State) (p : Port) (nonce point : List Byte), s.hears p →
    exec (.spdmMessage p (.keyExchange nonce point)) s =
      .next (signed (({ s with fresh := s.fresh + 1 }).modPort p (fun x => { x with
        spdm := { secret := some (fit 48 (Config.ecdh s.fresh point)) } })) p 0x64 (fit 97 (Config.ecdhPublic s.fresh) ++ nonce))) ∧
  (∀ (s : State) (p : Port) (record : List Byte), s.hears p →
    let x := (s.port p).spdm
    let u := s.modPort p (fun y => { y with spdm := { y.spdm with rx := x.rx + 1, tx := x.tx + 1 } })
    let sealed := fun (v : State) (code : Byte) (d : List Byte) =>
      { v with out := v.out ++ [.secured (decide (p.val = 1)) (x.seal (record.take 4) (code :: d))] }
    (x.opened record = none → exec (.spdmMessage p (.secured record)) s = .next (sent s p 0x7F bad)) ∧
    (∀ mac, x.opened record = some (0xE5 :: mac) → exec (.spdmMessage p (.secured record)) s = .next (
      if x.secret.map Config.finishMac = some mac then
        sealed (u.modPort p (fun y => { y with spdm := { secret := x.secret, secure := true } })) 0x65 (Config.protocolBytes 0x10 0x65)
      else sealed u 0x7F bad)) ∧
    (∀ d, x.opened record = some (0xEC :: d) → exec (.spdmMessage p (.secured record)) s =
      .next (sealed (u.modPort p (fun y => { y with spdm := {} })) 0x6C (Config.protocolBytes 0x10 0x6C))) ∧
    (∀ (stream : Fin 2) (key : List Byte), x.opened record = some (0xFE :: BitVec.ofNat 8 stream.val :: key) →
      exec (.spdmMessage p (.secured record)) s = .next (
        if x.secure then sealed (u.modPort p (fun y => { y with ide := sset y.ide stream.val key })) 0x00 (Config.protocolBytes 0x12 0)
        else sealed u 0x7F bad)) ∧
    ∀ i : BitVec 8, x.opened record = some [0xE0, i] → exec (.spdmMessage p (.secured record)) s = .next (match s.measurement i.toNat with
      | some d => sealed u 0x60 d
      | none => sealed u 0x7F bad)) ∧
  (∀ (x : Spdm) (session plain : List Byte), x.secret ≠ none → session.length = 4 →
    let key := (x.key 0).take 32
    let nonce := recordNonce (x.key 0) x.rx
    let head := session ++ leBytes 2 plain.length
    let c := gcmCrypt key nonce plain
    x.opened (head ++ c ++ beBytes 16 (gcmTag key nonce head c).toNat) = some plain) ∧
  ∀ (s : State) (p : Port), s.hears p →
    let moved := fun (d : Tdi) (code : Byte) =>
      sent (s.modPort p (fun x => { x with tdi := d })) p code (Config.protocolBytes 0x11 code.toNat)
    let wrong := sent s p 0x7F (Config.protocolBytes 0x11 0x7F)
    exec (.spdmMessage p .lockInterface) s = .next (if (s.port p).tdi = .unlocked then moved .locked 0x03 else wrong) ∧
    exec (.spdmMessage p .startInterface) s = .next (if (s.port p).tdi = .locked then moved .run 0x06 else wrong) ∧
    exec (.stopInterface p) s = .next (moved .unlocked 0x07)

/-- R360 to R362, R367, R369, R370: the answers of the CCCs and of MCTP control, and the NACK of a target that has no address or
no warden; a transfer whose PEC fails is discarded unanswered; the dynamic address and its loss; the announcement of a queue that holds records, repeated after 1,024 laps; the
odometer's copies at every 57,220th lap. MCTP codings are presumed (assumption 60). -/
def Obligations.ManagementBusCommands : Prop :=
  let ccc := fun (s : State) (b : List Byte) => { s with out := s.out ++ [.ccc b] }
  let nacked := fun (s : State) => { s with out := s.out ++ [.nack] }
  let mctp := fun (s : State) (cmd cc : Byte) (d : List Byte) => { s with out := s.out ++ [.mctp cmd cc d] }
  (∀ s : State, s.ctl → s.mgmt.addr ≠ none →
    exec .getpid s = .next (ccc s [0x16, 0x74, 0x48, 0x34, s.boot.slot.setWidth 8 <<< 4, 0x00]) ∧
    exec .getbcr s = .next (ccc s [0x06]) ∧ exec .getdcr s = .next (ccc s [0x00]) ∧
    exec .getmwl s = .next (ccc s (beBytes 2 s.mgmt.mwl.toNat)) ∧
    exec .getmrl s = .next (ccc s (beBytes 2 s.mgmt.mrl.toNat ++ fit 1 (Config.protocolBytes 0x8C 2))) ∧
    (∀ n : BitVec 16,
      exec (.setmwl n) s = .next (if n.toNat ≤ 256 then { s with mgmt := { s.mgmt with mwl := n } } else s) ∧
      exec (.setmrl n) s = .next (if n.toNat ≤ 256 then { s with mgmt := { s.mgmt with mrl := n } } else s)) ∧
    (∀ a w, s.mgmt.addr = some a → w.getLast? ≠ some (pec a false w.dropLast) → exec (.setEndpointId w) s = .next s) ∧
    (∀ (a : BitVec 7) (header : List Byte) (ix op e : BitVec 8), s.mgmt.addr = some a → header.length = 4 →
      let w := header ++ [0x00, ix, 0x01, op, e]
      exec (.setEndpointId (w ++ [pec a false w])) s = .next (
        if 2 ≤ op.toNat % 4 ∨ e = 0 ∨ e = 255 then mctp s 0x01 0x02 []
        else mctp { s with mgmt := { s.mgmt with eid := e } } 0x01 0x00 [e])) ∧
    exec .getEndpointId s = .next (mctp s 0x02 0x00 [s.mgmt.eid]) ∧
    exec .getMctpVersionSupport s = .next (mctp s 0x04 0x00 [1, 0xF1, 0xF3, 0xFF, 0x00]) ∧
    exec .getMessageTypeSupport s = .next (mctp s 0x05 0x00 [0x00, 0x01])) ∧
  (∀ (s : State) (n : BitVec 16), s.ctl = false ∨ s.mgmt.addr = none →
    ∀ c ∈ [Instr.getpid, .getbcr, .getdcr, .getmwl, .getmrl, .setmwl n, .setmrl n], exec c s = .next (nacked s)) ∧
  (∀ (s : State) (w : List Byte), s.ctl = false ∨ s.mgmt.addr = none →
    ∀ c ∈ [Instr.setEndpointId w, .getEndpointId, .getMctpVersionSupport, .getMessageTypeSupport], exec c s = .next (
      if s.vaux then { nacked s with mgmt := { s.mgmt with nacks := satAdd s.mgmt.nacks 1 } } else s)) ∧
  (∀ s : State, s.vaux → s.mgmt.addr ≠ none →
    exec .getstatus s = .next (ccc s (fit 2 (Config.protocolBytes 0x90 0))) ∧
    (∀ d : List Byte, d ≠ [0xB0, 0x07] → exec (.modreset d) s = .next (nacked s)) ∧
    ∃ b c, exec .getmodstat s = .next (ccc s (bytesOf 7 s.now ++ [s.boot.step.setWidth 8, b, c] ++ List.replicate 6 0)) ∧
      b.getLsbD 0 = alertLow s ∧ b.getLsbD 1 = s.thm.trip ∧ b.getLsbD 2 = s.frc.saved ∧ b.getLsbD 3 = s.lodge.pairLost ∧
      b.getLsbD 4 = s.pwr.lapsed ∧ b.getLsbD 5 = s.confMode ∧ b.getLsbD 6 = false ∧ b.getLsbD 7 = false ∧
      c.getLsbD 0 = s.lodge.actWarden ∧ c.getLsbD 1 = s.lodge.actPower ∧ c.getLsbD 2 = s.lodge.actLodge ∧ c.toNat < 8) ∧
  (∀ (s : State) (d : List Byte), s.vaux = false ∨ s.mgmt.addr = none →
    ∀ c ∈ [Instr.getstatus, .getmodstat, .modreset d], exec c s = .next (nacked s)) ∧
  (∀ s : State, announce s = if s.ctl ∧ s.mgmt.ibiEn ∧ s.mgmt.addr ≠ none ∧ s.mgmt.events ≠ [] then
      { s with mgmt := { s.mgmt with ibiLap := some s.cad.lap }, out := s.out ++ [.ibi 0xAE] } else s) ∧
  (∀ s : State, s.vaux →
    (∀ c ∈ [Instr.rstdaa, .i3cTargetReset], exec c s =
      .next { s with mgmt := { s.mgmt with addr := none, eid := 0, tid := 0, ibiLap := none } }) ∧
    ∀ a : BitVec 7, exec (.entdaa a) s = .next (
      if s.mgmt.addr = none then announce { s with mgmt := { s.mgmt with addr := some a } } else s)) ∧
  (∀ (s : State) (a : BitVec 7), s.vaux = false → ∀ c ∈ [Instr.rstdaa, .i3cTargetReset, .entdaa a], exec c s = .next s) ∧
  (∀ s : State,
    exec .disec s = .next (if s.ctl then { s with mgmt := { s.mgmt with ibiEn := false } } else s) ∧
    exec .enec s = .next (if s.ctl then announce { s with mgmt := { s.mgmt with ibiEn := true } } else s)) ∧
  (∀ s : State, exec .ibiRepeat s = .next (
    if s.timed ∧ (∀ l : BitVec 40, s.mgmt.ibiLap = some l → l.toNat + 1024 ≤ s.cad.lap.toNat) then announce s else s)) ∧
  ∀ s : State, exec .odometerUpdate s = .next (
    if s.ctl ∧ s.timed ∧ s.cad.tick = 0 ∧ s.cad.lap.toNat % 57220 = 0 then
      let copy : Option OdoCopy := some ⟨s.mgmt.odo, flashMac s.lodge.prk s.mgmt.odo.bytes⟩
      { s with
        mgmt := { s.mgmt with inv := s.mgmt.odo }
        flash := if s.flash.odoNext then { s.flash with odo1 := copy, odoNext := false }
          else { s.flash with odo0 := copy, odoNext := true } }
    else s)

/-- R361, R363 to R365, R367, R369, R371: the PLDM base, sensor, effecter, event and FRU commands answer with the state they name
and change nothing but the terminus ID, the event queue's acknowledged record and the buffer size; an endpoint without an ID
answers none of them, and a target without an address or a warden NACKs and counts. Command and completion codes and codings
are presumed (assumptions 60 and 100). -/
def Obligations.PldmCommands : Prop :=
  let sent := fun (s : State) (type cmd cc : Byte) (d : List Byte) => { s with out := s.out ++ [.pldm type cmd cc d] }
  (∀ s : State, s.ctl → s.mgmt.addr ≠ none → s.mgmt.eid ≠ 0 →
    (∀ (type cmd : Byte) (f : State → State), cmd.toNat ∉ (pldmCodes type.toNat).getD [] →
      pldm type cmd f s = sent s type cmd 0x05 []) ∧
    exec .getTid s = .next (sent s 0 0x02 0x00 [s.mgmt.tid]) ∧
    (∀ d : BitVec 8, exec (.setTid d) s = .next (
      if d = 0 ∨ d = 255 then sent s 0 0x01 0x02 [] else sent { s with mgmt := { s.mgmt with tid := d } } 0 0x01 0x00 [])) ∧
    (∀ type cmd : BitVec 8, cmd.toNat ∉ (pldmCodes type.toNat).getD [] →
      exec (.getPldmVersion (.other type cmd)) s = .next (sent s type cmd 0x05 [])) ∧
    (∀ d : BitVec 8, exec (.getPldmVersion (.version d)) s = .next (
      if d.toNat ∈ [0, 2, 4, 5] then sent s 0 0x03 0x00 (Config.protocolBytes 0x0300 d.toNat) else sent s 0 0x03 0x83 [])) ∧
    (∀ d : BitVec 8, exec (.getPldmCommands d) s = .next (match pldmCodes d.toNat with
      | some l => sent s 0 0x05 0x00 (bytesOf 32 (maskOf 256 l))
      | none => sent s 0 0x05 0x83 [])) ∧
    exec .getPldmTypes s = .next (sent s 0 0x04 0x00 [0x35, 0, 0, 0, 0, 0, 0, 0]) ∧
    exec .getPdrRepositoryInfo s = .next (sent s 2 0x50 0x00 (Config.protocolBytes 2 0x50)) ∧
    (∀ n : BitVec 32,
      let h := if n = 0 then 1 else n.toNat
      exec (.getPdr n) s = .next (
        if s.pdrExists h then sent s 2 0x51 0x00 (pdrData h ++ Config.protocolBytes 0x0251 h) else sent s 2 0x51 0x82 [])) ∧
    (∀ i : BitVec 16, exec (.getSensorReading i) s = .next (match s.sensor i.toNat with
      | none => sent s 2 0x11 0x80 []
      | some none => sent s 2 0x11 0x00 [2]
      | some (some x) => sent s 2 0x11 0x00 (0 :: leBytes 4 (toUnits x)))) ∧
    (∀ i : BitVec 16, exec (.getStateSensorReadings i) s = .next (match s.stateSensor i.toNat with
      | none => sent s 2 0x21 0x80 []
      | some l => sent s 2 0x21 0x00 l)) ∧
    exec (.getNumericEffecterValue 1) s = .next (sent s 2 0x32 0x00 (bytesOf 2 s.pwr.trayCap)) ∧
    exec (.getNumericEffecterValue 2) s = .next (sent s 2 0x32 0x00 [s.pwr.trayGear.setWidth 8, 0]) ∧
    exec (.getNumericEffecterValue 4) s = .next (sent s 2 0x32 0x00 (bytesOf 2 s.pwr.leaseLaps)) ∧
    exec (.getNumericEffecterValue 5) s = .next (sent s 2 0x32 0x00 (bytesOf 2 s.pwr.lapseCap)) ∧
    (∀ i : BitVec 16, i.toNat ∉ [1, 2, 4, 5] → exec (.getNumericEffecterValue i) s = .next (sent s 2 0x32 0x80 [])) ∧
    exec (.getStateEffecterStates 6) s = .next (sent s 2 0x3A 0x00 [if s.flash.confAlways then 1 else 0]) ∧
    (∀ i : BitVec 16, i = 3 ∨ i = 7 →
      exec (.getStateEffecterStates i) s = .next (sent s 2 0x3A 0x00 (Config.protocolBytes 0x023A i.toNat))) ∧
    (∀ i : BitVec 16, i.toNat ∉ [3, 6, 7] → exec (.getStateEffecterStates i) s = .next (sent s 2 0x3A 0x80 [])) ∧
    (∀ ack : Option (BitVec 32), s.mgmt.events = [] → exec (.pollForPlatformEventMessage ack) s = .next (sent s 2 0x0B 0x00 [])) ∧
    (∀ (ack : Option (BitVec 32)) (e : Event) (rest : List Event), s.mgmt.events = e :: rest →
      exec (.pollForPlatformEventMessage ack) s = .next (
        if ack = some e.seq ∧ s.mgmt.polled = some e.seq then match rest with
          | [] => sent { s with mgmt := { s.mgmt with events := [], polled := none } } 2 0x0B 0x00 []
          | f :: _ => sent { s with mgmt := { s.mgmt with events := rest, polled := some f.seq } } 2 0x0B 0x00 (0xFA :: eventBytes f)
        else sent { s with mgmt := { s.mgmt with polled := some e.seq } } 2 0x0B 0x00 (0xFA :: eventBytes e))) ∧
    (∀ n : BitVec 16, exec (.eventMessageBufferSize n) s =
      .next (sent { s with mgmt := { s.mgmt with bufSize := n } } 2 0x0D 0x00 (Config.protocolBytes 2 0x0D))) ∧
    exec .getFruRecordTableMetadata s = .next (sent s 4 0x01 0x00 (Config.protocolBytes 4 0x01)) ∧
    exec .getFruRecordTable s = .next (sent s 4 0x02 0x00 s.fruTable) ∧ s.fruTable.drop (s.fruTable.length - s.inventory.length) = s.inventory) ∧
  (∀ e : Event, (eventBytes e).length = 32) ∧
  (∀ (s : State) (type cmd : Byte) (f : State → State), s.ctl → s.mgmt.addr ≠ none → s.mgmt.eid = 0 → pldm type cmd f s = s) ∧
  ∀ (s : State) (type cmd : Byte) (f : State → State), s.ctl = false ∨ s.mgmt.addr = none → pldm type cmd f s =
    if s.vaux then { s with mgmt := { s.mgmt with nacks := satAdd s.mgmt.nacks 1 }, out := s.out ++ [.nack] } else s

/-- R399 to R402, R404, R406: the tray's update agent: update mode, which a restarted agent enters again; the one bundle
component; the pieces the module asks for, lowest missing first, of which a refused one shows BUSY in RESULT (assumption 102), and
the reports it sends when all are in; arming from
VERIFIED at a multiple of 4,096 laps at least 2,048 laps on; and the cancels, of which CANCEL_UPDATE keeps the session and its
pieces. Codings are presumed (assumption 60). -/
def Obligations.TrayUpdateCommands : Prop :=
  let sent := fun (s : State) (cmd cc : Byte) (d : List Byte) => { s with out := s.out ++ [.pldm 5 cmd cc d] }
  (∀ s : State, s.ctl → s.mgmt.addr ≠ none → s.mgmt.eid ≠ 0 →
    exec .queryDeviceIdentifiers s = .next (sent s 0x01 0x00 (Config.protocolBytes 5 0x01)) ∧
    exec .getFirmwareParameters s = .next (sent s 0x02 0x00 (hex16 s.boot.fwset ++ hex16 s.otherSet)) ∧
    (∀ n : BitVec 32, exec (.requestUpdate n) s = .next (
      if n.toNat < 4096 then sent s 0x10 0x8A []
      else sent { s with mgmt := { s.mgmt with updMode := true, updXfer := false } } 0x10 0x00 (Config.protocolBytes 5 0x10))) ∧
    (∀ c i : BitVec 16, exec (.passComponentTable c i) s = .next (
      if s.mgmt.updMode = false then sent s 0x13 0x80 []
      else if c = 0xFFFF ∧ i = 0x4834 then sent s 0x13 0x00 [0, 0] else sent s 0x13 0x00 [1, 6])) ∧
    (∀ (c i : BitVec 16) (n : BitVec 32), exec (.updateComponent c i n) s = .next (
      if s.mgmt.updMode = false then sent s 0x14 0x80 []
      else if c = 0xFFFF ∧ i = 0x4834 ∧ (∀ b, s.upd.bundle = some b → n.toNat = 4096 * b.pieces) ∧
          (s.upd.bundle = none → n.toNat % 4096 = 0 ∧ 199 ≤ n.toNat / 4096 ∧ n.toNat / 4096 ≤ 24576) then
        askNext (sent { s with mgmt := { s.mgmt with updXfer := true } } 0x14 0x00 [0, 0])
      else sent s 0x14 0x00 [1, 6])) ∧
    (∀ (n : BitVec 32) (data : List Byte), data.length = 4096 →
      let i := n.toNat / 4096
      let code := pieceCode s.upd i data
      exec (.requestFirmwareData n data) s = .next (
        if s.mgmt.updXfer = false ∨ n.toNat % 4096 ≠ 0 then s
        else if code = 0 then beginPiece { s with upd := { s.upd with busy := s.upd.busy ++ [(i, data, true, s.now)] } }
        else if code = 3 then askNext { s with upd := { s.upd with verifyFails := satAdd s.upd.verifyFails 1 } }
        else if code = 5 then askNext { s with upd := { s.upd with result := 0x8 } }
        else askNext s)) ∧
    (∃ l : BitVec 40, exec .activateFirmware s = .next (
        if s.upd.state = 3 then sent { s with upd := { s.upd with armed := some l } } 0x1A 0x00 (Config.protocolBytes 5 0x1A)
        else sent s 0x1A 0x85 []) ∧
      (s.cad.lap.toNat < 2 ^ 39 →
        l.toNat % 4096 = 0 ∧ s.cad.lap.toNat + 2048 ≤ l.toNat ∧ l.toNat < s.cad.lap.toNat + 2048 + 4096)) ∧
    exec .getStatus s = .next (sent s 0x1B 0x00 (Config.protocolBytes 0x051B s.upd.shown.toNat)) ∧
    exec .cancelUpdateComponent s = .next (sent { s with
      mgmt := { s.mgmt with updXfer := false }
      upd := { s.upd with
        state := 0, result := 0xF, bundle := none, present := [], started := [], tableOk := false, busy := [], armed := none } }
      0x1C 0x00 []) ∧
    exec .cancelUpdate s = .next (
      sent { s with mgmt := { s.mgmt with updMode := false, updXfer := false } } 0x1D 0x00 (Config.protocolBytes 5 0x1D))) ∧
  (∀ s : State, s.mgmt.updXfer = false → askNext s = s) ∧
  (∀ (s : State) (i : Nat), s.mgmt.updXfer → s.upd.wanted = some i →
    askNext s = { s with out := s.out ++ [.fwRequest (BitVec.ofNat 32 (4096 * i)) 4096] }) ∧
  (∀ s : State, s.mgmt.updXfer → s.upd.wanted = none → askNext s = { s with
    mgmt := { s.mgmt with updXfer := false }
    out := s.out ++ [.fwReport 0x16 0] ++ (if s.upd.state = 3 then [.fwReport 0x17 0, .fwReport 0x18 0] else []) }) ∧
  ∀ (u : Upd) (i : Nat), u.wanted = some i → sfind u.present i = none ∧ ∀ j < i, sfind u.present j ≠ none

/-- R400 to R403, R405, R406: the host's piece is taken or refused with its code, and wins a tie with the same piece of the tray
path; a piece that is present is a duplicate, also while an activation is armed, any other is BUSY then, and RESULT shows BUSY
(assumption 102); a piece that is programmed and reads back right is present, one that does not is left started; the pieces that wait are
programmed one after another, each sector erased once; a bank that does not verify loses the sectors of its bad pieces, one
that does is VERIFIED and valid, one whose component fails closes the session; the arm needs an open session, a synchronised
clock and two laps; the cancel closes the session. -/
def Obligations.HostUpdateCommands : Prop :=
  (∀ (s : State) (p : Port) (n : BitVec 15), s.hears p → s.isSteward p → s.fwUp → s.upd.hostBusy = false →
    (∀ e ∈ s.upd.busy, tied n.toNat s.now e = false) →
    let s' := { s with upd := { s.upd with piece := n } }
    let b := s.upd.windowBytes
    let code := pieceCode s.upd n.toNat b
    exec (.pieceSubmit p n) s = .next (
      if code = 0 then modUpd (fun u => { u with last := 0 })
        (beginPiece { s' with upd := { s'.upd with busy := s.upd.busy ++ [(n.toNat, b, false, s.now)] } })
      else if code = 3 then { s' with upd := { s'.upd with last := 3, verifyFails := satAdd s.upd.verifyFails 1 } }
      else if code = 5 then { s' with upd := { s'.upd with last := 5, result := 0x8 } }
      else { s' with upd := { s'.upd with last := code } })) ∧
  (∀ (s : State) (p : Port) (n : BitVec 15) (d : List Byte), s.hears p → s.isSteward p → s.fwUp →
    s.upd.busy = [(n.toNat, d, true, s.now)] → pieceCode { s.upd with busy := [] } n.toNat s.upd.windowBytes = 0 →
    exec (.pieceSubmit p n) s = .next (modUpd (fun u => { u with last := 0 }) (beginPiece { s with upd := { s.upd with
      piece := n, busy := [(n.toNat, s.upd.windowBytes, false, s.now)] } }))) ∧
  (∀ (s : State) (p : Port) (n : BitVec 15), s.hears p → s.isSteward p → s.fwUp = false ∨ s.upd.hostBusy →
    exec (.pieceSubmit p n) s = .next { s with upd := { s.upd with piece := n } }) ∧
  (∀ (u : Upd) (x : Bundle) (i : Nat) (b : List Byte), u.bundle = some x →
    (6 ≤ i → i < x.pieces → sfind u.present i ≠ none → pieceCode u i b = 1) ∧
    (i < 6 → u.head.getD i [] = b → sfind u.present i ≠ none → pieceCode u i b = 1) ∧
    (i < 6 → u.head.getD i [] ≠ b → pieceCode u i b = 5) ∧
    (u.armed ≠ none → sfind u.present i = none → u.taking i = false → pieceCode u i b = 5) ∧
    (u.armed = none → 6 ≤ i → x.pieces ≤ i → pieceCode u i b = 4) ∧
    (u.armed = none → 6 + x.table ≤ i → i < x.pieces → sfind u.present i = none →
      (u.tableOk = false ∨ u.tableHeld x = false → pieceCode u i b = 2) ∧
      (u.tableOk → u.tableHeld x → u.taking i = false → pieceCode u i b = if u.fits i b then 0 else 3))) ∧
  (∀ s : State, s.upd.busy = [] → beginPiece s = s) ∧
  (∀ (s : State) (e : Nat × List Byte × Bool × Time) (rest : List (Nat × List Byte × Bool × Time)), s.upd.busy = e :: rest →
    let started := if e.1 ∈ s.upd.started then s.upd.started else s.upd.started ++ [e.1]
    (s.upd.bundle = none ∨ e.1 / 16 ∈ s.upd.erased → beginPiece s = { s with upd := { s.upd with started := started } }) ∧
    (s.upd.bundle ≠ none → e.1 / 16 ∉ s.upd.erased →
      ∃ t, beginPiece s = t ∧ t.upd = { s.upd with started := started, erased := s.upd.erased ++ [e.1 / 16] } ∧
        (∀ j, t.spare.piece j = if j / 16 = e.1 / 16 then List.replicate 4096 0xFF else s.spare.piece j) ∧
        t.spare.valid = s.spare.valid ∧ t.flash.bank s.boot.bank = s.flash.bank s.boot.bank ∧
        t = { s with upd := t.upd, flash := { s.flash with bank0 := t.flash.bank0, bank1 := t.flash.bank1 } })) ∧
  (∀ (s : State) (i : Nat) (b : List Byte) (tray : Bool) (at_ : Time) (x : Bundle) (r : Option (List Byte)), s.ctl →
    s.upd.busy = [(i, b, tray, at_)] → s.upd.bundle = some x → 6 + x.table ≤ i → i < x.pieces → s.mgmt.updXfer = false →
    ∃ t, exec (.pieceProgramDone r) s = .next t ∧ t.spare.piece i = fit 4096 (r.getD b) ∧
      (∀ j, j ≠ i → t.spare.piece j = s.spare.piece j) ∧ t.flash.bank s.boot.bank = s.flash.bank s.boot.bank ∧
      (if s.upd.fits i (r.getD b) then
        sfind t.upd.present i = some b ∧ (∀ j, j ≠ i → sfind t.upd.present j = sfind s.upd.present j) ∧ t.upd.last = s.upd.last ∧
        t.upd.state = if ∀ j < x.pieces, j ≠ i → sfind s.upd.present j ≠ none then 2 else s.upd.state
      else t.upd.present = s.upd.present ∧ t.upd.state = s.upd.state ∧ t.upd.last = if tray then s.upd.last else 3) ∧
      t = { s with
        upd := { s.upd with present := t.upd.present, busy := [], state := t.upd.state, last := t.upd.last }
        flash := { s.flash with bank0 := t.flash.bank0, bank1 := t.flash.bank1 } }) ∧
  (∀ (s : State) (i : Nat) (b : List Byte) (tray : Bool) (at_ : Time) (r : Option (List Byte)), s.ctl →
    s.upd.busy = [(i, b, tray, at_)] → s.upd.bundle = none → s.mgmt.updXfer = false → r = none ∨ r = some b →
    let t := { s with upd := { s.upd with busy := [], present := sset s.upd.present i b } }
    exec (.pieceProgramDone r) s = .next (beginPiece (
      if ∀ j < 6, sfind t.upd.present j ≠ none then headerCheck tray t else t))) ∧
  (∀ (s : State) (r : Option (List Byte)), s.ctl = false ∨ s.upd.busy = [] → exec (.pieceProgramDone r) s = .next s) ∧
  (∀ (s : State) (b : Bundle), s.ctl → s.upd.bundle = some b → s.upd.state = 2 → s.mgmt.updMode = false →
    let bank := fun (ch : List (BitVec 15 × List Byte)) => ch.foldl (fun k e => k.program e.1.toNat e.2) s.spare
    (∀ ch : List (BitVec 15 × List Byte), (∀ i < b.pieces, bankPieceOk s.upd (bank ch) b i) → bankComponentsOk (s.upd.head.headD []) (bank ch) →
      ∃ t, exec (.bundleVerifyDone ch) s = .next t ∧ t.upd = { s.upd with state := 3, result := 0x9 } ∧
        t.spare = { bank ch with valid := true } ∧ t.flash.bank s.boot.bank = s.flash.bank s.boot.bank ∧
        t = { s with upd := t.upd, flash := { s.flash with bank0 := t.flash.bank0, bank1 := t.flash.bank1 } }) ∧
    (∀ ch : List (BitVec 15 × List Byte), (∀ i < b.pieces, bankPieceOk s.upd (bank ch) b i) →
      bankComponentsOk (s.upd.head.headD []) (bank ch) = false →
      ∃ t, exec (.bundleVerifyDone ch) s = .next t ∧ t.spare = bank ch ∧ t.upd = { s.upd with
          state := 0, result := 0xA, bundle := none, present := [], started := [], tableOk := false, busy := [] } ∧
        t.flash.bank s.boot.bank = s.flash.bank s.boot.bank ∧
        t = { s with upd := t.upd, flash := { s.flash with bank0 := t.flash.bank0, bank1 := t.flash.bank1 } }) ∧
    ∀ (ch : List (BitVec 15 × List Byte)) (i : Nat), i < b.pieces →
      (∀ j < b.pieces, bankPieceOk s.upd (bank ch) b j = decide (j ≠ i)) →
      ∃ t, exec (.bundleVerifyDone ch) s = .next t ∧
        t.upd = { s.upd with
          state := 1, result := 0xA, verifyFails := satAdd s.upd.verifyFails 1
          present := s.upd.present.filter (fun e => decide (e.1 / 16 ≠ i / 16))
          started := s.upd.started.filter (fun j => decide (j / 16 ≠ i / 16)) } ∧
        (∀ j, t.spare.piece j = if j / 16 = i / 16 then List.replicate 4096 0xFF else (bank ch).piece j) ∧
        t.flash.bank s.boot.bank = s.flash.bank s.boot.bank ∧
        t = { s with upd := t.upd, flash := { s.flash with bank0 := t.flash.bank0, bank1 := t.flash.bank1 } }) ∧
  (∀ (s : State) (ch : List (BitVec 15 × List Byte)), s.ctl = false ∨ s.upd.bundle = none ∨ s.upd.state ≠ 2 →
    exec (.bundleVerifyDone ch) s = .next s) ∧
  (∀ (s : State) (p : Port), s.hears p → s.isSteward p →
    let l : BitVec 40 := s.upd.actHi ++ s.upd.actLo
    exec (.updArm p) s = .next { s with upd :=
      if s.upd.bundle ≠ none ∧ s.cad.synced ∧ s.cad.lap.toNat + 2 ≤ l.toNat then { s.upd with armed := some l, armRefused := false }
      else { s.upd with armRefused := true } }) ∧
  (∀ (s : State) (p : Port), s.hears p → s.isSteward p →
    exec (.updCancel p) s = .next { s with
      upd := { s.upd with
        state := 0, result := 0xF, bundle := none, present := [], started := [], tableOk := false, busy := [], armed := none } }) ∧
  ∀ (s : State) (p : Port) (n : BitVec 15), s.hears p → s.isSteward p = false →
    ∀ c ∈ [Instr.pieceSubmit p n, .updArm p, .updCancel p], exec c s = .next (countNs p s)

/-- The register map of chapters 2, 4, 7 to 15: every register reads at its reset value right after a module reset, through H0, in
every block, array, mover, stack, channel, spoke, turnstile, ring and slot that it exists in; the port ring through either port. HST_ID
also names the reading port and the steward, which is H0 (R309). -/
def Obligations.ResetRegisters : Prop :=
  (∀ o ∈ [0x2000, 0x2004, 0x2018, 0x200C, 0x2010, 0x2014, 0x2020, 0x201C, 0x2400, 0x2404, 0xA00000, 0xA00004, 0xA00008,
    0xA10000, 0x800000, 0x800004, 0x800008, 0x80000C, 0x820000, 0x820004, 0x300C, 0x3014, 0x3020, 0x3034, 0x303C, 0x3410,
    0x3420, 0x3424, 0x1000, 0x1010, 0x1014, 0x1040, 0x1044, 0x1050, 0x1054, 0x1060, 0x1204, 0x1208, 0x3000020, 0x3000024,
    0x3000028, 0x5000, 0x6000, 0x6004, 0x6008, 0x6100, 0x6800, 0x6804, 0x4000, 0x4004, 0x4008, 0x400C, 0x4010, 0x800,
    0x804, 0x80C, 0x814, 0xC00, 0xC04, 0xC10, 0x7000, 0x7008, 0x7010, 0x7014, 0x7018, 0x701C, 0x8000],
    State.reset.regRead 0 o = 0) ∧
  (∀ e ∈ [(0x2008, 0xFF00), (0x3000, 0x20000500), (0x3004, 0x5FFFF), (0x3008, 0x5FFFF), (0x3010, 0xBB86FC3),
    (0x3018, 0x10000000), (0x3030, 0x7FF0000), (0x3038, 0x5FFFF), (0x3400, 0x50000), (0x1200, 0x100000), (0x5004, 0x3F),
    (0x7004, 0x7FFF)],
    State.reset.regRead 0 e.1 = BitVec.ofNat 32 e.2) ∧
  (∀ p : Pav, State.reset.regRead 0 (0x420000 + 0x100000 * p.val) = 0 ∧
    State.reset.regRead 0 (0x420004 + 0x100000 * p.val) = 0x1F1F1F1F ∧ State.reset.regRead 0 (0x42000C + 0x100000 * p.val) = 1) ∧
  (∀ k : Spoke, State.reset.regRead 0 (0x160000 + 0x100000 * (k.val / 18) + 0x100 * (k.val % 18)) = BitVec.ofNat 32 (0x3F00 + k.val)) ∧
  (∀ p : Pav, let b := 0x400000 + 0x100000 * p.val
    State.reset.regRead 0 (b + 0x20008) = 0 ∧ State.reset.regRead 0 (b + 0x30100) = 0 ∧
    (∀ (x : Fin 64) (k : Fin 13), State.reset.regRead 0 (b + 0x400 * x.val) = 0 ∧
      State.reset.regRead 0 (b + 0x400 * x.val + 0x40 + 4 * k.val) = 0) ∧
    (∀ k : Fin 48, State.reset.regRead 0 (b + 0x30000 + 4 * k.val) = 0) ∧
    (∀ m : Fin 16, ∀ j ∈ [0, 4, 8], State.reset.regRead 0 (b + 0x40000 + 0x40 * m.val + j) = 0) ∧
    (∀ i : Fin 3, ∀ j ∈ [0, 4, 8, 0xC, 0x10, 0x14], State.reset.regRead 0 (b + 0x50000 + 0x100 * i.val + j) = 0) ∧
    ∀ j ∈ [0x3020, 0x3410, 0x4010], State.reset.regRead 0 (j + 4 * p.val) = 0) ∧
  (∀ g : Gh, let b := 0x100000 + 0x100000 * g.val
    (∀ j ∈ [0x50800, 0x50C00, 0x62000, 0x63000], State.reset.regRead 0 (b + j) = 0) ∧
    (∀ k : Fin 8, State.reset.regRead 0 (b + 0x70000 + 4 * k.val) = 0) ∧
    (∀ m : Fin 8, ∀ j ∈ [0, 4, 8], State.reset.regRead 0 (b + 0x40000 + 0x40 * m.val + j) = 0) ∧
    ∀ c : Fin 4, ∀ j ∈ [0, 4, 8, 0xC, 0x10, 0x14, 0x18], State.reset.regRead 0 (b + 0x50000 + 0x100 * c.val + j) = 0) ∧
  (∀ k : Spoke, let b := 0x160000 + 0x100000 * (k.val / 18) + 0x100 * (k.val % 18)
    (∀ j ∈ [4, 8, 0xC, 0x10], State.reset.regRead 0 (b + j) = 0) ∧ (∀ n : Fin 9, State.reset.regRead 0 (b + 0x40 + 4 * n.val) = 0) ∧
    ∀ n : Fin 16, State.reset.regRead 0 (b + 0x80 + 4 * n.val) = 0) ∧
  (∀ p : Port, ∀ j ∈ [0, 4, 8, 0xC, 0x10, 0x14, 0x18], State.reset.regRead p (0x1100 + j) = 0) ∧
  (∀ a : Allot, ∀ j ∈ [0, 4, 8, 0xC, 0x10, 0x14, 0x18, 0x20, 0x24, 0x28],
    State.reset.regRead 0 (0x3000000 + 0x10000 * a.val + j) = 0) ∧
  (∀ k : Trn, ∀ j ∈ [0x800000, 0x800004, 0x800008, 0x80000C], State.reset.regRead 0 (j + 0x10 * k.val) = 0 ∧
    State.reset.regRead 0 (0x820000 + 8 * k.val) = 0 ∧ State.reset.regRead 0 (0x820004 + 8 * k.val) = 0) ∧
  (∀ i : Fin 4, ∀ j ∈ [0xA10000, 0xA10004], State.reset.regRead 0 (0xA00008 + 4 * i.val) = 0 ∧
    ∀ e : Fin 8192, State.reset.regRead 0 (j + 0x10000 * i.val + 8 * e.val) = 0) ∧
  (∀ x : Fin 32, ∀ j ∈ [0, 4, 8, 0xC, 0x10, 0x14], State.reset.regRead 0 (0x800 + 0x20 * x.val + j) = 0) ∧
  (∀ g : Sgrp, State.reset.regRead 0 (0x1200 + 0x10 * g.val) = 0x100000 ∧
    State.reset.regRead 0 (0x1204 + 0x10 * g.val) = 0 ∧ State.reset.regRead 0 (0x1208 + 0x10 * g.val) = 0) ∧
  (∀ w : Fin 1024, State.reset.regRead 0 (0x8000 + 4 * w.val) = 0) ∧ (∀ w : Fin 64, State.reset.regRead 0 (0x6100 + 4 * w.val) = 0) ∧
  State.reset.regRead 0 0x700C = 0 ∧ State.reset.regRead 0 0x1020 = 0 ∧ State.reset.regRead 0 0x1024 = 0 ∧
  State.reset.regRead 0 0 = 0x00000001 ∧ State.reset.regRead 1 0 = 0x00000100

/-- Right after reset the stores are in canonical form, no queue exceeds its bound and no command waits. -/
def Obligations.ResetKeepsInvariants : Prop :=
 State.reset.storesWf ∧ State.reset.bounded ∧ State.reset.pending = []

/-- R438: with no command waiting and no lap mark come yet, a CADREF cycle is no tick: nothing changes but what a strobe of the
cycle before applies, and cadence time, ALIGNED and the latched counters stand in any case. -/
def Obligations.CyclesBeforeFirstMark : Prop :=
  (∀ s : State, s.pending = [] → s.cad.aligned = false → (∀ g : Sgrp, (s.strobe g.val).due = false) → step s = .next s) ∧
  ∀ s : State, s.pending = [] → s.cad.aligned = false →
    ∃ t, step s = .next t ∧ t = (if s.clocked then beginCycle s else s) ∧ t.cad.lap = s.cad.lap ∧ t.cad.tick = s.cad.tick ∧
      t.cad.aligned = false ∧ t.latched = s.latched

/-- R322, R325: the oldest pending completion entry is written at the tail with the ring's PHASE, which inverts where the tail
wraps and nowhere else, and a message follows it or is owed; with one free place left nothing is written; the first pass has
PHASE 1. -/
def Obligations.CompletionOrder : Prop :=
  (∀ (s : State) (r : RingIx) (p : Port) (c : Completion) (rest : List Completion), s.clocked → s.ringPort r.val = some p →
    s.ringServed r.val → (s.ring r.val).pend = c :: rest →
    let g := s.ring r.val
    let used := (g.cqTail.toNat + g.n - g.cqHead.toNat % g.n) % g.n
    let next := (g.cqTail.toNat + 1) % g.n
    let free := g.lastMsg = none ∨ g.holdoff = 0 ∨ ∃ t, g.lastMsg = some t ∧ t.toNat + g.holdoff.toNat ≤ s.now.toNat
    (used < g.n - 1 →
      ∃ t msgs, exec (.completionWrite r) s = .next t ∧
        t.ring r.val = { g with
          pend := rest, cqTail := BitVec.ofNat 16 next, cqPhase := if next = 0 then !g.cqPhase else g.cqPhase, lostFlag := false
          lastMsg := (t.ring r.val).lastMsg, owed := (t.ring r.val).owed } ∧
        (∀ q : RingIx, q ≠ r → t.ring q.val = s.ring q.val) ∧
        t.out = s.out ++ .hostWrite (decide (p.val = 1)) (g.cqHi ++ g.cqLo ++ (0 : BitVec 12) + BitVec.ofNat 64 (32 * g.cqTail.toNat))
          (completionBytes c g.sqHead g.cqPhase g.lostFlag) :: msgs ∧
        (free → (t.ring r.val).lastMsg = some s.now ∧ (t.ring r.val).owed = false ∧
          (let e := sget {} (s.port p).msix g.vector.toNat
           (e.masked → msgs = [] ∧ (sget {} (t.port p).msix g.vector.toNat).pending) ∧
           (e.masked = false → msgs = [.msi (decide (p.val = 1)) g.vector (e.addrHi ++ e.addrLo) e.data] ∧ t.ports = s.ports))) ∧
        (¬free → (t.ring r.val).lastMsg = g.lastMsg ∧ (t.ring r.val).owed ∧ msgs = [] ∧ t.ports = s.ports) ∧
        t = { s with rings := t.rings, ports := t.ports, out := t.out }) ∧
    (g.n - 1 ≤ used → exec (.completionWrite r) s = .next s)) ∧
  (∀ (s : State) (r : RingIx), (s.ring r.val).pend = [] → exec (.completionWrite r) s = .next s) ∧
  ∀ r : RingIx, (State.reset.ring r.val).cqPhase = true ∧ (State.reset.ring r.val).cqTail = 0

/-- R246: an ARMED unlinked turnstile whose COUNT comes to exceed TARGET, at its arm or by an increment, stops its allotment's
timetable and records TRN_OVERCOUNT, which names the turnstile; the turnstile itself stays as it is. -/
def Obligations.TurnstileOvercount : Prop :=
  ∀ (s : State) (k : Trn) (n : Nat) (a : AllotSt) (was : Option Nat), n < 16 → (s.trn k.val).st = 1 →
    (s.trn k.val).owner = some (BitVec.ofNat 4 n) → (s.trn k.val).link = none → s.allot n = some a →
    (s.trn k.val).target.toNat < (s.trn k.val).count.toNat → (∀ w, was = some w → w ≤ (s.trn k.val).target.toNat) →
    ∃ t, completionTest k.val was s = t ∧ (∀ m, t.allot m = if m = n then some a.fault else s.allot m) ∧
      t.frc = (writeFault (0x60020000#32 + BitVec.ofNat 32 k.val) a.slice (trnDie k.val) 0xFF (some (s.trn k.val).entry) s).frc ∧
      t = { s with allots := t.allots, frc := t.frc, mgmt := t.mgmt, out := t.out }

/-- Every command that its sender can have sent in the state completes: the step answers a next state whose queue is the rest of
the queue, so no command waits twice and none is refused. That a command which is not due completes with nothing changed is the
model's choice (assumption 3), and so is that operands of another length than the spec gives are no command its sender can send
(assumptions 4 and 77). -/
def Obligations.EveryCommandCompletes : Prop :=
  ∀ (s : State) (c : Instr) (rest : List Instr), s.pending = c :: rest → c.sendable s →
    ∃ t, step s = .next t ∧ t.pending = rest

/-- Every step keeps the four stores of the module in canonical form, from every state whose stores have it. -/
def Obligations.StoresStayCanonical : Prop :=
 ∀ s t : State, s.storesWf → step s = .next t → t.storesWf

/-- R323, R344, R346, R366, R368: no step makes a queue exceed the bound that the spec sets for it. -/
def Obligations.QueuesStayBounded : Prop :=
 ∀ s t : State, s.bounded → step s = .next t → t.bounded

/-- R335, R356: whatever command a step runs, the replay-protected counter block stays as it is, or it is written anew, under the
flash key and with a floor no lower than the one in force; so the floor of a block that verifies never falls. -/
def Obligations.FloorNeverFalls : Prop :=
  ∀ s t : State, step s = .next t →
    (t.flash.floor = s.flash.floor ∧ t.flash.floorMac = s.flash.floorMac ∨
      (s.flash.floorIn s.lodge.prk).toNat ≤ t.flash.floor.toNat ∧
      t.flash.floorMac = flashMac s.lodge.prk (bytesOf 4 t.flash.floor)) ∧
    (s.flash.floorMac = flashMac s.lodge.prk (bytesOf 4 s.flash.floor) → s.flash.floor.toNat ≤ t.flash.floor.toNat)
end

