-- ==== Sys2Proof/Laws/Sparse.lean ====
section
/-! SUPPORT. The laws of the sparse form: what is read after a write, and that every operation keeps the canonical form. -/

namespace Sys2Proof.Laws

open Sys2Proof.Machine

variable {α : Type}

@[simp] theorem sfind_nil (k : Nat) : sfind ([] : Sparse α) k = none := rfl

theorem sfind_cons (e : Nat × α) (m : Sparse α) (k : Nat) :
    sfind (e :: m) k = if e.1 = k then some e.2 else sfind m k := rfl

@[simp] theorem sget_nil (d : α) (k : Nat) : sget d ([] : Sparse α) k = d := rfl

/-- Numbers strictly rising, as a property of the list. -/
theorem rising_iff (m : Sparse α) : rising m = true ↔ m.Pairwise (fun a b => a.1 < b.1) := by
  induction m with
  | nil => simp [rising]
  | cons a t ih =>
    cases t with
    | nil => simp [rising]
    | cons b t =>
      rw [rising, Bool.and_eq_true, ih, List.pairwise_cons, List.pairwise_cons, List.pairwise_cons, decide_eq_true_iff]
      refine ⟨fun ⟨h, h1, h2⟩ => ⟨fun x hx => ?_, h1, h2⟩, fun ⟨h, h1, h2⟩ => ⟨h b (by simp), h1, h2⟩⟩
      rcases List.mem_cons.1 hx with rfl | hx
      · exact h
      · exact lt_trans h (h1 x hx)

theorem sfind_sset_same (m : Sparse α) (k : Nat) (v : α) : sfind (sset m k v) k = some v := by
  induction m with
  | nil => simp [sset, sfind]
  | cons e t ih =>
    unfold sset
    split_ifs with h1 h2
    · rw [sfind_cons, if_neg (by omega), ih]
    · simp [sfind]
    · simp [sfind]

theorem sfind_sset_other (m : Sparse α) (k j : Nat) (v : α) (h : j ≠ k) : sfind (sset m k v) j = sfind m j := by
  induction m with
  | nil => simp [sset, sfind, h.symm]
  | cons e t ih =>
    unfold sset
    split_ifs with h1 h2
    · rw [sfind_cons, sfind_cons, ih]
    · rw [sfind_cons, sfind_cons]; simp [h2, h.symm]
    · rw [sfind_cons]; simp [h.symm]

/-- What number j reads as once v is listed at number k. -/
theorem sfind_sset (m : Sparse α) (k j : Nat) (v : α) :
    sfind (sset m k v) j = if j = k then some v else sfind m j := by
  split_ifs with h
  · rw [h, sfind_sset_same]
  · exact sfind_sset_other m k j v h

theorem sfind_filter (p : Nat → Bool) (m : Sparse α) (j : Nat) :
    sfind (m.filter (fun e => p e.1)) j = if p j then sfind m j else none := by
  induction m with
  | nil => simp
  | cons e t ih =>
    rw [List.filter_cons]
    by_cases h1 : p e.1 = true
    · rw [if_pos h1, sfind_cons, sfind_cons, ih]
      by_cases hj : e.1 = j
      · rw [if_pos hj, if_pos hj, if_pos (hj ▸ h1)]
      · rw [if_neg hj, if_neg hj]
    · rw [if_neg h1, ih, sfind_cons]
      by_cases hj : e.1 = j
      · rw [if_neg (hj ▸ h1), if_neg (hj ▸ h1)]
      · rw [if_neg hj]

/-- What number j reads as once nothing is listed at number k. -/
theorem sfind_sdel (m : Sparse α) (k j : Nat) : sfind (sdel m k) j = if j = k then none else sfind m j := by
  rw [sdel, sfind_filter (fun n => !(n == k))]
  by_cases h : j = k <;> simp [h]

/-- What number j reads as once number k reads as v. -/
theorem sget_sput [DecidableEq α] (d : α) (m : Sparse α) (k j : Nat) (v : α) :
    sget d (sput d m k v) j = if j = k then v else sget d m j := by
  unfold sput sget
  split_ifs with h1 h2 h2
  · rw [sfind_sdel, if_pos h2, h1]; rfl
  · rw [sfind_sdel, if_neg h2]
  · rw [sfind_sset, if_pos h2]; rfl
  · rw [sfind_sset, if_neg h2]

/-- What number j reads as once what number k reads as has been changed by f. -/
theorem sget_smod [DecidableEq α] (d : α) (m : Sparse α) (k j : Nat) (f : α → α) :
    sget d (smod d m k f) j = if j = k then f (sget d m k) else sget d m j := sget_sput d m k j _

@[simp] theorem sget_smod_same [DecidableEq α] (d : α) (m : Sparse α) (k : Nat) (f : α → α) :
    sget d (smod d m k f) k = f (sget d m k) := by rw [sget_smod, if_pos rfl]

/-- What is listed at number j once the entry of number k has been changed by f. -/
theorem sfind_sadj (m : Sparse α) (k j : Nat) (f : α → α) :
    sfind (sadj m k f) j = if j = k then (sfind m k).map f else sfind m j := by
  unfold sadj
  split
  · next h =>
    split_ifs with hj
    · rw [hj, h]; rfl
    · rfl
  · next v h => rw [sfind_sset, h]; rfl

/-- What is listed at number j once every entry has been changed by f. -/
theorem sfind_smap (f : α → α) (m : Sparse α) (j : Nat) : sfind (smap f m) j = (sfind m j).map f := by
  induction m with
  | nil => rfl
  | cons e t ih =>
    rw [smap, List.map_cons, sfind_cons, sfind_cons, ← smap, ih]
    split_ifs <;> rfl

theorem mem_of_sfind (m : Sparse α) (j : Nat) (v : α) (h : sfind m j = some v) : (j, v) ∈ m := by
  induction m with
  | nil => cases h
  | cons e t ih =>
    rw [sfind_cons] at h
    split_ifs at h with h1
    · cases h; subst h1; simp
    · exact List.mem_cons_of_mem _ (ih h)

theorem sfind_none_iff (m : Sparse α) (j : Nat) : sfind m j = none ↔ ∀ e ∈ m, e.1 ≠ j := by
  induction m with
  | nil => simp
  | cons e t ih =>
    rw [sfind_cons]
    by_cases h : e.1 = j
    · simp [h]
    · simp [h, ih]

/-- In the canonical order the entry listed under a number is the one that is read. -/
theorem sfind_of_mem (m : Sparse α) (hm : rising m = true) (j : Nat) (v : α) (h : (j, v) ∈ m) : sfind m j = some v := by
  rw [rising_iff] at hm
  induction m with
  | nil => cases h
  | cons e t ih =>
    rw [List.pairwise_cons] at hm
    rw [sfind_cons]
    rcases List.mem_cons.1 h with rfl | h
    · simp
    · have := hm.1 _ h
      rw [if_neg (by simp only at this; omega)]
      exact ih hm.2 h

theorem mem_sset (m : Sparse α) (k : Nat) (v : α) (e : Nat × α) (h : e ∈ sset m k v) : e = (k, v) ∨ e ∈ m := by
  induction m with
  | nil => simpa [sset] using h
  | cons a t ih =>
    unfold sset at h
    split_ifs at h with h1 h2
    · rcases List.mem_cons.1 h with h | h
      · exact .inr (by simp [h])
      · exact (ih h).imp_right (List.mem_cons_of_mem _)
    · rcases List.mem_cons.1 h with h | h
      · exact .inl h
      · exact .inr (List.mem_cons_of_mem _ h)
    · rcases List.mem_cons.1 h with h | h
      · exact .inl h
      · exact .inr h

/-- Listing an entry keeps the order. -/
theorem rising_sset (m : Sparse α) (k : Nat) (v : α) (h : rising m = true) : rising (sset m k v) = true := by
  rw [rising_iff] at h ⊢
  induction m with
  | nil => simp [sset]
  | cons a t ih =>
    rw [List.pairwise_cons] at h
    unfold sset
    split_ifs with h1 h2
    · refine List.pairwise_cons.2 ⟨fun e he => ?_, ih h.2⟩
      rcases mem_sset t k v e he with rfl | he
      · exact h1
      · exact h.1 e he
    · exact List.pairwise_cons.2 ⟨fun e he => h2 ▸ h.1 e he, h.2⟩
    · refine List.pairwise_cons.2 ⟨fun e he => ?_, List.pairwise_cons.2 h⟩
      rcases List.mem_cons.1 he with rfl | he
      · simp only; omega
      · exact lt_trans (by simp only; omega) (h.1 e he)

/-- Leaving entries out keeps the order. -/
theorem rising_filter (p : Nat × α → Bool) (m : Sparse α) (h : rising m = true) : rising (m.filter p) = true := by
  rw [rising_iff] at h ⊢
  exact h.filter p

theorem rising_sdel (m : Sparse α) (k : Nat) (h : rising m = true) : rising (sdel m k) = true := rising_filter _ m h

theorem rising_sput [DecidableEq α] (d : α) (m : Sparse α) (k : Nat) (v : α) (h : rising m = true) :
    rising (sput d m k v) = true := by
  unfold sput
  split_ifs
  · exact rising_sdel m k h
  · exact rising_sset m k v h

theorem rising_smod [DecidableEq α] (d : α) (m : Sparse α) (k : Nat) (f : α → α) (h : rising m = true) :
    rising (smod d m k f) = true := rising_sput d m k _ h

theorem rising_sadj (m : Sparse α) (k : Nat) (f : α → α) (h : rising m = true) : rising (sadj m k f) = true := by
  unfold sadj
  split
  · exact h
  · exact rising_sset m k _ h

theorem rising_smap (f : α → α) (m : Sparse α) (h : rising m = true) : rising (smap f m) = true := by
  rw [rising_iff] at h ⊢
  rw [smap, List.pairwise_map]
  exact h

theorem rising_smapD [DecidableEq α] (d : α) (f : α → α) (m : Sparse α) (h : rising m = true) :
    rising (smapD d f m) = true := rising_filter _ _ (rising_smap f m h)

/-- What number j reads as once every entry of a collection in canonical order has been changed by f. -/
theorem sget_smapD [DecidableEq α] (d : α) (f : α → α) (m : Sparse α) (j : Nat) (hm : rising m = true) (hd : f d = d) :
    sget d (smapD d f m) j = f (sget d m j) := by
  rw [rising_iff] at hm
  unfold smapD
  induction m with
  | nil => simp [smap, sget, hd]
  | cons e t ih =>
    rw [List.pairwise_cons] at hm
    have ih := ih hm.2
    unfold sget at ih ⊢
    simp only [smap, List.map_cons, List.filter_cons] at ih ⊢
    by_cases hj : e.1 = j
    · have hn : sfind t j = none := (sfind_none_iff t j).2 (fun x hx h => by have := hm.1 x hx; omega)
      rw [hn] at ih
      by_cases hv : f e.2 = d
      · simp only [hv, decide_true, Bool.not_true, Bool.false_eq_true, if_false]
        rw [ih, sfind_cons, if_pos hj]
        simp [hd, hv]
      · simp only [hv, decide_false, Bool.not_false, if_true]
        rw [sfind_cons, sfind_cons, if_pos hj, if_pos hj]
        rfl
    · by_cases hv : f e.2 = d
      · simp only [hv, decide_true, Bool.not_true, Bool.false_eq_true, if_false]
        rw [ih, sfind_cons, if_neg hj]
      · simp only [hv, decide_false, Bool.not_false, if_true]
        rw [sfind_cons, sfind_cons, if_neg hj, if_neg hj, ih]

end Sys2Proof.Laws
end

