-- ==== Sys2Proof/Laws/State.lean ====
section
/-! SUPPORT. What each named update of the state changes and what it leaves: one lemma a field, and what is read
after the update. -/

namespace Sys2Proof.Machine

/-! ### modPort -/

@[simp] theorem State.modPort_cad (s : State) (p : Port) (f : PortSt → PortSt) : (s.modPort p f).cad = s.cad := rfl
@[simp] theorem State.modPort_plls (s : State) (p : Port) (f : PortSt → PortSt) : (s.modPort p f).plls = s.plls := rfl
@[simp] theorem State.modPort_gear (s : State) (p : Port) (f : PortSt → PortSt) : (s.modPort p f).gear = s.gear := rfl
@[simp] theorem State.modPort_pwr (s : State) (p : Port) (f : PortSt → PortSt) : (s.modPort p f).pwr = s.pwr := rfl
@[simp] theorem State.modPort_ramps (s : State) (p : Port) (f : PortSt → PortSt) : (s.modPort p f).ramps = s.ramps := rfl
@[simp] theorem State.modPort_rests (s : State) (p : Port) (f : PortSt → PortSt) : (s.modPort p f).rests = s.rests := rfl
@[simp] theorem State.modPort_thm (s : State) (p : Port) (f : PortSt → PortSt) : (s.modPort p f).thm = s.thm := rfl
@[simp] theorem State.modPort_acc (s : State) (p : Port) (f : PortSt → PortSt) : (s.modPort p f).acc = s.acc := rfl
@[simp] theorem State.modPort_hold (s : State) (p : Port) (f : PortSt → PortSt) : (s.modPort p f).hold = s.hold := rfl
@[simp] theorem State.modPort_boot (s : State) (p : Port) (f : PortSt → PortSt) : (s.modPort p f).boot = s.boot := rfl
@[simp] theorem State.modPort_frc (s : State) (p : Port) (f : PortSt → PortSt) : (s.modPort p f).frc = s.frc := rfl
@[simp] theorem State.modPort_steward (s : State) (p : Port) (f : PortSt → PortSt) : (s.modPort p f).steward = s.steward := rfl
@[simp] theorem State.modPort_sgrpSel (s : State) (p : Port) (f : PortSt → PortSt) : (s.modPort p f).sgrpSel = s.sgrpSel := rfl
@[simp] theorem State.modPort_strobes (s : State) (p : Port) (f : PortSt → PortSt) : (s.modPort p f).strobes = s.strobes := rfl
@[simp] theorem State.modPort_rings (s : State) (p : Port) (f : PortSt → PortSt) : (s.modPort p f).rings = s.rings := rfl
@[simp] theorem State.modPort_allots (s : State) (p : Port) (f : PortSt → PortSt) : (s.modPort p f).allots = s.allots := rfl
@[simp] theorem State.modPort_images (s : State) (p : Port) (f : PortSt → PortSt) : (s.modPort p f).images = s.images := rfl
@[simp] theorem State.modPort_nextImage (s : State) (p : Port) (f : PortSt → PortSt) : (s.modPort p f).nextImage = s.nextImage := rfl
@[simp] theorem State.modPort_load (s : State) (p : Port) (f : PortSt → PortSt) : (s.modPort p f).load = s.load := rfl
@[simp] theorem State.modPort_dying (s : State) (p : Port) (f : PortSt → PortSt) : (s.modPort p f).dying = s.dying := rfl
@[simp] theorem State.modPort_zeroing (s : State) (p : Port) (f : PortSt → PortSt) : (s.modPort p f).zeroing = s.zeroing := rfl
@[simp] theorem State.modPort_bankWrites (s : State) (p : Port) (f : PortSt → PortSt) : (s.modPort p f).bankWrites = s.bankWrites := rfl
@[simp] theorem State.modPort_bridges (s : State) (p : Port) (f : PortSt → PortSt) : (s.modPort p f).bridges = s.bridges := rfl
@[simp] theorem State.modPort_arrays (s : State) (p : Port) (f : PortSt → PortSt) : (s.modPort p f).arrays = s.arrays := rfl
@[simp] theorem State.modPort_movers (s : State) (p : Port) (f : PortSt → PortSt) : (s.modPort p f).movers = s.movers := rfl
@[simp] theorem State.modPort_trns (s : State) (p : Port) (f : PortSt → PortSt) : (s.modPort p f).trns = s.trns := rfl
@[simp] theorem State.modPort_chunkCrcs (s : State) (p : Port) (f : PortSt → PortSt) : (s.modPort p f).chunkCrcs = s.chunkCrcs := rfl
@[simp] theorem State.modPort_hbms (s : State) (p : Port) (f : PortSt → PortSt) : (s.modPort p f).hbms = s.hbms := rfl
@[simp] theorem State.modPort_ddrs (s : State) (p : Port) (f : PortSt → PortSt) : (s.modPort p f).ddrs = s.ddrs := rfl
@[simp] theorem State.modPort_capGib (s : State) (p : Port) (f : PortSt → PortSt) : (s.modPort p f).capGib = s.capGib := rfl
@[simp] theorem State.modPort_self (s : State) (p : Port) (f : PortSt → PortSt) : (s.modPort p f).self = s.self := rfl
@[simp] theorem State.modPort_spokes (s : State) (p : Port) (f : PortSt → PortSt) : (s.modPort p f).spokes = s.spokes := rfl
@[simp] theorem State.modPort_ownMarks (s : State) (p : Port) (f : PortSt → PortSt) : (s.modPort p f).ownMarks = s.ownMarks := rfl
@[simp] theorem State.modPort_stations (s : State) (p : Port) (f : PortSt → PortSt) : (s.modPort p f).stations = s.stations := rfl
@[simp] theorem State.modPort_ringAt (s : State) (p : Port) (f : PortSt → PortSt) : (s.modPort p f).ringAt = s.ringAt := rfl
@[simp] theorem State.modPort_rte (s : State) (p : Port) (f : PortSt → PortSt) : (s.modPort p f).rte = s.rte := rfl
@[simp] theorem State.modPort_lodge (s : State) (p : Port) (f : PortSt → PortSt) : (s.modPort p f).lodge = s.lodge := rfl
@[simp] theorem State.modPort_mgmt (s : State) (p : Port) (f : PortSt → PortSt) : (s.modPort p f).mgmt = s.mgmt := rfl
@[simp] theorem State.modPort_flash (s : State) (p : Port) (f : PortSt → PortSt) : (s.modPort p f).flash = s.flash := rfl
@[simp] theorem State.modPort_upd (s : State) (p : Port) (f : PortSt → PortSt) : (s.modPort p f).upd = s.upd := rfl
@[simp] theorem State.modPort_mem (s : State) (p : Port) (f : PortSt → PortSt) : (s.modPort p f).mem = s.mem := rfl
@[simp] theorem State.modPort_scr (s : State) (p : Port) (f : PortSt → PortSt) : (s.modPort p f).scr = s.scr := rfl
@[simp] theorem State.modPort_wslots (s : State) (p : Port) (f : PortSt → PortSt) : (s.modPort p f).wslots = s.wslots := rfl
@[simp] theorem State.modPort_stage (s : State) (p : Port) (f : PortSt → PortSt) : (s.modPort p f).stage = s.stage := rfl
@[simp] theorem State.modPort_upset (s : State) (p : Port) (f : PortSt → PortSt) : (s.modPort p f).upset = s.upset := rfl
@[simp] theorem State.modPort_live (s : State) (p : Port) (f : PortSt → PortSt) : (s.modPort p f).live = s.live := rfl
@[simp] theorem State.modPort_latched (s : State) (p : Port) (f : PortSt → PortSt) : (s.modPort p f).latched = s.latched := rfl
@[simp] theorem State.modPort_evtSeen (s : State) (p : Port) (f : PortSt → PortSt) : (s.modPort p f).evtSeen = s.evtSeen := rfl
@[simp] theorem State.modPort_evtMsg (s : State) (p : Port) (f : PortSt → PortSt) : (s.modPort p f).evtMsg = s.evtMsg := rfl
@[simp] theorem State.modPort_out (s : State) (p : Port) (f : PortSt → PortSt) : (s.modPort p f).out = s.out := rfl
@[simp] theorem State.modPort_fresh (s : State) (p : Port) (f : PortSt → PortSt) : (s.modPort p f).fresh = s.fresh := rfl
@[simp] theorem State.modPort_pending (s : State) (p : Port) (f : PortSt → PortSt) : (s.modPort p f).pending = s.pending := rfl

/-! ### modRing -/

@[simp] theorem State.modRing_cad (s : State) (r : Nat) (f : Ring → Ring) : (s.modRing r f).cad = s.cad := rfl
@[simp] theorem State.modRing_plls (s : State) (r : Nat) (f : Ring → Ring) : (s.modRing r f).plls = s.plls := rfl
@[simp] theorem State.modRing_gear (s : State) (r : Nat) (f : Ring → Ring) : (s.modRing r f).gear = s.gear := rfl
@[simp] theorem State.modRing_pwr (s : State) (r : Nat) (f : Ring → Ring) : (s.modRing r f).pwr = s.pwr := rfl
@[simp] theorem State.modRing_ramps (s : State) (r : Nat) (f : Ring → Ring) : (s.modRing r f).ramps = s.ramps := rfl
@[simp] theorem State.modRing_rests (s : State) (r : Nat) (f : Ring → Ring) : (s.modRing r f).rests = s.rests := rfl
@[simp] theorem State.modRing_thm (s : State) (r : Nat) (f : Ring → Ring) : (s.modRing r f).thm = s.thm := rfl
@[simp] theorem State.modRing_acc (s : State) (r : Nat) (f : Ring → Ring) : (s.modRing r f).acc = s.acc := rfl
@[simp] theorem State.modRing_hold (s : State) (r : Nat) (f : Ring → Ring) : (s.modRing r f).hold = s.hold := rfl
@[simp] theorem State.modRing_boot (s : State) (r : Nat) (f : Ring → Ring) : (s.modRing r f).boot = s.boot := rfl
@[simp] theorem State.modRing_frc (s : State) (r : Nat) (f : Ring → Ring) : (s.modRing r f).frc = s.frc := rfl
@[simp] theorem State.modRing_steward (s : State) (r : Nat) (f : Ring → Ring) : (s.modRing r f).steward = s.steward := rfl
@[simp] theorem State.modRing_ports (s : State) (r : Nat) (f : Ring → Ring) : (s.modRing r f).ports = s.ports := rfl
@[simp] theorem State.modRing_sgrpSel (s : State) (r : Nat) (f : Ring → Ring) : (s.modRing r f).sgrpSel = s.sgrpSel := rfl
@[simp] theorem State.modRing_strobes (s : State) (r : Nat) (f : Ring → Ring) : (s.modRing r f).strobes = s.strobes := rfl
@[simp] theorem State.modRing_allots (s : State) (r : Nat) (f : Ring → Ring) : (s.modRing r f).allots = s.allots := rfl
@[simp] theorem State.modRing_images (s : State) (r : Nat) (f : Ring → Ring) : (s.modRing r f).images = s.images := rfl
@[simp] theorem State.modRing_nextImage (s : State) (r : Nat) (f : Ring → Ring) : (s.modRing r f).nextImage = s.nextImage := rfl
@[simp] theorem State.modRing_load (s : State) (r : Nat) (f : Ring → Ring) : (s.modRing r f).load = s.load := rfl
@[simp] theorem State.modRing_dying (s : State) (r : Nat) (f : Ring → Ring) : (s.modRing r f).dying = s.dying := rfl
@[simp] theorem State.modRing_zeroing (s : State) (r : Nat) (f : Ring → Ring) : (s.modRing r f).zeroing = s.zeroing := rfl
@[simp] theorem State.modRing_bankWrites (s : State) (r : Nat) (f : Ring → Ring) : (s.modRing r f).bankWrites = s.bankWrites := rfl
@[simp] theorem State.modRing_bridges (s : State) (r : Nat) (f : Ring → Ring) : (s.modRing r f).bridges = s.bridges := rfl
@[simp] theorem State.modRing_arrays (s : State) (r : Nat) (f : Ring → Ring) : (s.modRing r f).arrays = s.arrays := rfl
@[simp] theorem State.modRing_movers (s : State) (r : Nat) (f : Ring → Ring) : (s.modRing r f).movers = s.movers := rfl
@[simp] theorem State.modRing_trns (s : State) (r : Nat) (f : Ring → Ring) : (s.modRing r f).trns = s.trns := rfl
@[simp] theorem State.modRing_chunkCrcs (s : State) (r : Nat) (f : Ring → Ring) : (s.modRing r f).chunkCrcs = s.chunkCrcs := rfl
@[simp] theorem State.modRing_hbms (s : State) (r : Nat) (f : Ring → Ring) : (s.modRing r f).hbms = s.hbms := rfl
@[simp] theorem State.modRing_ddrs (s : State) (r : Nat) (f : Ring → Ring) : (s.modRing r f).ddrs = s.ddrs := rfl
@[simp] theorem State.modRing_capGib (s : State) (r : Nat) (f : Ring → Ring) : (s.modRing r f).capGib = s.capGib := rfl
@[simp] theorem State.modRing_self (s : State) (r : Nat) (f : Ring → Ring) : (s.modRing r f).self = s.self := rfl
@[simp] theorem State.modRing_spokes (s : State) (r : Nat) (f : Ring → Ring) : (s.modRing r f).spokes = s.spokes := rfl
@[simp] theorem State.modRing_ownMarks (s : State) (r : Nat) (f : Ring → Ring) : (s.modRing r f).ownMarks = s.ownMarks := rfl
@[simp] theorem State.modRing_stations (s : State) (r : Nat) (f : Ring → Ring) : (s.modRing r f).stations = s.stations := rfl
@[simp] theorem State.modRing_ringAt (s : State) (r : Nat) (f : Ring → Ring) : (s.modRing r f).ringAt = s.ringAt := rfl
@[simp] theorem State.modRing_rte (s : State) (r : Nat) (f : Ring → Ring) : (s.modRing r f).rte = s.rte := rfl
@[simp] theorem State.modRing_lodge (s : State) (r : Nat) (f : Ring → Ring) : (s.modRing r f).lodge = s.lodge := rfl
@[simp] theorem State.modRing_mgmt (s : State) (r : Nat) (f : Ring → Ring) : (s.modRing r f).mgmt = s.mgmt := rfl
@[simp] theorem State.modRing_flash (s : State) (r : Nat) (f : Ring → Ring) : (s.modRing r f).flash = s.flash := rfl
@[simp] theorem State.modRing_upd (s : State) (r : Nat) (f : Ring → Ring) : (s.modRing r f).upd = s.upd := rfl
@[simp] theorem State.modRing_mem (s : State) (r : Nat) (f : Ring → Ring) : (s.modRing r f).mem = s.mem := rfl
@[simp] theorem State.modRing_scr (s : State) (r : Nat) (f : Ring → Ring) : (s.modRing r f).scr = s.scr := rfl
@[simp] theorem State.modRing_wslots (s : State) (r : Nat) (f : Ring → Ring) : (s.modRing r f).wslots = s.wslots := rfl
@[simp] theorem State.modRing_stage (s : State) (r : Nat) (f : Ring → Ring) : (s.modRing r f).stage = s.stage := rfl
@[simp] theorem State.modRing_upset (s : State) (r : Nat) (f : Ring → Ring) : (s.modRing r f).upset = s.upset := rfl
@[simp] theorem State.modRing_live (s : State) (r : Nat) (f : Ring → Ring) : (s.modRing r f).live = s.live := rfl
@[simp] theorem State.modRing_latched (s : State) (r : Nat) (f : Ring → Ring) : (s.modRing r f).latched = s.latched := rfl
@[simp] theorem State.modRing_evtSeen (s : State) (r : Nat) (f : Ring → Ring) : (s.modRing r f).evtSeen = s.evtSeen := rfl
@[simp] theorem State.modRing_evtMsg (s : State) (r : Nat) (f : Ring → Ring) : (s.modRing r f).evtMsg = s.evtMsg := rfl
@[simp] theorem State.modRing_out (s : State) (r : Nat) (f : Ring → Ring) : (s.modRing r f).out = s.out := rfl
@[simp] theorem State.modRing_fresh (s : State) (r : Nat) (f : Ring → Ring) : (s.modRing r f).fresh = s.fresh := rfl
@[simp] theorem State.modRing_pending (s : State) (r : Nat) (f : Ring → Ring) : (s.modRing r f).pending = s.pending := rfl

/-! ### modAllot -/

@[simp] theorem State.modAllot_cad (s : State) (n : Nat) (f : AllotSt → AllotSt) : (s.modAllot n f).cad = s.cad := rfl
@[simp] theorem State.modAllot_plls (s : State) (n : Nat) (f : AllotSt → AllotSt) : (s.modAllot n f).plls = s.plls := rfl
@[simp] theorem State.modAllot_gear (s : State) (n : Nat) (f : AllotSt → AllotSt) : (s.modAllot n f).gear = s.gear := rfl
@[simp] theorem State.modAllot_pwr (s : State) (n : Nat) (f : AllotSt → AllotSt) : (s.modAllot n f).pwr = s.pwr := rfl
@[simp] theorem State.modAllot_ramps (s : State) (n : Nat) (f : AllotSt → AllotSt) : (s.modAllot n f).ramps = s.ramps := rfl
@[simp] theorem State.modAllot_rests (s : State) (n : Nat) (f : AllotSt → AllotSt) : (s.modAllot n f).rests = s.rests := rfl
@[simp] theorem State.modAllot_thm (s : State) (n : Nat) (f : AllotSt → AllotSt) : (s.modAllot n f).thm = s.thm := rfl
@[simp] theorem State.modAllot_acc (s : State) (n : Nat) (f : AllotSt → AllotSt) : (s.modAllot n f).acc = s.acc := rfl
@[simp] theorem State.modAllot_hold (s : State) (n : Nat) (f : AllotSt → AllotSt) : (s.modAllot n f).hold = s.hold := rfl
@[simp] theorem State.modAllot_boot (s : State) (n : Nat) (f : AllotSt → AllotSt) : (s.modAllot n f).boot = s.boot := rfl
@[simp] theorem State.modAllot_frc (s : State) (n : Nat) (f : AllotSt → AllotSt) : (s.modAllot n f).frc = s.frc := rfl
@[simp] theorem State.modAllot_steward (s : State) (n : Nat) (f : AllotSt → AllotSt) : (s.modAllot n f).steward = s.steward := rfl
@[simp] theorem State.modAllot_ports (s : State) (n : Nat) (f : AllotSt → AllotSt) : (s.modAllot n f).ports = s.ports := rfl
@[simp] theorem State.modAllot_sgrpSel (s : State) (n : Nat) (f : AllotSt → AllotSt) : (s.modAllot n f).sgrpSel = s.sgrpSel := rfl
@[simp] theorem State.modAllot_strobes (s : State) (n : Nat) (f : AllotSt → AllotSt) : (s.modAllot n f).strobes = s.strobes := rfl
@[simp] theorem State.modAllot_rings (s : State) (n : Nat) (f : AllotSt → AllotSt) : (s.modAllot n f).rings = s.rings := rfl
@[simp] theorem State.modAllot_images (s : State) (n : Nat) (f : AllotSt → AllotSt) : (s.modAllot n f).images = s.images := rfl
@[simp] theorem State.modAllot_nextImage (s : State) (n : Nat) (f : AllotSt → AllotSt) : (s.modAllot n f).nextImage = s.nextImage := rfl
@[simp] theorem State.modAllot_load (s : State) (n : Nat) (f : AllotSt → AllotSt) : (s.modAllot n f).load = s.load := rfl
@[simp] theorem State.modAllot_dying (s : State) (n : Nat) (f : AllotSt → AllotSt) : (s.modAllot n f).dying = s.dying := rfl
@[simp] theorem State.modAllot_zeroing (s : State) (n : Nat) (f : AllotSt → AllotSt) : (s.modAllot n f).zeroing = s.zeroing := rfl
@[simp] theorem State.modAllot_bankWrites (s : State) (n : Nat) (f : AllotSt → AllotSt) : (s.modAllot n f).bankWrites = s.bankWrites := rfl
@[simp] theorem State.modAllot_bridges (s : State) (n : Nat) (f : AllotSt → AllotSt) : (s.modAllot n f).bridges = s.bridges := rfl
@[simp] theorem State.modAllot_arrays (s : State) (n : Nat) (f : AllotSt → AllotSt) : (s.modAllot n f).arrays = s.arrays := rfl
@[simp] theorem State.modAllot_movers (s : State) (n : Nat) (f : AllotSt → AllotSt) : (s.modAllot n f).movers = s.movers := rfl
@[simp] theorem State.modAllot_trns (s : State) (n : Nat) (f : AllotSt → AllotSt) : (s.modAllot n f).trns = s.trns := rfl
@[simp] theorem State.modAllot_chunkCrcs (s : State) (n : Nat) (f : AllotSt → AllotSt) : (s.modAllot n f).chunkCrcs = s.chunkCrcs := rfl
@[simp] theorem State.modAllot_hbms (s : State) (n : Nat) (f : AllotSt → AllotSt) : (s.modAllot n f).hbms = s.hbms := rfl
@[simp] theorem State.modAllot_ddrs (s : State) (n : Nat) (f : AllotSt → AllotSt) : (s.modAllot n f).ddrs = s.ddrs := rfl
@[simp] theorem State.modAllot_capGib (s : State) (n : Nat) (f : AllotSt → AllotSt) : (s.modAllot n f).capGib = s.capGib := rfl
@[simp] theorem State.modAllot_self (s : State) (n : Nat) (f : AllotSt → AllotSt) : (s.modAllot n f).self = s.self := rfl
@[simp] theorem State.modAllot_spokes (s : State) (n : Nat) (f : AllotSt → AllotSt) : (s.modAllot n f).spokes = s.spokes := rfl
@[simp] theorem State.modAllot_ownMarks (s : State) (n : Nat) (f : AllotSt → AllotSt) : (s.modAllot n f).ownMarks = s.ownMarks := rfl
@[simp] theorem State.modAllot_stations (s : State) (n : Nat) (f : AllotSt → AllotSt) : (s.modAllot n f).stations = s.stations := rfl
@[simp] theorem State.modAllot_ringAt (s : State) (n : Nat) (f : AllotSt → AllotSt) : (s.modAllot n f).ringAt = s.ringAt := rfl
@[simp] theorem State.modAllot_rte (s : State) (n : Nat) (f : AllotSt → AllotSt) : (s.modAllot n f).rte = s.rte := rfl
@[simp] theorem State.modAllot_lodge (s : State) (n : Nat) (f : AllotSt → AllotSt) : (s.modAllot n f).lodge = s.lodge := rfl
@[simp] theorem State.modAllot_mgmt (s : State) (n : Nat) (f : AllotSt → AllotSt) : (s.modAllot n f).mgmt = s.mgmt := rfl
@[simp] theorem State.modAllot_flash (s : State) (n : Nat) (f : AllotSt → AllotSt) : (s.modAllot n f).flash = s.flash := rfl
@[simp] theorem State.modAllot_upd (s : State) (n : Nat) (f : AllotSt → AllotSt) : (s.modAllot n f).upd = s.upd := rfl
@[simp] theorem State.modAllot_mem (s : State) (n : Nat) (f : AllotSt → AllotSt) : (s.modAllot n f).mem = s.mem := rfl
@[simp] theorem State.modAllot_scr (s : State) (n : Nat) (f : AllotSt → AllotSt) : (s.modAllot n f).scr = s.scr := rfl
@[simp] theorem State.modAllot_wslots (s : State) (n : Nat) (f : AllotSt → AllotSt) : (s.modAllot n f).wslots = s.wslots := rfl
@[simp] theorem State.modAllot_stage (s : State) (n : Nat) (f : AllotSt → AllotSt) : (s.modAllot n f).stage = s.stage := rfl
@[simp] theorem State.modAllot_upset (s : State) (n : Nat) (f : AllotSt → AllotSt) : (s.modAllot n f).upset = s.upset := rfl
@[simp] theorem State.modAllot_live (s : State) (n : Nat) (f : AllotSt → AllotSt) : (s.modAllot n f).live = s.live := rfl
@[simp] theorem State.modAllot_latched (s : State) (n : Nat) (f : AllotSt → AllotSt) : (s.modAllot n f).latched = s.latched := rfl
@[simp] theorem State.modAllot_evtSeen (s : State) (n : Nat) (f : AllotSt → AllotSt) : (s.modAllot n f).evtSeen = s.evtSeen := rfl
@[simp] theorem State.modAllot_evtMsg (s : State) (n : Nat) (f : AllotSt → AllotSt) : (s.modAllot n f).evtMsg = s.evtMsg := rfl
@[simp] theorem State.modAllot_out (s : State) (n : Nat) (f : AllotSt → AllotSt) : (s.modAllot n f).out = s.out := rfl
@[simp] theorem State.modAllot_fresh (s : State) (n : Nat) (f : AllotSt → AllotSt) : (s.modAllot n f).fresh = s.fresh := rfl
@[simp] theorem State.modAllot_pending (s : State) (n : Nat) (f : AllotSt → AllotSt) : (s.modAllot n f).pending = s.pending := rfl

/-! ### modArr -/

@[simp] theorem State.modArr_cad (s : State) (x : Nat) (f : ArrSt → ArrSt) : (s.modArr x f).cad = s.cad := rfl
@[simp] theorem State.modArr_plls (s : State) (x : Nat) (f : ArrSt → ArrSt) : (s.modArr x f).plls = s.plls := rfl
@[simp] theorem State.modArr_gear (s : State) (x : Nat) (f : ArrSt → ArrSt) : (s.modArr x f).gear = s.gear := rfl
@[simp] theorem State.modArr_pwr (s : State) (x : Nat) (f : ArrSt → ArrSt) : (s.modArr x f).pwr = s.pwr := rfl
@[simp] theorem State.modArr_ramps (s : State) (x : Nat) (f : ArrSt → ArrSt) : (s.modArr x f).ramps = s.ramps := rfl
@[simp] theorem State.modArr_rests (s : State) (x : Nat) (f : ArrSt → ArrSt) : (s.modArr x f).rests = s.rests := rfl
@[simp] theorem State.modArr_thm (s : State) (x : Nat) (f : ArrSt → ArrSt) : (s.modArr x f).thm = s.thm := rfl
@[simp] theorem State.modArr_acc (s : State) (x : Nat) (f : ArrSt → ArrSt) : (s.modArr x f).acc = s.acc := rfl
@[simp] theorem State.modArr_hold (s : State) (x : Nat) (f : ArrSt → ArrSt) : (s.modArr x f).hold = s.hold := rfl
@[simp] theorem State.modArr_boot (s : State) (x : Nat) (f : ArrSt → ArrSt) : (s.modArr x f).boot = s.boot := rfl
@[simp] theorem State.modArr_frc (s : State) (x : Nat) (f : ArrSt → ArrSt) : (s.modArr x f).frc = s.frc := rfl
@[simp] theorem State.modArr_steward (s : State) (x : Nat) (f : ArrSt → ArrSt) : (s.modArr x f).steward = s.steward := rfl
@[simp] theorem State.modArr_ports (s : State) (x : Nat) (f : ArrSt → ArrSt) : (s.modArr x f).ports = s.ports := rfl
@[simp] theorem State.modArr_sgrpSel (s : State) (x : Nat) (f : ArrSt → ArrSt) : (s.modArr x f).sgrpSel = s.sgrpSel := rfl
@[simp] theorem State.modArr_strobes (s : State) (x : Nat) (f : ArrSt → ArrSt) : (s.modArr x f).strobes = s.strobes := rfl
@[simp] theorem State.modArr_rings (s : State) (x : Nat) (f : ArrSt → ArrSt) : (s.modArr x f).rings = s.rings := rfl
@[simp] theorem State.modArr_allots (s : State) (x : Nat) (f : ArrSt → ArrSt) : (s.modArr x f).allots = s.allots := rfl
@[simp] theorem State.modArr_images (s : State) (x : Nat) (f : ArrSt → ArrSt) : (s.modArr x f).images = s.images := rfl
@[simp] theorem State.modArr_nextImage (s : State) (x : Nat) (f : ArrSt → ArrSt) : (s.modArr x f).nextImage = s.nextImage := rfl
@[simp] theorem State.modArr_load (s : State) (x : Nat) (f : ArrSt → ArrSt) : (s.modArr x f).load = s.load := rfl
@[simp] theorem State.modArr_dying (s : State) (x : Nat) (f : ArrSt → ArrSt) : (s.modArr x f).dying = s.dying := rfl
@[simp] theorem State.modArr_zeroing (s : State) (x : Nat) (f : ArrSt → ArrSt) : (s.modArr x f).zeroing = s.zeroing := rfl
@[simp] theorem State.modArr_bankWrites (s : State) (x : Nat) (f : ArrSt → ArrSt) : (s.modArr x f).bankWrites = s.bankWrites := rfl
@[simp] theorem State.modArr_bridges (s : State) (x : Nat) (f : ArrSt → ArrSt) : (s.modArr x f).bridges = s.bridges := rfl
@[simp] theorem State.modArr_movers (s : State) (x : Nat) (f : ArrSt → ArrSt) : (s.modArr x f).movers = s.movers := rfl
@[simp] theorem State.modArr_trns (s : State) (x : Nat) (f : ArrSt → ArrSt) : (s.modArr x f).trns = s.trns := rfl
@[simp] theorem State.modArr_chunkCrcs (s : State) (x : Nat) (f : ArrSt → ArrSt) : (s.modArr x f).chunkCrcs = s.chunkCrcs := rfl
@[simp] theorem State.modArr_hbms (s : State) (x : Nat) (f : ArrSt → ArrSt) : (s.modArr x f).hbms = s.hbms := rfl
@[simp] theorem State.modArr_ddrs (s : State) (x : Nat) (f : ArrSt → ArrSt) : (s.modArr x f).ddrs = s.ddrs := rfl
@[simp] theorem State.modArr_capGib (s : State) (x : Nat) (f : ArrSt → ArrSt) : (s.modArr x f).capGib = s.capGib := rfl
@[simp] theorem State.modArr_self (s : State) (x : Nat) (f : ArrSt → ArrSt) : (s.modArr x f).self = s.self := rfl
@[simp] theorem State.modArr_spokes (s : State) (x : Nat) (f : ArrSt → ArrSt) : (s.modArr x f).spokes = s.spokes := rfl
@[simp] theorem State.modArr_ownMarks (s : State) (x : Nat) (f : ArrSt → ArrSt) : (s.modArr x f).ownMarks = s.ownMarks := rfl
@[simp] theorem State.modArr_stations (s : State) (x : Nat) (f : ArrSt → ArrSt) : (s.modArr x f).stations = s.stations := rfl
@[simp] theorem State.modArr_ringAt (s : State) (x : Nat) (f : ArrSt → ArrSt) : (s.modArr x f).ringAt = s.ringAt := rfl
@[simp] theorem State.modArr_rte (s : State) (x : Nat) (f : ArrSt → ArrSt) : (s.modArr x f).rte = s.rte := rfl
@[simp] theorem State.modArr_lodge (s : State) (x : Nat) (f : ArrSt → ArrSt) : (s.modArr x f).lodge = s.lodge := rfl
@[simp] theorem State.modArr_mgmt (s : State) (x : Nat) (f : ArrSt → ArrSt) : (s.modArr x f).mgmt = s.mgmt := rfl
@[simp] theorem State.modArr_flash (s : State) (x : Nat) (f : ArrSt → ArrSt) : (s.modArr x f).flash = s.flash := rfl
@[simp] theorem State.modArr_upd (s : State) (x : Nat) (f : ArrSt → ArrSt) : (s.modArr x f).upd = s.upd := rfl
@[simp] theorem State.modArr_mem (s : State) (x : Nat) (f : ArrSt → ArrSt) : (s.modArr x f).mem = s.mem := rfl
@[simp] theorem State.modArr_scr (s : State) (x : Nat) (f : ArrSt → ArrSt) : (s.modArr x f).scr = s.scr := rfl
@[simp] theorem State.modArr_wslots (s : State) (x : Nat) (f : ArrSt → ArrSt) : (s.modArr x f).wslots = s.wslots := rfl
@[simp] theorem State.modArr_stage (s : State) (x : Nat) (f : ArrSt → ArrSt) : (s.modArr x f).stage = s.stage := rfl
@[simp] theorem State.modArr_upset (s : State) (x : Nat) (f : ArrSt → ArrSt) : (s.modArr x f).upset = s.upset := rfl
@[simp] theorem State.modArr_live (s : State) (x : Nat) (f : ArrSt → ArrSt) : (s.modArr x f).live = s.live := rfl
@[simp] theorem State.modArr_latched (s : State) (x : Nat) (f : ArrSt → ArrSt) : (s.modArr x f).latched = s.latched := rfl
@[simp] theorem State.modArr_evtSeen (s : State) (x : Nat) (f : ArrSt → ArrSt) : (s.modArr x f).evtSeen = s.evtSeen := rfl
@[simp] theorem State.modArr_evtMsg (s : State) (x : Nat) (f : ArrSt → ArrSt) : (s.modArr x f).evtMsg = s.evtMsg := rfl
@[simp] theorem State.modArr_out (s : State) (x : Nat) (f : ArrSt → ArrSt) : (s.modArr x f).out = s.out := rfl
@[simp] theorem State.modArr_fresh (s : State) (x : Nat) (f : ArrSt → ArrSt) : (s.modArr x f).fresh = s.fresh := rfl
@[simp] theorem State.modArr_pending (s : State) (x : Nat) (f : ArrSt → ArrSt) : (s.modArr x f).pending = s.pending := rfl

/-! ### modMover -/

@[simp] theorem State.modMover_cad (s : State) (m : Nat) (f : MoverSt → MoverSt) : (s.modMover m f).cad = s.cad := rfl
@[simp] theorem State.modMover_plls (s : State) (m : Nat) (f : MoverSt → MoverSt) : (s.modMover m f).plls = s.plls := rfl
@[simp] theorem State.modMover_gear (s : State) (m : Nat) (f : MoverSt → MoverSt) : (s.modMover m f).gear = s.gear := rfl
@[simp] theorem State.modMover_pwr (s : State) (m : Nat) (f : MoverSt → MoverSt) : (s.modMover m f).pwr = s.pwr := rfl
@[simp] theorem State.modMover_ramps (s : State) (m : Nat) (f : MoverSt → MoverSt) : (s.modMover m f).ramps = s.ramps := rfl
@[simp] theorem State.modMover_rests (s : State) (m : Nat) (f : MoverSt → MoverSt) : (s.modMover m f).rests = s.rests := rfl
@[simp] theorem State.modMover_thm (s : State) (m : Nat) (f : MoverSt → MoverSt) : (s.modMover m f).thm = s.thm := rfl
@[simp] theorem State.modMover_acc (s : State) (m : Nat) (f : MoverSt → MoverSt) : (s.modMover m f).acc = s.acc := rfl
@[simp] theorem State.modMover_hold (s : State) (m : Nat) (f : MoverSt → MoverSt) : (s.modMover m f).hold = s.hold := rfl
@[simp] theorem State.modMover_boot (s : State) (m : Nat) (f : MoverSt → MoverSt) : (s.modMover m f).boot = s.boot := rfl
@[simp] theorem State.modMover_frc (s : State) (m : Nat) (f : MoverSt → MoverSt) : (s.modMover m f).frc = s.frc := rfl
@[simp] theorem State.modMover_steward (s : State) (m : Nat) (f : MoverSt → MoverSt) : (s.modMover m f).steward = s.steward := rfl
@[simp] theorem State.modMover_ports (s : State) (m : Nat) (f : MoverSt → MoverSt) : (s.modMover m f).ports = s.ports := rfl
@[simp] theorem State.modMover_sgrpSel (s : State) (m : Nat) (f : MoverSt → MoverSt) : (s.modMover m f).sgrpSel = s.sgrpSel := rfl
@[simp] theorem State.modMover_strobes (s : State) (m : Nat) (f : MoverSt → MoverSt) : (s.modMover m f).strobes = s.strobes := rfl
@[simp] theorem State.modMover_rings (s : State) (m : Nat) (f : MoverSt → MoverSt) : (s.modMover m f).rings = s.rings := rfl
@[simp] theorem State.modMover_allots (s : State) (m : Nat) (f : MoverSt → MoverSt) : (s.modMover m f).allots = s.allots := rfl
@[simp] theorem State.modMover_images (s : State) (m : Nat) (f : MoverSt → MoverSt) : (s.modMover m f).images = s.images := rfl
@[simp] theorem State.modMover_nextImage (s : State) (m : Nat) (f : MoverSt → MoverSt) : (s.modMover m f).nextImage = s.nextImage := rfl
@[simp] theorem State.modMover_load (s : State) (m : Nat) (f : MoverSt → MoverSt) : (s.modMover m f).load = s.load := rfl
@[simp] theorem State.modMover_dying (s : State) (m : Nat) (f : MoverSt → MoverSt) : (s.modMover m f).dying = s.dying := rfl
@[simp] theorem State.modMover_zeroing (s : State) (m : Nat) (f : MoverSt → MoverSt) : (s.modMover m f).zeroing = s.zeroing := rfl
@[simp] theorem State.modMover_bankWrites (s : State) (m : Nat) (f : MoverSt → MoverSt) : (s.modMover m f).bankWrites = s.bankWrites := rfl
@[simp] theorem State.modMover_bridges (s : State) (m : Nat) (f : MoverSt → MoverSt) : (s.modMover m f).bridges = s.bridges := rfl
@[simp] theorem State.modMover_arrays (s : State) (m : Nat) (f : MoverSt → MoverSt) : (s.modMover m f).arrays = s.arrays := rfl
@[simp] theorem State.modMover_trns (s : State) (m : Nat) (f : MoverSt → MoverSt) : (s.modMover m f).trns = s.trns := rfl
@[simp] theorem State.modMover_chunkCrcs (s : State) (m : Nat) (f : MoverSt → MoverSt) : (s.modMover m f).chunkCrcs = s.chunkCrcs := rfl
@[simp] theorem State.modMover_hbms (s : State) (m : Nat) (f : MoverSt → MoverSt) : (s.modMover m f).hbms = s.hbms := rfl
@[simp] theorem State.modMover_ddrs (s : State) (m : Nat) (f : MoverSt → MoverSt) : (s.modMover m f).ddrs = s.ddrs := rfl
@[simp] theorem State.modMover_capGib (s : State) (m : Nat) (f : MoverSt → MoverSt) : (s.modMover m f).capGib = s.capGib := rfl
@[simp] theorem State.modMover_self (s : State) (m : Nat) (f : MoverSt → MoverSt) : (s.modMover m f).self = s.self := rfl
@[simp] theorem State.modMover_spokes (s : State) (m : Nat) (f : MoverSt → MoverSt) : (s.modMover m f).spokes = s.spokes := rfl
@[simp] theorem State.modMover_ownMarks (s : State) (m : Nat) (f : MoverSt → MoverSt) : (s.modMover m f).ownMarks = s.ownMarks := rfl
@[simp] theorem State.modMover_stations (s : State) (m : Nat) (f : MoverSt → MoverSt) : (s.modMover m f).stations = s.stations := rfl
@[simp] theorem State.modMover_ringAt (s : State) (m : Nat) (f : MoverSt → MoverSt) : (s.modMover m f).ringAt = s.ringAt := rfl
@[simp] theorem State.modMover_rte (s : State) (m : Nat) (f : MoverSt → MoverSt) : (s.modMover m f).rte = s.rte := rfl
@[simp] theorem State.modMover_lodge (s : State) (m : Nat) (f : MoverSt → MoverSt) : (s.modMover m f).lodge = s.lodge := rfl
@[simp] theorem State.modMover_mgmt (s : State) (m : Nat) (f : MoverSt → MoverSt) : (s.modMover m f).mgmt = s.mgmt := rfl
@[simp] theorem State.modMover_flash (s : State) (m : Nat) (f : MoverSt → MoverSt) : (s.modMover m f).flash = s.flash := rfl
@[simp] theorem State.modMover_upd (s : State) (m : Nat) (f : MoverSt → MoverSt) : (s.modMover m f).upd = s.upd := rfl
@[simp] theorem State.modMover_mem (s : State) (m : Nat) (f : MoverSt → MoverSt) : (s.modMover m f).mem = s.mem := rfl
@[simp] theorem State.modMover_scr (s : State) (m : Nat) (f : MoverSt → MoverSt) : (s.modMover m f).scr = s.scr := rfl
@[simp] theorem State.modMover_wslots (s : State) (m : Nat) (f : MoverSt → MoverSt) : (s.modMover m f).wslots = s.wslots := rfl
@[simp] theorem State.modMover_stage (s : State) (m : Nat) (f : MoverSt → MoverSt) : (s.modMover m f).stage = s.stage := rfl
@[simp] theorem State.modMover_upset (s : State) (m : Nat) (f : MoverSt → MoverSt) : (s.modMover m f).upset = s.upset := rfl
@[simp] theorem State.modMover_live (s : State) (m : Nat) (f : MoverSt → MoverSt) : (s.modMover m f).live = s.live := rfl
@[simp] theorem State.modMover_latched (s : State) (m : Nat) (f : MoverSt → MoverSt) : (s.modMover m f).latched = s.latched := rfl
@[simp] theorem State.modMover_evtSeen (s : State) (m : Nat) (f : MoverSt → MoverSt) : (s.modMover m f).evtSeen = s.evtSeen := rfl
@[simp] theorem State.modMover_evtMsg (s : State) (m : Nat) (f : MoverSt → MoverSt) : (s.modMover m f).evtMsg = s.evtMsg := rfl
@[simp] theorem State.modMover_out (s : State) (m : Nat) (f : MoverSt → MoverSt) : (s.modMover m f).out = s.out := rfl
@[simp] theorem State.modMover_fresh (s : State) (m : Nat) (f : MoverSt → MoverSt) : (s.modMover m f).fresh = s.fresh := rfl
@[simp] theorem State.modMover_pending (s : State) (m : Nat) (f : MoverSt → MoverSt) : (s.modMover m f).pending = s.pending := rfl

/-! ### modTrn -/

@[simp] theorem State.modTrn_cad (s : State) (t : Nat) (f : TrnSt → TrnSt) : (s.modTrn t f).cad = s.cad := rfl
@[simp] theorem State.modTrn_plls (s : State) (t : Nat) (f : TrnSt → TrnSt) : (s.modTrn t f).plls = s.plls := rfl
@[simp] theorem State.modTrn_gear (s : State) (t : Nat) (f : TrnSt → TrnSt) : (s.modTrn t f).gear = s.gear := rfl
@[simp] theorem State.modTrn_pwr (s : State) (t : Nat) (f : TrnSt → TrnSt) : (s.modTrn t f).pwr = s.pwr := rfl
@[simp] theorem State.modTrn_ramps (s : State) (t : Nat) (f : TrnSt → TrnSt) : (s.modTrn t f).ramps = s.ramps := rfl
@[simp] theorem State.modTrn_rests (s : State) (t : Nat) (f : TrnSt → TrnSt) : (s.modTrn t f).rests = s.rests := rfl
@[simp] theorem State.modTrn_thm (s : State) (t : Nat) (f : TrnSt → TrnSt) : (s.modTrn t f).thm = s.thm := rfl
@[simp] theorem State.modTrn_acc (s : State) (t : Nat) (f : TrnSt → TrnSt) : (s.modTrn t f).acc = s.acc := rfl
@[simp] theorem State.modTrn_hold (s : State) (t : Nat) (f : TrnSt → TrnSt) : (s.modTrn t f).hold = s.hold := rfl
@[simp] theorem State.modTrn_boot (s : State) (t : Nat) (f : TrnSt → TrnSt) : (s.modTrn t f).boot = s.boot := rfl
@[simp] theorem State.modTrn_frc (s : State) (t : Nat) (f : TrnSt → TrnSt) : (s.modTrn t f).frc = s.frc := rfl
@[simp] theorem State.modTrn_steward (s : State) (t : Nat) (f : TrnSt → TrnSt) : (s.modTrn t f).steward = s.steward := rfl
@[simp] theorem State.modTrn_ports (s : State) (t : Nat) (f : TrnSt → TrnSt) : (s.modTrn t f).ports = s.ports := rfl
@[simp] theorem State.modTrn_sgrpSel (s : State) (t : Nat) (f : TrnSt → TrnSt) : (s.modTrn t f).sgrpSel = s.sgrpSel := rfl
@[simp] theorem State.modTrn_strobes (s : State) (t : Nat) (f : TrnSt → TrnSt) : (s.modTrn t f).strobes = s.strobes := rfl
@[simp] theorem State.modTrn_rings (s : State) (t : Nat) (f : TrnSt → TrnSt) : (s.modTrn t f).rings = s.rings := rfl
@[simp] theorem State.modTrn_allots (s : State) (t : Nat) (f : TrnSt → TrnSt) : (s.modTrn t f).allots = s.allots := rfl
@[simp] theorem State.modTrn_images (s : State) (t : Nat) (f : TrnSt → TrnSt) : (s.modTrn t f).images = s.images := rfl
@[simp] theorem State.modTrn_nextImage (s : State) (t : Nat) (f : TrnSt → TrnSt) : (s.modTrn t f).nextImage = s.nextImage := rfl
@[simp] theorem State.modTrn_load (s : State) (t : Nat) (f : TrnSt → TrnSt) : (s.modTrn t f).load = s.load := rfl
@[simp] theorem State.modTrn_dying (s : State) (t : Nat) (f : TrnSt → TrnSt) : (s.modTrn t f).dying = s.dying := rfl
@[simp] theorem State.modTrn_zeroing (s : State) (t : Nat) (f : TrnSt → TrnSt) : (s.modTrn t f).zeroing = s.zeroing := rfl
@[simp] theorem State.modTrn_bankWrites (s : State) (t : Nat) (f : TrnSt → TrnSt) : (s.modTrn t f).bankWrites = s.bankWrites := rfl
@[simp] theorem State.modTrn_bridges (s : State) (t : Nat) (f : TrnSt → TrnSt) : (s.modTrn t f).bridges = s.bridges := rfl
@[simp] theorem State.modTrn_arrays (s : State) (t : Nat) (f : TrnSt → TrnSt) : (s.modTrn t f).arrays = s.arrays := rfl
@[simp] theorem State.modTrn_movers (s : State) (t : Nat) (f : TrnSt → TrnSt) : (s.modTrn t f).movers = s.movers := rfl
@[simp] theorem State.modTrn_chunkCrcs (s : State) (t : Nat) (f : TrnSt → TrnSt) : (s.modTrn t f).chunkCrcs = s.chunkCrcs := rfl
@[simp] theorem State.modTrn_hbms (s : State) (t : Nat) (f : TrnSt → TrnSt) : (s.modTrn t f).hbms = s.hbms := rfl
@[simp] theorem State.modTrn_ddrs (s : State) (t : Nat) (f : TrnSt → TrnSt) : (s.modTrn t f).ddrs = s.ddrs := rfl
@[simp] theorem State.modTrn_capGib (s : State) (t : Nat) (f : TrnSt → TrnSt) : (s.modTrn t f).capGib = s.capGib := rfl
@[simp] theorem State.modTrn_self (s : State) (t : Nat) (f : TrnSt → TrnSt) : (s.modTrn t f).self = s.self := rfl
@[simp] theorem State.modTrn_spokes (s : State) (t : Nat) (f : TrnSt → TrnSt) : (s.modTrn t f).spokes = s.spokes := rfl
@[simp] theorem State.modTrn_ownMarks (s : State) (t : Nat) (f : TrnSt → TrnSt) : (s.modTrn t f).ownMarks = s.ownMarks := rfl
@[simp] theorem State.modTrn_stations (s : State) (t : Nat) (f : TrnSt → TrnSt) : (s.modTrn t f).stations = s.stations := rfl
@[simp] theorem State.modTrn_ringAt (s : State) (t : Nat) (f : TrnSt → TrnSt) : (s.modTrn t f).ringAt = s.ringAt := rfl
@[simp] theorem State.modTrn_rte (s : State) (t : Nat) (f : TrnSt → TrnSt) : (s.modTrn t f).rte = s.rte := rfl
@[simp] theorem State.modTrn_lodge (s : State) (t : Nat) (f : TrnSt → TrnSt) : (s.modTrn t f).lodge = s.lodge := rfl
@[simp] theorem State.modTrn_mgmt (s : State) (t : Nat) (f : TrnSt → TrnSt) : (s.modTrn t f).mgmt = s.mgmt := rfl
@[simp] theorem State.modTrn_flash (s : State) (t : Nat) (f : TrnSt → TrnSt) : (s.modTrn t f).flash = s.flash := rfl
@[simp] theorem State.modTrn_upd (s : State) (t : Nat) (f : TrnSt → TrnSt) : (s.modTrn t f).upd = s.upd := rfl
@[simp] theorem State.modTrn_mem (s : State) (t : Nat) (f : TrnSt → TrnSt) : (s.modTrn t f).mem = s.mem := rfl
@[simp] theorem State.modTrn_scr (s : State) (t : Nat) (f : TrnSt → TrnSt) : (s.modTrn t f).scr = s.scr := rfl
@[simp] theorem State.modTrn_wslots (s : State) (t : Nat) (f : TrnSt → TrnSt) : (s.modTrn t f).wslots = s.wslots := rfl
@[simp] theorem State.modTrn_stage (s : State) (t : Nat) (f : TrnSt → TrnSt) : (s.modTrn t f).stage = s.stage := rfl
@[simp] theorem State.modTrn_upset (s : State) (t : Nat) (f : TrnSt → TrnSt) : (s.modTrn t f).upset = s.upset := rfl
@[simp] theorem State.modTrn_live (s : State) (t : Nat) (f : TrnSt → TrnSt) : (s.modTrn t f).live = s.live := rfl
@[simp] theorem State.modTrn_latched (s : State) (t : Nat) (f : TrnSt → TrnSt) : (s.modTrn t f).latched = s.latched := rfl
@[simp] theorem State.modTrn_evtSeen (s : State) (t : Nat) (f : TrnSt → TrnSt) : (s.modTrn t f).evtSeen = s.evtSeen := rfl
@[simp] theorem State.modTrn_evtMsg (s : State) (t : Nat) (f : TrnSt → TrnSt) : (s.modTrn t f).evtMsg = s.evtMsg := rfl
@[simp] theorem State.modTrn_out (s : State) (t : Nat) (f : TrnSt → TrnSt) : (s.modTrn t f).out = s.out := rfl
@[simp] theorem State.modTrn_fresh (s : State) (t : Nat) (f : TrnSt → TrnSt) : (s.modTrn t f).fresh = s.fresh := rfl
@[simp] theorem State.modTrn_pending (s : State) (t : Nat) (f : TrnSt → TrnSt) : (s.modTrn t f).pending = s.pending := rfl

/-! ### modHbm -/

@[simp] theorem State.modHbm_cad (s : State) (i : Nat) (f : Hbm → Hbm) : (s.modHbm i f).cad = s.cad := rfl
@[simp] theorem State.modHbm_plls (s : State) (i : Nat) (f : Hbm → Hbm) : (s.modHbm i f).plls = s.plls := rfl
@[simp] theorem State.modHbm_gear (s : State) (i : Nat) (f : Hbm → Hbm) : (s.modHbm i f).gear = s.gear := rfl
@[simp] theorem State.modHbm_pwr (s : State) (i : Nat) (f : Hbm → Hbm) : (s.modHbm i f).pwr = s.pwr := rfl
@[simp] theorem State.modHbm_ramps (s : State) (i : Nat) (f : Hbm → Hbm) : (s.modHbm i f).ramps = s.ramps := rfl
@[simp] theorem State.modHbm_rests (s : State) (i : Nat) (f : Hbm → Hbm) : (s.modHbm i f).rests = s.rests := rfl
@[simp] theorem State.modHbm_thm (s : State) (i : Nat) (f : Hbm → Hbm) : (s.modHbm i f).thm = s.thm := rfl
@[simp] theorem State.modHbm_acc (s : State) (i : Nat) (f : Hbm → Hbm) : (s.modHbm i f).acc = s.acc := rfl
@[simp] theorem State.modHbm_hold (s : State) (i : Nat) (f : Hbm → Hbm) : (s.modHbm i f).hold = s.hold := rfl
@[simp] theorem State.modHbm_boot (s : State) (i : Nat) (f : Hbm → Hbm) : (s.modHbm i f).boot = s.boot := rfl
@[simp] theorem State.modHbm_frc (s : State) (i : Nat) (f : Hbm → Hbm) : (s.modHbm i f).frc = s.frc := rfl
@[simp] theorem State.modHbm_steward (s : State) (i : Nat) (f : Hbm → Hbm) : (s.modHbm i f).steward = s.steward := rfl
@[simp] theorem State.modHbm_ports (s : State) (i : Nat) (f : Hbm → Hbm) : (s.modHbm i f).ports = s.ports := rfl
@[simp] theorem State.modHbm_sgrpSel (s : State) (i : Nat) (f : Hbm → Hbm) : (s.modHbm i f).sgrpSel = s.sgrpSel := rfl
@[simp] theorem State.modHbm_strobes (s : State) (i : Nat) (f : Hbm → Hbm) : (s.modHbm i f).strobes = s.strobes := rfl
@[simp] theorem State.modHbm_rings (s : State) (i : Nat) (f : Hbm → Hbm) : (s.modHbm i f).rings = s.rings := rfl
@[simp] theorem State.modHbm_allots (s : State) (i : Nat) (f : Hbm → Hbm) : (s.modHbm i f).allots = s.allots := rfl
@[simp] theorem State.modHbm_images (s : State) (i : Nat) (f : Hbm → Hbm) : (s.modHbm i f).images = s.images := rfl
@[simp] theorem State.modHbm_nextImage (s : State) (i : Nat) (f : Hbm → Hbm) : (s.modHbm i f).nextImage = s.nextImage := rfl
@[simp] theorem State.modHbm_load (s : State) (i : Nat) (f : Hbm → Hbm) : (s.modHbm i f).load = s.load := rfl
@[simp] theorem State.modHbm_dying (s : State) (i : Nat) (f : Hbm → Hbm) : (s.modHbm i f).dying = s.dying := rfl
@[simp] theorem State.modHbm_zeroing (s : State) (i : Nat) (f : Hbm → Hbm) : (s.modHbm i f).zeroing = s.zeroing := rfl
@[simp] theorem State.modHbm_bankWrites (s : State) (i : Nat) (f : Hbm → Hbm) : (s.modHbm i f).bankWrites = s.bankWrites := rfl
@[simp] theorem State.modHbm_bridges (s : State) (i : Nat) (f : Hbm → Hbm) : (s.modHbm i f).bridges = s.bridges := rfl
@[simp] theorem State.modHbm_arrays (s : State) (i : Nat) (f : Hbm → Hbm) : (s.modHbm i f).arrays = s.arrays := rfl
@[simp] theorem State.modHbm_movers (s : State) (i : Nat) (f : Hbm → Hbm) : (s.modHbm i f).movers = s.movers := rfl
@[simp] theorem State.modHbm_trns (s : State) (i : Nat) (f : Hbm → Hbm) : (s.modHbm i f).trns = s.trns := rfl
@[simp] theorem State.modHbm_chunkCrcs (s : State) (i : Nat) (f : Hbm → Hbm) : (s.modHbm i f).chunkCrcs = s.chunkCrcs := rfl
@[simp] theorem State.modHbm_ddrs (s : State) (i : Nat) (f : Hbm → Hbm) : (s.modHbm i f).ddrs = s.ddrs := rfl
@[simp] theorem State.modHbm_capGib (s : State) (i : Nat) (f : Hbm → Hbm) : (s.modHbm i f).capGib = s.capGib := rfl
@[simp] theorem State.modHbm_self (s : State) (i : Nat) (f : Hbm → Hbm) : (s.modHbm i f).self = s.self := rfl
@[simp] theorem State.modHbm_spokes (s : State) (i : Nat) (f : Hbm → Hbm) : (s.modHbm i f).spokes = s.spokes := rfl
@[simp] theorem State.modHbm_ownMarks (s : State) (i : Nat) (f : Hbm → Hbm) : (s.modHbm i f).ownMarks = s.ownMarks := rfl
@[simp] theorem State.modHbm_stations (s : State) (i : Nat) (f : Hbm → Hbm) : (s.modHbm i f).stations = s.stations := rfl
@[simp] theorem State.modHbm_ringAt (s : State) (i : Nat) (f : Hbm → Hbm) : (s.modHbm i f).ringAt = s.ringAt := rfl
@[simp] theorem State.modHbm_rte (s : State) (i : Nat) (f : Hbm → Hbm) : (s.modHbm i f).rte = s.rte := rfl
@[simp] theorem State.modHbm_lodge (s : State) (i : Nat) (f : Hbm → Hbm) : (s.modHbm i f).lodge = s.lodge := rfl
@[simp] theorem State.modHbm_mgmt (s : State) (i : Nat) (f : Hbm → Hbm) : (s.modHbm i f).mgmt = s.mgmt := rfl
@[simp] theorem State.modHbm_flash (s : State) (i : Nat) (f : Hbm → Hbm) : (s.modHbm i f).flash = s.flash := rfl
@[simp] theorem State.modHbm_upd (s : State) (i : Nat) (f : Hbm → Hbm) : (s.modHbm i f).upd = s.upd := rfl
@[simp] theorem State.modHbm_mem (s : State) (i : Nat) (f : Hbm → Hbm) : (s.modHbm i f).mem = s.mem := rfl
@[simp] theorem State.modHbm_scr (s : State) (i : Nat) (f : Hbm → Hbm) : (s.modHbm i f).scr = s.scr := rfl
@[simp] theorem State.modHbm_wslots (s : State) (i : Nat) (f : Hbm → Hbm) : (s.modHbm i f).wslots = s.wslots := rfl
@[simp] theorem State.modHbm_stage (s : State) (i : Nat) (f : Hbm → Hbm) : (s.modHbm i f).stage = s.stage := rfl
@[simp] theorem State.modHbm_upset (s : State) (i : Nat) (f : Hbm → Hbm) : (s.modHbm i f).upset = s.upset := rfl
@[simp] theorem State.modHbm_live (s : State) (i : Nat) (f : Hbm → Hbm) : (s.modHbm i f).live = s.live := rfl
@[simp] theorem State.modHbm_latched (s : State) (i : Nat) (f : Hbm → Hbm) : (s.modHbm i f).latched = s.latched := rfl
@[simp] theorem State.modHbm_evtSeen (s : State) (i : Nat) (f : Hbm → Hbm) : (s.modHbm i f).evtSeen = s.evtSeen := rfl
@[simp] theorem State.modHbm_evtMsg (s : State) (i : Nat) (f : Hbm → Hbm) : (s.modHbm i f).evtMsg = s.evtMsg := rfl
@[simp] theorem State.modHbm_out (s : State) (i : Nat) (f : Hbm → Hbm) : (s.modHbm i f).out = s.out := rfl
@[simp] theorem State.modHbm_fresh (s : State) (i : Nat) (f : Hbm → Hbm) : (s.modHbm i f).fresh = s.fresh := rfl
@[simp] theorem State.modHbm_pending (s : State) (i : Nat) (f : Hbm → Hbm) : (s.modHbm i f).pending = s.pending := rfl

/-! ### modDdr -/

@[simp] theorem State.modDdr_cad (s : State) (i : Nat) (f : Ddr → Ddr) : (s.modDdr i f).cad = s.cad := rfl
@[simp] theorem State.modDdr_plls (s : State) (i : Nat) (f : Ddr → Ddr) : (s.modDdr i f).plls = s.plls := rfl
@[simp] theorem State.modDdr_gear (s : State) (i : Nat) (f : Ddr → Ddr) : (s.modDdr i f).gear = s.gear := rfl
@[simp] theorem State.modDdr_pwr (s : State) (i : Nat) (f : Ddr → Ddr) : (s.modDdr i f).pwr = s.pwr := rfl
@[simp] theorem State.modDdr_ramps (s : State) (i : Nat) (f : Ddr → Ddr) : (s.modDdr i f).ramps = s.ramps := rfl
@[simp] theorem State.modDdr_rests (s : State) (i : Nat) (f : Ddr → Ddr) : (s.modDdr i f).rests = s.rests := rfl
@[simp] theorem State.modDdr_thm (s : State) (i : Nat) (f : Ddr → Ddr) : (s.modDdr i f).thm = s.thm := rfl
@[simp] theorem State.modDdr_acc (s : State) (i : Nat) (f : Ddr → Ddr) : (s.modDdr i f).acc = s.acc := rfl
@[simp] theorem State.modDdr_hold (s : State) (i : Nat) (f : Ddr → Ddr) : (s.modDdr i f).hold = s.hold := rfl
@[simp] theorem State.modDdr_boot (s : State) (i : Nat) (f : Ddr → Ddr) : (s.modDdr i f).boot = s.boot := rfl
@[simp] theorem State.modDdr_frc (s : State) (i : Nat) (f : Ddr → Ddr) : (s.modDdr i f).frc = s.frc := rfl
@[simp] theorem State.modDdr_steward (s : State) (i : Nat) (f : Ddr → Ddr) : (s.modDdr i f).steward = s.steward := rfl
@[simp] theorem State.modDdr_ports (s : State) (i : Nat) (f : Ddr → Ddr) : (s.modDdr i f).ports = s.ports := rfl
@[simp] theorem State.modDdr_sgrpSel (s : State) (i : Nat) (f : Ddr → Ddr) : (s.modDdr i f).sgrpSel = s.sgrpSel := rfl
@[simp] theorem State.modDdr_strobes (s : State) (i : Nat) (f : Ddr → Ddr) : (s.modDdr i f).strobes = s.strobes := rfl
@[simp] theorem State.modDdr_rings (s : State) (i : Nat) (f : Ddr → Ddr) : (s.modDdr i f).rings = s.rings := rfl
@[simp] theorem State.modDdr_allots (s : State) (i : Nat) (f : Ddr → Ddr) : (s.modDdr i f).allots = s.allots := rfl
@[simp] theorem State.modDdr_images (s : State) (i : Nat) (f : Ddr → Ddr) : (s.modDdr i f).images = s.images := rfl
@[simp] theorem State.modDdr_nextImage (s : State) (i : Nat) (f : Ddr → Ddr) : (s.modDdr i f).nextImage = s.nextImage := rfl
@[simp] theorem State.modDdr_load (s : State) (i : Nat) (f : Ddr → Ddr) : (s.modDdr i f).load = s.load := rfl
@[simp] theorem State.modDdr_dying (s : State) (i : Nat) (f : Ddr → Ddr) : (s.modDdr i f).dying = s.dying := rfl
@[simp] theorem State.modDdr_zeroing (s : State) (i : Nat) (f : Ddr → Ddr) : (s.modDdr i f).zeroing = s.zeroing := rfl
@[simp] theorem State.modDdr_bankWrites (s : State) (i : Nat) (f : Ddr → Ddr) : (s.modDdr i f).bankWrites = s.bankWrites := rfl
@[simp] theorem State.modDdr_bridges (s : State) (i : Nat) (f : Ddr → Ddr) : (s.modDdr i f).bridges = s.bridges := rfl
@[simp] theorem State.modDdr_arrays (s : State) (i : Nat) (f : Ddr → Ddr) : (s.modDdr i f).arrays = s.arrays := rfl
@[simp] theorem State.modDdr_movers (s : State) (i : Nat) (f : Ddr → Ddr) : (s.modDdr i f).movers = s.movers := rfl
@[simp] theorem State.modDdr_trns (s : State) (i : Nat) (f : Ddr → Ddr) : (s.modDdr i f).trns = s.trns := rfl
@[simp] theorem State.modDdr_chunkCrcs (s : State) (i : Nat) (f : Ddr → Ddr) : (s.modDdr i f).chunkCrcs = s.chunkCrcs := rfl
@[simp] theorem State.modDdr_hbms (s : State) (i : Nat) (f : Ddr → Ddr) : (s.modDdr i f).hbms = s.hbms := rfl
@[simp] theorem State.modDdr_capGib (s : State) (i : Nat) (f : Ddr → Ddr) : (s.modDdr i f).capGib = s.capGib := rfl
@[simp] theorem State.modDdr_self (s : State) (i : Nat) (f : Ddr → Ddr) : (s.modDdr i f).self = s.self := rfl
@[simp] theorem State.modDdr_spokes (s : State) (i : Nat) (f : Ddr → Ddr) : (s.modDdr i f).spokes = s.spokes := rfl
@[simp] theorem State.modDdr_ownMarks (s : State) (i : Nat) (f : Ddr → Ddr) : (s.modDdr i f).ownMarks = s.ownMarks := rfl
@[simp] theorem State.modDdr_stations (s : State) (i : Nat) (f : Ddr → Ddr) : (s.modDdr i f).stations = s.stations := rfl
@[simp] theorem State.modDdr_ringAt (s : State) (i : Nat) (f : Ddr → Ddr) : (s.modDdr i f).ringAt = s.ringAt := rfl
@[simp] theorem State.modDdr_rte (s : State) (i : Nat) (f : Ddr → Ddr) : (s.modDdr i f).rte = s.rte := rfl
@[simp] theorem State.modDdr_lodge (s : State) (i : Nat) (f : Ddr → Ddr) : (s.modDdr i f).lodge = s.lodge := rfl
@[simp] theorem State.modDdr_mgmt (s : State) (i : Nat) (f : Ddr → Ddr) : (s.modDdr i f).mgmt = s.mgmt := rfl
@[simp] theorem State.modDdr_flash (s : State) (i : Nat) (f : Ddr → Ddr) : (s.modDdr i f).flash = s.flash := rfl
@[simp] theorem State.modDdr_upd (s : State) (i : Nat) (f : Ddr → Ddr) : (s.modDdr i f).upd = s.upd := rfl
@[simp] theorem State.modDdr_mem (s : State) (i : Nat) (f : Ddr → Ddr) : (s.modDdr i f).mem = s.mem := rfl
@[simp] theorem State.modDdr_scr (s : State) (i : Nat) (f : Ddr → Ddr) : (s.modDdr i f).scr = s.scr := rfl
@[simp] theorem State.modDdr_wslots (s : State) (i : Nat) (f : Ddr → Ddr) : (s.modDdr i f).wslots = s.wslots := rfl
@[simp] theorem State.modDdr_stage (s : State) (i : Nat) (f : Ddr → Ddr) : (s.modDdr i f).stage = s.stage := rfl
@[simp] theorem State.modDdr_upset (s : State) (i : Nat) (f : Ddr → Ddr) : (s.modDdr i f).upset = s.upset := rfl
@[simp] theorem State.modDdr_live (s : State) (i : Nat) (f : Ddr → Ddr) : (s.modDdr i f).live = s.live := rfl
@[simp] theorem State.modDdr_latched (s : State) (i : Nat) (f : Ddr → Ddr) : (s.modDdr i f).latched = s.latched := rfl
@[simp] theorem State.modDdr_evtSeen (s : State) (i : Nat) (f : Ddr → Ddr) : (s.modDdr i f).evtSeen = s.evtSeen := rfl
@[simp] theorem State.modDdr_evtMsg (s : State) (i : Nat) (f : Ddr → Ddr) : (s.modDdr i f).evtMsg = s.evtMsg := rfl
@[simp] theorem State.modDdr_out (s : State) (i : Nat) (f : Ddr → Ddr) : (s.modDdr i f).out = s.out := rfl
@[simp] theorem State.modDdr_fresh (s : State) (i : Nat) (f : Ddr → Ddr) : (s.modDdr i f).fresh = s.fresh := rfl
@[simp] theorem State.modDdr_pending (s : State) (i : Nat) (f : Ddr → Ddr) : (s.modDdr i f).pending = s.pending := rfl

/-! ### modSpk -/

@[simp] theorem State.modSpk_cad (s : State) (k : Nat) (f : SpokeSt → SpokeSt) : (s.modSpk k f).cad = s.cad := rfl
@[simp] theorem State.modSpk_plls (s : State) (k : Nat) (f : SpokeSt → SpokeSt) : (s.modSpk k f).plls = s.plls := rfl
@[simp] theorem State.modSpk_gear (s : State) (k : Nat) (f : SpokeSt → SpokeSt) : (s.modSpk k f).gear = s.gear := rfl
@[simp] theorem State.modSpk_pwr (s : State) (k : Nat) (f : SpokeSt → SpokeSt) : (s.modSpk k f).pwr = s.pwr := rfl
@[simp] theorem State.modSpk_ramps (s : State) (k : Nat) (f : SpokeSt → SpokeSt) : (s.modSpk k f).ramps = s.ramps := rfl
@[simp] theorem State.modSpk_rests (s : State) (k : Nat) (f : SpokeSt → SpokeSt) : (s.modSpk k f).rests = s.rests := rfl
@[simp] theorem State.modSpk_thm (s : State) (k : Nat) (f : SpokeSt → SpokeSt) : (s.modSpk k f).thm = s.thm := rfl
@[simp] theorem State.modSpk_acc (s : State) (k : Nat) (f : SpokeSt → SpokeSt) : (s.modSpk k f).acc = s.acc := rfl
@[simp] theorem State.modSpk_hold (s : State) (k : Nat) (f : SpokeSt → SpokeSt) : (s.modSpk k f).hold = s.hold := rfl
@[simp] theorem State.modSpk_boot (s : State) (k : Nat) (f : SpokeSt → SpokeSt) : (s.modSpk k f).boot = s.boot := rfl
@[simp] theorem State.modSpk_frc (s : State) (k : Nat) (f : SpokeSt → SpokeSt) : (s.modSpk k f).frc = s.frc := rfl
@[simp] theorem State.modSpk_steward (s : State) (k : Nat) (f : SpokeSt → SpokeSt) : (s.modSpk k f).steward = s.steward := rfl
@[simp] theorem State.modSpk_ports (s : State) (k : Nat) (f : SpokeSt → SpokeSt) : (s.modSpk k f).ports = s.ports := rfl
@[simp] theorem State.modSpk_sgrpSel (s : State) (k : Nat) (f : SpokeSt → SpokeSt) : (s.modSpk k f).sgrpSel = s.sgrpSel := rfl
@[simp] theorem State.modSpk_strobes (s : State) (k : Nat) (f : SpokeSt → SpokeSt) : (s.modSpk k f).strobes = s.strobes := rfl
@[simp] theorem State.modSpk_rings (s : State) (k : Nat) (f : SpokeSt → SpokeSt) : (s.modSpk k f).rings = s.rings := rfl
@[simp] theorem State.modSpk_allots (s : State) (k : Nat) (f : SpokeSt → SpokeSt) : (s.modSpk k f).allots = s.allots := rfl
@[simp] theorem State.modSpk_images (s : State) (k : Nat) (f : SpokeSt → SpokeSt) : (s.modSpk k f).images = s.images := rfl
@[simp] theorem State.modSpk_nextImage (s : State) (k : Nat) (f : SpokeSt → SpokeSt) : (s.modSpk k f).nextImage = s.nextImage := rfl
@[simp] theorem State.modSpk_load (s : State) (k : Nat) (f : SpokeSt → SpokeSt) : (s.modSpk k f).load = s.load := rfl
@[simp] theorem State.modSpk_dying (s : State) (k : Nat) (f : SpokeSt → SpokeSt) : (s.modSpk k f).dying = s.dying := rfl
@[simp] theorem State.modSpk_zeroing (s : State) (k : Nat) (f : SpokeSt → SpokeSt) : (s.modSpk k f).zeroing = s.zeroing := rfl
@[simp] theorem State.modSpk_bankWrites (s : State) (k : Nat) (f : SpokeSt → SpokeSt) : (s.modSpk k f).bankWrites = s.bankWrites := rfl
@[simp] theorem State.modSpk_bridges (s : State) (k : Nat) (f : SpokeSt → SpokeSt) : (s.modSpk k f).bridges = s.bridges := rfl
@[simp] theorem State.modSpk_arrays (s : State) (k : Nat) (f : SpokeSt → SpokeSt) : (s.modSpk k f).arrays = s.arrays := rfl
@[simp] theorem State.modSpk_movers (s : State) (k : Nat) (f : SpokeSt → SpokeSt) : (s.modSpk k f).movers = s.movers := rfl
@[simp] theorem State.modSpk_trns (s : State) (k : Nat) (f : SpokeSt → SpokeSt) : (s.modSpk k f).trns = s.trns := rfl
@[simp] theorem State.modSpk_chunkCrcs (s : State) (k : Nat) (f : SpokeSt → SpokeSt) : (s.modSpk k f).chunkCrcs = s.chunkCrcs := rfl
@[simp] theorem State.modSpk_hbms (s : State) (k : Nat) (f : SpokeSt → SpokeSt) : (s.modSpk k f).hbms = s.hbms := rfl
@[simp] theorem State.modSpk_ddrs (s : State) (k : Nat) (f : SpokeSt → SpokeSt) : (s.modSpk k f).ddrs = s.ddrs := rfl
@[simp] theorem State.modSpk_capGib (s : State) (k : Nat) (f : SpokeSt → SpokeSt) : (s.modSpk k f).capGib = s.capGib := rfl
@[simp] theorem State.modSpk_self (s : State) (k : Nat) (f : SpokeSt → SpokeSt) : (s.modSpk k f).self = s.self := rfl
@[simp] theorem State.modSpk_ownMarks (s : State) (k : Nat) (f : SpokeSt → SpokeSt) : (s.modSpk k f).ownMarks = s.ownMarks := rfl
@[simp] theorem State.modSpk_stations (s : State) (k : Nat) (f : SpokeSt → SpokeSt) : (s.modSpk k f).stations = s.stations := rfl
@[simp] theorem State.modSpk_ringAt (s : State) (k : Nat) (f : SpokeSt → SpokeSt) : (s.modSpk k f).ringAt = s.ringAt := rfl
@[simp] theorem State.modSpk_rte (s : State) (k : Nat) (f : SpokeSt → SpokeSt) : (s.modSpk k f).rte = s.rte := rfl
@[simp] theorem State.modSpk_lodge (s : State) (k : Nat) (f : SpokeSt → SpokeSt) : (s.modSpk k f).lodge = s.lodge := rfl
@[simp] theorem State.modSpk_mgmt (s : State) (k : Nat) (f : SpokeSt → SpokeSt) : (s.modSpk k f).mgmt = s.mgmt := rfl
@[simp] theorem State.modSpk_flash (s : State) (k : Nat) (f : SpokeSt → SpokeSt) : (s.modSpk k f).flash = s.flash := rfl
@[simp] theorem State.modSpk_upd (s : State) (k : Nat) (f : SpokeSt → SpokeSt) : (s.modSpk k f).upd = s.upd := rfl
@[simp] theorem State.modSpk_mem (s : State) (k : Nat) (f : SpokeSt → SpokeSt) : (s.modSpk k f).mem = s.mem := rfl
@[simp] theorem State.modSpk_scr (s : State) (k : Nat) (f : SpokeSt → SpokeSt) : (s.modSpk k f).scr = s.scr := rfl
@[simp] theorem State.modSpk_wslots (s : State) (k : Nat) (f : SpokeSt → SpokeSt) : (s.modSpk k f).wslots = s.wslots := rfl
@[simp] theorem State.modSpk_stage (s : State) (k : Nat) (f : SpokeSt → SpokeSt) : (s.modSpk k f).stage = s.stage := rfl
@[simp] theorem State.modSpk_upset (s : State) (k : Nat) (f : SpokeSt → SpokeSt) : (s.modSpk k f).upset = s.upset := rfl
@[simp] theorem State.modSpk_live (s : State) (k : Nat) (f : SpokeSt → SpokeSt) : (s.modSpk k f).live = s.live := rfl
@[simp] theorem State.modSpk_latched (s : State) (k : Nat) (f : SpokeSt → SpokeSt) : (s.modSpk k f).latched = s.latched := rfl
@[simp] theorem State.modSpk_evtSeen (s : State) (k : Nat) (f : SpokeSt → SpokeSt) : (s.modSpk k f).evtSeen = s.evtSeen := rfl
@[simp] theorem State.modSpk_evtMsg (s : State) (k : Nat) (f : SpokeSt → SpokeSt) : (s.modSpk k f).evtMsg = s.evtMsg := rfl
@[simp] theorem State.modSpk_out (s : State) (k : Nat) (f : SpokeSt → SpokeSt) : (s.modSpk k f).out = s.out := rfl
@[simp] theorem State.modSpk_fresh (s : State) (k : Nat) (f : SpokeSt → SpokeSt) : (s.modSpk k f).fresh = s.fresh := rfl
@[simp] theorem State.modSpk_pending (s : State) (k : Nat) (f : SpokeSt → SpokeSt) : (s.modSpk k f).pending = s.pending := rfl

/-! ### modStation -/

@[simp] theorem State.modStation_cad (s : State) (i : Nat) (f : Station → Station) : (s.modStation i f).cad = s.cad := rfl
@[simp] theorem State.modStation_plls (s : State) (i : Nat) (f : Station → Station) : (s.modStation i f).plls = s.plls := rfl
@[simp] theorem State.modStation_gear (s : State) (i : Nat) (f : Station → Station) : (s.modStation i f).gear = s.gear := rfl
@[simp] theorem State.modStation_pwr (s : State) (i : Nat) (f : Station → Station) : (s.modStation i f).pwr = s.pwr := rfl
@[simp] theorem State.modStation_ramps (s : State) (i : Nat) (f : Station → Station) : (s.modStation i f).ramps = s.ramps := rfl
@[simp] theorem State.modStation_rests (s : State) (i : Nat) (f : Station → Station) : (s.modStation i f).rests = s.rests := rfl
@[simp] theorem State.modStation_thm (s : State) (i : Nat) (f : Station → Station) : (s.modStation i f).thm = s.thm := rfl
@[simp] theorem State.modStation_acc (s : State) (i : Nat) (f : Station → Station) : (s.modStation i f).acc = s.acc := rfl
@[simp] theorem State.modStation_hold (s : State) (i : Nat) (f : Station → Station) : (s.modStation i f).hold = s.hold := rfl
@[simp] theorem State.modStation_boot (s : State) (i : Nat) (f : Station → Station) : (s.modStation i f).boot = s.boot := rfl
@[simp] theorem State.modStation_frc (s : State) (i : Nat) (f : Station → Station) : (s.modStation i f).frc = s.frc := rfl
@[simp] theorem State.modStation_steward (s : State) (i : Nat) (f : Station → Station) : (s.modStation i f).steward = s.steward := rfl
@[simp] theorem State.modStation_ports (s : State) (i : Nat) (f : Station → Station) : (s.modStation i f).ports = s.ports := rfl
@[simp] theorem State.modStation_sgrpSel (s : State) (i : Nat) (f : Station → Station) : (s.modStation i f).sgrpSel = s.sgrpSel := rfl
@[simp] theorem State.modStation_strobes (s : State) (i : Nat) (f : Station → Station) : (s.modStation i f).strobes = s.strobes := rfl
@[simp] theorem State.modStation_rings (s : State) (i : Nat) (f : Station → Station) : (s.modStation i f).rings = s.rings := rfl
@[simp] theorem State.modStation_allots (s : State) (i : Nat) (f : Station → Station) : (s.modStation i f).allots = s.allots := rfl
@[simp] theorem State.modStation_images (s : State) (i : Nat) (f : Station → Station) : (s.modStation i f).images = s.images := rfl
@[simp] theorem State.modStation_nextImage (s : State) (i : Nat) (f : Station → Station) : (s.modStation i f).nextImage = s.nextImage := rfl
@[simp] theorem State.modStation_load (s : State) (i : Nat) (f : Station → Station) : (s.modStation i f).load = s.load := rfl
@[simp] theorem State.modStation_dying (s : State) (i : Nat) (f : Station → Station) : (s.modStation i f).dying = s.dying := rfl
@[simp] theorem State.modStation_zeroing (s : State) (i : Nat) (f : Station → Station) : (s.modStation i f).zeroing = s.zeroing := rfl
@[simp] theorem State.modStation_bankWrites (s : State) (i : Nat) (f : Station → Station) : (s.modStation i f).bankWrites = s.bankWrites := rfl
@[simp] theorem State.modStation_bridges (s : State) (i : Nat) (f : Station → Station) : (s.modStation i f).bridges = s.bridges := rfl
@[simp] theorem State.modStation_arrays (s : State) (i : Nat) (f : Station → Station) : (s.modStation i f).arrays = s.arrays := rfl
@[simp] theorem State.modStation_movers (s : State) (i : Nat) (f : Station → Station) : (s.modStation i f).movers = s.movers := rfl
@[simp] theorem State.modStation_trns (s : State) (i : Nat) (f : Station → Station) : (s.modStation i f).trns = s.trns := rfl
@[simp] theorem State.modStation_chunkCrcs (s : State) (i : Nat) (f : Station → Station) : (s.modStation i f).chunkCrcs = s.chunkCrcs := rfl
@[simp] theorem State.modStation_hbms (s : State) (i : Nat) (f : Station → Station) : (s.modStation i f).hbms = s.hbms := rfl
@[simp] theorem State.modStation_ddrs (s : State) (i : Nat) (f : Station → Station) : (s.modStation i f).ddrs = s.ddrs := rfl
@[simp] theorem State.modStation_capGib (s : State) (i : Nat) (f : Station → Station) : (s.modStation i f).capGib = s.capGib := rfl
@[simp] theorem State.modStation_self (s : State) (i : Nat) (f : Station → Station) : (s.modStation i f).self = s.self := rfl
@[simp] theorem State.modStation_spokes (s : State) (i : Nat) (f : Station → Station) : (s.modStation i f).spokes = s.spokes := rfl
@[simp] theorem State.modStation_ownMarks (s : State) (i : Nat) (f : Station → Station) : (s.modStation i f).ownMarks = s.ownMarks := rfl
@[simp] theorem State.modStation_ringAt (s : State) (i : Nat) (f : Station → Station) : (s.modStation i f).ringAt = s.ringAt := rfl
@[simp] theorem State.modStation_rte (s : State) (i : Nat) (f : Station → Station) : (s.modStation i f).rte = s.rte := rfl
@[simp] theorem State.modStation_lodge (s : State) (i : Nat) (f : Station → Station) : (s.modStation i f).lodge = s.lodge := rfl
@[simp] theorem State.modStation_mgmt (s : State) (i : Nat) (f : Station → Station) : (s.modStation i f).mgmt = s.mgmt := rfl
@[simp] theorem State.modStation_flash (s : State) (i : Nat) (f : Station → Station) : (s.modStation i f).flash = s.flash := rfl
@[simp] theorem State.modStation_upd (s : State) (i : Nat) (f : Station → Station) : (s.modStation i f).upd = s.upd := rfl
@[simp] theorem State.modStation_mem (s : State) (i : Nat) (f : Station → Station) : (s.modStation i f).mem = s.mem := rfl
@[simp] theorem State.modStation_scr (s : State) (i : Nat) (f : Station → Station) : (s.modStation i f).scr = s.scr := rfl
@[simp] theorem State.modStation_wslots (s : State) (i : Nat) (f : Station → Station) : (s.modStation i f).wslots = s.wslots := rfl
@[simp] theorem State.modStation_stage (s : State) (i : Nat) (f : Station → Station) : (s.modStation i f).stage = s.stage := rfl
@[simp] theorem State.modStation_upset (s : State) (i : Nat) (f : Station → Station) : (s.modStation i f).upset = s.upset := rfl
@[simp] theorem State.modStation_live (s : State) (i : Nat) (f : Station → Station) : (s.modStation i f).live = s.live := rfl
@[simp] theorem State.modStation_latched (s : State) (i : Nat) (f : Station → Station) : (s.modStation i f).latched = s.latched := rfl
@[simp] theorem State.modStation_evtSeen (s : State) (i : Nat) (f : Station → Station) : (s.modStation i f).evtSeen = s.evtSeen := rfl
@[simp] theorem State.modStation_evtMsg (s : State) (i : Nat) (f : Station → Station) : (s.modStation i f).evtMsg = s.evtMsg := rfl
@[simp] theorem State.modStation_out (s : State) (i : Nat) (f : Station → Station) : (s.modStation i f).out = s.out := rfl
@[simp] theorem State.modStation_fresh (s : State) (i : Nat) (f : Station → Station) : (s.modStation i f).fresh = s.fresh := rfl
@[simp] theorem State.modStation_pending (s : State) (i : Nat) (f : Station → Station) : (s.modStation i f).pending = s.pending := rfl

/-! ### modStrobe -/

@[simp] theorem State.modStrobe_cad (s : State) (g : Nat) (f : Strobe → Strobe) : (s.modStrobe g f).cad = s.cad := rfl
@[simp] theorem State.modStrobe_plls (s : State) (g : Nat) (f : Strobe → Strobe) : (s.modStrobe g f).plls = s.plls := rfl
@[simp] theorem State.modStrobe_gear (s : State) (g : Nat) (f : Strobe → Strobe) : (s.modStrobe g f).gear = s.gear := rfl
@[simp] theorem State.modStrobe_pwr (s : State) (g : Nat) (f : Strobe → Strobe) : (s.modStrobe g f).pwr = s.pwr := rfl
@[simp] theorem State.modStrobe_ramps (s : State) (g : Nat) (f : Strobe → Strobe) : (s.modStrobe g f).ramps = s.ramps := rfl
@[simp] theorem State.modStrobe_rests (s : State) (g : Nat) (f : Strobe → Strobe) : (s.modStrobe g f).rests = s.rests := rfl
@[simp] theorem State.modStrobe_thm (s : State) (g : Nat) (f : Strobe → Strobe) : (s.modStrobe g f).thm = s.thm := rfl
@[simp] theorem State.modStrobe_acc (s : State) (g : Nat) (f : Strobe → Strobe) : (s.modStrobe g f).acc = s.acc := rfl
@[simp] theorem State.modStrobe_hold (s : State) (g : Nat) (f : Strobe → Strobe) : (s.modStrobe g f).hold = s.hold := rfl
@[simp] theorem State.modStrobe_boot (s : State) (g : Nat) (f : Strobe → Strobe) : (s.modStrobe g f).boot = s.boot := rfl
@[simp] theorem State.modStrobe_frc (s : State) (g : Nat) (f : Strobe → Strobe) : (s.modStrobe g f).frc = s.frc := rfl
@[simp] theorem State.modStrobe_steward (s : State) (g : Nat) (f : Strobe → Strobe) : (s.modStrobe g f).steward = s.steward := rfl
@[simp] theorem State.modStrobe_ports (s : State) (g : Nat) (f : Strobe → Strobe) : (s.modStrobe g f).ports = s.ports := rfl
@[simp] theorem State.modStrobe_sgrpSel (s : State) (g : Nat) (f : Strobe → Strobe) : (s.modStrobe g f).sgrpSel = s.sgrpSel := rfl
@[simp] theorem State.modStrobe_rings (s : State) (g : Nat) (f : Strobe → Strobe) : (s.modStrobe g f).rings = s.rings := rfl
@[simp] theorem State.modStrobe_allots (s : State) (g : Nat) (f : Strobe → Strobe) : (s.modStrobe g f).allots = s.allots := rfl
@[simp] theorem State.modStrobe_images (s : State) (g : Nat) (f : Strobe → Strobe) : (s.modStrobe g f).images = s.images := rfl
@[simp] theorem State.modStrobe_nextImage (s : State) (g : Nat) (f : Strobe → Strobe) : (s.modStrobe g f).nextImage = s.nextImage := rfl
@[simp] theorem State.modStrobe_load (s : State) (g : Nat) (f : Strobe → Strobe) : (s.modStrobe g f).load = s.load := rfl
@[simp] theorem State.modStrobe_dying (s : State) (g : Nat) (f : Strobe → Strobe) : (s.modStrobe g f).dying = s.dying := rfl
@[simp] theorem State.modStrobe_zeroing (s : State) (g : Nat) (f : Strobe → Strobe) : (s.modStrobe g f).zeroing = s.zeroing := rfl
@[simp] theorem State.modStrobe_bankWrites (s : State) (g : Nat) (f : Strobe → Strobe) : (s.modStrobe g f).bankWrites = s.bankWrites := rfl
@[simp] theorem State.modStrobe_bridges (s : State) (g : Nat) (f : Strobe → Strobe) : (s.modStrobe g f).bridges = s.bridges := rfl
@[simp] theorem State.modStrobe_arrays (s : State) (g : Nat) (f : Strobe → Strobe) : (s.modStrobe g f).arrays = s.arrays := rfl
@[simp] theorem State.modStrobe_movers (s : State) (g : Nat) (f : Strobe → Strobe) : (s.modStrobe g f).movers = s.movers := rfl
@[simp] theorem State.modStrobe_trns (s : State) (g : Nat) (f : Strobe → Strobe) : (s.modStrobe g f).trns = s.trns := rfl
@[simp] theorem State.modStrobe_chunkCrcs (s : State) (g : Nat) (f : Strobe → Strobe) : (s.modStrobe g f).chunkCrcs = s.chunkCrcs := rfl
@[simp] theorem State.modStrobe_hbms (s : State) (g : Nat) (f : Strobe → Strobe) : (s.modStrobe g f).hbms = s.hbms := rfl
@[simp] theorem State.modStrobe_ddrs (s : State) (g : Nat) (f : Strobe → Strobe) : (s.modStrobe g f).ddrs = s.ddrs := rfl
@[simp] theorem State.modStrobe_capGib (s : State) (g : Nat) (f : Strobe → Strobe) : (s.modStrobe g f).capGib = s.capGib := rfl
@[simp] theorem State.modStrobe_self (s : State) (g : Nat) (f : Strobe → Strobe) : (s.modStrobe g f).self = s.self := rfl
@[simp] theorem State.modStrobe_spokes (s : State) (g : Nat) (f : Strobe → Strobe) : (s.modStrobe g f).spokes = s.spokes := rfl
@[simp] theorem State.modStrobe_ownMarks (s : State) (g : Nat) (f : Strobe → Strobe) : (s.modStrobe g f).ownMarks = s.ownMarks := rfl
@[simp] theorem State.modStrobe_stations (s : State) (g : Nat) (f : Strobe → Strobe) : (s.modStrobe g f).stations = s.stations := rfl
@[simp] theorem State.modStrobe_ringAt (s : State) (g : Nat) (f : Strobe → Strobe) : (s.modStrobe g f).ringAt = s.ringAt := rfl
@[simp] theorem State.modStrobe_rte (s : State) (g : Nat) (f : Strobe → Strobe) : (s.modStrobe g f).rte = s.rte := rfl
@[simp] theorem State.modStrobe_lodge (s : State) (g : Nat) (f : Strobe → Strobe) : (s.modStrobe g f).lodge = s.lodge := rfl
@[simp] theorem State.modStrobe_mgmt (s : State) (g : Nat) (f : Strobe → Strobe) : (s.modStrobe g f).mgmt = s.mgmt := rfl
@[simp] theorem State.modStrobe_flash (s : State) (g : Nat) (f : Strobe → Strobe) : (s.modStrobe g f).flash = s.flash := rfl
@[simp] theorem State.modStrobe_upd (s : State) (g : Nat) (f : Strobe → Strobe) : (s.modStrobe g f).upd = s.upd := rfl
@[simp] theorem State.modStrobe_mem (s : State) (g : Nat) (f : Strobe → Strobe) : (s.modStrobe g f).mem = s.mem := rfl
@[simp] theorem State.modStrobe_scr (s : State) (g : Nat) (f : Strobe → Strobe) : (s.modStrobe g f).scr = s.scr := rfl
@[simp] theorem State.modStrobe_wslots (s : State) (g : Nat) (f : Strobe → Strobe) : (s.modStrobe g f).wslots = s.wslots := rfl
@[simp] theorem State.modStrobe_stage (s : State) (g : Nat) (f : Strobe → Strobe) : (s.modStrobe g f).stage = s.stage := rfl
@[simp] theorem State.modStrobe_upset (s : State) (g : Nat) (f : Strobe → Strobe) : (s.modStrobe g f).upset = s.upset := rfl
@[simp] theorem State.modStrobe_live (s : State) (g : Nat) (f : Strobe → Strobe) : (s.modStrobe g f).live = s.live := rfl
@[simp] theorem State.modStrobe_latched (s : State) (g : Nat) (f : Strobe → Strobe) : (s.modStrobe g f).latched = s.latched := rfl
@[simp] theorem State.modStrobe_evtSeen (s : State) (g : Nat) (f : Strobe → Strobe) : (s.modStrobe g f).evtSeen = s.evtSeen := rfl
@[simp] theorem State.modStrobe_evtMsg (s : State) (g : Nat) (f : Strobe → Strobe) : (s.modStrobe g f).evtMsg = s.evtMsg := rfl
@[simp] theorem State.modStrobe_out (s : State) (g : Nat) (f : Strobe → Strobe) : (s.modStrobe g f).out = s.out := rfl
@[simp] theorem State.modStrobe_fresh (s : State) (g : Nat) (f : Strobe → Strobe) : (s.modStrobe g f).fresh = s.fresh := rfl
@[simp] theorem State.modStrobe_pending (s : State) (g : Nat) (f : Strobe → Strobe) : (s.modStrobe g f).pending = s.pending := rfl

/-! ### modPll -/

@[simp] theorem State.modPll_cad (s : State) (p : Nat) (f : Pll → Pll) : (s.modPll p f).cad = s.cad := rfl
@[simp] theorem State.modPll_gear (s : State) (p : Nat) (f : Pll → Pll) : (s.modPll p f).gear = s.gear := rfl
@[simp] theorem State.modPll_pwr (s : State) (p : Nat) (f : Pll → Pll) : (s.modPll p f).pwr = s.pwr := rfl
@[simp] theorem State.modPll_ramps (s : State) (p : Nat) (f : Pll → Pll) : (s.modPll p f).ramps = s.ramps := rfl
@[simp] theorem State.modPll_rests (s : State) (p : Nat) (f : Pll → Pll) : (s.modPll p f).rests = s.rests := rfl
@[simp] theorem State.modPll_thm (s : State) (p : Nat) (f : Pll → Pll) : (s.modPll p f).thm = s.thm := rfl
@[simp] theorem State.modPll_acc (s : State) (p : Nat) (f : Pll → Pll) : (s.modPll p f).acc = s.acc := rfl
@[simp] theorem State.modPll_hold (s : State) (p : Nat) (f : Pll → Pll) : (s.modPll p f).hold = s.hold := rfl
@[simp] theorem State.modPll_boot (s : State) (p : Nat) (f : Pll → Pll) : (s.modPll p f).boot = s.boot := rfl
@[simp] theorem State.modPll_frc (s : State) (p : Nat) (f : Pll → Pll) : (s.modPll p f).frc = s.frc := rfl
@[simp] theorem State.modPll_steward (s : State) (p : Nat) (f : Pll → Pll) : (s.modPll p f).steward = s.steward := rfl
@[simp] theorem State.modPll_ports (s : State) (p : Nat) (f : Pll → Pll) : (s.modPll p f).ports = s.ports := rfl
@[simp] theorem State.modPll_sgrpSel (s : State) (p : Nat) (f : Pll → Pll) : (s.modPll p f).sgrpSel = s.sgrpSel := rfl
@[simp] theorem State.modPll_strobes (s : State) (p : Nat) (f : Pll → Pll) : (s.modPll p f).strobes = s.strobes := rfl
@[simp] theorem State.modPll_rings (s : State) (p : Nat) (f : Pll → Pll) : (s.modPll p f).rings = s.rings := rfl
@[simp] theorem State.modPll_allots (s : State) (p : Nat) (f : Pll → Pll) : (s.modPll p f).allots = s.allots := rfl
@[simp] theorem State.modPll_images (s : State) (p : Nat) (f : Pll → Pll) : (s.modPll p f).images = s.images := rfl
@[simp] theorem State.modPll_nextImage (s : State) (p : Nat) (f : Pll → Pll) : (s.modPll p f).nextImage = s.nextImage := rfl
@[simp] theorem State.modPll_load (s : State) (p : Nat) (f : Pll → Pll) : (s.modPll p f).load = s.load := rfl
@[simp] theorem State.modPll_dying (s : State) (p : Nat) (f : Pll → Pll) : (s.modPll p f).dying = s.dying := rfl
@[simp] theorem State.modPll_zeroing (s : State) (p : Nat) (f : Pll → Pll) : (s.modPll p f).zeroing = s.zeroing := rfl
@[simp] theorem State.modPll_bankWrites (s : State) (p : Nat) (f : Pll → Pll) : (s.modPll p f).bankWrites = s.bankWrites := rfl
@[simp] theorem State.modPll_bridges (s : State) (p : Nat) (f : Pll → Pll) : (s.modPll p f).bridges = s.bridges := rfl
@[simp] theorem State.modPll_arrays (s : State) (p : Nat) (f : Pll → Pll) : (s.modPll p f).arrays = s.arrays := rfl
@[simp] theorem State.modPll_movers (s : State) (p : Nat) (f : Pll → Pll) : (s.modPll p f).movers = s.movers := rfl
@[simp] theorem State.modPll_trns (s : State) (p : Nat) (f : Pll → Pll) : (s.modPll p f).trns = s.trns := rfl
@[simp] theorem State.modPll_chunkCrcs (s : State) (p : Nat) (f : Pll → Pll) : (s.modPll p f).chunkCrcs = s.chunkCrcs := rfl
@[simp] theorem State.modPll_hbms (s : State) (p : Nat) (f : Pll → Pll) : (s.modPll p f).hbms = s.hbms := rfl
@[simp] theorem State.modPll_ddrs (s : State) (p : Nat) (f : Pll → Pll) : (s.modPll p f).ddrs = s.ddrs := rfl
@[simp] theorem State.modPll_capGib (s : State) (p : Nat) (f : Pll → Pll) : (s.modPll p f).capGib = s.capGib := rfl
@[simp] theorem State.modPll_self (s : State) (p : Nat) (f : Pll → Pll) : (s.modPll p f).self = s.self := rfl
@[simp] theorem State.modPll_spokes (s : State) (p : Nat) (f : Pll → Pll) : (s.modPll p f).spokes = s.spokes := rfl
@[simp] theorem State.modPll_ownMarks (s : State) (p : Nat) (f : Pll → Pll) : (s.modPll p f).ownMarks = s.ownMarks := rfl
@[simp] theorem State.modPll_stations (s : State) (p : Nat) (f : Pll → Pll) : (s.modPll p f).stations = s.stations := rfl
@[simp] theorem State.modPll_ringAt (s : State) (p : Nat) (f : Pll → Pll) : (s.modPll p f).ringAt = s.ringAt := rfl
@[simp] theorem State.modPll_rte (s : State) (p : Nat) (f : Pll → Pll) : (s.modPll p f).rte = s.rte := rfl
@[simp] theorem State.modPll_lodge (s : State) (p : Nat) (f : Pll → Pll) : (s.modPll p f).lodge = s.lodge := rfl
@[simp] theorem State.modPll_mgmt (s : State) (p : Nat) (f : Pll → Pll) : (s.modPll p f).mgmt = s.mgmt := rfl
@[simp] theorem State.modPll_flash (s : State) (p : Nat) (f : Pll → Pll) : (s.modPll p f).flash = s.flash := rfl
@[simp] theorem State.modPll_upd (s : State) (p : Nat) (f : Pll → Pll) : (s.modPll p f).upd = s.upd := rfl
@[simp] theorem State.modPll_mem (s : State) (p : Nat) (f : Pll → Pll) : (s.modPll p f).mem = s.mem := rfl
@[simp] theorem State.modPll_scr (s : State) (p : Nat) (f : Pll → Pll) : (s.modPll p f).scr = s.scr := rfl
@[simp] theorem State.modPll_wslots (s : State) (p : Nat) (f : Pll → Pll) : (s.modPll p f).wslots = s.wslots := rfl
@[simp] theorem State.modPll_stage (s : State) (p : Nat) (f : Pll → Pll) : (s.modPll p f).stage = s.stage := rfl
@[simp] theorem State.modPll_upset (s : State) (p : Nat) (f : Pll → Pll) : (s.modPll p f).upset = s.upset := rfl
@[simp] theorem State.modPll_live (s : State) (p : Nat) (f : Pll → Pll) : (s.modPll p f).live = s.live := rfl
@[simp] theorem State.modPll_latched (s : State) (p : Nat) (f : Pll → Pll) : (s.modPll p f).latched = s.latched := rfl
@[simp] theorem State.modPll_evtSeen (s : State) (p : Nat) (f : Pll → Pll) : (s.modPll p f).evtSeen = s.evtSeen := rfl
@[simp] theorem State.modPll_evtMsg (s : State) (p : Nat) (f : Pll → Pll) : (s.modPll p f).evtMsg = s.evtMsg := rfl
@[simp] theorem State.modPll_out (s : State) (p : Nat) (f : Pll → Pll) : (s.modPll p f).out = s.out := rfl
@[simp] theorem State.modPll_fresh (s : State) (p : Nat) (f : Pll → Pll) : (s.modPll p f).fresh = s.fresh := rfl
@[simp] theorem State.modPll_pending (s : State) (p : Nat) (f : Pll → Pll) : (s.modPll p f).pending = s.pending := rfl

/-! ### modRamp -/

@[simp] theorem State.modRamp_cad (s : State) (g : Nat) (f : Ramp → Ramp) : (s.modRamp g f).cad = s.cad := rfl
@[simp] theorem State.modRamp_plls (s : State) (g : Nat) (f : Ramp → Ramp) : (s.modRamp g f).plls = s.plls := rfl
@[simp] theorem State.modRamp_gear (s : State) (g : Nat) (f : Ramp → Ramp) : (s.modRamp g f).gear = s.gear := rfl
@[simp] theorem State.modRamp_pwr (s : State) (g : Nat) (f : Ramp → Ramp) : (s.modRamp g f).pwr = s.pwr := rfl
@[simp] theorem State.modRamp_rests (s : State) (g : Nat) (f : Ramp → Ramp) : (s.modRamp g f).rests = s.rests := rfl
@[simp] theorem State.modRamp_thm (s : State) (g : Nat) (f : Ramp → Ramp) : (s.modRamp g f).thm = s.thm := rfl
@[simp] theorem State.modRamp_acc (s : State) (g : Nat) (f : Ramp → Ramp) : (s.modRamp g f).acc = s.acc := rfl
@[simp] theorem State.modRamp_hold (s : State) (g : Nat) (f : Ramp → Ramp) : (s.modRamp g f).hold = s.hold := rfl
@[simp] theorem State.modRamp_boot (s : State) (g : Nat) (f : Ramp → Ramp) : (s.modRamp g f).boot = s.boot := rfl
@[simp] theorem State.modRamp_frc (s : State) (g : Nat) (f : Ramp → Ramp) : (s.modRamp g f).frc = s.frc := rfl
@[simp] theorem State.modRamp_steward (s : State) (g : Nat) (f : Ramp → Ramp) : (s.modRamp g f).steward = s.steward := rfl
@[simp] theorem State.modRamp_ports (s : State) (g : Nat) (f : Ramp → Ramp) : (s.modRamp g f).ports = s.ports := rfl
@[simp] theorem State.modRamp_sgrpSel (s : State) (g : Nat) (f : Ramp → Ramp) : (s.modRamp g f).sgrpSel = s.sgrpSel := rfl
@[simp] theorem State.modRamp_strobes (s : State) (g : Nat) (f : Ramp → Ramp) : (s.modRamp g f).strobes = s.strobes := rfl
@[simp] theorem State.modRamp_rings (s : State) (g : Nat) (f : Ramp → Ramp) : (s.modRamp g f).rings = s.rings := rfl
@[simp] theorem State.modRamp_allots (s : State) (g : Nat) (f : Ramp → Ramp) : (s.modRamp g f).allots = s.allots := rfl
@[simp] theorem State.modRamp_images (s : State) (g : Nat) (f : Ramp → Ramp) : (s.modRamp g f).images = s.images := rfl
@[simp] theorem State.modRamp_nextImage (s : State) (g : Nat) (f : Ramp → Ramp) : (s.modRamp g f).nextImage = s.nextImage := rfl
@[simp] theorem State.modRamp_load (s : State) (g : Nat) (f : Ramp → Ramp) : (s.modRamp g f).load = s.load := rfl
@[simp] theorem State.modRamp_dying (s : State) (g : Nat) (f : Ramp → Ramp) : (s.modRamp g f).dying = s.dying := rfl
@[simp] theorem State.modRamp_zeroing (s : State) (g : Nat) (f : Ramp → Ramp) : (s.modRamp g f).zeroing = s.zeroing := rfl
@[simp] theorem State.modRamp_bankWrites (s : State) (g : Nat) (f : Ramp → Ramp) : (s.modRamp g f).bankWrites = s.bankWrites := rfl
@[simp] theorem State.modRamp_bridges (s : State) (g : Nat) (f : Ramp → Ramp) : (s.modRamp g f).bridges = s.bridges := rfl
@[simp] theorem State.modRamp_arrays (s : State) (g : Nat) (f : Ramp → Ramp) : (s.modRamp g f).arrays = s.arrays := rfl
@[simp] theorem State.modRamp_movers (s : State) (g : Nat) (f : Ramp → Ramp) : (s.modRamp g f).movers = s.movers := rfl
@[simp] theorem State.modRamp_trns (s : State) (g : Nat) (f : Ramp → Ramp) : (s.modRamp g f).trns = s.trns := rfl
@[simp] theorem State.modRamp_chunkCrcs (s : State) (g : Nat) (f : Ramp → Ramp) : (s.modRamp g f).chunkCrcs = s.chunkCrcs := rfl
@[simp] theorem State.modRamp_hbms (s : State) (g : Nat) (f : Ramp → Ramp) : (s.modRamp g f).hbms = s.hbms := rfl
@[simp] theorem State.modRamp_ddrs (s : State) (g : Nat) (f : Ramp → Ramp) : (s.modRamp g f).ddrs = s.ddrs := rfl
@[simp] theorem State.modRamp_capGib (s : State) (g : Nat) (f : Ramp → Ramp) : (s.modRamp g f).capGib = s.capGib := rfl
@[simp] theorem State.modRamp_self (s : State) (g : Nat) (f : Ramp → Ramp) : (s.modRamp g f).self = s.self := rfl
@[simp] theorem State.modRamp_spokes (s : State) (g : Nat) (f : Ramp → Ramp) : (s.modRamp g f).spokes = s.spokes := rfl
@[simp] theorem State.modRamp_ownMarks (s : State) (g : Nat) (f : Ramp → Ramp) : (s.modRamp g f).ownMarks = s.ownMarks := rfl
@[simp] theorem State.modRamp_stations (s : State) (g : Nat) (f : Ramp → Ramp) : (s.modRamp g f).stations = s.stations := rfl
@[simp] theorem State.modRamp_ringAt (s : State) (g : Nat) (f : Ramp → Ramp) : (s.modRamp g f).ringAt = s.ringAt := rfl
@[simp] theorem State.modRamp_rte (s : State) (g : Nat) (f : Ramp → Ramp) : (s.modRamp g f).rte = s.rte := rfl
@[simp] theorem State.modRamp_lodge (s : State) (g : Nat) (f : Ramp → Ramp) : (s.modRamp g f).lodge = s.lodge := rfl
@[simp] theorem State.modRamp_mgmt (s : State) (g : Nat) (f : Ramp → Ramp) : (s.modRamp g f).mgmt = s.mgmt := rfl
@[simp] theorem State.modRamp_flash (s : State) (g : Nat) (f : Ramp → Ramp) : (s.modRamp g f).flash = s.flash := rfl
@[simp] theorem State.modRamp_upd (s : State) (g : Nat) (f : Ramp → Ramp) : (s.modRamp g f).upd = s.upd := rfl
@[simp] theorem State.modRamp_mem (s : State) (g : Nat) (f : Ramp → Ramp) : (s.modRamp g f).mem = s.mem := rfl
@[simp] theorem State.modRamp_scr (s : State) (g : Nat) (f : Ramp → Ramp) : (s.modRamp g f).scr = s.scr := rfl
@[simp] theorem State.modRamp_wslots (s : State) (g : Nat) (f : Ramp → Ramp) : (s.modRamp g f).wslots = s.wslots := rfl
@[simp] theorem State.modRamp_stage (s : State) (g : Nat) (f : Ramp → Ramp) : (s.modRamp g f).stage = s.stage := rfl
@[simp] theorem State.modRamp_upset (s : State) (g : Nat) (f : Ramp → Ramp) : (s.modRamp g f).upset = s.upset := rfl
@[simp] theorem State.modRamp_live (s : State) (g : Nat) (f : Ramp → Ramp) : (s.modRamp g f).live = s.live := rfl
@[simp] theorem State.modRamp_latched (s : State) (g : Nat) (f : Ramp → Ramp) : (s.modRamp g f).latched = s.latched := rfl
@[simp] theorem State.modRamp_evtSeen (s : State) (g : Nat) (f : Ramp → Ramp) : (s.modRamp g f).evtSeen = s.evtSeen := rfl
@[simp] theorem State.modRamp_evtMsg (s : State) (g : Nat) (f : Ramp → Ramp) : (s.modRamp g f).evtMsg = s.evtMsg := rfl
@[simp] theorem State.modRamp_out (s : State) (g : Nat) (f : Ramp → Ramp) : (s.modRamp g f).out = s.out := rfl
@[simp] theorem State.modRamp_fresh (s : State) (g : Nat) (f : Ramp → Ramp) : (s.modRamp g f).fresh = s.fresh := rfl
@[simp] theorem State.modRamp_pending (s : State) (g : Nat) (f : Ramp → Ramp) : (s.modRamp g f).pending = s.pending := rfl

/-! ### modUnit -/

@[simp] theorem State.modUnit_cad (s : State) (i : Nat) (f : UnitSt → UnitSt) : (s.modUnit i f).cad = s.cad := rfl
@[simp] theorem State.modUnit_plls (s : State) (i : Nat) (f : UnitSt → UnitSt) : (s.modUnit i f).plls = s.plls := rfl
@[simp] theorem State.modUnit_gear (s : State) (i : Nat) (f : UnitSt → UnitSt) : (s.modUnit i f).gear = s.gear := rfl
@[simp] theorem State.modUnit_pwr (s : State) (i : Nat) (f : UnitSt → UnitSt) : (s.modUnit i f).pwr = s.pwr := rfl
@[simp] theorem State.modUnit_ramps (s : State) (i : Nat) (f : UnitSt → UnitSt) : (s.modUnit i f).ramps = s.ramps := rfl
@[simp] theorem State.modUnit_rests (s : State) (i : Nat) (f : UnitSt → UnitSt) : (s.modUnit i f).rests = s.rests := rfl
@[simp] theorem State.modUnit_thm (s : State) (i : Nat) (f : UnitSt → UnitSt) : (s.modUnit i f).thm = s.thm := rfl
@[simp] theorem State.modUnit_acc (s : State) (i : Nat) (f : UnitSt → UnitSt) : (s.modUnit i f).acc = s.acc := rfl
@[simp] theorem State.modUnit_hold (s : State) (i : Nat) (f : UnitSt → UnitSt) : (s.modUnit i f).hold = s.hold := rfl
@[simp] theorem State.modUnit_boot (s : State) (i : Nat) (f : UnitSt → UnitSt) : (s.modUnit i f).boot = s.boot := rfl
@[simp] theorem State.modUnit_frc (s : State) (i : Nat) (f : UnitSt → UnitSt) : (s.modUnit i f).frc = s.frc := rfl
@[simp] theorem State.modUnit_steward (s : State) (i : Nat) (f : UnitSt → UnitSt) : (s.modUnit i f).steward = s.steward := rfl
@[simp] theorem State.modUnit_ports (s : State) (i : Nat) (f : UnitSt → UnitSt) : (s.modUnit i f).ports = s.ports := rfl
@[simp] theorem State.modUnit_sgrpSel (s : State) (i : Nat) (f : UnitSt → UnitSt) : (s.modUnit i f).sgrpSel = s.sgrpSel := rfl
@[simp] theorem State.modUnit_strobes (s : State) (i : Nat) (f : UnitSt → UnitSt) : (s.modUnit i f).strobes = s.strobes := rfl
@[simp] theorem State.modUnit_rings (s : State) (i : Nat) (f : UnitSt → UnitSt) : (s.modUnit i f).rings = s.rings := rfl
@[simp] theorem State.modUnit_allots (s : State) (i : Nat) (f : UnitSt → UnitSt) : (s.modUnit i f).allots = s.allots := rfl
@[simp] theorem State.modUnit_images (s : State) (i : Nat) (f : UnitSt → UnitSt) : (s.modUnit i f).images = s.images := rfl
@[simp] theorem State.modUnit_nextImage (s : State) (i : Nat) (f : UnitSt → UnitSt) : (s.modUnit i f).nextImage = s.nextImage := rfl
@[simp] theorem State.modUnit_load (s : State) (i : Nat) (f : UnitSt → UnitSt) : (s.modUnit i f).load = s.load := rfl
@[simp] theorem State.modUnit_dying (s : State) (i : Nat) (f : UnitSt → UnitSt) : (s.modUnit i f).dying = s.dying := rfl
@[simp] theorem State.modUnit_zeroing (s : State) (i : Nat) (f : UnitSt → UnitSt) : (s.modUnit i f).zeroing = s.zeroing := rfl
@[simp] theorem State.modUnit_bankWrites (s : State) (i : Nat) (f : UnitSt → UnitSt) : (s.modUnit i f).bankWrites = s.bankWrites := rfl
@[simp] theorem State.modUnit_bridges (s : State) (i : Nat) (f : UnitSt → UnitSt) : (s.modUnit i f).bridges = s.bridges := rfl
@[simp] theorem State.modUnit_arrays (s : State) (i : Nat) (f : UnitSt → UnitSt) : (s.modUnit i f).arrays = s.arrays := rfl
@[simp] theorem State.modUnit_movers (s : State) (i : Nat) (f : UnitSt → UnitSt) : (s.modUnit i f).movers = s.movers := rfl
@[simp] theorem State.modUnit_trns (s : State) (i : Nat) (f : UnitSt → UnitSt) : (s.modUnit i f).trns = s.trns := rfl
@[simp] theorem State.modUnit_chunkCrcs (s : State) (i : Nat) (f : UnitSt → UnitSt) : (s.modUnit i f).chunkCrcs = s.chunkCrcs := rfl
@[simp] theorem State.modUnit_hbms (s : State) (i : Nat) (f : UnitSt → UnitSt) : (s.modUnit i f).hbms = s.hbms := rfl
@[simp] theorem State.modUnit_ddrs (s : State) (i : Nat) (f : UnitSt → UnitSt) : (s.modUnit i f).ddrs = s.ddrs := rfl
@[simp] theorem State.modUnit_capGib (s : State) (i : Nat) (f : UnitSt → UnitSt) : (s.modUnit i f).capGib = s.capGib := rfl
@[simp] theorem State.modUnit_self (s : State) (i : Nat) (f : UnitSt → UnitSt) : (s.modUnit i f).self = s.self := rfl
@[simp] theorem State.modUnit_spokes (s : State) (i : Nat) (f : UnitSt → UnitSt) : (s.modUnit i f).spokes = s.spokes := rfl
@[simp] theorem State.modUnit_ownMarks (s : State) (i : Nat) (f : UnitSt → UnitSt) : (s.modUnit i f).ownMarks = s.ownMarks := rfl
@[simp] theorem State.modUnit_stations (s : State) (i : Nat) (f : UnitSt → UnitSt) : (s.modUnit i f).stations = s.stations := rfl
@[simp] theorem State.modUnit_ringAt (s : State) (i : Nat) (f : UnitSt → UnitSt) : (s.modUnit i f).ringAt = s.ringAt := rfl
@[simp] theorem State.modUnit_rte (s : State) (i : Nat) (f : UnitSt → UnitSt) : (s.modUnit i f).rte = s.rte := rfl
@[simp] theorem State.modUnit_mgmt (s : State) (i : Nat) (f : UnitSt → UnitSt) : (s.modUnit i f).mgmt = s.mgmt := rfl
@[simp] theorem State.modUnit_flash (s : State) (i : Nat) (f : UnitSt → UnitSt) : (s.modUnit i f).flash = s.flash := rfl
@[simp] theorem State.modUnit_upd (s : State) (i : Nat) (f : UnitSt → UnitSt) : (s.modUnit i f).upd = s.upd := rfl
@[simp] theorem State.modUnit_mem (s : State) (i : Nat) (f : UnitSt → UnitSt) : (s.modUnit i f).mem = s.mem := rfl
@[simp] theorem State.modUnit_scr (s : State) (i : Nat) (f : UnitSt → UnitSt) : (s.modUnit i f).scr = s.scr := rfl
@[simp] theorem State.modUnit_wslots (s : State) (i : Nat) (f : UnitSt → UnitSt) : (s.modUnit i f).wslots = s.wslots := rfl
@[simp] theorem State.modUnit_stage (s : State) (i : Nat) (f : UnitSt → UnitSt) : (s.modUnit i f).stage = s.stage := rfl
@[simp] theorem State.modUnit_upset (s : State) (i : Nat) (f : UnitSt → UnitSt) : (s.modUnit i f).upset = s.upset := rfl
@[simp] theorem State.modUnit_live (s : State) (i : Nat) (f : UnitSt → UnitSt) : (s.modUnit i f).live = s.live := rfl
@[simp] theorem State.modUnit_latched (s : State) (i : Nat) (f : UnitSt → UnitSt) : (s.modUnit i f).latched = s.latched := rfl
@[simp] theorem State.modUnit_evtSeen (s : State) (i : Nat) (f : UnitSt → UnitSt) : (s.modUnit i f).evtSeen = s.evtSeen := rfl
@[simp] theorem State.modUnit_evtMsg (s : State) (i : Nat) (f : UnitSt → UnitSt) : (s.modUnit i f).evtMsg = s.evtMsg := rfl
@[simp] theorem State.modUnit_out (s : State) (i : Nat) (f : UnitSt → UnitSt) : (s.modUnit i f).out = s.out := rfl
@[simp] theorem State.modUnit_fresh (s : State) (i : Nat) (f : UnitSt → UnitSt) : (s.modUnit i f).fresh = s.fresh := rfl
@[simp] theorem State.modUnit_pending (s : State) (i : Nat) (f : UnitSt → UnitSt) : (s.modUnit i f).pending = s.pending := rfl

/-! ### modRest -/

@[simp] theorem State.modRest_cad (s : State) (p : Nat) (f : Rb 2 → Rb 2) : (s.modRest p f).cad = s.cad := rfl
@[simp] theorem State.modRest_plls (s : State) (p : Nat) (f : Rb 2 → Rb 2) : (s.modRest p f).plls = s.plls := rfl
@[simp] theorem State.modRest_gear (s : State) (p : Nat) (f : Rb 2 → Rb 2) : (s.modRest p f).gear = s.gear := rfl
@[simp] theorem State.modRest_pwr (s : State) (p : Nat) (f : Rb 2 → Rb 2) : (s.modRest p f).pwr = s.pwr := rfl
@[simp] theorem State.modRest_ramps (s : State) (p : Nat) (f : Rb 2 → Rb 2) : (s.modRest p f).ramps = s.ramps := rfl
@[simp] theorem State.modRest_thm (s : State) (p : Nat) (f : Rb 2 → Rb 2) : (s.modRest p f).thm = s.thm := rfl
@[simp] theorem State.modRest_acc (s : State) (p : Nat) (f : Rb 2 → Rb 2) : (s.modRest p f).acc = s.acc := rfl
@[simp] theorem State.modRest_hold (s : State) (p : Nat) (f : Rb 2 → Rb 2) : (s.modRest p f).hold = s.hold := rfl
@[simp] theorem State.modRest_boot (s : State) (p : Nat) (f : Rb 2 → Rb 2) : (s.modRest p f).boot = s.boot := rfl
@[simp] theorem State.modRest_frc (s : State) (p : Nat) (f : Rb 2 → Rb 2) : (s.modRest p f).frc = s.frc := rfl
@[simp] theorem State.modRest_steward (s : State) (p : Nat) (f : Rb 2 → Rb 2) : (s.modRest p f).steward = s.steward := rfl
@[simp] theorem State.modRest_ports (s : State) (p : Nat) (f : Rb 2 → Rb 2) : (s.modRest p f).ports = s.ports := rfl
@[simp] theorem State.modRest_sgrpSel (s : State) (p : Nat) (f : Rb 2 → Rb 2) : (s.modRest p f).sgrpSel = s.sgrpSel := rfl
@[simp] theorem State.modRest_strobes (s : State) (p : Nat) (f : Rb 2 → Rb 2) : (s.modRest p f).strobes = s.strobes := rfl
@[simp] theorem State.modRest_rings (s : State) (p : Nat) (f : Rb 2 → Rb 2) : (s.modRest p f).rings = s.rings := rfl
@[simp] theorem State.modRest_allots (s : State) (p : Nat) (f : Rb 2 → Rb 2) : (s.modRest p f).allots = s.allots := rfl
@[simp] theorem State.modRest_images (s : State) (p : Nat) (f : Rb 2 → Rb 2) : (s.modRest p f).images = s.images := rfl
@[simp] theorem State.modRest_nextImage (s : State) (p : Nat) (f : Rb 2 → Rb 2) : (s.modRest p f).nextImage = s.nextImage := rfl
@[simp] theorem State.modRest_load (s : State) (p : Nat) (f : Rb 2 → Rb 2) : (s.modRest p f).load = s.load := rfl
@[simp] theorem State.modRest_dying (s : State) (p : Nat) (f : Rb 2 → Rb 2) : (s.modRest p f).dying = s.dying := rfl
@[simp] theorem State.modRest_zeroing (s : State) (p : Nat) (f : Rb 2 → Rb 2) : (s.modRest p f).zeroing = s.zeroing := rfl
@[simp] theorem State.modRest_bankWrites (s : State) (p : Nat) (f : Rb 2 → Rb 2) : (s.modRest p f).bankWrites = s.bankWrites := rfl
@[simp] theorem State.modRest_bridges (s : State) (p : Nat) (f : Rb 2 → Rb 2) : (s.modRest p f).bridges = s.bridges := rfl
@[simp] theorem State.modRest_arrays (s : State) (p : Nat) (f : Rb 2 → Rb 2) : (s.modRest p f).arrays = s.arrays := rfl
@[simp] theorem State.modRest_movers (s : State) (p : Nat) (f : Rb 2 → Rb 2) : (s.modRest p f).movers = s.movers := rfl
@[simp] theorem State.modRest_trns (s : State) (p : Nat) (f : Rb 2 → Rb 2) : (s.modRest p f).trns = s.trns := rfl
@[simp] theorem State.modRest_chunkCrcs (s : State) (p : Nat) (f : Rb 2 → Rb 2) : (s.modRest p f).chunkCrcs = s.chunkCrcs := rfl
@[simp] theorem State.modRest_hbms (s : State) (p : Nat) (f : Rb 2 → Rb 2) : (s.modRest p f).hbms = s.hbms := rfl
@[simp] theorem State.modRest_ddrs (s : State) (p : Nat) (f : Rb 2 → Rb 2) : (s.modRest p f).ddrs = s.ddrs := rfl
@[simp] theorem State.modRest_capGib (s : State) (p : Nat) (f : Rb 2 → Rb 2) : (s.modRest p f).capGib = s.capGib := rfl
@[simp] theorem State.modRest_self (s : State) (p : Nat) (f : Rb 2 → Rb 2) : (s.modRest p f).self = s.self := rfl
@[simp] theorem State.modRest_spokes (s : State) (p : Nat) (f : Rb 2 → Rb 2) : (s.modRest p f).spokes = s.spokes := rfl
@[simp] theorem State.modRest_ownMarks (s : State) (p : Nat) (f : Rb 2 → Rb 2) : (s.modRest p f).ownMarks = s.ownMarks := rfl
@[simp] theorem State.modRest_stations (s : State) (p : Nat) (f : Rb 2 → Rb 2) : (s.modRest p f).stations = s.stations := rfl
@[simp] theorem State.modRest_ringAt (s : State) (p : Nat) (f : Rb 2 → Rb 2) : (s.modRest p f).ringAt = s.ringAt := rfl
@[simp] theorem State.modRest_rte (s : State) (p : Nat) (f : Rb 2 → Rb 2) : (s.modRest p f).rte = s.rte := rfl
@[simp] theorem State.modRest_lodge (s : State) (p : Nat) (f : Rb 2 → Rb 2) : (s.modRest p f).lodge = s.lodge := rfl
@[simp] theorem State.modRest_mgmt (s : State) (p : Nat) (f : Rb 2 → Rb 2) : (s.modRest p f).mgmt = s.mgmt := rfl
@[simp] theorem State.modRest_flash (s : State) (p : Nat) (f : Rb 2 → Rb 2) : (s.modRest p f).flash = s.flash := rfl
@[simp] theorem State.modRest_upd (s : State) (p : Nat) (f : Rb 2 → Rb 2) : (s.modRest p f).upd = s.upd := rfl
@[simp] theorem State.modRest_mem (s : State) (p : Nat) (f : Rb 2 → Rb 2) : (s.modRest p f).mem = s.mem := rfl
@[simp] theorem State.modRest_scr (s : State) (p : Nat) (f : Rb 2 → Rb 2) : (s.modRest p f).scr = s.scr := rfl
@[simp] theorem State.modRest_wslots (s : State) (p : Nat) (f : Rb 2 → Rb 2) : (s.modRest p f).wslots = s.wslots := rfl
@[simp] theorem State.modRest_stage (s : State) (p : Nat) (f : Rb 2 → Rb 2) : (s.modRest p f).stage = s.stage := rfl
@[simp] theorem State.modRest_upset (s : State) (p : Nat) (f : Rb 2 → Rb 2) : (s.modRest p f).upset = s.upset := rfl
@[simp] theorem State.modRest_live (s : State) (p : Nat) (f : Rb 2 → Rb 2) : (s.modRest p f).live = s.live := rfl
@[simp] theorem State.modRest_latched (s : State) (p : Nat) (f : Rb 2 → Rb 2) : (s.modRest p f).latched = s.latched := rfl
@[simp] theorem State.modRest_evtSeen (s : State) (p : Nat) (f : Rb 2 → Rb 2) : (s.modRest p f).evtSeen = s.evtSeen := rfl
@[simp] theorem State.modRest_evtMsg (s : State) (p : Nat) (f : Rb 2 → Rb 2) : (s.modRest p f).evtMsg = s.evtMsg := rfl
@[simp] theorem State.modRest_out (s : State) (p : Nat) (f : Rb 2 → Rb 2) : (s.modRest p f).out = s.out := rfl
@[simp] theorem State.modRest_fresh (s : State) (p : Nat) (f : Rb 2 → Rb 2) : (s.modRest p f).fresh = s.fresh := rfl
@[simp] theorem State.modRest_pending (s : State) (p : Nat) (f : Rb 2 → Rb 2) : (s.modRest p f).pending = s.pending := rfl

/-! ### bump -/

@[simp] theorem State.bump_cad (s : State) (k n : Nat) : (s.bump k n).cad = s.cad := rfl
@[simp] theorem State.bump_plls (s : State) (k n : Nat) : (s.bump k n).plls = s.plls := rfl
@[simp] theorem State.bump_gear (s : State) (k n : Nat) : (s.bump k n).gear = s.gear := rfl
@[simp] theorem State.bump_pwr (s : State) (k n : Nat) : (s.bump k n).pwr = s.pwr := rfl
@[simp] theorem State.bump_ramps (s : State) (k n : Nat) : (s.bump k n).ramps = s.ramps := rfl
@[simp] theorem State.bump_rests (s : State) (k n : Nat) : (s.bump k n).rests = s.rests := rfl
@[simp] theorem State.bump_thm (s : State) (k n : Nat) : (s.bump k n).thm = s.thm := rfl
@[simp] theorem State.bump_acc (s : State) (k n : Nat) : (s.bump k n).acc = s.acc := rfl
@[simp] theorem State.bump_hold (s : State) (k n : Nat) : (s.bump k n).hold = s.hold := rfl
@[simp] theorem State.bump_boot (s : State) (k n : Nat) : (s.bump k n).boot = s.boot := rfl
@[simp] theorem State.bump_frc (s : State) (k n : Nat) : (s.bump k n).frc = s.frc := rfl
@[simp] theorem State.bump_steward (s : State) (k n : Nat) : (s.bump k n).steward = s.steward := rfl
@[simp] theorem State.bump_ports (s : State) (k n : Nat) : (s.bump k n).ports = s.ports := rfl
@[simp] theorem State.bump_sgrpSel (s : State) (k n : Nat) : (s.bump k n).sgrpSel = s.sgrpSel := rfl
@[simp] theorem State.bump_strobes (s : State) (k n : Nat) : (s.bump k n).strobes = s.strobes := rfl
@[simp] theorem State.bump_rings (s : State) (k n : Nat) : (s.bump k n).rings = s.rings := rfl
@[simp] theorem State.bump_allots (s : State) (k n : Nat) : (s.bump k n).allots = s.allots := rfl
@[simp] theorem State.bump_images (s : State) (k n : Nat) : (s.bump k n).images = s.images := rfl
@[simp] theorem State.bump_nextImage (s : State) (k n : Nat) : (s.bump k n).nextImage = s.nextImage := rfl
@[simp] theorem State.bump_load (s : State) (k n : Nat) : (s.bump k n).load = s.load := rfl
@[simp] theorem State.bump_dying (s : State) (k n : Nat) : (s.bump k n).dying = s.dying := rfl
@[simp] theorem State.bump_zeroing (s : State) (k n : Nat) : (s.bump k n).zeroing = s.zeroing := rfl
@[simp] theorem State.bump_bankWrites (s : State) (k n : Nat) : (s.bump k n).bankWrites = s.bankWrites := rfl
@[simp] theorem State.bump_bridges (s : State) (k n : Nat) : (s.bump k n).bridges = s.bridges := rfl
@[simp] theorem State.bump_arrays (s : State) (k n : Nat) : (s.bump k n).arrays = s.arrays := rfl
@[simp] theorem State.bump_movers (s : State) (k n : Nat) : (s.bump k n).movers = s.movers := rfl
@[simp] theorem State.bump_trns (s : State) (k n : Nat) : (s.bump k n).trns = s.trns := rfl
@[simp] theorem State.bump_chunkCrcs (s : State) (k n : Nat) : (s.bump k n).chunkCrcs = s.chunkCrcs := rfl
@[simp] theorem State.bump_hbms (s : State) (k n : Nat) : (s.bump k n).hbms = s.hbms := rfl
@[simp] theorem State.bump_ddrs (s : State) (k n : Nat) : (s.bump k n).ddrs = s.ddrs := rfl
@[simp] theorem State.bump_capGib (s : State) (k n : Nat) : (s.bump k n).capGib = s.capGib := rfl
@[simp] theorem State.bump_self (s : State) (k n : Nat) : (s.bump k n).self = s.self := rfl
@[simp] theorem State.bump_spokes (s : State) (k n : Nat) : (s.bump k n).spokes = s.spokes := rfl
@[simp] theorem State.bump_ownMarks (s : State) (k n : Nat) : (s.bump k n).ownMarks = s.ownMarks := rfl
@[simp] theorem State.bump_stations (s : State) (k n : Nat) : (s.bump k n).stations = s.stations := rfl
@[simp] theorem State.bump_ringAt (s : State) (k n : Nat) : (s.bump k n).ringAt = s.ringAt := rfl
@[simp] theorem State.bump_rte (s : State) (k n : Nat) : (s.bump k n).rte = s.rte := rfl
@[simp] theorem State.bump_lodge (s : State) (k n : Nat) : (s.bump k n).lodge = s.lodge := rfl
@[simp] theorem State.bump_mgmt (s : State) (k n : Nat) : (s.bump k n).mgmt = s.mgmt := rfl
@[simp] theorem State.bump_flash (s : State) (k n : Nat) : (s.bump k n).flash = s.flash := rfl
@[simp] theorem State.bump_upd (s : State) (k n : Nat) : (s.bump k n).upd = s.upd := rfl
@[simp] theorem State.bump_mem (s : State) (k n : Nat) : (s.bump k n).mem = s.mem := rfl
@[simp] theorem State.bump_scr (s : State) (k n : Nat) : (s.bump k n).scr = s.scr := rfl
@[simp] theorem State.bump_wslots (s : State) (k n : Nat) : (s.bump k n).wslots = s.wslots := rfl
@[simp] theorem State.bump_stage (s : State) (k n : Nat) : (s.bump k n).stage = s.stage := rfl
@[simp] theorem State.bump_upset (s : State) (k n : Nat) : (s.bump k n).upset = s.upset := rfl
@[simp] theorem State.bump_latched (s : State) (k n : Nat) : (s.bump k n).latched = s.latched := rfl
@[simp] theorem State.bump_evtSeen (s : State) (k n : Nat) : (s.bump k n).evtSeen = s.evtSeen := rfl
@[simp] theorem State.bump_evtMsg (s : State) (k n : Nat) : (s.bump k n).evtMsg = s.evtMsg := rfl
@[simp] theorem State.bump_out (s : State) (k n : Nat) : (s.bump k n).out = s.out := rfl
@[simp] theorem State.bump_fresh (s : State) (k n : Nat) : (s.bump k n).fresh = s.fresh := rfl
@[simp] theorem State.bump_pending (s : State) (k n : Nat) : (s.bump k n).pending = s.pending := rfl

/-! ### emit -/

@[simp] theorem State.emit_cad (s : State) (o : Out) : (s.emit o).cad = s.cad := rfl
@[simp] theorem State.emit_plls (s : State) (o : Out) : (s.emit o).plls = s.plls := rfl
@[simp] theorem State.emit_gear (s : State) (o : Out) : (s.emit o).gear = s.gear := rfl
@[simp] theorem State.emit_pwr (s : State) (o : Out) : (s.emit o).pwr = s.pwr := rfl
@[simp] theorem State.emit_ramps (s : State) (o : Out) : (s.emit o).ramps = s.ramps := rfl
@[simp] theorem State.emit_rests (s : State) (o : Out) : (s.emit o).rests = s.rests := rfl
@[simp] theorem State.emit_thm (s : State) (o : Out) : (s.emit o).thm = s.thm := rfl
@[simp] theorem State.emit_acc (s : State) (o : Out) : (s.emit o).acc = s.acc := rfl
@[simp] theorem State.emit_hold (s : State) (o : Out) : (s.emit o).hold = s.hold := rfl
@[simp] theorem State.emit_boot (s : State) (o : Out) : (s.emit o).boot = s.boot := rfl
@[simp] theorem State.emit_frc (s : State) (o : Out) : (s.emit o).frc = s.frc := rfl
@[simp] theorem State.emit_steward (s : State) (o : Out) : (s.emit o).steward = s.steward := rfl
@[simp] theorem State.emit_ports (s : State) (o : Out) : (s.emit o).ports = s.ports := rfl
@[simp] theorem State.emit_sgrpSel (s : State) (o : Out) : (s.emit o).sgrpSel = s.sgrpSel := rfl
@[simp] theorem State.emit_strobes (s : State) (o : Out) : (s.emit o).strobes = s.strobes := rfl
@[simp] theorem State.emit_rings (s : State) (o : Out) : (s.emit o).rings = s.rings := rfl
@[simp] theorem State.emit_allots (s : State) (o : Out) : (s.emit o).allots = s.allots := rfl
@[simp] theorem State.emit_images (s : State) (o : Out) : (s.emit o).images = s.images := rfl
@[simp] theorem State.emit_nextImage (s : State) (o : Out) : (s.emit o).nextImage = s.nextImage := rfl
@[simp] theorem State.emit_load (s : State) (o : Out) : (s.emit o).load = s.load := rfl
@[simp] theorem State.emit_dying (s : State) (o : Out) : (s.emit o).dying = s.dying := rfl
@[simp] theorem State.emit_zeroing (s : State) (o : Out) : (s.emit o).zeroing = s.zeroing := rfl
@[simp] theorem State.emit_bankWrites (s : State) (o : Out) : (s.emit o).bankWrites = s.bankWrites := rfl
@[simp] theorem State.emit_bridges (s : State) (o : Out) : (s.emit o).bridges = s.bridges := rfl
@[simp] theorem State.emit_arrays (s : State) (o : Out) : (s.emit o).arrays = s.arrays := rfl
@[simp] theorem State.emit_movers (s : State) (o : Out) : (s.emit o).movers = s.movers := rfl
@[simp] theorem State.emit_trns (s : State) (o : Out) : (s.emit o).trns = s.trns := rfl
@[simp] theorem State.emit_chunkCrcs (s : State) (o : Out) : (s.emit o).chunkCrcs = s.chunkCrcs := rfl
@[simp] theorem State.emit_hbms (s : State) (o : Out) : (s.emit o).hbms = s.hbms := rfl
@[simp] theorem State.emit_ddrs (s : State) (o : Out) : (s.emit o).ddrs = s.ddrs := rfl
@[simp] theorem State.emit_capGib (s : State) (o : Out) : (s.emit o).capGib = s.capGib := rfl
@[simp] theorem State.emit_self (s : State) (o : Out) : (s.emit o).self = s.self := rfl
@[simp] theorem State.emit_spokes (s : State) (o : Out) : (s.emit o).spokes = s.spokes := rfl
@[simp] theorem State.emit_ownMarks (s : State) (o : Out) : (s.emit o).ownMarks = s.ownMarks := rfl
@[simp] theorem State.emit_stations (s : State) (o : Out) : (s.emit o).stations = s.stations := rfl
@[simp] theorem State.emit_ringAt (s : State) (o : Out) : (s.emit o).ringAt = s.ringAt := rfl
@[simp] theorem State.emit_rte (s : State) (o : Out) : (s.emit o).rte = s.rte := rfl
@[simp] theorem State.emit_lodge (s : State) (o : Out) : (s.emit o).lodge = s.lodge := rfl
@[simp] theorem State.emit_mgmt (s : State) (o : Out) : (s.emit o).mgmt = s.mgmt := rfl
@[simp] theorem State.emit_flash (s : State) (o : Out) : (s.emit o).flash = s.flash := rfl
@[simp] theorem State.emit_upd (s : State) (o : Out) : (s.emit o).upd = s.upd := rfl
@[simp] theorem State.emit_mem (s : State) (o : Out) : (s.emit o).mem = s.mem := rfl
@[simp] theorem State.emit_scr (s : State) (o : Out) : (s.emit o).scr = s.scr := rfl
@[simp] theorem State.emit_wslots (s : State) (o : Out) : (s.emit o).wslots = s.wslots := rfl
@[simp] theorem State.emit_stage (s : State) (o : Out) : (s.emit o).stage = s.stage := rfl
@[simp] theorem State.emit_upset (s : State) (o : Out) : (s.emit o).upset = s.upset := rfl
@[simp] theorem State.emit_live (s : State) (o : Out) : (s.emit o).live = s.live := rfl
@[simp] theorem State.emit_latched (s : State) (o : Out) : (s.emit o).latched = s.latched := rfl
@[simp] theorem State.emit_evtSeen (s : State) (o : Out) : (s.emit o).evtSeen = s.evtSeen := rfl
@[simp] theorem State.emit_evtMsg (s : State) (o : Out) : (s.emit o).evtMsg = s.evtMsg := rfl
@[simp] theorem State.emit_fresh (s : State) (o : Out) : (s.emit o).fresh = s.fresh := rfl
@[simp] theorem State.emit_pending (s : State) (o : Out) : (s.emit o).pending = s.pending := rfl

/-! ### What is read after an update -/

theorem State.modPort_port (s : State) (p q : Port) (f : PortSt → PortSt) :
    (s.modPort p f).port q = if q = p then f (s.port p) else s.port q := by
  simp only [State.port, State.modPort, Laws.sget_smod, Fin.val_inj]

@[simp] theorem State.modPort_port_same (s : State) (p : Port) (f : PortSt → PortSt) : (s.modPort p f).port p = f (s.port p) := by
  rw [State.modPort_port, if_pos rfl]

theorem State.modRing_ring (s : State) (r q : Nat) (f : Ring → Ring) :
    (s.modRing r f).ring q = if q = r then f (s.ring r) else s.ring q := by
  simp only [State.ring, State.modRing, Laws.sget_smod]

@[simp] theorem State.modRing_ring_same (s : State) (r : Nat) (f : Ring → Ring) : (s.modRing r f).ring r = f (s.ring r) := by
  rw [State.modRing_ring, if_pos rfl]

theorem State.modArr_arr (s : State) (x y : Nat) (f : ArrSt → ArrSt) :
    (s.modArr x f).arr y = if y = x then f (s.arr x) else s.arr y := by
  simp only [State.arr, State.modArr, Laws.sget_smod]

@[simp] theorem State.modArr_arr_same (s : State) (x : Nat) (f : ArrSt → ArrSt) : (s.modArr x f).arr x = f (s.arr x) := by
  rw [State.modArr_arr, if_pos rfl]

theorem State.modMover_mover (s : State) (m q : Nat) (f : MoverSt → MoverSt) :
    (s.modMover m f).mover q = if q = m then f (s.mover m) else s.mover q := by
  simp only [State.mover, State.modMover, Laws.sget_smod]

@[simp] theorem State.modMover_mover_same (s : State) (m : Nat) (f : MoverSt → MoverSt) : (s.modMover m f).mover m = f (s.mover m) := by
  rw [State.modMover_mover, if_pos rfl]

theorem State.modTrn_trn (s : State) (t q : Nat) (f : TrnSt → TrnSt) :
    (s.modTrn t f).trn q = if q = t then f (s.trn t) else s.trn q := by
  simp only [State.trn, State.modTrn, Laws.sget_smod]

@[simp] theorem State.modTrn_trn_same (s : State) (t : Nat) (f : TrnSt → TrnSt) : (s.modTrn t f).trn t = f (s.trn t) := by
  rw [State.modTrn_trn, if_pos rfl]

theorem State.modHbm_hbm (s : State) (i j : Nat) (f : Hbm → Hbm) :
    (s.modHbm i f).hbm j = if j = i then f (s.hbm i) else s.hbm j := by
  simp only [State.hbm, State.modHbm, Laws.sget_smod]

@[simp] theorem State.modHbm_hbm_same (s : State) (i : Nat) (f : Hbm → Hbm) : (s.modHbm i f).hbm i = f (s.hbm i) := by
  rw [State.modHbm_hbm, if_pos rfl]

theorem State.modDdr_ddr (s : State) (i j : Nat) (f : Ddr → Ddr) :
    (s.modDdr i f).ddr j = if j = i then f (s.ddr i) else s.ddr j := by
  simp only [State.ddr, State.modDdr, Laws.sget_smod]

@[simp] theorem State.modDdr_ddr_same (s : State) (i : Nat) (f : Ddr → Ddr) : (s.modDdr i f).ddr i = f (s.ddr i) := by
  rw [State.modDdr_ddr, if_pos rfl]

theorem State.modSpk_spk (s : State) (k q : Nat) (f : SpokeSt → SpokeSt) :
    (s.modSpk k f).spk q = if q = k then f (s.spk k) else s.spk q := by
  simp only [State.spk, State.modSpk, Laws.sget_smod]

@[simp] theorem State.modSpk_spk_same (s : State) (k : Nat) (f : SpokeSt → SpokeSt) : (s.modSpk k f).spk k = f (s.spk k) := by
  rw [State.modSpk_spk, if_pos rfl]

theorem State.modStation_station (s : State) (i j : Nat) (f : Station → Station) :
    (s.modStation i f).station j = if j = i then f (s.station i) else s.station j := by
  simp only [State.station, State.modStation, Laws.sget_smod]

@[simp] theorem State.modStation_station_same (s : State) (i : Nat) (f : Station → Station) : (s.modStation i f).station i = f (s.station i) := by
  rw [State.modStation_station, if_pos rfl]

theorem State.modStrobe_strobe (s : State) (g q : Nat) (f : Strobe → Strobe) :
    (s.modStrobe g f).strobe q = if q = g then f (s.strobe g) else s.strobe q := by
  simp only [State.strobe, State.modStrobe, Laws.sget_smod]

@[simp] theorem State.modStrobe_strobe_same (s : State) (g : Nat) (f : Strobe → Strobe) : (s.modStrobe g f).strobe g = f (s.strobe g) := by
  rw [State.modStrobe_strobe, if_pos rfl]

theorem State.modPll_pll (s : State) (p q : Nat) (f : Pll → Pll) :
    (s.modPll p f).pll q = if q = p then f (s.pll p) else s.pll q := by
  simp only [State.pll, State.modPll, Laws.sget_smod]

@[simp] theorem State.modPll_pll_same (s : State) (p : Nat) (f : Pll → Pll) : (s.modPll p f).pll p = f (s.pll p) := by
  rw [State.modPll_pll, if_pos rfl]

theorem State.modRamp_ramp (s : State) (g q : Nat) (f : Ramp → Ramp) :
    (s.modRamp g f).ramp q = if q = g then f (s.ramp g) else s.ramp q := by
  simp only [State.ramp, State.modRamp, Laws.sget_smod]

@[simp] theorem State.modRamp_ramp_same (s : State) (g : Nat) (f : Ramp → Ramp) : (s.modRamp g f).ramp g = f (s.ramp g) := by
  rw [State.modRamp_ramp, if_pos rfl]

theorem State.modUnit_unit (s : State) (i j : Nat) (f : UnitSt → UnitSt) :
    (s.modUnit i f).unit j = if j = i then f (s.unit i) else s.unit j := by
  simp only [State.unit, State.modUnit, Laws.sget_smod]

@[simp] theorem State.modUnit_unit_same (s : State) (i : Nat) (f : UnitSt → UnitSt) : (s.modUnit i f).unit i = f (s.unit i) := by
  rw [State.modUnit_unit, if_pos rfl]

theorem State.modRest_rest (s : State) (p q : Nat) (f : Rb 2 → Rb 2) :
    (s.modRest p f).rest q = if q = p then f (s.rest p) else s.rest q := by
  simp only [State.rest, State.modRest, Laws.sget_smod]

@[simp] theorem State.modRest_rest_same (s : State) (p : Nat) (f : Rb 2 → Rb 2) : (s.modRest p f).rest p = f (s.rest p) := by
  rw [State.modRest_rest, if_pos rfl]

theorem State.modAllot_allot (s : State) (n m : Nat) (f : AllotSt → AllotSt) :
    (s.modAllot n f).allot m = if m = n then (s.allot n).map f else s.allot m := by
  simp only [State.modAllot, State.allot, Laws.sfind_sadj]

@[simp] theorem State.modAllot_allot_same (s : State) (n : Nat) (f : AllotSt → AllotSt) :
    (s.modAllot n f).allot n = (s.allot n).map f := by
  rw [State.modAllot_allot, if_pos rfl]

end Sys2Proof.Machine
end

