-- ==== Sys2Proof/Laws/Ops.lean ====
section
/-! SUPPORT. What each shared operation can do: the parts of the state that it may change, the fault record that it leaves
and the completion entry that it queues. -/

namespace Sys2Proof.Machine

/-- The tick of cadence time now is the tick that runs. -/
@[simp] theorem tickOf_now (s : State) : tickOf s.now = s.cad.tick := by
  unfold tickOf State.now fld
  ext i hi
  rw [BitVec.getElem_extractLsb', Nat.zero_add, BitVec.getLsbD_append, if_pos hi, BitVec.getLsbD_eq_getElem hi]

/-! ### The parts that may change -/

theorem pushEvent_frame (ty : BitVec 16) (fl : Byte) (st : Time) (c : Word) (x : BitVec 64) (s : State) :
    pushEvent ty fl st c x s =
      { s with mgmt := (pushEvent ty fl st c x s).mgmt, out := (pushEvent ty fl st c x s).out } := rfl

theorem queueEventAt_frame (t : Time) (ty : BitVec 16) (fl : Byte) (c : Word) (x : BitVec 64) (s : State) :
    queueEventAt t ty fl c x s =
      { s with mgmt := (queueEventAt t ty fl c x s).mgmt, out := (queueEventAt t ty fl c x s).out } := by
  unfold queueEventAt
  dsimp only
  split_ifs <;> rfl

theorem queueEvent_frame (ty : BitVec 16) (fl : Byte) (c : Word) (x : BitVec 64) (s : State) :
    queueEvent ty fl c x s =
      { s with mgmt := (queueEvent ty fl c x s).mgmt, out := (queueEvent ty fl c x s).out } :=
  queueEventAt_frame s.now ty fl c x s

theorem writeFaultAt_frame (t : Time) (code : Word) (sl : BitVec 12) (die : BitVec 3) (a : Byte) (e : Option (BitVec 24))
    (s : State) :
    writeFaultAt t code sl die a e s =
      { s with frc := (writeFaultAt t code sl die a e s).frc, mgmt := (writeFaultAt t code sl die a e s).mgmt,
               out := (writeFaultAt t code sl die a e s).out } := by
  unfold writeFaultAt
  dsimp only
  rw [queueEventAt_frame]

theorem writeFault_frame (code : Word) (sl : BitVec 12) (die : BitVec 3) (a : Byte) (e : Option (BitVec 24)) (s : State) :
    writeFault code sl die a e s =
      { s with frc := (writeFault code sl die a e s).frc, mgmt := (writeFault code sl die a e s).mgmt,
               out := (writeFault code sl die a e s).out } :=
  writeFaultAt_frame s.now code sl die a e s

theorem allotFault_frame (n : Nat) (code : Word) (die : BitVec 3) (a : Byte) (e : Option (BitVec 24)) (s : State) :
    allotFault n code die a e s =
      { s with allots := (allotFault n code die a e s).allots, frc := (allotFault n code die a e s).frc,
               mgmt := (allotFault n code die a e s).mgmt, out := (allotFault n code die a e s).out } := by
  unfold allotFault stopAllot State.modAllot
  rw [writeFault_frame]

theorem complete_frame (r : Nat) (c : Completion) (s : State) :
    complete r c s = { s with rings := (complete r c s).rings } := rfl

theorem alertEvent_frame (new : BitVec 8) (i : Nat) (s : State) :
    alertEvent new i s = { s with mgmt := (alertEvent new i s).mgmt, out := (alertEvent new i s).out } := by
  unfold alertEvent
  split_ifs
  · rfl
  all_goals exact queueEvent_frame _ _ _ _ _

theorem alertFold_frame (new : BitVec 8) (l : List Nat) (s : State) :
    ∃ m o, l.foldl (fun s i => alertEvent new i s) s = { s with mgmt := m, out := o } := by
  induction l generalizing s with
  | nil => exact ⟨s.mgmt, s.out, rfl⟩
  | cons i l ih =>
    obtain ⟨m, o, h⟩ := ih (alertEvent new i s)
    exact ⟨m, o, by rw [List.foldl_cons, h, alertEvent_frame]⟩

theorem alertEvents_frame (s : State) :
    alertEvents s = { s with mgmt := (alertEvents s).mgmt, out := (alertEvents s).out, ports := (alertEvents s).ports,
                             evtSeen := (alertEvents s).evtSeen, evtMsg := (alertEvents s).evtMsg } := by
  obtain ⟨m, o, h⟩ := alertFold_frame (evtBits s) (List.range 8) s
  unfold alertEvents alertMessages
  simp only [h, State.modPort]

theorem recompute_frame (s : State) :
    recompute s = { s with pwr := (recompute s).pwr, mgmt := (recompute s).mgmt, out := (recompute s).out,
                           ports := (recompute s).ports, evtSeen := (recompute s).evtSeen,
                           evtMsg := (recompute s).evtMsg } := by
  unfold recompute
  dsimp only
  split_ifs
  · rw [alertEvents_frame]
  · rfl

/-! ### queueEventAt -/

@[simp] theorem queueEventAt_cad (t : Time) (ty : BitVec 16) (fl : Byte) (c : Word) (x : BitVec 64) (s : State) :
    (queueEventAt t ty fl c x s).cad = s.cad := by rw [queueEventAt_frame]
@[simp] theorem queueEventAt_plls (t : Time) (ty : BitVec 16) (fl : Byte) (c : Word) (x : BitVec 64) (s : State) :
    (queueEventAt t ty fl c x s).plls = s.plls := by rw [queueEventAt_frame]
@[simp] theorem queueEventAt_gear (t : Time) (ty : BitVec 16) (fl : Byte) (c : Word) (x : BitVec 64) (s : State) :
    (queueEventAt t ty fl c x s).gear = s.gear := by rw [queueEventAt_frame]
@[simp] theorem queueEventAt_pwr (t : Time) (ty : BitVec 16) (fl : Byte) (c : Word) (x : BitVec 64) (s : State) :
    (queueEventAt t ty fl c x s).pwr = s.pwr := by rw [queueEventAt_frame]
@[simp] theorem queueEventAt_ramps (t : Time) (ty : BitVec 16) (fl : Byte) (c : Word) (x : BitVec 64) (s : State) :
    (queueEventAt t ty fl c x s).ramps = s.ramps := by rw [queueEventAt_frame]
@[simp] theorem queueEventAt_rests (t : Time) (ty : BitVec 16) (fl : Byte) (c : Word) (x : BitVec 64) (s : State) :
    (queueEventAt t ty fl c x s).rests = s.rests := by rw [queueEventAt_frame]
@[simp] theorem queueEventAt_thm (t : Time) (ty : BitVec 16) (fl : Byte) (c : Word) (x : BitVec 64) (s : State) :
    (queueEventAt t ty fl c x s).thm = s.thm := by rw [queueEventAt_frame]
@[simp] theorem queueEventAt_acc (t : Time) (ty : BitVec 16) (fl : Byte) (c : Word) (x : BitVec 64) (s : State) :
    (queueEventAt t ty fl c x s).acc = s.acc := by rw [queueEventAt_frame]
@[simp] theorem queueEventAt_hold (t : Time) (ty : BitVec 16) (fl : Byte) (c : Word) (x : BitVec 64) (s : State) :
    (queueEventAt t ty fl c x s).hold = s.hold := by rw [queueEventAt_frame]
@[simp] theorem queueEventAt_boot (t : Time) (ty : BitVec 16) (fl : Byte) (c : Word) (x : BitVec 64) (s : State) :
    (queueEventAt t ty fl c x s).boot = s.boot := by rw [queueEventAt_frame]
@[simp] theorem queueEventAt_frc (t : Time) (ty : BitVec 16) (fl : Byte) (c : Word) (x : BitVec 64) (s : State) :
    (queueEventAt t ty fl c x s).frc = s.frc := by rw [queueEventAt_frame]
@[simp] theorem queueEventAt_steward (t : Time) (ty : BitVec 16) (fl : Byte) (c : Word) (x : BitVec 64) (s : State) :
    (queueEventAt t ty fl c x s).steward = s.steward := by rw [queueEventAt_frame]
@[simp] theorem queueEventAt_ports (t : Time) (ty : BitVec 16) (fl : Byte) (c : Word) (x : BitVec 64) (s : State) :
    (queueEventAt t ty fl c x s).ports = s.ports := by rw [queueEventAt_frame]
@[simp] theorem queueEventAt_sgrpSel (t : Time) (ty : BitVec 16) (fl : Byte) (c : Word) (x : BitVec 64) (s : State) :
    (queueEventAt t ty fl c x s).sgrpSel = s.sgrpSel := by rw [queueEventAt_frame]
@[simp] theorem queueEventAt_strobes (t : Time) (ty : BitVec 16) (fl : Byte) (c : Word) (x : BitVec 64) (s : State) :
    (queueEventAt t ty fl c x s).strobes = s.strobes := by rw [queueEventAt_frame]
@[simp] theorem queueEventAt_rings (t : Time) (ty : BitVec 16) (fl : Byte) (c : Word) (x : BitVec 64) (s : State) :
    (queueEventAt t ty fl c x s).rings = s.rings := by rw [queueEventAt_frame]
@[simp] theorem queueEventAt_allots (t : Time) (ty : BitVec 16) (fl : Byte) (c : Word) (x : BitVec 64) (s : State) :
    (queueEventAt t ty fl c x s).allots = s.allots := by rw [queueEventAt_frame]
@[simp] theorem queueEventAt_images (t : Time) (ty : BitVec 16) (fl : Byte) (c : Word) (x : BitVec 64) (s : State) :
    (queueEventAt t ty fl c x s).images = s.images := by rw [queueEventAt_frame]
@[simp] theorem queueEventAt_nextImage (t : Time) (ty : BitVec 16) (fl : Byte) (c : Word) (x : BitVec 64) (s : State) :
    (queueEventAt t ty fl c x s).nextImage = s.nextImage := by rw [queueEventAt_frame]
@[simp] theorem queueEventAt_load (t : Time) (ty : BitVec 16) (fl : Byte) (c : Word) (x : BitVec 64) (s : State) :
    (queueEventAt t ty fl c x s).load = s.load := by rw [queueEventAt_frame]
@[simp] theorem queueEventAt_dying (t : Time) (ty : BitVec 16) (fl : Byte) (c : Word) (x : BitVec 64) (s : State) :
    (queueEventAt t ty fl c x s).dying = s.dying := by rw [queueEventAt_frame]
@[simp] theorem queueEventAt_zeroing (t : Time) (ty : BitVec 16) (fl : Byte) (c : Word) (x : BitVec 64) (s : State) :
    (queueEventAt t ty fl c x s).zeroing = s.zeroing := by rw [queueEventAt_frame]
@[simp] theorem queueEventAt_bankWrites (t : Time) (ty : BitVec 16) (fl : Byte) (c : Word) (x : BitVec 64) (s : State) :
    (queueEventAt t ty fl c x s).bankWrites = s.bankWrites := by rw [queueEventAt_frame]
@[simp] theorem queueEventAt_bridges (t : Time) (ty : BitVec 16) (fl : Byte) (c : Word) (x : BitVec 64) (s : State) :
    (queueEventAt t ty fl c x s).bridges = s.bridges := by rw [queueEventAt_frame]
@[simp] theorem queueEventAt_arrays (t : Time) (ty : BitVec 16) (fl : Byte) (c : Word) (x : BitVec 64) (s : State) :
    (queueEventAt t ty fl c x s).arrays = s.arrays := by rw [queueEventAt_frame]
@[simp] theorem queueEventAt_movers (t : Time) (ty : BitVec 16) (fl : Byte) (c : Word) (x : BitVec 64) (s : State) :
    (queueEventAt t ty fl c x s).movers = s.movers := by rw [queueEventAt_frame]
@[simp] theorem queueEventAt_trns (t : Time) (ty : BitVec 16) (fl : Byte) (c : Word) (x : BitVec 64) (s : State) :
    (queueEventAt t ty fl c x s).trns = s.trns := by rw [queueEventAt_frame]
@[simp] theorem queueEventAt_chunkCrcs (t : Time) (ty : BitVec 16) (fl : Byte) (c : Word) (x : BitVec 64) (s : State) :
    (queueEventAt t ty fl c x s).chunkCrcs = s.chunkCrcs := by rw [queueEventAt_frame]
@[simp] theorem queueEventAt_hbms (t : Time) (ty : BitVec 16) (fl : Byte) (c : Word) (x : BitVec 64) (s : State) :
    (queueEventAt t ty fl c x s).hbms = s.hbms := by rw [queueEventAt_frame]
@[simp] theorem queueEventAt_ddrs (t : Time) (ty : BitVec 16) (fl : Byte) (c : Word) (x : BitVec 64) (s : State) :
    (queueEventAt t ty fl c x s).ddrs = s.ddrs := by rw [queueEventAt_frame]
@[simp] theorem queueEventAt_capGib (t : Time) (ty : BitVec 16) (fl : Byte) (c : Word) (x : BitVec 64) (s : State) :
    (queueEventAt t ty fl c x s).capGib = s.capGib := by rw [queueEventAt_frame]
@[simp] theorem queueEventAt_self (t : Time) (ty : BitVec 16) (fl : Byte) (c : Word) (x : BitVec 64) (s : State) :
    (queueEventAt t ty fl c x s).self = s.self := by rw [queueEventAt_frame]
@[simp] theorem queueEventAt_spokes (t : Time) (ty : BitVec 16) (fl : Byte) (c : Word) (x : BitVec 64) (s : State) :
    (queueEventAt t ty fl c x s).spokes = s.spokes := by rw [queueEventAt_frame]
@[simp] theorem queueEventAt_ownMarks (t : Time) (ty : BitVec 16) (fl : Byte) (c : Word) (x : BitVec 64) (s : State) :
    (queueEventAt t ty fl c x s).ownMarks = s.ownMarks := by rw [queueEventAt_frame]
@[simp] theorem queueEventAt_stations (t : Time) (ty : BitVec 16) (fl : Byte) (c : Word) (x : BitVec 64) (s : State) :
    (queueEventAt t ty fl c x s).stations = s.stations := by rw [queueEventAt_frame]
@[simp] theorem queueEventAt_ringAt (t : Time) (ty : BitVec 16) (fl : Byte) (c : Word) (x : BitVec 64) (s : State) :
    (queueEventAt t ty fl c x s).ringAt = s.ringAt := by rw [queueEventAt_frame]
@[simp] theorem queueEventAt_rte (t : Time) (ty : BitVec 16) (fl : Byte) (c : Word) (x : BitVec 64) (s : State) :
    (queueEventAt t ty fl c x s).rte = s.rte := by rw [queueEventAt_frame]
@[simp] theorem queueEventAt_lodge (t : Time) (ty : BitVec 16) (fl : Byte) (c : Word) (x : BitVec 64) (s : State) :
    (queueEventAt t ty fl c x s).lodge = s.lodge := by rw [queueEventAt_frame]
@[simp] theorem queueEventAt_flash (t : Time) (ty : BitVec 16) (fl : Byte) (c : Word) (x : BitVec 64) (s : State) :
    (queueEventAt t ty fl c x s).flash = s.flash := by rw [queueEventAt_frame]
@[simp] theorem queueEventAt_upd (t : Time) (ty : BitVec 16) (fl : Byte) (c : Word) (x : BitVec 64) (s : State) :
    (queueEventAt t ty fl c x s).upd = s.upd := by rw [queueEventAt_frame]
@[simp] theorem queueEventAt_mem (t : Time) (ty : BitVec 16) (fl : Byte) (c : Word) (x : BitVec 64) (s : State) :
    (queueEventAt t ty fl c x s).mem = s.mem := by rw [queueEventAt_frame]
@[simp] theorem queueEventAt_scr (t : Time) (ty : BitVec 16) (fl : Byte) (c : Word) (x : BitVec 64) (s : State) :
    (queueEventAt t ty fl c x s).scr = s.scr := by rw [queueEventAt_frame]
@[simp] theorem queueEventAt_wslots (t : Time) (ty : BitVec 16) (fl : Byte) (c : Word) (x : BitVec 64) (s : State) :
    (queueEventAt t ty fl c x s).wslots = s.wslots := by rw [queueEventAt_frame]
@[simp] theorem queueEventAt_stage (t : Time) (ty : BitVec 16) (fl : Byte) (c : Word) (x : BitVec 64) (s : State) :
    (queueEventAt t ty fl c x s).stage = s.stage := by rw [queueEventAt_frame]
@[simp] theorem queueEventAt_upset (t : Time) (ty : BitVec 16) (fl : Byte) (c : Word) (x : BitVec 64) (s : State) :
    (queueEventAt t ty fl c x s).upset = s.upset := by rw [queueEventAt_frame]
@[simp] theorem queueEventAt_live (t : Time) (ty : BitVec 16) (fl : Byte) (c : Word) (x : BitVec 64) (s : State) :
    (queueEventAt t ty fl c x s).live = s.live := by rw [queueEventAt_frame]
@[simp] theorem queueEventAt_latched (t : Time) (ty : BitVec 16) (fl : Byte) (c : Word) (x : BitVec 64) (s : State) :
    (queueEventAt t ty fl c x s).latched = s.latched := by rw [queueEventAt_frame]
@[simp] theorem queueEventAt_evtSeen (t : Time) (ty : BitVec 16) (fl : Byte) (c : Word) (x : BitVec 64) (s : State) :
    (queueEventAt t ty fl c x s).evtSeen = s.evtSeen := by rw [queueEventAt_frame]
@[simp] theorem queueEventAt_evtMsg (t : Time) (ty : BitVec 16) (fl : Byte) (c : Word) (x : BitVec 64) (s : State) :
    (queueEventAt t ty fl c x s).evtMsg = s.evtMsg := by rw [queueEventAt_frame]
@[simp] theorem queueEventAt_fresh (t : Time) (ty : BitVec 16) (fl : Byte) (c : Word) (x : BitVec 64) (s : State) :
    (queueEventAt t ty fl c x s).fresh = s.fresh := by rw [queueEventAt_frame]
@[simp] theorem queueEventAt_pending (t : Time) (ty : BitVec 16) (fl : Byte) (c : Word) (x : BitVec 64) (s : State) :
    (queueEventAt t ty fl c x s).pending = s.pending := by rw [queueEventAt_frame]

/-! ### queueEvent -/

@[simp] theorem queueEvent_cad (ty : BitVec 16) (fl : Byte) (c : Word) (x : BitVec 64) (s : State) :
    (queueEvent ty fl c x s).cad = s.cad := by rw [queueEvent_frame]
@[simp] theorem queueEvent_plls (ty : BitVec 16) (fl : Byte) (c : Word) (x : BitVec 64) (s : State) :
    (queueEvent ty fl c x s).plls = s.plls := by rw [queueEvent_frame]
@[simp] theorem queueEvent_gear (ty : BitVec 16) (fl : Byte) (c : Word) (x : BitVec 64) (s : State) :
    (queueEvent ty fl c x s).gear = s.gear := by rw [queueEvent_frame]
@[simp] theorem queueEvent_pwr (ty : BitVec 16) (fl : Byte) (c : Word) (x : BitVec 64) (s : State) :
    (queueEvent ty fl c x s).pwr = s.pwr := by rw [queueEvent_frame]
@[simp] theorem queueEvent_ramps (ty : BitVec 16) (fl : Byte) (c : Word) (x : BitVec 64) (s : State) :
    (queueEvent ty fl c x s).ramps = s.ramps := by rw [queueEvent_frame]
@[simp] theorem queueEvent_rests (ty : BitVec 16) (fl : Byte) (c : Word) (x : BitVec 64) (s : State) :
    (queueEvent ty fl c x s).rests = s.rests := by rw [queueEvent_frame]
@[simp] theorem queueEvent_thm (ty : BitVec 16) (fl : Byte) (c : Word) (x : BitVec 64) (s : State) :
    (queueEvent ty fl c x s).thm = s.thm := by rw [queueEvent_frame]
@[simp] theorem queueEvent_acc (ty : BitVec 16) (fl : Byte) (c : Word) (x : BitVec 64) (s : State) :
    (queueEvent ty fl c x s).acc = s.acc := by rw [queueEvent_frame]
@[simp] theorem queueEvent_hold (ty : BitVec 16) (fl : Byte) (c : Word) (x : BitVec 64) (s : State) :
    (queueEvent ty fl c x s).hold = s.hold := by rw [queueEvent_frame]
@[simp] theorem queueEvent_boot (ty : BitVec 16) (fl : Byte) (c : Word) (x : BitVec 64) (s : State) :
    (queueEvent ty fl c x s).boot = s.boot := by rw [queueEvent_frame]
@[simp] theorem queueEvent_frc (ty : BitVec 16) (fl : Byte) (c : Word) (x : BitVec 64) (s : State) :
    (queueEvent ty fl c x s).frc = s.frc := by rw [queueEvent_frame]
@[simp] theorem queueEvent_steward (ty : BitVec 16) (fl : Byte) (c : Word) (x : BitVec 64) (s : State) :
    (queueEvent ty fl c x s).steward = s.steward := by rw [queueEvent_frame]
@[simp] theorem queueEvent_ports (ty : BitVec 16) (fl : Byte) (c : Word) (x : BitVec 64) (s : State) :
    (queueEvent ty fl c x s).ports = s.ports := by rw [queueEvent_frame]
@[simp] theorem queueEvent_sgrpSel (ty : BitVec 16) (fl : Byte) (c : Word) (x : BitVec 64) (s : State) :
    (queueEvent ty fl c x s).sgrpSel = s.sgrpSel := by rw [queueEvent_frame]
@[simp] theorem queueEvent_strobes (ty : BitVec 16) (fl : Byte) (c : Word) (x : BitVec 64) (s : State) :
    (queueEvent ty fl c x s).strobes = s.strobes := by rw [queueEvent_frame]
@[simp] theorem queueEvent_rings (ty : BitVec 16) (fl : Byte) (c : Word) (x : BitVec 64) (s : State) :
    (queueEvent ty fl c x s).rings = s.rings := by rw [queueEvent_frame]
@[simp] theorem queueEvent_allots (ty : BitVec 16) (fl : Byte) (c : Word) (x : BitVec 64) (s : State) :
    (queueEvent ty fl c x s).allots = s.allots := by rw [queueEvent_frame]
@[simp] theorem queueEvent_images (ty : BitVec 16) (fl : Byte) (c : Word) (x : BitVec 64) (s : State) :
    (queueEvent ty fl c x s).images = s.images := by rw [queueEvent_frame]
@[simp] theorem queueEvent_nextImage (ty : BitVec 16) (fl : Byte) (c : Word) (x : BitVec 64) (s : State) :
    (queueEvent ty fl c x s).nextImage = s.nextImage := by rw [queueEvent_frame]
@[simp] theorem queueEvent_load (ty : BitVec 16) (fl : Byte) (c : Word) (x : BitVec 64) (s : State) :
    (queueEvent ty fl c x s).load = s.load := by rw [queueEvent_frame]
@[simp] theorem queueEvent_dying (ty : BitVec 16) (fl : Byte) (c : Word) (x : BitVec 64) (s : State) :
    (queueEvent ty fl c x s).dying = s.dying := by rw [queueEvent_frame]
@[simp] theorem queueEvent_zeroing (ty : BitVec 16) (fl : Byte) (c : Word) (x : BitVec 64) (s : State) :
    (queueEvent ty fl c x s).zeroing = s.zeroing := by rw [queueEvent_frame]
@[simp] theorem queueEvent_bankWrites (ty : BitVec 16) (fl : Byte) (c : Word) (x : BitVec 64) (s : State) :
    (queueEvent ty fl c x s).bankWrites = s.bankWrites := by rw [queueEvent_frame]
@[simp] theorem queueEvent_bridges (ty : BitVec 16) (fl : Byte) (c : Word) (x : BitVec 64) (s : State) :
    (queueEvent ty fl c x s).bridges = s.bridges := by rw [queueEvent_frame]
@[simp] theorem queueEvent_arrays (ty : BitVec 16) (fl : Byte) (c : Word) (x : BitVec 64) (s : State) :
    (queueEvent ty fl c x s).arrays = s.arrays := by rw [queueEvent_frame]
@[simp] theorem queueEvent_movers (ty : BitVec 16) (fl : Byte) (c : Word) (x : BitVec 64) (s : State) :
    (queueEvent ty fl c x s).movers = s.movers := by rw [queueEvent_frame]
@[simp] theorem queueEvent_trns (ty : BitVec 16) (fl : Byte) (c : Word) (x : BitVec 64) (s : State) :
    (queueEvent ty fl c x s).trns = s.trns := by rw [queueEvent_frame]
@[simp] theorem queueEvent_chunkCrcs (ty : BitVec 16) (fl : Byte) (c : Word) (x : BitVec 64) (s : State) :
    (queueEvent ty fl c x s).chunkCrcs = s.chunkCrcs := by rw [queueEvent_frame]
@[simp] theorem queueEvent_hbms (ty : BitVec 16) (fl : Byte) (c : Word) (x : BitVec 64) (s : State) :
    (queueEvent ty fl c x s).hbms = s.hbms := by rw [queueEvent_frame]
@[simp] theorem queueEvent_ddrs (ty : BitVec 16) (fl : Byte) (c : Word) (x : BitVec 64) (s : State) :
    (queueEvent ty fl c x s).ddrs = s.ddrs := by rw [queueEvent_frame]
@[simp] theorem queueEvent_capGib (ty : BitVec 16) (fl : Byte) (c : Word) (x : BitVec 64) (s : State) :
    (queueEvent ty fl c x s).capGib = s.capGib := by rw [queueEvent_frame]
@[simp] theorem queueEvent_self (ty : BitVec 16) (fl : Byte) (c : Word) (x : BitVec 64) (s : State) :
    (queueEvent ty fl c x s).self = s.self := by rw [queueEvent_frame]
@[simp] theorem queueEvent_spokes (ty : BitVec 16) (fl : Byte) (c : Word) (x : BitVec 64) (s : State) :
    (queueEvent ty fl c x s).spokes = s.spokes := by rw [queueEvent_frame]
@[simp] theorem queueEvent_ownMarks (ty : BitVec 16) (fl : Byte) (c : Word) (x : BitVec 64) (s : State) :
    (queueEvent ty fl c x s).ownMarks = s.ownMarks := by rw [queueEvent_frame]
@[simp] theorem queueEvent_stations (ty : BitVec 16) (fl : Byte) (c : Word) (x : BitVec 64) (s : State) :
    (queueEvent ty fl c x s).stations = s.stations := by rw [queueEvent_frame]
@[simp] theorem queueEvent_ringAt (ty : BitVec 16) (fl : Byte) (c : Word) (x : BitVec 64) (s : State) :
    (queueEvent ty fl c x s).ringAt = s.ringAt := by rw [queueEvent_frame]
@[simp] theorem queueEvent_rte (ty : BitVec 16) (fl : Byte) (c : Word) (x : BitVec 64) (s : State) :
    (queueEvent ty fl c x s).rte = s.rte := by rw [queueEvent_frame]
@[simp] theorem queueEvent_lodge (ty : BitVec 16) (fl : Byte) (c : Word) (x : BitVec 64) (s : State) :
    (queueEvent ty fl c x s).lodge = s.lodge := by rw [queueEvent_frame]
@[simp] theorem queueEvent_flash (ty : BitVec 16) (fl : Byte) (c : Word) (x : BitVec 64) (s : State) :
    (queueEvent ty fl c x s).flash = s.flash := by rw [queueEvent_frame]
@[simp] theorem queueEvent_upd (ty : BitVec 16) (fl : Byte) (c : Word) (x : BitVec 64) (s : State) :
    (queueEvent ty fl c x s).upd = s.upd := by rw [queueEvent_frame]
@[simp] theorem queueEvent_mem (ty : BitVec 16) (fl : Byte) (c : Word) (x : BitVec 64) (s : State) :
    (queueEvent ty fl c x s).mem = s.mem := by rw [queueEvent_frame]
@[simp] theorem queueEvent_scr (ty : BitVec 16) (fl : Byte) (c : Word) (x : BitVec 64) (s : State) :
    (queueEvent ty fl c x s).scr = s.scr := by rw [queueEvent_frame]
@[simp] theorem queueEvent_wslots (ty : BitVec 16) (fl : Byte) (c : Word) (x : BitVec 64) (s : State) :
    (queueEvent ty fl c x s).wslots = s.wslots := by rw [queueEvent_frame]
@[simp] theorem queueEvent_stage (ty : BitVec 16) (fl : Byte) (c : Word) (x : BitVec 64) (s : State) :
    (queueEvent ty fl c x s).stage = s.stage := by rw [queueEvent_frame]
@[simp] theorem queueEvent_upset (ty : BitVec 16) (fl : Byte) (c : Word) (x : BitVec 64) (s : State) :
    (queueEvent ty fl c x s).upset = s.upset := by rw [queueEvent_frame]
@[simp] theorem queueEvent_live (ty : BitVec 16) (fl : Byte) (c : Word) (x : BitVec 64) (s : State) :
    (queueEvent ty fl c x s).live = s.live := by rw [queueEvent_frame]
@[simp] theorem queueEvent_latched (ty : BitVec 16) (fl : Byte) (c : Word) (x : BitVec 64) (s : State) :
    (queueEvent ty fl c x s).latched = s.latched := by rw [queueEvent_frame]
@[simp] theorem queueEvent_evtSeen (ty : BitVec 16) (fl : Byte) (c : Word) (x : BitVec 64) (s : State) :
    (queueEvent ty fl c x s).evtSeen = s.evtSeen := by rw [queueEvent_frame]
@[simp] theorem queueEvent_evtMsg (ty : BitVec 16) (fl : Byte) (c : Word) (x : BitVec 64) (s : State) :
    (queueEvent ty fl c x s).evtMsg = s.evtMsg := by rw [queueEvent_frame]
@[simp] theorem queueEvent_fresh (ty : BitVec 16) (fl : Byte) (c : Word) (x : BitVec 64) (s : State) :
    (queueEvent ty fl c x s).fresh = s.fresh := by rw [queueEvent_frame]
@[simp] theorem queueEvent_pending (ty : BitVec 16) (fl : Byte) (c : Word) (x : BitVec 64) (s : State) :
    (queueEvent ty fl c x s).pending = s.pending := by rw [queueEvent_frame]

/-! ### writeFault -/

@[simp] theorem writeFault_cad (code : Word) (sl : BitVec 12) (die : BitVec 3) (a : Byte) (e : Option (BitVec 24)) (s : State) :
    (writeFault code sl die a e s).cad = s.cad := by rw [writeFault_frame]
@[simp] theorem writeFault_plls (code : Word) (sl : BitVec 12) (die : BitVec 3) (a : Byte) (e : Option (BitVec 24)) (s : State) :
    (writeFault code sl die a e s).plls = s.plls := by rw [writeFault_frame]
@[simp] theorem writeFault_gear (code : Word) (sl : BitVec 12) (die : BitVec 3) (a : Byte) (e : Option (BitVec 24)) (s : State) :
    (writeFault code sl die a e s).gear = s.gear := by rw [writeFault_frame]
@[simp] theorem writeFault_pwr (code : Word) (sl : BitVec 12) (die : BitVec 3) (a : Byte) (e : Option (BitVec 24)) (s : State) :
    (writeFault code sl die a e s).pwr = s.pwr := by rw [writeFault_frame]
@[simp] theorem writeFault_ramps (code : Word) (sl : BitVec 12) (die : BitVec 3) (a : Byte) (e : Option (BitVec 24)) (s : State) :
    (writeFault code sl die a e s).ramps = s.ramps := by rw [writeFault_frame]
@[simp] theorem writeFault_rests (code : Word) (sl : BitVec 12) (die : BitVec 3) (a : Byte) (e : Option (BitVec 24)) (s : State) :
    (writeFault code sl die a e s).rests = s.rests := by rw [writeFault_frame]
@[simp] theorem writeFault_thm (code : Word) (sl : BitVec 12) (die : BitVec 3) (a : Byte) (e : Option (BitVec 24)) (s : State) :
    (writeFault code sl die a e s).thm = s.thm := by rw [writeFault_frame]
@[simp] theorem writeFault_acc (code : Word) (sl : BitVec 12) (die : BitVec 3) (a : Byte) (e : Option (BitVec 24)) (s : State) :
    (writeFault code sl die a e s).acc = s.acc := by rw [writeFault_frame]
@[simp] theorem writeFault_hold (code : Word) (sl : BitVec 12) (die : BitVec 3) (a : Byte) (e : Option (BitVec 24)) (s : State) :
    (writeFault code sl die a e s).hold = s.hold := by rw [writeFault_frame]
@[simp] theorem writeFault_boot (code : Word) (sl : BitVec 12) (die : BitVec 3) (a : Byte) (e : Option (BitVec 24)) (s : State) :
    (writeFault code sl die a e s).boot = s.boot := by rw [writeFault_frame]
@[simp] theorem writeFault_steward (code : Word) (sl : BitVec 12) (die : BitVec 3) (a : Byte) (e : Option (BitVec 24)) (s : State) :
    (writeFault code sl die a e s).steward = s.steward := by rw [writeFault_frame]
@[simp] theorem writeFault_ports (code : Word) (sl : BitVec 12) (die : BitVec 3) (a : Byte) (e : Option (BitVec 24)) (s : State) :
    (writeFault code sl die a e s).ports = s.ports := by rw [writeFault_frame]
@[simp] theorem writeFault_sgrpSel (code : Word) (sl : BitVec 12) (die : BitVec 3) (a : Byte) (e : Option (BitVec 24)) (s : State) :
    (writeFault code sl die a e s).sgrpSel = s.sgrpSel := by rw [writeFault_frame]
@[simp] theorem writeFault_strobes (code : Word) (sl : BitVec 12) (die : BitVec 3) (a : Byte) (e : Option (BitVec 24)) (s : State) :
    (writeFault code sl die a e s).strobes = s.strobes := by rw [writeFault_frame]
@[simp] theorem writeFault_rings (code : Word) (sl : BitVec 12) (die : BitVec 3) (a : Byte) (e : Option (BitVec 24)) (s : State) :
    (writeFault code sl die a e s).rings = s.rings := by rw [writeFault_frame]
@[simp] theorem writeFault_allots (code : Word) (sl : BitVec 12) (die : BitVec 3) (a : Byte) (e : Option (BitVec 24)) (s : State) :
    (writeFault code sl die a e s).allots = s.allots := by rw [writeFault_frame]
@[simp] theorem writeFault_images (code : Word) (sl : BitVec 12) (die : BitVec 3) (a : Byte) (e : Option (BitVec 24)) (s : State) :
    (writeFault code sl die a e s).images = s.images := by rw [writeFault_frame]
@[simp] theorem writeFault_nextImage (code : Word) (sl : BitVec 12) (die : BitVec 3) (a : Byte) (e : Option (BitVec 24)) (s : State) :
    (writeFault code sl die a e s).nextImage = s.nextImage := by rw [writeFault_frame]
@[simp] theorem writeFault_load (code : Word) (sl : BitVec 12) (die : BitVec 3) (a : Byte) (e : Option (BitVec 24)) (s : State) :
    (writeFault code sl die a e s).load = s.load := by rw [writeFault_frame]
@[simp] theorem writeFault_dying (code : Word) (sl : BitVec 12) (die : BitVec 3) (a : Byte) (e : Option (BitVec 24)) (s : State) :
    (writeFault code sl die a e s).dying = s.dying := by rw [writeFault_frame]
@[simp] theorem writeFault_zeroing (code : Word) (sl : BitVec 12) (die : BitVec 3) (a : Byte) (e : Option (BitVec 24)) (s : State) :
    (writeFault code sl die a e s).zeroing = s.zeroing := by rw [writeFault_frame]
@[simp] theorem writeFault_bankWrites (code : Word) (sl : BitVec 12) (die : BitVec 3) (a : Byte) (e : Option (BitVec 24)) (s : State) :
    (writeFault code sl die a e s).bankWrites = s.bankWrites := by rw [writeFault_frame]
@[simp] theorem writeFault_bridges (code : Word) (sl : BitVec 12) (die : BitVec 3) (a : Byte) (e : Option (BitVec 24)) (s : State) :
    (writeFault code sl die a e s).bridges = s.bridges := by rw [writeFault_frame]
@[simp] theorem writeFault_arrays (code : Word) (sl : BitVec 12) (die : BitVec 3) (a : Byte) (e : Option (BitVec 24)) (s : State) :
    (writeFault code sl die a e s).arrays = s.arrays := by rw [writeFault_frame]
@[simp] theorem writeFault_movers (code : Word) (sl : BitVec 12) (die : BitVec 3) (a : Byte) (e : Option (BitVec 24)) (s : State) :
    (writeFault code sl die a e s).movers = s.movers := by rw [writeFault_frame]
@[simp] theorem writeFault_trns (code : Word) (sl : BitVec 12) (die : BitVec 3) (a : Byte) (e : Option (BitVec 24)) (s : State) :
    (writeFault code sl die a e s).trns = s.trns := by rw [writeFault_frame]
@[simp] theorem writeFault_chunkCrcs (code : Word) (sl : BitVec 12) (die : BitVec 3) (a : Byte) (e : Option (BitVec 24)) (s : State) :
    (writeFault code sl die a e s).chunkCrcs = s.chunkCrcs := by rw [writeFault_frame]
@[simp] theorem writeFault_hbms (code : Word) (sl : BitVec 12) (die : BitVec 3) (a : Byte) (e : Option (BitVec 24)) (s : State) :
    (writeFault code sl die a e s).hbms = s.hbms := by rw [writeFault_frame]
@[simp] theorem writeFault_ddrs (code : Word) (sl : BitVec 12) (die : BitVec 3) (a : Byte) (e : Option (BitVec 24)) (s : State) :
    (writeFault code sl die a e s).ddrs = s.ddrs := by rw [writeFault_frame]
@[simp] theorem writeFault_capGib (code : Word) (sl : BitVec 12) (die : BitVec 3) (a : Byte) (e : Option (BitVec 24)) (s : State) :
    (writeFault code sl die a e s).capGib = s.capGib := by rw [writeFault_frame]
@[simp] theorem writeFault_self (code : Word) (sl : BitVec 12) (die : BitVec 3) (a : Byte) (e : Option (BitVec 24)) (s : State) :
    (writeFault code sl die a e s).self = s.self := by rw [writeFault_frame]
@[simp] theorem writeFault_spokes (code : Word) (sl : BitVec 12) (die : BitVec 3) (a : Byte) (e : Option (BitVec 24)) (s : State) :
    (writeFault code sl die a e s).spokes = s.spokes := by rw [writeFault_frame]
@[simp] theorem writeFault_ownMarks (code : Word) (sl : BitVec 12) (die : BitVec 3) (a : Byte) (e : Option (BitVec 24)) (s : State) :
    (writeFault code sl die a e s).ownMarks = s.ownMarks := by rw [writeFault_frame]
@[simp] theorem writeFault_stations (code : Word) (sl : BitVec 12) (die : BitVec 3) (a : Byte) (e : Option (BitVec 24)) (s : State) :
    (writeFault code sl die a e s).stations = s.stations := by rw [writeFault_frame]
@[simp] theorem writeFault_ringAt (code : Word) (sl : BitVec 12) (die : BitVec 3) (a : Byte) (e : Option (BitVec 24)) (s : State) :
    (writeFault code sl die a e s).ringAt = s.ringAt := by rw [writeFault_frame]
@[simp] theorem writeFault_rte (code : Word) (sl : BitVec 12) (die : BitVec 3) (a : Byte) (e : Option (BitVec 24)) (s : State) :
    (writeFault code sl die a e s).rte = s.rte := by rw [writeFault_frame]
@[simp] theorem writeFault_lodge (code : Word) (sl : BitVec 12) (die : BitVec 3) (a : Byte) (e : Option (BitVec 24)) (s : State) :
    (writeFault code sl die a e s).lodge = s.lodge := by rw [writeFault_frame]
@[simp] theorem writeFault_flash (code : Word) (sl : BitVec 12) (die : BitVec 3) (a : Byte) (e : Option (BitVec 24)) (s : State) :
    (writeFault code sl die a e s).flash = s.flash := by rw [writeFault_frame]
@[simp] theorem writeFault_upd (code : Word) (sl : BitVec 12) (die : BitVec 3) (a : Byte) (e : Option (BitVec 24)) (s : State) :
    (writeFault code sl die a e s).upd = s.upd := by rw [writeFault_frame]
@[simp] theorem writeFault_mem (code : Word) (sl : BitVec 12) (die : BitVec 3) (a : Byte) (e : Option (BitVec 24)) (s : State) :
    (writeFault code sl die a e s).mem = s.mem := by rw [writeFault_frame]
@[simp] theorem writeFault_scr (code : Word) (sl : BitVec 12) (die : BitVec 3) (a : Byte) (e : Option (BitVec 24)) (s : State) :
    (writeFault code sl die a e s).scr = s.scr := by rw [writeFault_frame]
@[simp] theorem writeFault_wslots (code : Word) (sl : BitVec 12) (die : BitVec 3) (a : Byte) (e : Option (BitVec 24)) (s : State) :
    (writeFault code sl die a e s).wslots = s.wslots := by rw [writeFault_frame]
@[simp] theorem writeFault_stage (code : Word) (sl : BitVec 12) (die : BitVec 3) (a : Byte) (e : Option (BitVec 24)) (s : State) :
    (writeFault code sl die a e s).stage = s.stage := by rw [writeFault_frame]
@[simp] theorem writeFault_upset (code : Word) (sl : BitVec 12) (die : BitVec 3) (a : Byte) (e : Option (BitVec 24)) (s : State) :
    (writeFault code sl die a e s).upset = s.upset := by rw [writeFault_frame]
@[simp] theorem writeFault_live (code : Word) (sl : BitVec 12) (die : BitVec 3) (a : Byte) (e : Option (BitVec 24)) (s : State) :
    (writeFault code sl die a e s).live = s.live := by rw [writeFault_frame]
@[simp] theorem writeFault_latched (code : Word) (sl : BitVec 12) (die : BitVec 3) (a : Byte) (e : Option (BitVec 24)) (s : State) :
    (writeFault code sl die a e s).latched = s.latched := by rw [writeFault_frame]
@[simp] theorem writeFault_evtSeen (code : Word) (sl : BitVec 12) (die : BitVec 3) (a : Byte) (e : Option (BitVec 24)) (s : State) :
    (writeFault code sl die a e s).evtSeen = s.evtSeen := by rw [writeFault_frame]
@[simp] theorem writeFault_evtMsg (code : Word) (sl : BitVec 12) (die : BitVec 3) (a : Byte) (e : Option (BitVec 24)) (s : State) :
    (writeFault code sl die a e s).evtMsg = s.evtMsg := by rw [writeFault_frame]
@[simp] theorem writeFault_fresh (code : Word) (sl : BitVec 12) (die : BitVec 3) (a : Byte) (e : Option (BitVec 24)) (s : State) :
    (writeFault code sl die a e s).fresh = s.fresh := by rw [writeFault_frame]
@[simp] theorem writeFault_pending (code : Word) (sl : BitVec 12) (die : BitVec 3) (a : Byte) (e : Option (BitVec 24)) (s : State) :
    (writeFault code sl die a e s).pending = s.pending := by rw [writeFault_frame]

/-! ### allotFault -/

@[simp] theorem allotFault_cad (n : Nat) (code : Word) (die : BitVec 3) (a : Byte) (e : Option (BitVec 24)) (s : State) :
    (allotFault n code die a e s).cad = s.cad := by rw [allotFault_frame]
@[simp] theorem allotFault_plls (n : Nat) (code : Word) (die : BitVec 3) (a : Byte) (e : Option (BitVec 24)) (s : State) :
    (allotFault n code die a e s).plls = s.plls := by rw [allotFault_frame]
@[simp] theorem allotFault_gear (n : Nat) (code : Word) (die : BitVec 3) (a : Byte) (e : Option (BitVec 24)) (s : State) :
    (allotFault n code die a e s).gear = s.gear := by rw [allotFault_frame]
@[simp] theorem allotFault_pwr (n : Nat) (code : Word) (die : BitVec 3) (a : Byte) (e : Option (BitVec 24)) (s : State) :
    (allotFault n code die a e s).pwr = s.pwr := by rw [allotFault_frame]
@[simp] theorem allotFault_ramps (n : Nat) (code : Word) (die : BitVec 3) (a : Byte) (e : Option (BitVec 24)) (s : State) :
    (allotFault n code die a e s).ramps = s.ramps := by rw [allotFault_frame]
@[simp] theorem allotFault_rests (n : Nat) (code : Word) (die : BitVec 3) (a : Byte) (e : Option (BitVec 24)) (s : State) :
    (allotFault n code die a e s).rests = s.rests := by rw [allotFault_frame]
@[simp] theorem allotFault_thm (n : Nat) (code : Word) (die : BitVec 3) (a : Byte) (e : Option (BitVec 24)) (s : State) :
    (allotFault n code die a e s).thm = s.thm := by rw [allotFault_frame]
@[simp] theorem allotFault_acc (n : Nat) (code : Word) (die : BitVec 3) (a : Byte) (e : Option (BitVec 24)) (s : State) :
    (allotFault n code die a e s).acc = s.acc := by rw [allotFault_frame]
@[simp] theorem allotFault_hold (n : Nat) (code : Word) (die : BitVec 3) (a : Byte) (e : Option (BitVec 24)) (s : State) :
    (allotFault n code die a e s).hold = s.hold := by rw [allotFault_frame]
@[simp] theorem allotFault_boot (n : Nat) (code : Word) (die : BitVec 3) (a : Byte) (e : Option (BitVec 24)) (s : State) :
    (allotFault n code die a e s).boot = s.boot := by rw [allotFault_frame]
@[simp] theorem allotFault_steward (n : Nat) (code : Word) (die : BitVec 3) (a : Byte) (e : Option (BitVec 24)) (s : State) :
    (allotFault n code die a e s).steward = s.steward := by rw [allotFault_frame]
@[simp] theorem allotFault_ports (n : Nat) (code : Word) (die : BitVec 3) (a : Byte) (e : Option (BitVec 24)) (s : State) :
    (allotFault n code die a e s).ports = s.ports := by rw [allotFault_frame]
@[simp] theorem allotFault_sgrpSel (n : Nat) (code : Word) (die : BitVec 3) (a : Byte) (e : Option (BitVec 24)) (s : State) :
    (allotFault n code die a e s).sgrpSel = s.sgrpSel := by rw [allotFault_frame]
@[simp] theorem allotFault_strobes (n : Nat) (code : Word) (die : BitVec 3) (a : Byte) (e : Option (BitVec 24)) (s : State) :
    (allotFault n code die a e s).strobes = s.strobes := by rw [allotFault_frame]
@[simp] theorem allotFault_rings (n : Nat) (code : Word) (die : BitVec 3) (a : Byte) (e : Option (BitVec 24)) (s : State) :
    (allotFault n code die a e s).rings = s.rings := by rw [allotFault_frame]
@[simp] theorem allotFault_images (n : Nat) (code : Word) (die : BitVec 3) (a : Byte) (e : Option (BitVec 24)) (s : State) :
    (allotFault n code die a e s).images = s.images := by rw [allotFault_frame]
@[simp] theorem allotFault_nextImage (n : Nat) (code : Word) (die : BitVec 3) (a : Byte) (e : Option (BitVec 24)) (s : State) :
    (allotFault n code die a e s).nextImage = s.nextImage := by rw [allotFault_frame]
@[simp] theorem allotFault_load (n : Nat) (code : Word) (die : BitVec 3) (a : Byte) (e : Option (BitVec 24)) (s : State) :
    (allotFault n code die a e s).load = s.load := by rw [allotFault_frame]
@[simp] theorem allotFault_dying (n : Nat) (code : Word) (die : BitVec 3) (a : Byte) (e : Option (BitVec 24)) (s : State) :
    (allotFault n code die a e s).dying = s.dying := by rw [allotFault_frame]
@[simp] theorem allotFault_zeroing (n : Nat) (code : Word) (die : BitVec 3) (a : Byte) (e : Option (BitVec 24)) (s : State) :
    (allotFault n code die a e s).zeroing = s.zeroing := by rw [allotFault_frame]
@[simp] theorem allotFault_bankWrites (n : Nat) (code : Word) (die : BitVec 3) (a : Byte) (e : Option (BitVec 24)) (s : State) :
    (allotFault n code die a e s).bankWrites = s.bankWrites := by rw [allotFault_frame]
@[simp] theorem allotFault_bridges (n : Nat) (code : Word) (die : BitVec 3) (a : Byte) (e : Option (BitVec 24)) (s : State) :
    (allotFault n code die a e s).bridges = s.bridges := by rw [allotFault_frame]
@[simp] theorem allotFault_arrays (n : Nat) (code : Word) (die : BitVec 3) (a : Byte) (e : Option (BitVec 24)) (s : State) :
    (allotFault n code die a e s).arrays = s.arrays := by rw [allotFault_frame]
@[simp] theorem allotFault_movers (n : Nat) (code : Word) (die : BitVec 3) (a : Byte) (e : Option (BitVec 24)) (s : State) :
    (allotFault n code die a e s).movers = s.movers := by rw [allotFault_frame]
@[simp] theorem allotFault_trns (n : Nat) (code : Word) (die : BitVec 3) (a : Byte) (e : Option (BitVec 24)) (s : State) :
    (allotFault n code die a e s).trns = s.trns := by rw [allotFault_frame]
@[simp] theorem allotFault_chunkCrcs (n : Nat) (code : Word) (die : BitVec 3) (a : Byte) (e : Option (BitVec 24)) (s : State) :
    (allotFault n code die a e s).chunkCrcs = s.chunkCrcs := by rw [allotFault_frame]
@[simp] theorem allotFault_hbms (n : Nat) (code : Word) (die : BitVec 3) (a : Byte) (e : Option (BitVec 24)) (s : State) :
    (allotFault n code die a e s).hbms = s.hbms := by rw [allotFault_frame]
@[simp] theorem allotFault_ddrs (n : Nat) (code : Word) (die : BitVec 3) (a : Byte) (e : Option (BitVec 24)) (s : State) :
    (allotFault n code die a e s).ddrs = s.ddrs := by rw [allotFault_frame]
@[simp] theorem allotFault_capGib (n : Nat) (code : Word) (die : BitVec 3) (a : Byte) (e : Option (BitVec 24)) (s : State) :
    (allotFault n code die a e s).capGib = s.capGib := by rw [allotFault_frame]
@[simp] theorem allotFault_self (n : Nat) (code : Word) (die : BitVec 3) (a : Byte) (e : Option (BitVec 24)) (s : State) :
    (allotFault n code die a e s).self = s.self := by rw [allotFault_frame]
@[simp] theorem allotFault_spokes (n : Nat) (code : Word) (die : BitVec 3) (a : Byte) (e : Option (BitVec 24)) (s : State) :
    (allotFault n code die a e s).spokes = s.spokes := by rw [allotFault_frame]
@[simp] theorem allotFault_ownMarks (n : Nat) (code : Word) (die : BitVec 3) (a : Byte) (e : Option (BitVec 24)) (s : State) :
    (allotFault n code die a e s).ownMarks = s.ownMarks := by rw [allotFault_frame]
@[simp] theorem allotFault_stations (n : Nat) (code : Word) (die : BitVec 3) (a : Byte) (e : Option (BitVec 24)) (s : State) :
    (allotFault n code die a e s).stations = s.stations := by rw [allotFault_frame]
@[simp] theorem allotFault_ringAt (n : Nat) (code : Word) (die : BitVec 3) (a : Byte) (e : Option (BitVec 24)) (s : State) :
    (allotFault n code die a e s).ringAt = s.ringAt := by rw [allotFault_frame]
@[simp] theorem allotFault_rte (n : Nat) (code : Word) (die : BitVec 3) (a : Byte) (e : Option (BitVec 24)) (s : State) :
    (allotFault n code die a e s).rte = s.rte := by rw [allotFault_frame]
@[simp] theorem allotFault_lodge (n : Nat) (code : Word) (die : BitVec 3) (a : Byte) (e : Option (BitVec 24)) (s : State) :
    (allotFault n code die a e s).lodge = s.lodge := by rw [allotFault_frame]
@[simp] theorem allotFault_flash (n : Nat) (code : Word) (die : BitVec 3) (a : Byte) (e : Option (BitVec 24)) (s : State) :
    (allotFault n code die a e s).flash = s.flash := by rw [allotFault_frame]
@[simp] theorem allotFault_upd (n : Nat) (code : Word) (die : BitVec 3) (a : Byte) (e : Option (BitVec 24)) (s : State) :
    (allotFault n code die a e s).upd = s.upd := by rw [allotFault_frame]
@[simp] theorem allotFault_mem (n : Nat) (code : Word) (die : BitVec 3) (a : Byte) (e : Option (BitVec 24)) (s : State) :
    (allotFault n code die a e s).mem = s.mem := by rw [allotFault_frame]
@[simp] theorem allotFault_scr (n : Nat) (code : Word) (die : BitVec 3) (a : Byte) (e : Option (BitVec 24)) (s : State) :
    (allotFault n code die a e s).scr = s.scr := by rw [allotFault_frame]
@[simp] theorem allotFault_wslots (n : Nat) (code : Word) (die : BitVec 3) (a : Byte) (e : Option (BitVec 24)) (s : State) :
    (allotFault n code die a e s).wslots = s.wslots := by rw [allotFault_frame]
@[simp] theorem allotFault_stage (n : Nat) (code : Word) (die : BitVec 3) (a : Byte) (e : Option (BitVec 24)) (s : State) :
    (allotFault n code die a e s).stage = s.stage := by rw [allotFault_frame]
@[simp] theorem allotFault_upset (n : Nat) (code : Word) (die : BitVec 3) (a : Byte) (e : Option (BitVec 24)) (s : State) :
    (allotFault n code die a e s).upset = s.upset := by rw [allotFault_frame]
@[simp] theorem allotFault_live (n : Nat) (code : Word) (die : BitVec 3) (a : Byte) (e : Option (BitVec 24)) (s : State) :
    (allotFault n code die a e s).live = s.live := by rw [allotFault_frame]
@[simp] theorem allotFault_latched (n : Nat) (code : Word) (die : BitVec 3) (a : Byte) (e : Option (BitVec 24)) (s : State) :
    (allotFault n code die a e s).latched = s.latched := by rw [allotFault_frame]
@[simp] theorem allotFault_evtSeen (n : Nat) (code : Word) (die : BitVec 3) (a : Byte) (e : Option (BitVec 24)) (s : State) :
    (allotFault n code die a e s).evtSeen = s.evtSeen := by rw [allotFault_frame]
@[simp] theorem allotFault_evtMsg (n : Nat) (code : Word) (die : BitVec 3) (a : Byte) (e : Option (BitVec 24)) (s : State) :
    (allotFault n code die a e s).evtMsg = s.evtMsg := by rw [allotFault_frame]
@[simp] theorem allotFault_fresh (n : Nat) (code : Word) (die : BitVec 3) (a : Byte) (e : Option (BitVec 24)) (s : State) :
    (allotFault n code die a e s).fresh = s.fresh := by rw [allotFault_frame]
@[simp] theorem allotFault_pending (n : Nat) (code : Word) (die : BitVec 3) (a : Byte) (e : Option (BitVec 24)) (s : State) :
    (allotFault n code die a e s).pending = s.pending := by rw [allotFault_frame]

/-! ### complete -/

@[simp] theorem complete_cad (r : Nat) (c : Completion) (s : State) :
    (complete r c s).cad = s.cad := by rw [complete_frame]
@[simp] theorem complete_plls (r : Nat) (c : Completion) (s : State) :
    (complete r c s).plls = s.plls := by rw [complete_frame]
@[simp] theorem complete_gear (r : Nat) (c : Completion) (s : State) :
    (complete r c s).gear = s.gear := by rw [complete_frame]
@[simp] theorem complete_pwr (r : Nat) (c : Completion) (s : State) :
    (complete r c s).pwr = s.pwr := by rw [complete_frame]
@[simp] theorem complete_ramps (r : Nat) (c : Completion) (s : State) :
    (complete r c s).ramps = s.ramps := by rw [complete_frame]
@[simp] theorem complete_rests (r : Nat) (c : Completion) (s : State) :
    (complete r c s).rests = s.rests := by rw [complete_frame]
@[simp] theorem complete_thm (r : Nat) (c : Completion) (s : State) :
    (complete r c s).thm = s.thm := by rw [complete_frame]
@[simp] theorem complete_acc (r : Nat) (c : Completion) (s : State) :
    (complete r c s).acc = s.acc := by rw [complete_frame]
@[simp] theorem complete_hold (r : Nat) (c : Completion) (s : State) :
    (complete r c s).hold = s.hold := by rw [complete_frame]
@[simp] theorem complete_boot (r : Nat) (c : Completion) (s : State) :
    (complete r c s).boot = s.boot := by rw [complete_frame]
@[simp] theorem complete_frc (r : Nat) (c : Completion) (s : State) :
    (complete r c s).frc = s.frc := by rw [complete_frame]
@[simp] theorem complete_steward (r : Nat) (c : Completion) (s : State) :
    (complete r c s).steward = s.steward := by rw [complete_frame]
@[simp] theorem complete_ports (r : Nat) (c : Completion) (s : State) :
    (complete r c s).ports = s.ports := by rw [complete_frame]
@[simp] theorem complete_sgrpSel (r : Nat) (c : Completion) (s : State) :
    (complete r c s).sgrpSel = s.sgrpSel := by rw [complete_frame]
@[simp] theorem complete_strobes (r : Nat) (c : Completion) (s : State) :
    (complete r c s).strobes = s.strobes := by rw [complete_frame]
@[simp] theorem complete_allots (r : Nat) (c : Completion) (s : State) :
    (complete r c s).allots = s.allots := by rw [complete_frame]
@[simp] theorem complete_images (r : Nat) (c : Completion) (s : State) :
    (complete r c s).images = s.images := by rw [complete_frame]
@[simp] theorem complete_nextImage (r : Nat) (c : Completion) (s : State) :
    (complete r c s).nextImage = s.nextImage := by rw [complete_frame]
@[simp] theorem complete_load (r : Nat) (c : Completion) (s : State) :
    (complete r c s).load = s.load := by rw [complete_frame]
@[simp] theorem complete_dying (r : Nat) (c : Completion) (s : State) :
    (complete r c s).dying = s.dying := by rw [complete_frame]
@[simp] theorem complete_zeroing (r : Nat) (c : Completion) (s : State) :
    (complete r c s).zeroing = s.zeroing := by rw [complete_frame]
@[simp] theorem complete_bankWrites (r : Nat) (c : Completion) (s : State) :
    (complete r c s).bankWrites = s.bankWrites := by rw [complete_frame]
@[simp] theorem complete_bridges (r : Nat) (c : Completion) (s : State) :
    (complete r c s).bridges = s.bridges := by rw [complete_frame]
@[simp] theorem complete_arrays (r : Nat) (c : Completion) (s : State) :
    (complete r c s).arrays = s.arrays := by rw [complete_frame]
@[simp] theorem complete_movers (r : Nat) (c : Completion) (s : State) :
    (complete r c s).movers = s.movers := by rw [complete_frame]
@[simp] theorem complete_trns (r : Nat) (c : Completion) (s : State) :
    (complete r c s).trns = s.trns := by rw [complete_frame]
@[simp] theorem complete_chunkCrcs (r : Nat) (c : Completion) (s : State) :
    (complete r c s).chunkCrcs = s.chunkCrcs := by rw [complete_frame]
@[simp] theorem complete_hbms (r : Nat) (c : Completion) (s : State) :
    (complete r c s).hbms = s.hbms := by rw [complete_frame]
@[simp] theorem complete_ddrs (r : Nat) (c : Completion) (s : State) :
    (complete r c s).ddrs = s.ddrs := by rw [complete_frame]
@[simp] theorem complete_capGib (r : Nat) (c : Completion) (s : State) :
    (complete r c s).capGib = s.capGib := by rw [complete_frame]
@[simp] theorem complete_self (r : Nat) (c : Completion) (s : State) :
    (complete r c s).self = s.self := by rw [complete_frame]
@[simp] theorem complete_spokes (r : Nat) (c : Completion) (s : State) :
    (complete r c s).spokes = s.spokes := by rw [complete_frame]
@[simp] theorem complete_ownMarks (r : Nat) (c : Completion) (s : State) :
    (complete r c s).ownMarks = s.ownMarks := by rw [complete_frame]
@[simp] theorem complete_stations (r : Nat) (c : Completion) (s : State) :
    (complete r c s).stations = s.stations := by rw [complete_frame]
@[simp] theorem complete_ringAt (r : Nat) (c : Completion) (s : State) :
    (complete r c s).ringAt = s.ringAt := by rw [complete_frame]
@[simp] theorem complete_rte (r : Nat) (c : Completion) (s : State) :
    (complete r c s).rte = s.rte := by rw [complete_frame]
@[simp] theorem complete_lodge (r : Nat) (c : Completion) (s : State) :
    (complete r c s).lodge = s.lodge := by rw [complete_frame]
@[simp] theorem complete_mgmt (r : Nat) (c : Completion) (s : State) :
    (complete r c s).mgmt = s.mgmt := by rw [complete_frame]
@[simp] theorem complete_flash (r : Nat) (c : Completion) (s : State) :
    (complete r c s).flash = s.flash := by rw [complete_frame]
@[simp] theorem complete_upd (r : Nat) (c : Completion) (s : State) :
    (complete r c s).upd = s.upd := by rw [complete_frame]
@[simp] theorem complete_mem (r : Nat) (c : Completion) (s : State) :
    (complete r c s).mem = s.mem := by rw [complete_frame]
@[simp] theorem complete_scr (r : Nat) (c : Completion) (s : State) :
    (complete r c s).scr = s.scr := by rw [complete_frame]
@[simp] theorem complete_wslots (r : Nat) (c : Completion) (s : State) :
    (complete r c s).wslots = s.wslots := by rw [complete_frame]
@[simp] theorem complete_stage (r : Nat) (c : Completion) (s : State) :
    (complete r c s).stage = s.stage := by rw [complete_frame]
@[simp] theorem complete_upset (r : Nat) (c : Completion) (s : State) :
    (complete r c s).upset = s.upset := by rw [complete_frame]
@[simp] theorem complete_live (r : Nat) (c : Completion) (s : State) :
    (complete r c s).live = s.live := by rw [complete_frame]
@[simp] theorem complete_latched (r : Nat) (c : Completion) (s : State) :
    (complete r c s).latched = s.latched := by rw [complete_frame]
@[simp] theorem complete_evtSeen (r : Nat) (c : Completion) (s : State) :
    (complete r c s).evtSeen = s.evtSeen := by rw [complete_frame]
@[simp] theorem complete_evtMsg (r : Nat) (c : Completion) (s : State) :
    (complete r c s).evtMsg = s.evtMsg := by rw [complete_frame]
@[simp] theorem complete_out (r : Nat) (c : Completion) (s : State) :
    (complete r c s).out = s.out := by rw [complete_frame]
@[simp] theorem complete_fresh (r : Nat) (c : Completion) (s : State) :
    (complete r c s).fresh = s.fresh := by rw [complete_frame]
@[simp] theorem complete_pending (r : Nat) (c : Completion) (s : State) :
    (complete r c s).pending = s.pending := by rw [complete_frame]

/-! ### alertEvents -/

@[simp] theorem alertEvents_cad (s : State) :
    (alertEvents s).cad = s.cad := by rw [alertEvents_frame]
@[simp] theorem alertEvents_plls (s : State) :
    (alertEvents s).plls = s.plls := by rw [alertEvents_frame]
@[simp] theorem alertEvents_gear (s : State) :
    (alertEvents s).gear = s.gear := by rw [alertEvents_frame]
@[simp] theorem alertEvents_pwr (s : State) :
    (alertEvents s).pwr = s.pwr := by rw [alertEvents_frame]
@[simp] theorem alertEvents_ramps (s : State) :
    (alertEvents s).ramps = s.ramps := by rw [alertEvents_frame]
@[simp] theorem alertEvents_rests (s : State) :
    (alertEvents s).rests = s.rests := by rw [alertEvents_frame]
@[simp] theorem alertEvents_thm (s : State) :
    (alertEvents s).thm = s.thm := by rw [alertEvents_frame]
@[simp] theorem alertEvents_acc (s : State) :
    (alertEvents s).acc = s.acc := by rw [alertEvents_frame]
@[simp] theorem alertEvents_hold (s : State) :
    (alertEvents s).hold = s.hold := by rw [alertEvents_frame]
@[simp] theorem alertEvents_boot (s : State) :
    (alertEvents s).boot = s.boot := by rw [alertEvents_frame]
@[simp] theorem alertEvents_frc (s : State) :
    (alertEvents s).frc = s.frc := by rw [alertEvents_frame]
@[simp] theorem alertEvents_steward (s : State) :
    (alertEvents s).steward = s.steward := by rw [alertEvents_frame]
@[simp] theorem alertEvents_sgrpSel (s : State) :
    (alertEvents s).sgrpSel = s.sgrpSel := by rw [alertEvents_frame]
@[simp] theorem alertEvents_strobes (s : State) :
    (alertEvents s).strobes = s.strobes := by rw [alertEvents_frame]
@[simp] theorem alertEvents_rings (s : State) :
    (alertEvents s).rings = s.rings := by rw [alertEvents_frame]
@[simp] theorem alertEvents_allots (s : State) :
    (alertEvents s).allots = s.allots := by rw [alertEvents_frame]
@[simp] theorem alertEvents_images (s : State) :
    (alertEvents s).images = s.images := by rw [alertEvents_frame]
@[simp] theorem alertEvents_nextImage (s : State) :
    (alertEvents s).nextImage = s.nextImage := by rw [alertEvents_frame]
@[simp] theorem alertEvents_load (s : State) :
    (alertEvents s).load = s.load := by rw [alertEvents_frame]
@[simp] theorem alertEvents_dying (s : State) :
    (alertEvents s).dying = s.dying := by rw [alertEvents_frame]
@[simp] theorem alertEvents_zeroing (s : State) :
    (alertEvents s).zeroing = s.zeroing := by rw [alertEvents_frame]
@[simp] theorem alertEvents_bankWrites (s : State) :
    (alertEvents s).bankWrites = s.bankWrites := by rw [alertEvents_frame]
@[simp] theorem alertEvents_bridges (s : State) :
    (alertEvents s).bridges = s.bridges := by rw [alertEvents_frame]
@[simp] theorem alertEvents_arrays (s : State) :
    (alertEvents s).arrays = s.arrays := by rw [alertEvents_frame]
@[simp] theorem alertEvents_movers (s : State) :
    (alertEvents s).movers = s.movers := by rw [alertEvents_frame]
@[simp] theorem alertEvents_trns (s : State) :
    (alertEvents s).trns = s.trns := by rw [alertEvents_frame]
@[simp] theorem alertEvents_chunkCrcs (s : State) :
    (alertEvents s).chunkCrcs = s.chunkCrcs := by rw [alertEvents_frame]
@[simp] theorem alertEvents_hbms (s : State) :
    (alertEvents s).hbms = s.hbms := by rw [alertEvents_frame]
@[simp] theorem alertEvents_ddrs (s : State) :
    (alertEvents s).ddrs = s.ddrs := by rw [alertEvents_frame]
@[simp] theorem alertEvents_capGib (s : State) :
    (alertEvents s).capGib = s.capGib := by rw [alertEvents_frame]
@[simp] theorem alertEvents_self (s : State) :
    (alertEvents s).self = s.self := by rw [alertEvents_frame]
@[simp] theorem alertEvents_spokes (s : State) :
    (alertEvents s).spokes = s.spokes := by rw [alertEvents_frame]
@[simp] theorem alertEvents_ownMarks (s : State) :
    (alertEvents s).ownMarks = s.ownMarks := by rw [alertEvents_frame]
@[simp] theorem alertEvents_stations (s : State) :
    (alertEvents s).stations = s.stations := by rw [alertEvents_frame]
@[simp] theorem alertEvents_ringAt (s : State) :
    (alertEvents s).ringAt = s.ringAt := by rw [alertEvents_frame]
@[simp] theorem alertEvents_rte (s : State) :
    (alertEvents s).rte = s.rte := by rw [alertEvents_frame]
@[simp] theorem alertEvents_lodge (s : State) :
    (alertEvents s).lodge = s.lodge := by rw [alertEvents_frame]
@[simp] theorem alertEvents_flash (s : State) :
    (alertEvents s).flash = s.flash := by rw [alertEvents_frame]
@[simp] theorem alertEvents_upd (s : State) :
    (alertEvents s).upd = s.upd := by rw [alertEvents_frame]
@[simp] theorem alertEvents_mem (s : State) :
    (alertEvents s).mem = s.mem := by rw [alertEvents_frame]
@[simp] theorem alertEvents_scr (s : State) :
    (alertEvents s).scr = s.scr := by rw [alertEvents_frame]
@[simp] theorem alertEvents_wslots (s : State) :
    (alertEvents s).wslots = s.wslots := by rw [alertEvents_frame]
@[simp] theorem alertEvents_stage (s : State) :
    (alertEvents s).stage = s.stage := by rw [alertEvents_frame]
@[simp] theorem alertEvents_upset (s : State) :
    (alertEvents s).upset = s.upset := by rw [alertEvents_frame]
@[simp] theorem alertEvents_live (s : State) :
    (alertEvents s).live = s.live := by rw [alertEvents_frame]
@[simp] theorem alertEvents_latched (s : State) :
    (alertEvents s).latched = s.latched := by rw [alertEvents_frame]
@[simp] theorem alertEvents_fresh (s : State) :
    (alertEvents s).fresh = s.fresh := by rw [alertEvents_frame]
@[simp] theorem alertEvents_pending (s : State) :
    (alertEvents s).pending = s.pending := by rw [alertEvents_frame]

/-! ### recompute -/

@[simp] theorem recompute_cad (s : State) :
    (recompute s).cad = s.cad := by rw [recompute_frame]
@[simp] theorem recompute_plls (s : State) :
    (recompute s).plls = s.plls := by rw [recompute_frame]
@[simp] theorem recompute_gear (s : State) :
    (recompute s).gear = s.gear := by rw [recompute_frame]
@[simp] theorem recompute_ramps (s : State) :
    (recompute s).ramps = s.ramps := by rw [recompute_frame]
@[simp] theorem recompute_rests (s : State) :
    (recompute s).rests = s.rests := by rw [recompute_frame]
@[simp] theorem recompute_thm (s : State) :
    (recompute s).thm = s.thm := by rw [recompute_frame]
@[simp] theorem recompute_acc (s : State) :
    (recompute s).acc = s.acc := by rw [recompute_frame]
@[simp] theorem recompute_hold (s : State) :
    (recompute s).hold = s.hold := by rw [recompute_frame]
@[simp] theorem recompute_boot (s : State) :
    (recompute s).boot = s.boot := by rw [recompute_frame]
@[simp] theorem recompute_frc (s : State) :
    (recompute s).frc = s.frc := by rw [recompute_frame]
@[simp] theorem recompute_steward (s : State) :
    (recompute s).steward = s.steward := by rw [recompute_frame]
@[simp] theorem recompute_sgrpSel (s : State) :
    (recompute s).sgrpSel = s.sgrpSel := by rw [recompute_frame]
@[simp] theorem recompute_strobes (s : State) :
    (recompute s).strobes = s.strobes := by rw [recompute_frame]
@[simp] theorem recompute_rings (s : State) :
    (recompute s).rings = s.rings := by rw [recompute_frame]
@[simp] theorem recompute_allots (s : State) :
    (recompute s).allots = s.allots := by rw [recompute_frame]
@[simp] theorem recompute_images (s : State) :
    (recompute s).images = s.images := by rw [recompute_frame]
@[simp] theorem recompute_nextImage (s : State) :
    (recompute s).nextImage = s.nextImage := by rw [recompute_frame]
@[simp] theorem recompute_load (s : State) :
    (recompute s).load = s.load := by rw [recompute_frame]
@[simp] theorem recompute_dying (s : State) :
    (recompute s).dying = s.dying := by rw [recompute_frame]
@[simp] theorem recompute_zeroing (s : State) :
    (recompute s).zeroing = s.zeroing := by rw [recompute_frame]
@[simp] theorem recompute_bankWrites (s : State) :
    (recompute s).bankWrites = s.bankWrites := by rw [recompute_frame]
@[simp] theorem recompute_bridges (s : State) :
    (recompute s).bridges = s.bridges := by rw [recompute_frame]
@[simp] theorem recompute_arrays (s : State) :
    (recompute s).arrays = s.arrays := by rw [recompute_frame]
@[simp] theorem recompute_movers (s : State) :
    (recompute s).movers = s.movers := by rw [recompute_frame]
@[simp] theorem recompute_trns (s : State) :
    (recompute s).trns = s.trns := by rw [recompute_frame]
@[simp] theorem recompute_chunkCrcs (s : State) :
    (recompute s).chunkCrcs = s.chunkCrcs := by rw [recompute_frame]
@[simp] theorem recompute_hbms (s : State) :
    (recompute s).hbms = s.hbms := by rw [recompute_frame]
@[simp] theorem recompute_ddrs (s : State) :
    (recompute s).ddrs = s.ddrs := by rw [recompute_frame]
@[simp] theorem recompute_capGib (s : State) :
    (recompute s).capGib = s.capGib := by rw [recompute_frame]
@[simp] theorem recompute_self (s : State) :
    (recompute s).self = s.self := by rw [recompute_frame]
@[simp] theorem recompute_spokes (s : State) :
    (recompute s).spokes = s.spokes := by rw [recompute_frame]
@[simp] theorem recompute_ownMarks (s : State) :
    (recompute s).ownMarks = s.ownMarks := by rw [recompute_frame]
@[simp] theorem recompute_stations (s : State) :
    (recompute s).stations = s.stations := by rw [recompute_frame]
@[simp] theorem recompute_ringAt (s : State) :
    (recompute s).ringAt = s.ringAt := by rw [recompute_frame]
@[simp] theorem recompute_rte (s : State) :
    (recompute s).rte = s.rte := by rw [recompute_frame]
@[simp] theorem recompute_lodge (s : State) :
    (recompute s).lodge = s.lodge := by rw [recompute_frame]
@[simp] theorem recompute_flash (s : State) :
    (recompute s).flash = s.flash := by rw [recompute_frame]
@[simp] theorem recompute_upd (s : State) :
    (recompute s).upd = s.upd := by rw [recompute_frame]
@[simp] theorem recompute_mem (s : State) :
    (recompute s).mem = s.mem := by rw [recompute_frame]
@[simp] theorem recompute_scr (s : State) :
    (recompute s).scr = s.scr := by rw [recompute_frame]
@[simp] theorem recompute_wslots (s : State) :
    (recompute s).wslots = s.wslots := by rw [recompute_frame]
@[simp] theorem recompute_stage (s : State) :
    (recompute s).stage = s.stage := by rw [recompute_frame]
@[simp] theorem recompute_upset (s : State) :
    (recompute s).upset = s.upset := by rw [recompute_frame]
@[simp] theorem recompute_live (s : State) :
    (recompute s).live = s.live := by rw [recompute_frame]
@[simp] theorem recompute_latched (s : State) :
    (recompute s).latched = s.latched := by rw [recompute_frame]
@[simp] theorem recompute_fresh (s : State) :
    (recompute s).fresh = s.fresh := by rw [recompute_frame]
@[simp] theorem recompute_pending (s : State) :
    (recompute s).pending = s.pending := by rw [recompute_frame]

/-! ### What they leave -/

/-- The fault store after a fault is written: the record takes its place among those of its tick, and the sequence number is one
higher (R388, R389). -/
theorem writeFault_frc (code : Word) (sl : BitVec 12) (die : BitVec 3) (a : Byte) (e : Option (BitVec 24)) (s : State) :
    (writeFault code sl die a e s).frc =
      { s.frc with seq := s.frc.seq + 1, tickAt := s.now, inTick := s.ofTick s.now + 1,
                   recs := settle ⟨s.frc.seq + 1, code, faultCtx sl die a e s.cad.tick, if s.s1Done then s.now else 0⟩
                     s.frc.recs (s.frc.seq + 1) (s.ofTick s.now) } := by
  unfold writeFault writeFaultAt
  rw [queueEventAt_frc]
  simp only [tickOf_now]

/-- The cause bits that the warden has recorded are those that stand (R366). -/
theorem alertEvents_evtSeen (s : State) : (alertEvents s).evtSeen = evtBits s := rfl

/-- A completion entry takes a pending slot where one is free (R323). -/
theorem complete_ring (r : Nat) (c : Completion) (s : State)
    (h : (s.ring r).pend.length < if c.kind = 0x01 then 1008 else 1024) :
    (complete r c s).ring r = { s.ring r with pend := (s.ring r).pend ++ [c] } := by
  unfold complete
  rw [State.modRing_ring_same, if_pos h]

/-- A completion entry that finds no slot is lost and counted (R323). -/
theorem complete_ring_full (r : Nat) (c : Completion) (s : State)
    (h : ¬ (s.ring r).pend.length < if c.kind = 0x01 then 1008 else 1024) :
    (complete r c s).ring r = { s.ring r with lost := satAdd (s.ring r).lost 1, lostFlag := true } := by
  unfold complete
  rw [State.modRing_ring_same, if_neg h]

/-- A fault of an allotment stops its timetable. -/
theorem allotFault_stops (n : Nat) (code : Word) (die : BitVec 3) (a : Byte) (e : Option (BitVec 24)) (s : State) :
    (allotFault n code die a e s).allot n = (s.allot n).map AllotSt.fault := by
  unfold allotFault stopAllot
  rw [State.modAllot_allot_same]
  unfold State.allot
  rw [writeFault_allots]

/-- A strobe applies the buffered value, unless it was written in the strobe's own tick (R313). -/
theorem Rb.strobe_eff {w : Nat} (f : Rb w) (t : Time) : (f.strobe t).eff = if f.at_ = some t then f.old else f.buf := rfl

end Sys2Proof.Machine
end

