-- ==== Sys2Proof/Laws/Events.lean ====
section
/-! SUPPORT. What an event, a fault record, a change of the alert causes and a recompute leave unchanged inside the management
port, the host ports and the power state. -/

namespace Sys2Proof.Machine

theorem queueEventAt_mgmt (t : Time) (ty : BitVec 16) (fl : Byte) (c : Word) (x : BitVec 64) (s : State) :
    (queueEventAt t ty fl c x s).mgmt = { s.mgmt with
      events := (queueEventAt t ty fl c x s).mgmt.events, evSeq := (queueEventAt t ty fl c x s).mgmt.evSeq,
      evLost := (queueEventAt t ty fl c x s).mgmt.evLost, lostRun := (queueEventAt t ty fl c x s).mgmt.lostRun,
      lostAt := (queueEventAt t ty fl c x s).mgmt.lostAt, ibiLap := (queueEventAt t ty fl c x s).mgmt.ibiLap } := by
  unfold queueEventAt
  dsimp only
  split_ifs <;> rfl

theorem queueEvent_mgmt (ty : BitVec 16) (fl : Byte) (c : Word) (x : BitVec 64) (s : State) :
    (queueEvent ty fl c x s).mgmt = { s.mgmt with
      events := (queueEvent ty fl c x s).mgmt.events, evSeq := (queueEvent ty fl c x s).mgmt.evSeq,
      evLost := (queueEvent ty fl c x s).mgmt.evLost, lostRun := (queueEvent ty fl c x s).mgmt.lostRun,
      lostAt := (queueEvent ty fl c x s).mgmt.lostAt, ibiLap := (queueEvent ty fl c x s).mgmt.ibiLap } :=
  queueEventAt_mgmt s.now ty fl c x s

theorem writeFault_mgmt (code : Word) (sl : BitVec 12) (die : BitVec 3) (a : Byte) (e : Option (BitVec 24)) (s : State) :
    (writeFault code sl die a e s).mgmt = { s.mgmt with
      events := (writeFault code sl die a e s).mgmt.events, evSeq := (writeFault code sl die a e s).mgmt.evSeq,
      evLost := (writeFault code sl die a e s).mgmt.evLost, lostRun := (writeFault code sl die a e s).mgmt.lostRun,
      lostAt := (writeFault code sl die a e s).mgmt.lostAt, ibiLap := (writeFault code sl die a e s).mgmt.ibiLap } := by
  unfold writeFault writeFaultAt
  dsimp only
  rw [queueEventAt_mgmt]

theorem alertFold_mgmt (new : BitVec 8) (l : List Nat) (s : State) :
    ∃ ev sq lo lr la ib, (l.foldl (fun s i => alertEvent new i s) s).mgmt =
      { s.mgmt with events := ev, evSeq := sq, evLost := lo, lostRun := lr, lostAt := la, ibiLap := ib } := by
  induction l generalizing s with
  | nil => exact ⟨s.mgmt.events, s.mgmt.evSeq, s.mgmt.evLost, s.mgmt.lostRun, s.mgmt.lostAt, s.mgmt.ibiLap, rfl⟩
  | cons i l ih =>
    obtain ⟨ev, sq, lo, lr, la, ib, h⟩ := ih (alertEvent new i s)
    refine ⟨ev, sq, lo, lr, la, ib, ?_⟩
    rw [List.foldl_cons, h]
    unfold alertEvent
    split_ifs
    · rfl
    all_goals rw [queueEvent_mgmt]

theorem alertEvents_mgmt (s : State) :
    (alertEvents s).mgmt = { s.mgmt with
      events := (alertEvents s).mgmt.events, evSeq := (alertEvents s).mgmt.evSeq, evLost := (alertEvents s).mgmt.evLost,
      lostRun := (alertEvents s).mgmt.lostRun, lostAt := (alertEvents s).mgmt.lostAt,
      ibiLap := (alertEvents s).mgmt.ibiLap } := by
  obtain ⟨ev, sq, lo, lr, la, ib, h⟩ := alertFold_mgmt (evtBits s) (List.range 8) s
  have : (alertEvents s).mgmt = ((List.range 8).foldl (fun s' i => alertEvent (evtBits s) i s') s).mgmt := rfl
  rw [this, h]

theorem recompute_mgmt (s : State) :
    (recompute s).mgmt = { s.mgmt with
      events := (recompute s).mgmt.events, evSeq := (recompute s).mgmt.evSeq, evLost := (recompute s).mgmt.evLost,
      lostRun := (recompute s).mgmt.lostRun, lostAt := (recompute s).mgmt.lostAt,
      ibiLap := (recompute s).mgmt.ibiLap } := by
  unfold recompute
  dsimp only
  split_ifs
  · rw [alertEvents_mgmt]
  · rfl

theorem recompute_pwr (s : State) :
    (recompute s).pwr = { s.pwr with permitted := (recompute s).pwr.permitted, capUnmet := (recompute s).pwr.capUnmet,
                                     brakeDue := (recompute s).pwr.brakeDue } := by
  unfold recompute
  dsimp only
  split_ifs
  · rw [alertEvents_pwr]
  · rfl

@[simp] theorem recompute_trayCap (s : State) : (recompute s).pwr.trayCap = s.pwr.trayCap := by rw [recompute_pwr]
@[simp] theorem recompute_trayGear (s : State) : (recompute s).pwr.trayGear = s.pwr.trayGear := by rw [recompute_pwr]
@[simp] theorem recompute_hostCap (s : State) : (recompute s).pwr.hostCap = s.pwr.hostCap := by rw [recompute_pwr]
@[simp] theorem recompute_hostGear (s : State) : (recompute s).pwr.hostGear = s.pwr.hostGear := by rw [recompute_pwr]
@[simp] theorem recompute_leaseLeft (s : State) : (recompute s).pwr.leaseLeft = s.pwr.leaseLeft := by rw [recompute_pwr]
@[simp] theorem recompute_leaseLaps (s : State) : (recompute s).pwr.leaseLaps = s.pwr.leaseLaps := by rw [recompute_pwr]
@[simp] theorem recompute_lapsed (s : State) : (recompute s).pwr.lapsed = s.pwr.lapsed := by rw [recompute_pwr]
@[simp] theorem recompute_lapseCap (s : State) : (recompute s).pwr.lapseCap = s.pwr.lapseCap := by rw [recompute_pwr]
@[simp] theorem recompute_setting (s : State) : (recompute s).mgmt.setting = s.mgmt.setting := by rw [recompute_mgmt]
@[simp] theorem recompute_odo (s : State) : (recompute s).mgmt.odo = s.mgmt.odo := by rw [recompute_mgmt]
@[simp] theorem alertEvents_odo (s : State) : (alertEvents s).mgmt.odo = s.mgmt.odo := by rw [alertEvents_mgmt]
@[simp] theorem alertEvents_setting (s : State) : (alertEvents s).mgmt.setting = s.mgmt.setting := by rw [alertEvents_mgmt]
@[simp] theorem alertEvents_addr (s : State) : (alertEvents s).mgmt.addr = s.mgmt.addr := by rw [alertEvents_mgmt]
@[simp] theorem queueEvent_odo (ty : BitVec 16) (fl : Byte) (c : Word) (x : BitVec 64) (s : State) :
    (queueEvent ty fl c x s).mgmt.odo = s.mgmt.odo := by rw [queueEvent_mgmt]
@[simp] theorem queueEvent_inv (ty : BitVec 16) (fl : Byte) (c : Word) (x : BitVec 64) (s : State) :
    (queueEvent ty fl c x s).mgmt.inv = s.mgmt.inv := by rw [queueEvent_mgmt]
@[simp] theorem queueEvent_addr (ty : BitVec 16) (fl : Byte) (c : Word) (x : BitVec 64) (s : State) :
    (queueEvent ty fl c x s).mgmt.addr = s.mgmt.addr := by rw [queueEvent_mgmt]
@[simp] theorem writeFault_odo (code : Word) (sl : BitVec 12) (die : BitVec 3) (a : Byte) (e : Option (BitVec 24)) (s : State) :
    (writeFault code sl die a e s).mgmt.odo = s.mgmt.odo := by rw [writeFault_mgmt]
@[simp] theorem writeFault_addr (code : Word) (sl : BitVec 12) (die : BitVec 3) (a : Byte) (e : Option (BitVec 24)) (s : State) :
    (writeFault code sl die a e s).mgmt.addr = s.mgmt.addr := by rw [writeFault_mgmt]

/-- The causes of HST_EVT do not depend on what an alert's events change. -/
@[simp] theorem alertEvents_evtBits (s : State) : evtBits (alertEvents s) = evtBits s := by simp [evtBits]

theorem alertEvents_port (s : State) (p : Port) :
    (alertEvents s).port p = { s.port p with evtDue := ((alertEvents s).port p).evtDue } := by
  obtain ⟨m, o, h⟩ := alertFold_frame (evtBits s) (List.range 8) s
  unfold alertEvents alertMessages State.port
  simp only [h, State.modPort, Laws.sget_smod]
  fin_cases p <;> simp [owePort] <;> split_ifs <;> rfl

@[simp] theorem alertEvents_linkUp (s : State) (p : Port) : ((alertEvents s).port p).linkUp = (s.port p).linkUp := by
  rw [alertEvents_port]

end Sys2Proof.Machine
end

