-- ==== Sys2Proof/Laws/Gates.lean ====
section
/-! SUPPORT. Who is served: what the wrappers of host writes, steward writes and management transfers come to where the command
is served, and where it is not. -/

namespace Sys2Proof.Machine

theorem hostWrite_on (p : Port) (f : State → State) (s : State) (h : s.hears p = true) : hostWrite p f s = f s := by
  simp [hostWrite, h]

theorem hostWrite_off (p : Port) (f : State → State) (s : State) (h : s.hears p = false) : hostWrite p f s = s := by
  simp [hostWrite, h]

theorem stewardWrite_on (p : Port) (f : State → State) (s : State) (h : s.hears p = true) (h2 : s.isSteward p = true) :
    stewardWrite p f s = f s := by
  simp [stewardWrite, hostWrite, h, h2]

theorem stewardWrite_other (p : Port) (f : State → State) (s : State) (h : s.hears p = true) (h2 : s.isSteward p = false) :
    stewardWrite p f s = countNs p s := by
  simp [stewardWrite, hostWrite, h, h2]

theorem isSome_of_ne {α : Type} {o : Option α} (h : o ≠ none) : o.isSome = true := by
  cases o
  · exact absurd rfl h
  · rfl

theorem transfer_on (f : State → State) (s : State) (h : s.ctl = true) (h2 : s.mgmt.addr ≠ none) : transfer f s = f s := by
  simp [transfer, h, isSome_of_ne h2]

theorem pldm_on (type cmd : Byte) (f : State → State) (s : State) (h : s.ctl = true) (h2 : s.mgmt.addr ≠ none)
    (h3 : s.mgmt.eid ≠ 0) (h4 : ((pldmCodes type.toNat).getD []).contains cmd.toNat = true) :
    pldm type cmd f s = f s := by
  rw [pldm, transfer_on _ s h h2, if_neg h3, if_pos h4]

theorem setEffecter_on (cmd : Byte) (ok : Bool) (f : State → State) (s : State) (h : s.ctl = true) (h2 : s.mgmt.addr ≠ none)
    (h3 : s.mgmt.eid ≠ 0) (h4 : ((pldmCodes 2).getD []).contains cmd.toNat = true) :
    setEffecter cmd ok f s = if ok then f s else reply 2 cmd 0x02 [] s := by
  rw [setEffecter, pldm_on _ _ _ s h h2 h3 h4]

theorem ccc_on (f : State → State) (s : State) (h : s.ctl = true) (h2 : s.mgmt.addr ≠ none) : ccc f s = f s := by
  simp [ccc, h, isSome_of_ne h2]

theorem aonCcc_on (f : State → State) (s : State) (h : s.vaux = true) (h2 : s.mgmt.addr ≠ none) : aonCcc f s = f s := by
  simp [aonCcc, h, isSome_of_ne h2]

/-- A tick is counted only while the module runs on CADREF. -/
theorem clocked_of_timed (s : State) (h : s.timed = true) : s.clocked = true := by
  simp only [State.timed, State.clocked, Bool.and_eq_true] at *
  exact h.1

theorem clocked_of_ctl (s : State) (h : s.ctl = true) : s.clocked = true := by
  simp only [State.ctl, Bool.and_eq_true] at h
  exact h.1.1

end Sys2Proof.Machine
end

