-- ==== Sys2Proof/Laws/Store.lean ====
section
/-! SUPPORT. The laws of the stores: what is read after a write, that every memory operation keeps the canonical form, and what
the reads and the ports on a path may change beside the word. -/

namespace Sys2Proof.Laws

open Sys2Proof Sys2Proof.Machine

/-! ### The canonical form -/

theorem zeroWf_iff (m : List Host.Cell) : Memory.zeroWf m = true ↔ rising m = true ∧ ∀ c ∈ m, c.2 ≠ 0 := by
  simp [Memory.zeroWf]

theorem zeroWf_filter (p : Host.Cell → Bool) (m : List Host.Cell) (h : Memory.zeroWf m = true) : Memory.zeroWf (m.filter p) = true := by
  rw [zeroWf_iff] at h ⊢
  exact ⟨rising_filter p m h.1, fun c hc => h.2 c (List.mem_filter.mp hc).1⟩

theorem zeroWf_sput (m : List Host.Cell) (a : Nat) (b : Byte) (h : Memory.zeroWf m = true) : Memory.zeroWf (sput 0 m a b) = true := by
  rw [zeroWf_iff] at h ⊢
  refine ⟨rising_sput 0 m a b h.1, fun c hc => ?_⟩
  unfold sput at hc
  split at hc
  · exact h.2 c (List.mem_filter.mp hc).1
  · rcases mem_sset m a b c hc with rfl | hc
    · assumption
    · exact h.2 c hc

theorem storesWf_iff (s : State) : s.storesWf = true ↔ Memory.wf s.mem = true ∧ Memory.zeroWf s.scr = true ∧
    Memory.zeroWf s.wslots = true ∧ Memory.zeroWf s.stage = true := by
  simp [State.storesWf, and_assoc]

theorem setByte_storesWf (s : State) (st a : Nat) (b : Byte) (h : s.storesWf = true) : (s.setByte st a b).storesWf = true := by
  rw [storesWf_iff] at h ⊢
  obtain ⟨h0, h1, h2, h3⟩ := h
  unfold State.setByte
  split
  · exact ⟨rising_sset s.mem a b h0, h1, h2, h3⟩
  · exact ⟨h0, zeroWf_sput s.scr a b h1, h2, h3⟩
  · exact ⟨h0, h1, zeroWf_sput s.wslots a b h2, h3⟩
  · exact ⟨h0, h1, h2, zeroWf_sput s.stage a b h3⟩

/-! ### Bytes -/

/-- A write of a byte changes nothing but the stores. -/
theorem setByte_frame (s : State) (st a : Nat) (b : Byte) : ∃ m c w g, s.setByte st a b =
    { s with mem := m, scr := c, wslots := w, stage := g } := by
  unfold State.setByte; split <;> exact ⟨_, _, _, _, rfl⟩

/-- The byte that was written reads as it, and every other byte of every store as before. -/
theorem setByte_byte (s : State) (st a u x : Nat) (b : Byte) :
    (s.setByte st a b).byte u x = if min st 3 = min u 3 ∧ x = a then b else s.byte u x := by
  rcases st with _ | _ | _ | st <;> rcases u with _ | _ | _ | u <;>
    simp only [State.setByte, State.byte, sfind_sset, sget_sput] <;> by_cases h : x = a <;> simp [h] <;> rfl

/-- A fold of setByte over bytes numbered from k on. -/
theorem setFrom_byte (l : List Byte) (st a u x : Nat) : ∀ (k : Nat) (s : State),
    ((l.zipIdx k).foldl (fun s (b, i) => s.setByte st (a + i) b) s).byte u x =
      if min st 3 = min u 3 ∧ a + k ≤ x ∧ x < a + k + l.length then byteAt l (x - (a + k)) else s.byte u x := by
  induction l with
  | nil => intro k s; rw [if_neg (by simp only [List.length_nil]; omega)]; rfl
  | cons b t ih =>
    intro k s
    rw [List.zipIdx_cons, List.foldl_cons, ih (k + 1) (s.setByte st (a + k) b), setByte_byte]
    by_cases hs : min st 3 = min u 3 <;> simp only [hs, true_and, false_and, if_false]
    by_cases h1 : x = a + k
    · subst h1; simp [byteAt]
    · by_cases h2 : a + k ≤ x ∧ x < a + k + (b :: t).length
      · have e : x - (a + k) = x - (a + (k + 1)) + 1 := by omega
        rw [if_pos (by simp only [List.length_cons] at h2; omega), if_pos h2, e]
        rfl
      · rw [if_neg (by simp only [List.length_cons] at h2; omega), if_neg h1, if_neg h2]

/-- Bytes that were written read as they are, and every other byte of every store as before. -/
theorem setBytes_byte (s : State) (st a u x : Nat) (l : List Byte) :
    (s.setBytes st a l).byte u x =
      if min st 3 = min u 3 ∧ a ≤ x ∧ x < a + l.length then byteAt l (x - a) else s.byte u x :=
  setFrom_byte l st a u x 0 s

theorem setBytes_storesWf (s : State) (st a : Nat) (l : List Byte) (h : s.storesWf = true) : (s.setBytes st a l).storesWf = true := by
  unfold State.setBytes
  generalize l.zipIdx = m
  induction m generalizing s with
  | nil => exact h
  | cons e t ih => exact ih _ (setByte_storesWf s st _ _ h)

/-- A write of bytes changes nothing but the stores. -/
theorem setBytes_frame (s : State) (st a : Nat) (l : List Byte) : ∃ m c w g, s.setBytes st a l =
    { s with mem := m, scr := c, wslots := w, stage := g } := by
  unfold State.setBytes
  generalize l.zipIdx = k
  induction k generalizing s with
  | nil => exact ⟨_, _, _, _, rfl⟩
  | cons e t ih =>
    obtain ⟨_, _, _, _, h⟩ := setByte_frame s st (a + e.2) e.1
    obtain ⟨_, _, _, _, h'⟩ := ih (s.setByte st (a + e.2) e.1)
    rw [List.foldl_cons, h', h]
    exact ⟨_, _, _, _, rfl⟩

/-! ### Words -/

/-- A byte string of the right length is left as it is. -/
theorem fit_length (n : Nat) (b : List Byte) (h : b.length = n) : fit n b = b := by
  subst h
  refine List.ext_getElem (by simp [fit, bytesAt]) fun i h1 h2 => ?_
  simp [fit, bytesAt, byteAt, h2]

/-- A write of a word: its bytes read as they were written, no other byte changes, and what had happened to the word is gone. -/
theorem writeWord_byte (st w u x : Nat) (b : List Byte) (s : State) (h : b.length = 32) : (writeWord st w b s).byte u x =
    if min st 3 = min u 3 ∧ 32 * w ≤ x ∧ x < 32 * w + 32 then byteAt b (x - 32 * w) else s.byte u x := by
  have e : (writeWord st w b s).byte u x = (s.setBytes st (32 * w) b).byte u x := by rw [← fit_length 32 b h]; rfl
  rw [e, setBytes_byte, h]

theorem writeWord_upset (st w k : Nat) (b : List Byte) (s : State) :
    sget [] (writeWord st w b s).upset k = if k = upsetKey st w then [] else sget [] s.upset k := by
  simp only [writeWord, sget, sfind_sdel]; split <;> rfl

theorem writeWord_storesWf (st w : Nat) (b : List Byte) (s : State) (h : s.storesWf = true) : (writeWord st w b s).storesWf = true :=
  setBytes_storesWf s st (32 * w) (fit 32 b) h

/-- A write of a word changes nothing but the stores and the error pattern. -/
theorem writeWord_frame (st w : Nat) (b : List Byte) (s : State) : ∃ m c l g, writeWord st w b s =
    { s with mem := m, scr := c, wslots := l, stage := g, upset := sdel s.upset (upsetKey st w) } := by
  obtain ⟨_, _, _, _, h⟩ := setBytes_frame s st (32 * w) (fit 32 b)
  rw [writeWord, h]
  exact ⟨_, _, _, _, rfl⟩

theorem bankWrite_storesWf (rank : Nat) (cycle : BitVec 4) (w : Nat) (b : List Byte) (s : State) (h : s.storesWf = true) :
    (bankWrite rank cycle w b s).storesWf = true := by
  unfold bankWrite
  dsimp only
  by_cases c : (List.any (List.filter (fun x => decide (x.at_ = s.now)) s.bankWrites) fun x =>
      decide (x.word = w) && decide (x.cycle = cycle) && decide (rank < x.rank)) = true
  · rw [if_pos c]; exact h
  · rw [if_neg c]; exact writeWord_storesWf 1 w b _ h

theorem hubWrite_storesWf (st w : Nat) (b : List Byte) (s : State) (h : s.storesWf = true) : (hubWrite st w b s).storesWf = true := by
  unfold hubWrite
  by_cases c : st = 1
  · rw [if_pos c]; exact bankWrite_storesWf _ _ w b s h
  · rw [if_neg c]; exact writeWord_storesWf st w b s h

/-- A write at a bank's port changes nothing but the stores, the error patterns and the list of the tick's writes. -/
theorem bankWrite_frame (rank : Nat) (cycle : BitVec 4) (w : Nat) (b : List Byte) (s : State) : ∃ m c l g u k,
    bankWrite rank cycle w b s = { s with mem := m, scr := c, wslots := l, stage := g, upset := u, bankWrites := k } := by
  unfold bankWrite
  dsimp only
  by_cases c : (List.any (List.filter (fun x => decide (x.at_ = s.now)) s.bankWrites) fun x =>
      decide (x.word = w) && decide (x.cycle = cycle) && decide (rank < x.rank)) = true
  · rw [if_pos c]; exact ⟨_, _, _, _, _, _, rfl⟩
  · rw [if_neg c]
    obtain ⟨_, _, _, _, h⟩ := writeWord_frame 1 w b
      { s with bankWrites := List.filter (fun x => decide (x.at_ = s.now)) s.bankWrites ++ [⟨w, s.now, cycle, rank⟩] }
    rw [h]
    exact ⟨_, _, _, _, _, _, rfl⟩

/-- The hub's write, too. -/
theorem hubWrite_frame (st w : Nat) (b : List Byte) (s : State) : ∃ m c l g u k,
    hubWrite st w b s = { s with mem := m, scr := c, wslots := l, stage := g, upset := u, bankWrites := k } := by
  unfold hubWrite
  by_cases c : st = 1
  · rw [if_pos c]; exact bankWrite_frame _ _ w b s
  · rw [if_neg c]
    obtain ⟨_, _, _, _, h⟩ := writeWord_frame st w b s
    rw [h]
    exact ⟨_, _, _, _, _, _, rfl⟩

/-- A word that is uncorrectable changes nothing but what it counts. -/
theorem noteUe_frame (st w : Nat) (tag : Bool) (s : State) : ∃ o h d l,
    noteUe st w tag s = { s with mgmt := { s.mgmt with odo := o }, hbms := h, ddrs := d, live := l } := by
  unfold noteUe
  by_cases h0 : st = 0 <;> by_cases h1 : isDdr (32 * w) <;> by_cases h2 : tag <;>
    simp only [h0, h1, h2, if_true, if_false, Bool.false_eq_true] <;> exact ⟨_, _, _, _, rfl⟩

/-- A read of a word changes nothing but what it counts: the odometer, the registers of the stack or channel, the live counters. -/
theorem readWord_frame (st w : Nat) (s : State) : ∃ o h d l,
    (readWord st w s).1 = { s with mgmt := { s.mgmt with odo := o }, hbms := h, ddrs := d, live := l } := by
  unfold readWord
  dsimp only
  by_cases c : (sget [] s.upset (upsetKey st w)).isEmpty = true
  · rw [if_pos c]; exact ⟨_, _, _, _, rfl⟩
  · rw [if_neg c]
    generalize (byteAt (sget [] s.upset (upsetKey st w)) 36 != 0 && st == 0 && isDdr (32 * w)) = tag
    cases trellisDecode ((sget [] s.upset (upsetKey st w)).take 36) with
    | uncorrectable => exact noteUe_frame st w tag s
    | clean =>
      cases tag
      · exact ⟨_, _, _, _, rfl⟩
      · exact noteUe_frame st w true s
    | corrected left =>
      cases tag
      · exact ⟨_, _, _, _, rfl⟩
      · obtain ⟨_, _, _, _, h⟩ := noteUe_frame st w true (s.bump (s.ceCounter st w) 1)
        exact ⟨_, _, _, _, h⟩

/-- A clean word reads as its bytes and changes nothing. -/
theorem readWord_clean (st w : Nat) (s : State) (h : sget [] s.upset (upsetKey st w) = []) :
    readWord st w s = (s, .good (s.bytes st (32 * w) 32)) := by
  simp [readWord, h]

/-! ### Paths -/

/-- The decoder of a port changes nothing but the odometer and the live counters. -/
theorem portDecode_frame (p : FabricPort) (err b : List Byte) (s : State) : ∃ o l,
    (portDecode p err b s).1 = { s with mgmt := { s.mgmt with odo := o }, live := l } := by
  unfold portDecode
  cases trellisDecode (fit 36 err) <;> exact ⟨_, _, rfl⟩

/-- A word on a path on which nothing happens arrives as it was. -/
@[simp] theorem carry_nil (dies : List Nat) (k : Nat) (b : List Byte) (s : State) : carry dies [] k b s = ⟨s, b, none⟩ := rfl

/-- A path changes nothing but the odometer and the live counters. -/
theorem carry_frame (dies : List Nat) (path : List PathNoise) (k : Nat) (b : List Byte) (s : State) : ∃ o l,
    (carry dies path k b s).state = { s with mgmt := { s.mgmt with odo := o }, live := l } := by
  unfold carry
  generalize path.filter _ = m
  refine List.foldlRecOn (motive := fun c : Carried => ∃ o l, c.state = { s with mgmt := { s.mgmt with odo := o }, live := l })
    m _ ⟨_, _, rfl⟩ fun c h e _ => ?_
  by_cases hb : c.bad.isSome = true
  · rw [if_pos hb]; exact h
  · rw [if_neg hb]
    obtain ⟨o, l, h⟩ := h
    obtain ⟨o', l', f⟩ := portDecode_frame e.port e.err c.word c.state
    rw [h] at f
    rcases q : portDecode e.port e.err c.word c.state with ⟨t, _ | _⟩ <;> rw [h] at q <;> rw [q] at f <;>
      exact ⟨o', l', f⟩

end Sys2Proof.Laws
end

