-- ==== Sys2Proof/Tests/Slice0.lean ====
section
/-! SUPPORT. The package's own tests: ill-formed commands that the check refuses, words of the spec's tables, small steps, and a
state that meets the hypotheses of each statement. -/

namespace Sys2Proof.Tests

open Sys2Proof Sys2Proof.Machine

set_option Elab.async false


/-! ### A state that meets the hypotheses of each statement, clause by clause -/

/-- A module that runs: S8 is done, cadence time counts and is synchronised, both links are up, the management port has its
addresses. -/
def up : State :=
  { cad := { aligned := true, synced := true, lap := 1000 }, boot := { step := 8, state := 1, variant := 3, identity := true },
    gear := { gear := 1 }, ports := [(0, { linkUp := true }), (1, { linkUp := true })], mgmt := { addr := some 9, eid := 8 } }

/-- The running module in another tick. -/
def upAt (t : BitVec 16) : State := { up with cad := { up.cad with tick := t } }

/-- A tick of lap 1000. -/
def mark (t : BitVec 16) : Time := (1000 : BitVec 40) ++ t

theorem test_hyp_step :
    (∃ (s : State) (c : Instr) (rest : List Instr), s.pending = c :: rest) ∧ (∃ s : State, s.pending = []) ∧
    (∃ s : State, s.timed ∧ s.cad.tick ≠ 0 ∧ s.cad.tick ≠ 65535 ∧ ∀ g : Sgrp, (s.strobe g.val).due = false) ∧
    (∃ s : State, s.timed ∧ s.cad.tick = 0) ∧ (∃ s : State, s.timed ∧ s.cad.tick = 65535) ∧
    ∃ s : State, s.clocked = false ∧ s.counting = false :=
  ⟨⟨{ up with pending := [.getbcr] }, _, _, rfl⟩, ⟨up, rfl⟩, ⟨upAt 65534, by decide +kernel⟩, ⟨up, by decide +kernel⟩,
   ⟨upAt 65535, by decide +kernel⟩, ⟨{ boot := { supply := .aux } }, by decide +kernel⟩⟩

theorem test_hyp_cadenceMarks :
    (∃ s : State, s.clocked ∧ s.cad.aligned = false ∧ 1 ≤ s.boot.step.toNat ∧ ∀ g : Sgrp, (s.strobe g.val).due = false) ∧
    (∃ s : State, s.timed ∧ s.cad.tick ≠ 0) ∧ (∃ s : State, s.clocked ∧ rising s.plls) ∧
    ∃ s : State, s.boot.supply = .saved ∧ s.cad.stopped = false ∧ rising s.plls :=
  ⟨⟨{ boot := { step := 1 } }, by decide +kernel⟩, ⟨upAt 1, by decide +kernel⟩,
   ⟨{ up with plls := [(0, { ratio := 16 }), (3, { active := true })] }, by decide +kernel⟩,
   ⟨{ up with boot := { up.boot with supply := .saved } }, by decide +kernel⟩⟩

theorem test_hyp_synchronisation :
    (∃ (s : State) (p : Port), s.hears p ∧ s.isSteward p ∧ s.cad.aligned ∧ (∀ e ∈ s.allots, e.2.tables = []) ∧
      timedArmed s = false ∧ s.cad.syncLapHi.toNat < 0x80 ∧ s.cad.tick ≠ 65535) ∧
    (∃ (s : State) (p : Port), s.hears p ∧ s.isSteward p ∧ s.cad.aligned ∧ (∀ e ∈ s.allots, e.2.tables = []) ∧
      timedArmed s = false ∧ 0x80 ≤ s.cad.syncLapHi.toNat) ∧
    (∃ (s : State) (p : Port), s.hears p ∧ s.isSteward p ∧ timedArmed s) ∧
    (∃ (s : State) (p : Port), s.hears p ∧ s.isSteward p ∧ ∃ e ∈ s.allots, e.2.tables ≠ []) ∧
    (∃ (s : State) (p : Port), s.hears p ∧ s.isSteward p = false) ∧
    (∃ s : State, s.timed ∧ s.cad.tick = 8) ∧
    (∃ (s : State) (k : Spoke), s.timed ∧ 8 ≤ s.cad.tick.toNat ∧ s.cad.tick.toNat ≤ 32767 ∧ (s.spk k.val).state = 5 ∧
      s.cad.syncArmed ∧ s.cad.syncMode = 2 ∧ s.cad.syncSpoke.toNat = k.val) ∧
    (∃ (s : State) (k : Spoke), s.timed ∧ 8 ≤ s.cad.tick.toNat ∧ s.cad.tick.toNat ≤ 32767 ∧ (s.spk k.val).state = 5 ∧
      s.cad.synced ∧ s.cad.syncArmed ∧ s.cad.syncMode = 2 ∧ s.cad.syncSpoke.toNat ≠ k.val) ∧
    (∃ (s : State) (k : Spoke), s.cad.synced = false ∧ s.cad.syncArmed ∧ s.cad.syncMode = 2 ∧ s.cad.syncSpoke.toNat = k.val) ∧
    ∃ (s : State) (k : Spoke), s.cad.tick.toNat = 7 ∨ s.cad.tick.toNat = 32768 ∨ (s.spk k.val).state ≠ 5 :=
  ⟨⟨{ upAt 65534 with allots := [(0, {})] }, 0, by decide +kernel⟩,
   ⟨{ up with cad := { up.cad with syncLapHi := 0x80 } }, 0, by decide +kernel⟩,
   ⟨{ up with strobes := [(3, { armed := some 9 })] }, 0, by decide +kernel⟩,
   ⟨{ up with allots := [(2, { tables := [⟨0, 1, 0, false, none, [], []⟩] })] }, 0, by decide +kernel⟩, ⟨up, 1, by decide +kernel⟩,
   ⟨upAt 8, by decide +kernel⟩,
   ⟨{ up with cad := { up.cad with tick := 8, syncArmed := true, syncMode := 2, syncSpoke := 35 }, spokes := [(35, { state := 5 })] },
    35, by decide +kernel⟩,
   ⟨{ upAt 32767 with spokes := [(0, { state := 5 })]
                      cad := { up.cad with tick := 32767, syncArmed := true, syncMode := 2, syncSpoke := 35 } }, 0, by decide +kernel⟩,
   ⟨{ up with cad := { up.cad with synced := false, syncArmed := true, syncMode := 2 } }, 0, by decide +kernel⟩, ⟨upAt 32768, 0, by decide +kernel⟩⟩

theorem test_hyp_lapBoundary :
    (∃ s : State, s.timed ∧ s.cad.tick = 65535 ∧ s.upd.armed = none ∧ (∀ g : Sgrp, (s.strobe g.val).due = false) ∧ s.cad.syncArmed ∧
      s.cad.syncMode = 1 ∧ s.ctl ∧ s.acc.n ≠ 0 ∧ s.acc.held = false ∧ s.acc.shifted = false ∧ s.pwr.leaseLeft = 1 ∧
      s.mgmt.lostRun = 0 ∧ s.mgmt.events.length ≤ 200 ∧ s.thm.failed.length = 4) ∧
    (∃ (s : State) (n : Nat) (a : AllotSt), s.timed ∧ s.cad.tick = 65535 ∧ s.upd.armed = none ∧
      (∀ g : Sgrp, (s.strobe g.val).due = false) ∧ s.allot n = some a ∧ a.reset = .boundary ∧ a.groups.getLsbD 2) ∧
    (∃ s : State, s.timed ∧ s.cad.tick = 65535 ∧ s.cad.syncArmed = false ∧ s.upd.armed = some (s.cad.lap + 1) ∧
      (∀ g : Sgrp, (s.strobe g.val).due = false) ∧ s.upd.state ≠ 3) ∧
    (∃ s : State, s.timed ∧ s.cad.tick = 65535 ∧ s.cad.syncArmed = false ∧ s.upd.armed = some (s.cad.lap + 1) ∧
      (∀ g : Sgrp, (s.strobe g.val).due = false) ∧ s.upd.state = 3 ∧ s.thm.trip) ∧
    ∃ s : State, s.timed ∧ s.cad.tick = 65535 ∧ s.cad.syncArmed = false ∧ s.upd.armed = some (s.cad.lap + 1) ∧
      (∀ g : Sgrp, (s.strobe g.val).due = false) ∧ s.upd.state = 3 ∧ s.allots = [] ∧ s.frc.saved = false ∧ s.lodge.pairLost = false ∧
      s.thm.trip = false ∧ s.mgmt.odoRead :=
  ⟨⟨{ up with cad := { up.cad with tick := 65535, syncArmed := true, syncMode := 1 }, acc := { n := 1 }, pwr := { leaseLeft := 1 } },
    by decide +kernel⟩,
   ⟨{ upAt 65535 with allots := [(3, { groups := 4, reset := .boundary })] }, 3, _, by decide +kernel, by decide +kernel, by decide +kernel,
    by decide +kernel, rfl, by decide +kernel⟩,
   ⟨{ upAt 65535 with upd := { armed := some 1001 } }, by decide +kernel⟩,
   ⟨{ upAt 65535 with upd := { armed := some 1001, state := 3 }, thm := { trip := true } }, by decide +kernel⟩,
   ⟨{ upAt 65535 with upd := { armed := some 1001, state := 3 }, mgmt := { up.mgmt with odoRead := true } }, by decide +kernel⟩⟩

theorem test_hyp_gearShift :
    (∃ (s : State) (p : Pav), s.clocked ∧ s.gear.programmed ≠ 0 ∧ (s.pll p.val).idleLock = false ∧ s.gear.shiftDue ∧
      s.gear.gear.toNat < s.gear.programmed.toNat ∧ s.thm.trip = false) ∧
    (∃ (s : State) (p : Pav), s.clocked ∧ s.gear.programmed ≠ 0 ∧ (s.pll p.val).idleLock = false ∧ s.thm.trip) ∧
    (∃ s : State, s.ctl ∧ s.timed ∧ s.cad.tick = 32767 ∧ s.gear.shiftDue ∧ ∀ p : Pav, (s.pll p.val).idleLock) ∧
    (∃ s : State, s.ctl ∧ s.timed ∧ s.cad.tick = 32767 ∧ s.gear.shiftDue ∧ ∃ p : Pav, (s.pll p.val).idleLock = false ∧
      ∀ q : Pav, q < p → (s.pll q.val).idleLock) ∧
    (∃ s : State, s.gear.lockFailed ≠ none ∧ s.clear) ∧
    (∃ s : State, s.ctl ∧ s.timed ∧ s.cad.tick = 4 ∧ s.gear.shiftDue ∧ s.clear ∧ s.thm.trip = false ∧ rising s.ramps) ∧
    ∃ s : State, s.gear.shiftDue = false :=
  ⟨⟨{ up with gear := { gear := 1, programmed := 5, shiftDue := true } }, 3, by decide +kernel⟩,
   ⟨{ up with gear := { gear := 1, programmed := 5, shiftDue := true }, thm := { trip := true } }, 3, by decide +kernel⟩,
   ⟨{ upAt 32767 with gear := { gear := 1, programmed := 5, shiftDue := true }
                      plls := (List.range 4).map (fun p => (p, { idleLock := true })) }, by decide +kernel⟩,
   ⟨{ upAt 32767 with gear := { gear := 1, programmed := 5, shiftDue := true }, plls := [(0, { idleLock := true })] },
    by decide +kernel, by decide +kernel, by decide +kernel, by decide +kernel, 1, by decide +kernel⟩,
   ⟨{ up with gear := { lockFailed := some 3 } }, by decide +kernel⟩,
   ⟨{ upAt 4 with gear := { gear := 1, programmed := 5, shiftDue := true }, ramps := [(0, { level := 16, target := 16 })] },
    by decide +kernel⟩, ⟨up, by decide +kernel⟩⟩

theorem test_hyp_ramps :
    (∃ s : State, s.ctl ∧ s.timed ∧ s.ramping ∧ s.gear.rampNext.toNat ≤ s.now.toNat ∧
      (s.now.toNat - s.gear.rampNext.toNat) % 16 = 0 ∧ rising s.ramps) ∧
    (∃ s : State, s.ramping = false) ∧
    (∃ s : State, s.ctl ∧ s.timed ∧ 260 ≤ s.cad.tick.toNat ∧ (s.cad.tick.toNat - 4) % 256 = 0 ∧ rising s.ramps) ∧
    (∃ (s : State) (a : Allot) (x : AllotSt) (l : BitVec 40), s.allot a.val = some x ∧ s.ctl ∧ s.timed ∧ x.run = none ∧
      x.pendRun = none ∧ x.restLap = some l ∧ l.toNat ≤ s.cad.lap.toNat) ∧
    ∃ (s : State) (a : Allot) (x : AllotSt), s.allot a.val = some x ∧ s.ctl ∧ s.timed ∧ (x.run ≠ none ∨ x.pendRun ≠ none) :=
  ⟨⟨{ upAt 64 with ramps := [(0, { level := 3, target := 16 })], gear := { gear := 1, rampNext := mark 48 } }, by decide +kernel⟩,
   ⟨up, by decide +kernel⟩, ⟨{ upAt 260 with ramps := [(2, { level := 14, target := 16, recover := true })] }, by decide +kernel⟩,
   ⟨{ up with allots := [(3, { groups := 2, restLap := some 1000 })] }, 3, _, 1000, rfl, by decide +kernel⟩,
   ⟨{ up with allots := [(3, { groups := 2, run := some ⟨0, 0, 7, 0, 0, [], 0, 0⟩ })] }, 3, _, rfl, by decide +kernel⟩⟩

theorem test_hyp_brake :
    (∃ s : State, s.ctl ∧ s.timed ∧ (s.pwr.brakeDue ∨ s.cad.tick = 4) ∧ s.shiftNow = false ∧ s.inS6 = false) ∧
    (∃ s : State, s.pwr.brakeDue = false ∧ s.cad.tick ≠ 4) ∧ (∃ s : State, s.inS6 ∧ s.cad.tick = 4) ∧
    (∃ s : State, s.ctl ∧ s.brakePoint ∧ s.hold.hold = false ∧ rising s.ramps ∧ ∃ r, s.hold.resumed = some r ∧ r.at_ ≠ s.now) ∧
    (∃ s : State, s.ctl ∧ s.brakePoint ∧ s.hold.hold ∧ s.hold.releaseAt ≠ none) ∧
    (∃ s : State, s.ctl ∧ s.brakePoint ∧ s.hold.hold ∧ s.hold.releaseAt = none) ∧ (∃ s : State, s.brakePoint = false) ∧
    ∃ s : State, s.timed ∧ s.hold.hold ∧ s.hold.releaseAt = some s.now ∧ s.ctl ∧ s.brakePoint :=
  ⟨⟨upAt 4, by decide +kernel⟩, ⟨upAt 5, by decide +kernel⟩,
   ⟨{ upAt 4 with boot := { up.boot with step := 6, state := 0 } }, by decide +kernel⟩,
   ⟨{ upAt 64 with hold := { resumed := some ⟨mark 0, 0, 0, 0⟩ } }, by decide +kernel, by decide +kernel, by decide +kernel, by decide +kernel, _, rfl,
    by decide +kernel⟩,
   ⟨{ upAt 64 with hold := { hold := true, releaseAt := some 0 } }, by decide +kernel⟩,
   ⟨{ upAt 65472 with hold := { hold := true } }, by decide +kernel⟩, ⟨upAt 63, by decide +kernel⟩,
   ⟨{ upAt 320 with hold := { hold := true, releaseAt := some (mark 320) } }, by decide +kernel⟩⟩

theorem test_hyp_permittedGear : ∃ (s : State) (g : Nat), s.ctl ∧ g ∈ s.offered ∧ g ≤ s.ceiling ∧ s.gear.gear.toNat < g ∧
    fits (predict s.pwr.basis g 16) (effCap s.pwr) (97 / 100) :=
  ⟨up, 2, by decide +kernel⟩

theorem test_hyp_caps :
    (∃ (s : State) (p : Port) (d : Word), s.hears p ∧ s.isSteward p ∧ 1 ≤ (fld d 16 3).toNat ∧ (fld d 16 3).toNat ≤ 5 ∧
      fld d 0 16 = 0xFFFF#16) ∧
    (∃ (s : State) (p : Port) (d : Word), s.hears p ∧ s.isSteward p ∧ 1 ≤ (fld d 16 3).toNat ∧ (fld d 16 3).toNat ≤ 5 ∧
      420 ≤ (fld d 0 16).toNat ∧ (fld d 0 16).toNat ≤ 4200) ∧
    (∃ (s : State) (p : Port) (d : Word), s.hears p ∧ s.isSteward p ∧ ((fld d 16 3).toNat = 0 ∨ 5 < (fld d 16 3).toNat)) ∧
    (∃ (s : State) (p : Port) (d : Word), s.hears p ∧ s.isSteward p ∧ fld d 0 16 ≠ 0xFFFF#16 ∧ (fld d 0 16).toNat < 420) ∧
    (∃ (s : State) (p : Port), s.hears p ∧ s.isSteward p = false) ∧
    (∃ (s : State) (v : BitVec 16), s.ctl ∧ s.mgmt.addr ≠ none ∧ s.mgmt.eid ≠ 0 ∧ 420 ≤ v.toNat ∧ v.toNat ≤ 4200) ∧
    (∃ (s : State) (v : BitVec 16), s.ctl ∧ s.mgmt.addr ≠ none ∧ s.mgmt.eid ≠ 0 ∧ 1 ≤ v.toNat ∧ v.toNat ≤ 5) ∧
    ∃ (s : State) (v : BitVec 16), s.ctl ∧ s.mgmt.addr ≠ none ∧ s.mgmt.eid ≠ 0 ∧ v ≠ 0xFFFF ∧ (v.toNat < 420 ∨ 4200 < v.toNat) ∧
      5 < v.toNat :=
  ⟨⟨up, 0, 0x5FFFF, by decide +kernel⟩, ⟨up, 0, 0x101A4, by decide +kernel⟩, ⟨up, 0, 0x6FFFF, by decide +kernel⟩,
   ⟨up, 0, 0x101A3, by decide +kernel⟩, ⟨up, 1, by decide +kernel⟩,
   ⟨up, 4200, by decide +kernel⟩, ⟨up, 5, by decide +kernel⟩, ⟨up, 4201, by decide +kernel⟩⟩

theorem test_hyp_settings :
    (∃ (s : State) (v : BitVec 16) (rest : List (BitVec 8 × BitVec 16)), s.ctl ∧ s.mgmt.setting = (4, v) :: rest) ∧
    (∃ (s : State) (v : BitVec 16) (rest : List (BitVec 8 × BitVec 16)), s.ctl ∧ s.mgmt.setting = (5, v) :: rest ∧
      s.pwr.lapsed) ∧
    ∃ (s : State) (v : BitVec 16) (rest : List (BitVec 8 × BitVec 16)), s.ctl ∧ s.mgmt.setting = (6, v) :: rest :=
  ⟨⟨{ up with mgmt := { up.mgmt with setting := [(4, 954)] } }, 954, [], by decide +kernel⟩,
   ⟨{ up with mgmt := { up.mgmt with setting := [(5, 420), (6, 1)] }, pwr := { lapsed := true } }, 420, [(6, 1)], by decide +kernel⟩,
   ⟨{ up with mgmt := { up.mgmt with setting := [(6, 1)] } }, 1, [], by decide +kernel⟩⟩

/-- A sample of a module at rest: 56 V, 25 °C. -/
def sample : PowerSample :=
  ⟨56000, 7500, List.replicate 4 580, List.replicate 4 0, List.replicate 8 0, List.replicate 64 30000, List.replicate 12 30000, 25000,
   30000, 800, false⟩

theorem test_hyp_powerSample :
    (∃ (s : State) (x : PowerSample), x.wellFormed ∧ s.ctl ∧ s.brakePoint) ∧
    ∃ (s : State) (x : PowerSample), x.wellFormed ∧ s.brakePoint = false :=
  ⟨⟨upAt 64, sample, by decide +kernel⟩, ⟨upAt 65, sample, by decide +kernel⟩⟩

theorem test_hyp_alarms :
    (∃ s : State, s.ctl ∧ s.thm.trip = false) ∧ (∃ s : State, s.boot.supply = .aux ∧ s.ctl = false ∧ s.thm.trip = false) ∧
    (∃ s : State, s.thm.trip) ∧ (∃ s : State, s.ofTick s.now = 0) ∧
    ∃ s : State, s.ofTick s.now = 1 ∧ (sget {} s.frc.recs (slotOf s.frc.seq)).code = 0xA0010000 :=
  ⟨⟨up, by decide +kernel⟩, ⟨{ boot := { supply := .aux } }, by decide +kernel⟩, ⟨{ up with thm := { trip := true } }, by decide +kernel⟩,
   ⟨up, by decide +kernel⟩,
   ⟨{ up with frc := { seq := 1, recs := [(0, ⟨1, 0xA0010000, 0, mark 0⟩)], tickAt := mark 0, inTick := 1 } }, by decide +kernel⟩⟩

theorem test_hyp_rollCall :
    (∃ s : State, s.ctl ∧ s.timed ∧ s.cad.tick = 65472 ∧ s.pelotons = []) ∧ (∃ s : State, s.cad.tick ≠ 65472) ∧
    (∃ s : State, s.ctl ∧ s.timed ∧ s.cad.tick = 16384 ∧ s.boot.step = 8 ∧ s.gear.sampledLap = some (s.cad.lap - 1) ∧
      s.pelotons = []) ∧
    (∃ s : State, s.gear.sampledLap ≠ some (s.cad.lap - 1)) ∧ ∃ (s : State) (p : Peloton), s.pelotons = [p] :=
  ⟨⟨upAt 65472, by decide +kernel⟩, ⟨up, by decide +kernel⟩,
   ⟨{ upAt 16384 with gear := { gear := 1, sampled := 5, sampledLap := some 999 } }, by decide +kernel⟩, ⟨up, by decide +kernel⟩,
   ⟨{ up with images := [(0, { members := 2, rosters := [[0, 5]] })], allots := [(3, {})] }, _, rfl⟩⟩

/-- A hold-up save. -/
def saved (pages : Nat) (commit : Bool) : Save := { recs := [], seq := 0, events := [], odo := {}, pwr := {}, at_ := 0, pages, commit }

/-- A flash whose save slot 1 was written last. -/
def saving (sv : Save) : Flash := { save1 := some sv }

/-- A save committed with its HMAC. -/
def sealedSave (prk : List Byte) (v : Save) : Save := { v with commit := true, mac := flashMac prk v.bytes }

theorem sealedSave_verifies (prk : List Byte) (v : Save) : (sealedSave prk v).verifies prk = true := by
  simp [Save.verifies, sealedSave, Save.bytes]

/-- The key of a flash does not depend on its saves. -/
theorem saving_prk (v w : Save) : (saving v).prk = (saving w).prk := rfl

/-- A committed save with its HMAC, in the flash whose key that is. -/
def whole : Save := sealedSave (saving (saved 23 false)).prk (saved 23 false)

theorem test_hyp_supply :
    (∃ s : State, s.ctl) ∧
    (∃ s : State, s.cad.stopped) ∧
    (∃ (s : State) (sv : Save), s.flash.save = some sv ∧ s.boot.supply = .saved ∧ s.cad.stopped = false ∧ sv.pages < 23) ∧
    (∃ (s : State) (sv : Save), s.flash.save = some sv ∧ s.boot.supply = .saved ∧ s.cad.stopped = false ∧ 23 ≤ sv.pages ∧
      sv.commit = false) ∧
    (∃ s : State, s.boot.supply = .off) ∧ (∃ s : State, s.boot.supply = .aux ∧ s.flash.save = none) ∧
    (∃ (s : State) (sv : Save), s.boot.supply = .aux ∧ s.flash.save = some sv ∧ sv.verifies s.flash.prk ∧ sv.told = false ∧
      sv.restored = false) ∧
    (∃ (s : State) (sv : Save), s.boot.supply = .aux ∧ s.flash.save = some sv ∧ sv.verifies s.flash.prk = false) ∧
    (∃ (s : State) (sv : Save), s.boot.supply = .aux ∧ s.flash.save = some sv ∧ sv.restored) ∧
    (∃ s : State, s.boot.supply ≠ .off) ∧
    (∃ s : State, s.boot.supply = .railOff) ∧ ∃ s : State, s.boot.supply = .on ∧ s.boot.step = 0 :=
  ⟨⟨up, by decide +kernel⟩, ⟨{ cad := { stopped := true } }, rfl⟩,
   ⟨{ boot := { supply := .saved }, flash := saving (saved 22 false) }, _, rfl, by decide +kernel⟩,
   ⟨{ boot := { supply := .saved }, flash := saving (saved 23 false) }, _, rfl, by decide +kernel⟩,
   ⟨{ boot := { supply := .off } }, by decide +kernel⟩, ⟨{ boot := { supply := .aux } }, rfl, rfl⟩,
   ⟨{ boot := { supply := .aux }, flash := saving whole }, _, by decide +kernel, rfl, saving_prk (saved 23 false) whole ▸ sealedSave_verifies _ _, rfl, rfl⟩,
   ⟨{ boot := { supply := .aux }, flash := saving (saved 23 false) }, _, by decide +kernel, rfl, rfl⟩,
   ⟨{ boot := { supply := .aux }, flash := saving { saved 23 true with restored := true } }, _, by decide +kernel, rfl, rfl⟩,
   ⟨up, by decide +kernel⟩, ⟨{ boot := { supply := .railOff } }, by decide +kernel⟩, ⟨{}, by decide +kernel⟩⟩

/-- The module in a boot step, with both links up and cadence time counted. -/
def booting (n : BitVec 4) (st : BitVec 2) : State := { up with boot := { up.boot with step := n, state := st } }

theorem test_hyp_bootAdvance :
    (∃ (s : State) (p : Port) (n : BitVec 4), s.hears p ∧ s.isSteward p ∧ s.boot.state = 1 ∧ n.toNat = s.boot.step.toNat + 1 ∧
      n.toNat ≤ 8 ∧ (n = 5 → s.self.set) ∧ (n = 7 → s.self.plan ≠ []) ∧ (n = 8 → s.cad.synced ∧ s.cad.mismatch = 0) ∧ n = 8) ∧
    (∃ (s : State) (p : Port) (n : BitVec 4), s.hears p ∧ s.isSteward p ∧ s.boot.state = 1 ∧ n.toNat = s.boot.step.toNat + 1 ∧
      n = 5 ∧ s.self.set ∧ s.boot.identity = false) ∧
    (∃ (s : State) (p : Port), s.hears p ∧ s.isSteward p ∧ s.boot.state ≠ 1) ∧
    (∃ (s : State) (p : Port) (n : BitVec 4), s.hears p ∧ s.isSteward p ∧ 8 < n.toNat) ∧
    (∃ (s : State) (p : Port) (n : BitVec 4), s.hears p ∧ s.isSteward p ∧ n = 8 ∧ (s.cad.synced = false ∨ s.cad.mismatch ≠ 0)) ∧
    ∃ (s : State) (p : Port), s.hears p ∧ s.isSteward p = false :=
  ⟨⟨booting 7 1, 0, 8, by decide +kernel⟩,
   ⟨{ booting 4 1 with self := { set := true }, boot := { up.boot with step := 4, identity := false } }, 0, 5, by decide +kernel⟩,
   ⟨booting 2 0, 0, by decide +kernel⟩, ⟨booting 8 1, 0, 9, by decide +kernel⟩,
   ⟨{ booting 7 1 with cad := { up.cad with mismatch := 1 } }, 0, 8, by decide +kernel⟩, ⟨booting 2 1, 1, by decide +kernel⟩⟩

/-- The module once every stack of an MH4-768 and no channel has trained. -/
def trained : State :=
  { booting 4 0 with hbms := (List.range 12).map (fun i => (i, { trained := true })), ddrs := (List.range 8).map (fun c => (c, { fail := 1 })) }

/-- The module in S6 once every known-answer run has matched, by the units of a map without array groups. -/
def tested : State :=
  { booting 6 0 with boot := { up.boot with
      step := 6, state := 0
      katRuns := (booting 6 0).katUnits.flatMap (fun u => [(u, false, 1), (u, true, 1)]) } }

theorem test_hyp_bootStep :
    (∃ (s : State) (ms : BitVec 16), s.boot.supply = .on ∧ s.boot.step = 0 ∧ s.boot.state = 0 ∧ s.boot.tripWait = false ∧
      s.thm.trip = false ∧ ms.toNat = 500) ∧
    (∃ s : State, s.boot.supply = .on ∧ s.boot.step = 1 ∧ s.boot.state = 0 ∧ s.cad.aligned ∧ s.cad.stopped = false) ∧
    (∃ s : State, s.boot.supply = .on ∧ s.boot.step = 1 ∧ s.cad.aligned = false) ∧
    (∃ (s : State) (ms : BitVec 16), s.boot.step ≠ 0 ∧ s.cad.stopped ∧ s.overdue ms = false) ∧
    (∃ s : State, s.clocked ∧ s.boot.step = 4 ∧ s.boot.state = 0 ∧ s.memoryDone) ∧
    (∃ (s : State) (ms : BitVec 16), s.clocked ∧ s.boot.step = 5 ∧ s.boot.state = 0 ∧
      (s.spokesUp.length = 36 ∨ 10000 ≤ ms.toNat)) ∧
    (∃ s : State, s.clocked ∧ s.boot.step = 6 ∧ s.boot.state = 0 ∧ s.katsPass) ∧
    (∃ s : State, s.clocked ∧ s.boot.step = 7 ∧ s.boot.state = 0) ∧
    (∃ (s : State) (ms : BitVec 16), s.boot.supply = .on ∧ s.boot.state = 0 ∧ s.boot.tripWait = false ∧ s.boot.step = 0 ∧
      500 < ms.toNat) ∧
    (∃ (s : State) (ms : BitVec 16), s.boot.supply = .on ∧ s.boot.state = 0 ∧ s.boot.tripWait = false ∧ s.boot.step = 2 ∧
      10000 < ms.toNat) ∧
    (∃ (s : State) (ms : BitVec 16), s.boot.supply = .on ∧ s.boot.state = 0 ∧ s.boot.tripWait = false ∧ s.boot.step = 6 ∧
      4000 < ms.toNat) ∧ ∃ s : State, s.boot.step = 8 :=
  ⟨⟨booting 0 0, 500, by decide +kernel⟩, ⟨booting 1 0, by decide +kernel⟩, ⟨{ boot := { step := 1 } }, by decide +kernel⟩,
   ⟨{ booting 6 0 with cad := { stopped := true } }, 4000, by decide +kernel⟩,
   ⟨trained, by decide +kernel⟩, ⟨booting 5 0, 10000, by decide +kernel⟩, ⟨tested, by decide +kernel⟩, ⟨booting 7 0, by decide +kernel⟩,
   ⟨booting 0 0, 501, by decide +kernel⟩, ⟨booting 2 0, 10001, by decide +kernel⟩, ⟨booting 6 0, 4001, by decide +kernel⟩,
   ⟨up, by decide +kernel⟩⟩

theorem test_hyp_firmwareBoot :
    (∃ (s : State) (ms : BitVec 16), s.clocked ∧ s.boot.step = 2 ∧ s.boot.state = 0 ∧ ms.toNat = 10000 ∧
      s.flash.activating = false) ∧
    ∃ (s : State) (ms : BitVec 16), s.clocked ∧ s.boot.step = 3 ∧ s.boot.state = 0 ∧ ms.toNat = 1000 :=
  ⟨⟨booting 2 0, 10000, by decide +kernel⟩, ⟨booting 3 0, 1000, by decide +kernel⟩⟩

theorem test_hyp_memoryTests :
    (∃ (s : State) (i : Fin 12), s.clocked ∧ s.boot.step = 4 ∧ s.boot.state = 2 ∧ i.val ∈ popSites s.boot.variant.toNat) ∧
    (∃ (s : State) (i : Fin 12), i.val ∉ popSites s.boot.variant.toNat) ∧
    (∃ s : State, s.clocked ∧ s.boot.step = 6 ∧ s.boot.state = 0 ∧ s.katFree .lodge ∧ katArray .lodge = none) ∧
    (∃ (s : State) (x : ArrayIx), s.clocked ∧ s.boot.step = 6 ∧ s.boot.state = 2 ∧ s.katFree (.array x) ∧
      ∃ e ∈ s.boot.katRuns, e.1 = .array x ∧ e.2.1 ≠ true ∧ e.2.2 = 1) ∧
    (∃ (s : State) (x : ArrayIx), s.katFree (.array x) = false) ∧
    (∃ (s : State) (x : ArrayIx), s.clocked ∧ s.boot.step = 6 ∧ s.boot.state = 0 ∧ s.katFree (.array x) ∧ s.boot.katFailed = false ∧
      ∃ e ∈ s.boot.katRuns, e.1 = .array x ∧ e.2.1 ≠ true ∧ e.2.2 ≠ 2) ∧
    ∃ (s : State) (x : ArrayIx) (crc want : BitVec 64), s.clocked ∧ s.boot.step = 6 ∧ s.boot.state = 0 ∧ s.katFree (.array x) ∧
      s.boot.katFailed = false ∧ crc ≠ want :=
  ⟨⟨booting 4 2, 11, by decide +kernel⟩, ⟨{ boot := { step := 4, variant := 0 } }, 1, by decide +kernel⟩, ⟨booting 6 0, by decide +kernel⟩,
   ⟨{ boot := { step := 6, state := 2, katRuns := [(.array 255, false, 1)] } }, 255, by decide +kernel⟩,
   ⟨{ boot := { step := 6, katRuns := [(.array 255, false, 1)] } }, 0, by decide +kernel⟩,
   ⟨{ boot := { step := 6, katRuns := [(.array 255, false, 1)] } }, 255, by decide +kernel⟩,
   ⟨booting 6 0, 0, 1, 2, by decide +kernel⟩⟩

theorem test_hyp_ports :
    (∃ s : State, s.linksRun) ∧ (∃ s : State, s.linksRun = false) ∧ (∃ s : State, s.boot.supply = .on) ∧
    (∃ (s : State) (p : Port), s.hears p ∧ s.isSteward p) ∧
    (∃ (s : State) (p : Port), s.hears p ∧ s.isSteward p = false ∧ 954 ≤ (s.port (other p)).downLaps.toNat) ∧
    ∃ (s : State) (p : Port), s.isSteward p = false ∧ (s.port (other p)).downLaps.toNat < 954 :=
  ⟨⟨booting 1 0, by decide +kernel⟩, ⟨{ boot := { step := 1 } }, by decide +kernel⟩, ⟨{}, by decide +kernel⟩, ⟨up, 0, by decide +kernel⟩,
   ⟨{ up with ports := [(0, { downLaps := 954 }), (1, { linkUp := true })] }, 1, by decide +kernel⟩,
   ⟨{ up with ports := [(0, { downLaps := 953 }), (1, { linkUp := true })] }, 1, by decide +kernel⟩⟩

theorem test_hyp_resets :
    (∃ s : State, s.boot.supply ≠ .aux) ∧
    (∃ (s : State) (p : Port), s.boot.supply = .on ∧ (s.port p).linkUp ∧ s.isSteward p ∧ s.cad.stopped) ∧
    (∃ (s : State) (p : Port), s.boot.supply = .on ∧ (s.port p).linkUp ∧ s.isSteward p = false) ∧
    (∃ s : State, s.ctl ∧ s.mgmt.addr ≠ none ∧ s.mgmt.eid ≠ 0) ∧ (∃ s : State, s.boot.supply ≠ .off ∧ s.mgmt.addr ≠ none) ∧
    (∃ (s : State) (p : Port) (mask : BitVec 16) (n : Nat) (a : AllotSt), s.hears p ∧ mask.getLsbD n ∧ s.allot n = some a ∧
      portOf a.port = p ∧ a.reset = .none) ∧
    (∃ (s : State) (n : Allot) (a : AllotSt), s.clocked ∧ s.allot n.val = some a ∧ a.reset = .draining ∧ s.moversIdle a ∧
      s.sendingSlice a.slice = false ∧ ∀ q ∈ a.plans, q.reduces = []) ∧
    (∃ (s : State) (n : Allot) (a : AllotSt), s.clocked ∧ s.allot n.val = some a ∧ a.reset = .draining ∧
      ∃ q ∈ a.plans, q.reduces ≠ []) ∧
    (∃ (s : State) (n : Allot) (a : AllotSt), s.clocked ∧ s.allot n.val = some a ∧ a.reset = .zeroing ∧
      ∀ b ∈ a.banks, b ∉ s.zeroing) ∧ ∃ s : State, s.clocked :=
  ⟨⟨up, by decide +kernel⟩, ⟨{ up with cad := { up.cad with stopped := true } }, 0, by decide +kernel⟩, ⟨up, 1, by decide +kernel⟩,
   ⟨up, by decide +kernel⟩, ⟨up, by decide +kernel⟩,
   ⟨{ up with allots := [(15, { port := true })] }, 1, 0x8000, 15, _, by decide +kernel, by decide +kernel, rfl, by decide +kernel⟩,
   ⟨{ up with allots := [(4, { groups := 1, reset := .draining })] }, 4, _, by decide +kernel, rfl, by decide +kernel⟩,
   ⟨{ up with allots := [(4, { reset := .draining, plans := [{ plan := 0, at_ := 0, entry := 0, reduces := [(0, 0, 0, [])] }] })] }, 4, _,
    by decide +kernel, rfl, by decide +kernel⟩,
   ⟨{ up with allots := [(4, { groups := 1, reset := .zeroing })], zeroing := [12] }, 4, _, by decide +kernel, rfl, by decide +kernel⟩, ⟨up, by decide +kernel⟩⟩

/-- A running module with the port ring of H0 enabled. -/
def ringUp : State := { up with rings := [(0, { enable := true })] }

theorem test_hyp_rings :
    (∃ (s : State) (p : Port) (r : RingIx), s.hears p ∧ s.reaches p r.val ∧ (s.port p).tdi = .unlocked ∧ (s.ring r.val).enable = false) ∧
    (∃ (s : State) (p : Port) (r : RingIx), s.hears p ∧ s.reaches p r.val ∧ (s.port p).tdi = .unlocked ∧ (s.ring r.val).enable) ∧
    (∃ (s : State) (p : Port) (r : RingIx), s.hears p ∧ s.reaches p r.val ∧ (s.port p).tdi = .error ∧ (s.ring r.val).enable = false) ∧
    (∃ (s : State) (p : Port) (r : RingIx), s.hears p ∧ s.reaches p r.val = false) ∧
    (∃ (s : State) (p : Port) (r : RingIx), s.hears p ∧ s.reaches p r.val ∧ (s.port p).tdi = .run) ∧
    ∃ (s : State) (r : RingIx) (p : Port), s.ringPort r.val = some p ∧ s.timed ∧ s.ringServed r.val ∧
      (s.ring r.val).reading = false ∧ s.ringResets r.val = false ∧
      (s.ring r.val).pend.length ≤ 1008 ∧ s.now.toNat % max 1 (s.pollPeriod r.val) = 0 :=
  ⟨⟨up, 0, 0, by decide +kernel⟩, ⟨ringUp, 0, 0, by decide +kernel⟩,
   ⟨{ up with ports := [(0, { linkUp := true, tdi := .error })] }, 0, 0, by decide +kernel⟩, ⟨up, 0, 1, by decide +kernel⟩,
   ⟨{ up with ports := [(0, { linkUp := true, tdi := .run })] }, 0, 0, by decide +kernel⟩, ⟨ringUp, 0, 0, by decide +kernel⟩⟩

/-- A completion entry. -/
def done1 : Completion := ⟨0x04, 0x00, 0, 7, 0, 0, 0, 0xFF⟩

theorem test_hyp_completion :
    (∃ (s : State) (r : RingIx) (p : Port) (c : Completion) (rest : List Completion), s.clocked ∧ s.ringPort r.val = some p ∧
      s.ringServed r.val ∧ (s.ring r.val).pend = c :: rest ∧ (s.ring r.val).room) ∧
    (∃ (s : State) (r : RingIx), (s.ring r.val).room = false) ∧
    (∃ (s : State) (r : RingIx) (p : Port) (u : Time), s.timed ∧ s.ringPort r.val = some p ∧ (s.port p).linkUp ∧
      (s.ring r.val).owed ∧ (s.ring r.val).lastMsg = some u ∧ u.toNat + (s.ring r.val).holdoff.toNat ≤ s.now.toNat) ∧
    (∃ (s : State) (r : RingIx), (s.ring r.val).owed = false) ∧
    (∃ (s : State) (p : Port), s.clocked ∧ (s.port p).linkUp ∧ (s.port p).evtDue) ∧
    (∃ (s : State) (p : Port), (s.port p).evtDue = false) ∧
    (∃ (s : State) (p : Port) (v : BitVec 11), (sget {} (s.port p).msix v.toNat : Msix).masked = false) ∧
    ∃ (s : State) (p : Port) (v : BitVec 11), (sget {} (s.port p).msix v.toNat : Msix).masked :=
  ⟨⟨{ up with rings := [(0, { enable := true, cqTail := 14, pend := [done1, done1] })] }, 0, 0, done1, [done1], by decide +kernel⟩,
   ⟨{ up with rings := [(0, { cqTail := 7, cqHead := 8 })] }, 0, by decide +kernel⟩,
   ⟨{ up with rings := [(1, { enable := true, owed := true, lastMsg := some ((999 : BitVec 40) ++ (65535 : BitVec 16)), holdoff := 1 })]
              ports := [(1, { linkUp := true })] }, 1, 1, _, by decide +kernel, by decide +kernel, by decide +kernel,
    by decide +kernel, rfl, by decide +kernel⟩, ⟨up, 0, rfl⟩,
   ⟨{ up with ports := [(0, { linkUp := true, evtDue := true })] }, 0, by decide +kernel⟩, ⟨up, 0, rfl⟩,
   ⟨{ up with ports := [(1, { msix := [(2047, { masked := false })] })] }, 1, 2047, by decide +kernel⟩, ⟨up, 0, 0, by decide +kernel⟩⟩

/-- A submission entry with PHASE 1 and the bytes named. -/
def entry (op : Byte) (l : Sparse Byte) : List Byte :=
  (List.range 64).map (fun i => if i = 0 then op else if i = 63 then 0x80 else sget 0 l i)

/-- A run in phase 0. -/
def run0 : Run := ⟨0, 0, 9, 0, 0, [], 0, 0⟩

theorem test_hyp_submissionFetch :
    (∃ (s : State) (r : RingIx) (l : List (List Byte)), s.timed ∧ s.ringServed r.val ∧ (s.ring r.val).reading ∧ l.length ≤ 4 ∧
      l ≠ [] ∧ (∀ b ∈ l, b.length = 64) ∧ ∀ b ∈ l.head?, bit (byteAt b 0x3F) 7 ≠ (s.ring r.val).sqPhase) ∧
    (∃ (s : State) (r : RingIx), s.timed ∧ s.ringServed r.val ∧ (s.ring r.val).reading ∧ s.ringResets r.val) ∧
    (∃ (s : State) (r : RingIx), s.timed ∧ s.ringServed r.val ∧ (s.ring r.val).reading ∧ s.runRoom r.val = 0) ∧
    (∃ (s : State) (r : RingIx) (b : List Byte), s.timed ∧ s.ringServed r.val ∧ (s.ring r.val).reading ∧ b.length = 64 ∧
      bit (byteAt b 0x3F) 7 = (s.ring r.val).sqPhase ∧ (s.ring r.val).sqHead.toNat < (s.ring r.val).n ∧
      s.ringResets r.val = false ∧ 0 < s.runRoom r.val ∧ 2 ≤ r.val) ∧
    (∃ (s : State) (r : RingIx) (b : List Byte), s.timed ∧ s.ringServed r.val ∧ (s.ring r.val).reading ∧ b.length = 64 ∧
      bit (byteAt b 0x3F) 7 = (s.ring r.val).sqPhase ∧ (s.ring r.val).sqHead.toNat < (s.ring r.val).n ∧
      s.ringResets r.val = false ∧ 0 < s.runRoom r.val ∧ r.val = 1 ∧ byteAt b 0 = 0x0F) ∧
    ∃ (s : State) (r : RingIx), (s.ring r.val).reading = false :=
  ⟨⟨{ up with rings := [(0, { enable := true, reading := true })] }, 0, [List.replicate 64 0], by decide +kernel⟩,
   ⟨{ up with allots := [(3, { reset := .draining })], rings := [(5, { enable := true, reading := true })] }, 5, by decide +kernel⟩,
   ⟨{ up with allots := [(3, { pendRun := some run0 })], rings := [(5, { enable := true, reading := true })] }, 5, by decide +kernel⟩,
   ⟨{ up with allots := [(15, {})], rings := [(17, { enable := true, reading := true })] }, 17, entry 1 [], by decide +kernel⟩,
   ⟨{ up with rings := [(1, { enable := true, reading := true, sqHead := 7 })] }, 1, entry 0x0F [], by decide +kernel⟩, ⟨up, 17, rfl⟩⟩

/-- A running module with allotment 3 of H0, its ring enabled, and the image of that allotment. -/
def allot3 (a : AllotSt) (i : ImageSt) : State :=
  { up with allots := [(3, a)], images := [(0, i)], rings := [(0, { enable := true }), (5, { enable := true })] }

/-- A plane of phase 0 without records. -/
def plane0 : Plane := ⟨0, [], [], [], []⟩

theorem test_hyp_run :
    (∃ (s : State) (a : Allot) (x : AllotSt) (b : List Byte), s.allot a.val = some x ∧
      (∃ c ∈ (s.image x.image).rosters.getD (byteAt b 2).toNat [], modNum c = modNum s.ownCoord) ∧ b.length = 64 ∧ s.timed ∧
      s.ringServed (2 + a.val) ∧ x.reset = .none ∧ sfind s.dying a.val = none ∧ x.pendRun = none ∧ byteAt b 0 = 0x01 ∧
      entryDirt b [(3, 1), (0x38, 7)] = none ∧ x.stopped = false ∧ x.started ∧ x.run ≠ none ∧
      (byteAt b 2).toNat ≤ (s.image x.image).regroups.toNat ∧ (byteAt b 1).toNat < (s.image x.image).phases.toNat ∧
      le 64 b 8 8 = 0 ∧ x.inFront (byteAt b 1).toNat) ∧
    (∃ (s : State) (a : Allot) (x : AllotSt) (b : List Byte), s.allot a.val = some x ∧ b.length = 64 ∧ s.timed ∧
      s.ringServed (2 + a.val) ∧ x.reset = .none ∧ sfind s.dying a.val = none ∧ x.pendRun = none ∧ byteAt b 0 = 0x01 ∧
      entryDirt b [(3, 1), (0x38, 7)] = none ∧ x.stopped) ∧
    (∃ (s : State) (a : Allot) (x : AllotSt) (b : List Byte), s.allot a.val = some x ∧ b.length = 64 ∧ s.timed ∧
      s.ringServed (2 + a.val) ∧ x.reset = .none ∧ sfind s.dying a.val = none ∧ x.pendRun = none ∧ byteAt b 0 ≠ 0x01) ∧
    (∃ (s : State) (a : Allot) (x : AllotSt), s.allot a.val = some x ∧ x.reset ≠ .none) ∧
    ∃ (s : State) (a : Allot) (x : AllotSt), s.allot a.val = some x ∧ x.pendRun ≠ none :=
  ⟨⟨allot3 { started := true, run := some run0, front := some plane0 } { phases := 1, rosters := [[0]] }, 3, _, entry 1 [], rfl,
    ⟨0, by decide +kernel, by decide +kernel⟩, by decide +kernel⟩, ⟨allot3 { stopped := true } {}, 3, _, entry 1 [], rfl, by decide +kernel⟩,
   ⟨allot3 {} {}, 3, _, entry 2 [], rfl, by decide +kernel⟩, ⟨allot3 { reset := .boundary } {}, 3, _, rfl, by decide +kernel⟩,
   ⟨allot3 { pendRun := some run0 } {}, 3, _, rfl, by decide +kernel⟩⟩

theorem test_hyp_runStart :
    (∃ (s : State) (a : Allot) (x : AllotSt) (l : BitVec 40), s.allot a.val = some x ∧ x.startLap = some l ∧ s.timed ∧ s.clear ∧
      s.cad.tick = 0 ∧ x.started = false ∧ l.toNat ≤ s.cad.lap.toNat ∧ (s.image x.image).gears.getLsbD s.gear.gear.toNat) ∧
    (∃ (s : State) (a : Allot) (x : AllotSt) (r : Run), s.allot a.val = some x ∧ x.pendRun = some r ∧ s.timed ∧ s.clear ∧
      s.cad.tick = 0 ∧ x.startDue ∧ x.run = none ∧ r.start.toNat ≤ s.cad.lap.toNat) ∧
    (∃ (s : State) (n : Nat) (x : AllotSt), s.allot n = some x ∧ s.clear = false ∧ x.startDue) ∧
    (∃ (s : State) (n : Nat) (x : AllotSt), s.allot n = some x ∧ s.clear ∧ x.startDue ∧ x.startLap ≠ none ∧ x.runDue = false) ∧
    (∃ (s : State) (n : Nat) (x : AllotSt) (r : Run) (f : Plane), s.allot n = some x ∧ x.pendRun = some r ∧ x.front = some f ∧
      s.clear ∧ x.runDue ∧ x.startDue = false ∧ x.stopped = false ∧ s.thm.trip = false ∧ f.phase.toNat = r.firstPhase.toNat ∧
      x.swapDue = none) ∧
    (∃ (s : State) (n : Nat) (x : AllotSt) (r : Run), s.allot n = some x ∧ x.pendRun = some r ∧ s.clear ∧ x.runDue ∧
      x.startDue = false ∧ x.stopped) ∧
    (∃ (s : State) (n : Nat) (x : AllotSt) (r : Run), s.allot n = some x ∧ x.pendRun = some r ∧ s.clear ∧ x.runDue ∧
      x.startDue = false ∧ s.thm.trip) ∧
    (∃ s : State, s.clear = false) ∧ ∃ s : State, rising s.trns ∧ (s.trn 0).owner = some 3 :=
  ⟨⟨allot3 { startLap := some 1000 } { gears := 2 }, 3, _, 1000, rfl, rfl, by decide +kernel⟩,
   ⟨allot3 { startDue := true, pendRun := some { run0 with start := 1000 } } {}, 3, _, _, rfl, rfl, by decide +kernel⟩,
   ⟨{ allot3 { startDue := true } {} with hold := { hold := true } }, 3, _, rfl, by decide +kernel⟩,
   ⟨allot3 { startDue := true, startLap := some 1000 } {}, 3, _, rfl, by decide +kernel⟩,
   ⟨allot3 { runDue := true, pendRun := some run0, front := some plane0 } {}, 3, _, run0, plane0, rfl, rfl, rfl, by decide +kernel⟩,
   ⟨allot3 { runDue := true, pendRun := some run0, stopped := true } {}, 3, _, _, rfl, rfl, by decide +kernel⟩,
   ⟨{ allot3 { runDue := true, pendRun := some run0 } {} with thm := { trip := true } }, 3, _, _, rfl, rfl, by decide +kernel⟩,
   ⟨{ up with hold := { hold := true } }, by decide +kernel⟩,
   ⟨{ up with trns := [(0, { owner := some 3, st := 1, count := 5 })] }, by decide +kernel⟩⟩

theorem test_hyp_load :
    (∃ (s : State) (p : Port) (b : List Byte), s.timed ∧ s.ringServed p.val ∧ b.length = 64 ∧ byteAt b 0 = 0x10 ∧
      entryDirt b [(1, 3), (0x14, 4), (0x1F, 1), (0x28, 0x17)] = none ∧ (le 64 b 0x20 8).toNat % 64 = 0 ∧
      s.boot.step = 8 ∧ s.cad.synced ∧ s.cad.mismatch = 0 ∧ s.load = none) ∧
    (∃ (s : State) (p : Port) (b : List Byte), s.timed ∧ s.ringServed p.val ∧ b.length = 64 ∧ byteAt b 0 = 0x10 ∧
      entryDirt b [(1, 3), (0x14, 4), (0x1F, 1), (0x28, 0x17)] = none ∧ (le 64 b 0x20 8).toNat % 64 = 0 ∧ s.boot.step ≠ 8) ∧
    ∃ (s : State) (ld : LoadSt) (image : List Byte), s.load = some ld ∧ s.timed ∧ s.hears (portOf ld.port) ∧
      image.length = ld.length.toNat ∧ s.lodge.entropyDead = false :=
  ⟨⟨ringUp, 0, entry 0x10 [(0x20, 0x40)], by decide +kernel⟩,
   ⟨{ ringUp with boot := { up.boot with step := 7 } }, 0, entry 0x10 [], by decide +kernel⟩,
   ⟨{ ringUp with load := some ⟨false, 7, 0, 256, 0, 0, 0, 0⟩ }, _, List.replicate 256 0, rfl, by decide +kernel⟩⟩

theorem test_hyp_start :
    (∃ (s : State) (p : Port) (b : List Byte), s.timed ∧ s.ringServed p.val ∧ b.length = 64 ∧ byteAt b 0 = 0x11 ∧
      entryDirt b [(1, 3), (0x0A, 6), (0x17, 1), (0x18, 0x27)] = none ∧ s.notOwned p (entryAllots b) ≠ 0) ∧
    (∃ (s : State) (p : Port) (b : List Byte), s.timed ∧ s.ringServed p.val ∧ b.length = 64 ∧ byteAt b 0 = 0x11 ∧
      entryDirt b [(1, 3), (0x0A, 6), (0x17, 1), (0x18, 0x27)] = none ∧ s.notOwned p (entryAllots b) = 0 ∧
      s.unstarted p (setBits (entryAllots b)) = none) ∧
    (∃ (s : State) (p : Port) (b : List Byte) (image ready : Nat), s.timed ∧ s.ringServed p.val ∧ b.length = 64 ∧
      byteAt b 0 = 0x11 ∧ entryDirt b [(1, 3), (0x0A, 6), (0x17, 1), (0x18, 0x27)] = none ∧ s.notOwned p (entryAllots b) = 0 ∧
      s.unstarted p (setBits (entryAllots b)) = some image ∧ s.phase0Ready (setBits (entryAllots b)) = some ready ∧
      leNat (bytesAt b 0x10 8) / 65536 < earliestStart s.now.toNat ready) ∧
    ∃ (s : State) (p : Port) (b : List Byte) (image ready : Nat), s.timed ∧ s.ringServed p.val ∧ b.length = 64 ∧
      byteAt b 0 = 0x11 ∧ entryDirt b [(1, 3), (0x0A, 6), (0x17, 1), (0x18, 0x27)] = none ∧ s.notOwned p (entryAllots b) = 0 ∧
      s.unstarted p (setBits (entryAllots b)) = some image ∧ s.phase0Ready (setBits (entryAllots b)) = some ready ∧
      leNat (bytesAt b 0x10 8) % 65536 = 0 ∧ earliestStart s.now.toNat ready ≤ leNat (bytesAt b 0x10 8) / 65536 :=
  ⟨⟨ringUp, 0, entry 0x11 [(9, 0x80)], by decide +kernel⟩,
   ⟨allot3 { started := true } {}, 0, entry 0x11 [(8, 8)], by decide +kernel⟩,
   ⟨allot3 { shadow := some { phase := 0, doneAt := 5 } } {}, 0, entry 0x11 [(8, 8)], 0, 5, by decide +kernel⟩,
   ⟨allot3 { shadow := some { phase := 0, doneAt := 5 } } {}, 0, entry 0x11 [(8, 8), (0x13, 0x10)], 0, 5, by decide +kernel⟩⟩

/-- What the only listed number reads as. -/
theorem only {α : Type} {k n : Nat} {v x : α} (h : sfind [(k, v)] n = some x) : x = v := by
  simp [sfind] at h; exact h.2.symm

theorem test_hyp_release :
    (∃ (s : State) (p : Port) (b : List Byte), s.timed ∧ s.ringServed p.val ∧ b.length = 64 ∧ byteAt b 0 = 0x12 ∧
      entryDirt b [(1, 3), (0x0A, 6), (0x10, 0x2F)] = none ∧ s.notOwned p (entryAllots b) = 0 ∧
      s.busyRuns (setBits (entryAllots b)) = 0 ∧ entryAllots b ≠ 0 ∧
      ∀ (n : Nat) (x : AllotSt), (entryAllots b).getLsbD n → s.allot n = some x → s.moversIdle x) ∧
    (∃ (s : State) (a : Allot) (d : Dying), sfind s.dying a.val = some d ∧ s.clocked ∧ d.freed) ∧
    (∃ (s : State) (a : Allot) (d : Dying) (x : AllotSt), sfind s.dying a.val = some d ∧ d.freed = false ∧ s.allot a.val = some x ∧
      s.moversIdle x = false) ∧
    ∃ (s : State) (p : Port) (b : List Byte), s.timed ∧ s.ringServed p.val ∧ b.length = 64 ∧ byteAt b 0 = 0x12 ∧
      entryDirt b [(1, 3), (0x0A, 6), (0x10, 0x2F)] = none ∧ s.notOwned p (entryAllots b) = 0 ∧
      s.busyRuns (setBits (entryAllots b)) ≠ 0 :=
  ⟨⟨allot3 { groups := 1 } {}, 0, entry 0x12 [(8, 8)], by decide +kernel, by decide +kernel, by decide +kernel, by decide +kernel, by decide +kernel, by decide +kernel, by decide +kernel,
    by decide +kernel, fun n x _ h => by
      have h : sfind [(3, ({ groups := 1 } : AllotSt))] n = some x := h
      rw [only h]; decide +kernel⟩,
   ⟨{ up with dying := [(3, ⟨false, 7, 0, 8, true, 0⟩), (4, ⟨false, 8, 0, 16, false, 0⟩)] }, 3, _, rfl, by decide +kernel⟩,
   ⟨{ allot3 { ghMovers := 1 } {} with dying := [(3, ⟨false, 7, 0, 8, false, 0⟩)], movers := [(64, { active := some ⟨0, {}, 0, 0, [], [], 0, false⟩ })] },
    3, _, _, rfl, by decide +kernel, rfl, by decide +kernel⟩,
   ⟨allot3 { run := some run0 } {}, 0, entry 0x12 [(8, 8)], by decide +kernel⟩⟩

theorem test_hyp_giveTake :
    (∃ (s : State) (p : Port) (b : List Byte), s.timed ∧ s.ringServed p.val ∧ b.length = 64 ∧ byteAt b 0 = 0x13 ∧
      entryDirt b [(1, 3), (0x0A, 6), (0x10, 0x2F)] = none ∧ s.notOwned p (entryAllots b) = 0 ∧ (s.port (other p)).linkUp ∧
      (s.ring (other p).val).enable) ∧
    (∃ (s : State) (p : Port) (b : List Byte), s.timed ∧ s.ringServed p.val ∧ b.length = 64 ∧ byteAt b 0 = 0x13 ∧
      entryDirt b [(1, 3), (0x0A, 6), (0x10, 0x2F)] = none ∧ s.notOwned p (entryAllots b) = 0 ∧
      (s.ring (other p).val).enable = false) ∧
    (∃ (s : State) (p : Port) (b : List Byte), s.timed ∧ s.ringServed p.val ∧ b.length = 64 ∧ byteAt b 0 = 0x14 ∧
      entryDirt b [(1, 3), (0x0A, 6), (0x10, 0x2F)] = none ∧ s.notOther p (entryAllots b) = 0 ∧
      954 ≤ (s.port (other p)).downLaps.toNat) ∧
    ∃ (s : State) (p : Port) (b : List Byte), s.timed ∧ s.ringServed p.val ∧ b.length = 64 ∧ byteAt b 0 = 0x14 ∧
      entryDirt b [(1, 3), (0x0A, 6), (0x10, 0x2F)] = none ∧ s.notOther p (entryAllots b) = 0 ∧
      (s.port (other p)).downLaps.toNat < 954 :=
  ⟨⟨{ allot3 {} {} with rings := [(0, { enable := true }), (1, { enable := true })] }, 0, entry 0x13 [(8, 8)], by decide +kernel⟩,
   ⟨allot3 {} {}, 0, entry 0x13 [(8, 8)], by decide +kernel⟩,
   ⟨{ allot3 { port := true } {} with ports := [(0, { linkUp := true }), (1, { downLaps := 954 })] }, 0, entry 0x14 [(8, 8)],
    by decide +kernel⟩,
   ⟨{ allot3 { port := true } {} with ports := [(0, { linkUp := true }), (1, { downLaps := 953 })] }, 0, entry 0x14 [(8, 8)],
    by decide +kernel⟩⟩

theorem test_hyp_stagingWindow :
    (∃ (s : State) (p : Port) (a : Allot) (x : AllotSt) (d : Word), s.page p a.val = some x ∧ s.hears p ∧
      (s.port p).tdi = .unlocked ∧ s.confidential x = false ∧ bit d 31 ∧ x.covers (winAddr (fld d 0 24))) ∧
    (∃ (s : State) (p : Port) (a : Allot) (x : AllotSt) (d : Word), s.page p a.val = some x ∧ s.hears p ∧
      (fld d 16 4 = x.sgrp ∨ s.ownsGroup a.val (fld d 16 4).toNat) ∧ 1 ≤ (fld d 0 13).toNat ∧ (fld d 0 13).toNat ≤ 4096) ∧
    (∃ (s : State) (p : Port) (a : Allot), s.page p a.val = none) ∧
    (∃ (s : State) (p : Port) (o : BitVec 28) (n : BitVec 13) (a : Nat), s.hears p ∧ s.clean 0 ∧ n = 64 ∧
      s.window p o.toNat = some a ∧ (slices o.toNat n.toNat).length = 2) ∧
    (∃ (s : State) (p : Port) (o : BitVec 28) (n : BitVec 13) (a w : Nat), s.window p o.toNat = some a ∧ s.hears p ∧
      o.toNat % 2 ^ 24 + n.toNat ≤ 2 ^ 24 ∧ w ∈ wordsOf a n.toNat ∧ sget [] s.upset (upsetKey 0 w) ≠ [] ∧
      trellisDecode ((sget [] s.upset (upsetKey 0 w)).take 36) = .uncorrectable) ∧
    ∃ (s : State) (p : Port) (o : BitVec 28) (data : List Byte) (a : Nat), s.window p o.toNat = some a ∧ s.hears p ∧ s.clean 0 ∧
      data.length = 5 :=
  ⟨⟨allot3 { parts := [(0, 1)] } {}, 0, 3, _, 0x80000010, rfl, by decide +kernel⟩,
   ⟨{ allot3 {} {} with strobes := [(5, { owner := some 3 })] }, 0, 3, _, 0x51000, rfl, by decide +kernel⟩, ⟨up, 1, 0, by decide +kernel⟩,
   ⟨allot3 { parts := [(0, 1)], winEn := true, winBase := 16 } {}, 0, 0x3FFFFC1, 64, _, by decide +kernel, fun _ => rfl, rfl, rfl, by decide +kernel⟩,
   ⟨{ allot3 { parts := [(0, 1)], winEn := true, winBase := 16 } {} with upset := [(2 ^ 23 + 1, [1, 1, 1])] }, 0, 0x3000001, 64, _,
    2 ^ 23 + 1, rfl, by decide +kernel⟩,
   ⟨allot3 { parts := [(0, 1)], winEn := true, winBase := 16 } {}, 0, 0x3FFFFFB, [1, 2, 3, 4, 5], _, rfl, by decide +kernel,
    fun _ => rfl, rfl⟩⟩

theorem test_hyp_registers :
    (∃ (s : State) (p : Port) (v : Word), s.hears p ∧ s.isSteward p ∧ fld v 0 2 ≠ 3#2) ∧
    (∃ (s : State) (p : Port) (o : BitVec 26), s.hears p ∧ s.isSteward p ∧ o = 0x163004 ∧ (s.port p).tdi ≠ .locked ∧
      (s.port p).tdi ≠ .run) ∧
    (∃ (s : State) (p : Port) (o : BitVec 26), s.hears p ∧ s.isSteward p = false ∧ globalWrite (o.toNat / 4 * 4) ≠ none) ∧
    (∃ (s : State) (p : Port) (o : BitVec 26), s.hears p ∧ s.isSteward p = false ∧ partBlock (o.toNat / 4 * 4)) ∧
    (∃ (s : State) (p : Port), s.hears p ∧ s.isSteward p ∧ (s.port p).indSpace = 1 ∧ (s.port p).indWord.toNat < 144 ∧
      s.boot.step.toNat < 7 ∧ (s.port p).indInc ∧ (s.port p).indWord = 143) ∧
    ∃ (s : State) (p : Port), s.clocked ∧ (s.port p).linkUp ∧ (s.port p).indSpace = 1 ∧ (s.port p).indWord.toNat < 144 :=
  ⟨⟨up, 0, 2, by decide +kernel⟩, ⟨up, 0, 0x163004, by decide +kernel⟩, ⟨up, 1, 0x4003, by decide +kernel, by decide +kernel, fun h => nomatch h⟩, ⟨up, 1, 0x7FFFFC, by decide +kernel⟩,
   ⟨{ booting 6 0 with ports := [(0, { linkUp := true, indSpace := 1, indInc := true, indWord := 143 })] }, 0, by decide +kernel⟩,
   ⟨{ up with ports := [(1, { linkUp := true, indSpace := 1 })] }, 1, by decide +kernel⟩⟩

theorem test_hyp_strobes :
    (∃ (s : State) (p : Port) (g : Sgrp), s.hears p ∧ s.isSteward p ∧ (s.strobe g.val).owner = none ∧ s.cad.aligned ∧
      s.now.toNat + 2 ≤ ((s.strobe g.val).atHi ++ (s.strobe g.val).atLo : BitVec 56).toNat ∧
      ((s.strobe g.val).atLo.toNat % 65536 = 0 ∨ 8 ≤ (s.strobe g.val).atLo.toNat % 65536)) ∧
    (∃ (s : State) (p : Port) (g : Sgrp), s.hears p ∧ s.isSteward p ∧ (s.strobe g.val).owner = none ∧
      ((s.strobe g.val).atHi ++ (s.strobe g.val).atLo : BitVec 56).toNat < s.now.toNat + 2) ∧
    (∃ (s : State) (p : Port) (g : Sgrp), s.hears p ∧ s.isSteward p ∧ (s.strobe g.val).owner ≠ none) ∧
    (∃ (s : State) (p : Port), s.hears p ∧ s.isSteward p = false) ∧
    (∃ (s : State) (g : Sgrp), s.pending = [] ∧ s.timed ∧ 0 < s.cad.tick.toNat ∧ s.cad.tick.toNat < 65535 ∧ (s.strobe g.val).due ∧
      ∀ h, h ≠ g.val → (s.strobe h).due = false) ∧
    (∃ (s : State) (g : Sgrp) (u : Time), (s.strobe g.val).armed = some u ∧ s.timed ∧
      s.now = (if u.toNat % 65536 = 0 then later 7 u else u)) ∧
    (∃ (s : State) (g : Nat) (q : Pav) (k : Nat) (u : Time), s.groupOfBlock (3 + q.val) = g ∧ s.groupOfBlock 0 ≠ g ∧
      (s.rest q.val).applied u ≠ (s.rest q.val).eff ∧ k ∈ s.restingGroups q.val) ∧
    (∃ (s : State) (u : Time), s.groupOfBlock 0 = 0 ∧ s.ctl ∧ (s.pwr.sched.applied u).getLsbD 19 ∧
      fld (s.pwr.sched.applied u) 16 3 = 3 ∧ fld (s.pwr.sched.applied u) 0 16 = 4200 ∧ s.pwr.sched.at_ = some u) ∧
    (∃ (s : State) (h : Gh) (j : Fin 18) (u : Time), s.groupOfBlock (1 + h.val) = 0 ∧ h.val = 1 ∧
      (s.self.hold1.applied u).getLsbD j.val ∧ s.self.hold1.eff.getLsbD j.val = false) ∧
    ∃ (s : State) (h : Gh) (j : Fin 18) (u : Time), s.groupOfBlock (1 + h.val) = 0 ∧ h.val = 0 ∧
      (s.self.hold0.applied u).getLsbD j.val = false ∧ s.self.hold0.eff.getLsbD j.val ∧ 5 ≤ s.boot.step.toNat ∧ s.self.set ∧
      (s.spk (18 * h.val + j.val)).state = 0 :=
  ⟨⟨{ upAt 65534 with strobes := [(1, { atLo := 1001 * 65536 })] }, 0, 1, by decide +kernel⟩,
   ⟨{ upAt 65535 with strobes := [(1, { atLo := 1001 * 65536 })] }, 0, 1, by decide +kernel⟩,
   ⟨{ up with strobes := [(2, { owner := some 3 })] }, 0, 2, by decide +kernel⟩, ⟨up, 1, by decide +kernel⟩,
   ⟨{ upAt 65534 with strobes := [(15, { due := true })] }, 15, by decide +kernel, by decide +kernel, by decide +kernel, by decide +kernel,
    by decide +kernel, fun h hh => by
      have e : (({ upAt 65534 with strobes := [(15, { due := true })] } : State).strobe h) = sget {} [(15, ({ due := true } : Strobe))] h := rfl
      have n : (15 : Nat) ≠ h := fun k => hh k.symm
      rw [e]; simp [sget, sfind, n]⟩,
   ⟨{ upAt 7 with strobes := [(1, { armed := some (mark 0) })] }, 1, _, rfl, by decide +kernel⟩,
   ⟨{ up with sgrpSel := 0x0001000, rests := [(0, ⟨1, 2, 1, none⟩)], allots := [(3, { groups := 1 })]
              ramps := [(0, { level := 1, target := 1 })] }, 1, 0, 0, 0,
    by decide +kernel⟩,
   ⟨{ up with pwr := { sched := ⟨0, 0, 0xB1068, some 8⟩ } }, 8, by decide +kernel⟩,
   ⟨{ up with self := { hold1 := ⟨0, 0x20000, 0, none⟩ } }, 1, 17, 8, by decide +kernel⟩,
   ⟨{ up with self := { hold0 := ⟨1, 0, 1, none⟩, set := true } }, 0, 0, 8, by decide +kernel⟩⟩

/-- Allotment 3 of a running module at tick 8, the next entry of its unit due. -/
def ttAt (k : EntryKind) (a : AllotSt) : State :=
  { upAt 8 with allots := [(3, { a with
      started := true, run := some run0, tables := [⟨0, 1, 0, false, none, [⟨0, 1, 16⟩], [⟨4, k⟩]⟩]
      pos := some { phase := 0, step := 5, free := mark 20, running := some (mark 4, 1, 0) } })] }

/-- A COMPLETE entry whose word of the timetable store has met an error. -/
def ttNoise (e : List Byte) : State :=
  { ttAt (.complete 9) {} with upset := [(entryKey 3 0 0, e)] }

theorem test_hyp_timetable :
    (∃ (s : State) (a : Allot) (x : AllotSt) (r : Run) (p : RunPos) (tb : Timetable) (u loops : Nat), s.allot a.val = some x ∧
      x.run = some r ∧ x.pos = some p ∧ x.table p.phase.toNat s.gear.gear.toNat x.variant.toNat = some tb ∧
      nextUnit tb p = some (u, loops) ∧ s.timed ∧ s.hold.hold = false ∧ x.stopped = false ∧ s.shiftNow = false ∧ s.thm.trip = false ∧ p.ended = none ∧
      unitDue (tb.units.getD u ⟨0, 0, 1⟩).length p s ∧ sget [] s.upset (entryKey a.val (x.tableIx tb) 0) = []) ∧
    (∃ (s : State) (a : Allot) (d : Due) (tag : Word), s.due a.val = some d ∧ sget [] s.upset (entryKey a.val d.table d.ix) = [] ∧ d.kind = .complete tag) ∧
    (∃ (s : State) (a : Allot) (d : Due) (g : Byte), s.due a.val = some d ∧ sget [] s.upset (entryKey a.val d.table d.ix) = [] ∧ d.kind = .strobe g ∧
      d.al.sgrp.toNat = g.toNat) ∧
    (∃ (s : State) (a : Allot) (d : Due) (r : Run) (tb : Timetable) (next : Byte), s.due a.val = some d ∧ sget [] s.upset (entryKey a.val d.table d.ix) = [] ∧
      d.kind = .phaseEnd next ∧ d.al.run = some r ∧ d.al.anyTable d.pos.phase.toNat d.al.variant.toNat = some tb ∧
      nextUnit tb d.pos = none ∧ next = 0xFF) ∧
    (∃ (s : State) (a : Allot) (d : Due) (r : Run) (tb : Timetable) (next : Byte), s.due a.val = some d ∧ sget [] s.upset (entryKey a.val d.table d.ix) = [] ∧
      d.kind = .phaseEnd next ∧ d.al.run = some r ∧ d.al.anyTable d.pos.phase.toNat d.al.variant.toNat = some tb ∧
      nextUnit tb d.pos = none ∧ next ≠ 0xFF) ∧
    (∃ (s : State) (a : Allot), s.due a.val = none) ∧
    ∃ (s : State) (a : Allot) (d : Due) (tag : Word) (e : List Byte), s.due a.val = some d ∧
      sget [] s.upset (entryKey a.val d.table d.ix) = e ∧ d.kind = .complete tag ∧ trellisDecode (fit 36 e) = .uncorrectable :=
  ⟨⟨{ upAt 4 with allots := [(3, { run := some run0, tables := [⟨0, 1, 0, false, none, [⟨0, 0, 65532⟩], []⟩]
                                   pos := some { phase := 0, step := 0, free := mark 4 } })] },
    3, _, _, _, _, _, _, rfl, rfl, rfl, rfl, rfl, by decide +kernel⟩,
   ⟨ttAt (.complete 9) {}, 3, _, 9, rfl, rfl, rfl⟩, ⟨ttAt (.strobe 2) { sgrp := 2 }, 3, _, 2, rfl, rfl, rfl, rfl⟩,
   ⟨ttAt (.phaseEnd 0xFF) {}, 3, _, _, _, 0xFF, rfl, rfl, rfl, rfl, rfl, by decide +kernel⟩,
   ⟨ttAt (.phaseEnd 1) {}, 3, _, _, _, 1, rfl, rfl, rfl, rfl, rfl, by decide +kernel⟩, ⟨up, 0, rfl⟩,
   ⟨ttNoise [1, 1, 1], 3, _, 9, _, rfl, rfl, rfl, by decide +kernel⟩⟩

/-- A plane of phase 0 that has array 5 in G1 mode 1 without an edge program, and descriptors on mover 1. -/
def plane5 (c : ArrCfg) (d : List Desc) : Plane := ⟨0, [{ c with array := 5 }], [{}], [], [(1, d)]⟩

/-- Allotment 3 with that plane in front and an ISSUE entry at work on array 5. -/
def issuing (i : Issue) (x : ArrSt) : State :=
  { upAt 8 with allots := [(3, { groups := 1, front := some (plane5 { mode := 1 } []) })], arrays := [(5, { x with issues := [i] })] }

/-- An ISSUE entry of one vector that begins now. -/
def issue1 : Issue := { entry := 0, at_ := mark 8, total := 1, slotMask := 1, stride := 1, switch := false,
                        cohort := false, cpt := 16, step := 0 }

theorem test_hyp_arrays :
    (∃ (s : State) (a : Allot) (d : Due) (sw co : Bool) (g : Byte) (mask vec slots stride : BitVec 16), s.due a.val = some d ∧
      sget [] s.upset (entryKey a.val d.table d.ix) = [] ∧ d.kind = .issue sw co g mask vec slots stride) ∧
    (∃ (s : State) (x : ArrayIx) (n : Nat) (al : AllotSt) (c : ArrCfg) (e : EdgeProg) (i : Issue),
      s.arrayOf x.val = some (n, al, c, e) ∧ (s.arr x.val).nextIssue x.val = some i ∧ s.timed ∧ s.hold.hold = false ∧
      al.stopped = false ∧ s.thm.trip = false ∧ s.domainsStopped = false ∧ c.mode ≠ 0 ∧
      s.now = issueTick x.val i (slotCycle i i.admitted) ∧ mustSwitch c i (s.arr x.val) ∧
      (s.arr x.val).full (!(s.arr x.val).slot) ∧ s.clean 1 ∧ s.clean 2) ∧
    (∃ (s : State) (x : ArrayIx) (n : Nat) (al : AllotSt) (c : ArrCfg) (e : EdgeProg) (i : Issue),
      s.arrayOf x.val = some (n, al, c, e) ∧ (s.arr x.val).nextIssue x.val = some i ∧ s.timed ∧ s.hold.hold = false ∧
      al.stopped = false ∧ s.thm.trip = false ∧ s.domainsStopped = false ∧ c.mode ≠ 0 ∧
      s.now = issueTick x.val i (slotCycle i i.admitted) ∧ mustSwitch c i (s.arr x.val) = false ∧ s.clean 1 ∧ s.clean 2) ∧
    (∃ (s : State) (x : ArrayIx) (n : Nat) (al : AllotSt) (c : ArrCfg) (e : EdgeProg) (i : Issue),
      s.arrayOf x.val = some (n, al, c, e) ∧ (s.arr x.val).nextIssue x.val = some i ∧ s.timed ∧ s.hold.hold = false ∧
      al.stopped = false ∧ s.thm.trip = false ∧ s.domainsStopped = false ∧ c.mode ≠ 0 ∧
      s.now = issueTick x.val i (slotCycle i i.admitted) ∧ mustSwitch c i (s.arr x.val) ∧
      (s.arr x.val).full (!(s.arr x.val).slot) = false) ∧
    (∃ (s : State) (x : ArrayIx) (n : Nat) (al : AllotSt) (c : ArrCfg) (e : EdgeProg) (v : Flight) (rest : List Flight),
      s.arrayOf x.val = some (n, al, c, e) ∧ (s.arr x.val).flights = v :: rest ∧ s.timed ∧ s.thm.trip = false ∧ s.now = v.readyAt ∧
      c.progLen = 0 ∧ al.outJoins x.val = []) ∧
    (∃ (s : State) (x : ArrayIx) (n : Nat) (al : AllotSt) (c : ArrCfg) (e : EdgeProg) (v : Flight) (rest : List Flight) (o : EdgeOp),
      s.arrayOf x.val = some (n, al, c, e) ∧ (s.arr x.val).flights = v :: rest ∧ s.timed ∧ s.thm.trip = false ∧ s.now = v.readyAt ∧
      c.progLen = 1 ∧ e.ops.head? = some o ∧ o.opc = 10 ∧ o.srcA = 64) ∧ ∃ (s : State) (x : ArrayIx), (s.arr x.val).flights = [] :=
  ⟨⟨ttAt (.issue true false 0 0x0020 1 1 1) {}, 3, _, true, false, 0, 0x0020, 1, 1, 1, rfl, rfl, rfl⟩,
   ⟨issuing { issue1 with switch := true } { full1 := true }, 5, 3, _, _, _, _, rfl, rfl, by decide +kernel, by decide +kernel, by decide +kernel,
    by decide +kernel, by decide +kernel, by decide +kernel, by decide +kernel, by decide +kernel, by decide +kernel, fun _ => rfl, fun _ => rfl⟩,
   ⟨issuing issue1 {}, 5, 3, _, _, _, _, rfl, rfl, by decide +kernel, by decide +kernel, by decide +kernel, by decide +kernel, by decide +kernel, by decide +kernel, by decide +kernel,
    by decide +kernel, fun _ => rfl, fun _ => rfl⟩,
   ⟨issuing { issue1 with switch := true } { full0 := true }, 5, 3, _, _, _, _, rfl, rfl, by decide +kernel⟩,
   ⟨issuing issue1 { flights := [⟨[], [], 0, 0, 0, mark 8⟩] }, 5, 3, _, _, _, _, _, rfl, rfl, by decide +kernel⟩,
   ⟨{ upAt 8 with
      allots := [(3, { groups := 1, front := some ⟨0, [{ array := 5, mode := 1, progLen := 1 }],
        [{ ops := [{ opc := 10, srcA := 64 }] }], [], []⟩ })]
      arrays := [(5, { flights := [⟨[], [], 0, 0, 0, mark 8⟩] })] }, 5, 3, _, _, _, _, _, _, rfl, rfl, by decide +kernel, by decide +kernel,
    by decide +kernel, by decide +kernel, rfl, by decide +kernel, by decide +kernel⟩, ⟨up, 255, rfl⟩⟩

theorem test_hyp_numbers :
    (∃ w a : Block, w.scale = some (false, 1, 3) ∧ a.scale = some (true, 1, 0) ∧ windowed 0 ∧
      (∀ x ∈ w.elems ++ a.elems, ∃ n m e, x = Machine.Num.fin n m e) ∧ w.elems.length = 2) ∧
    (∃ w a : Block, w.scale = some (false, 1, 3) ∧ a.scale = some (true, 1, 0) ∧ windowed 3 = false ∧
      (∀ x ∈ w.elems ++ a.elems, ∃ n m e, x = Machine.Num.fin n m e) ∧ w.elems.length = 1) ∧
    (∃ w : Block, w.scale = none) ∧ (∃ w : Block, w.scale ≠ none ∧ ∃ x ∈ w.elems, x = Machine.Num.nan) ∧
    ((2 ^ 25 - 1) * 2 ^ 103 : Rat) ≤ ((2 ^ 128 : Nat) : Rat) ∧
    (∃ x y : Word, decFp32 x = .fin false 12582912 (-23) ∧ decFp32 y = .fin true 12582912 (-23)) ∧
    (∃ x y : Word, decFp32 x = .inf true ∧ decFp32 y = .inf false) ∧ (∃ x y : Word, decFp32 x = .nan ∧ decFp32 y = .fin false 0 (-149)) ∧
    ∃ x : List Word, x.length = blockElems 9 ∧ ∃ w ∈ x, (decFp32 w).isInf :=
  ⟨⟨⟨some (false, 1, 3), [.fin false 1 0, .fin true 3 (-9)], 0, false⟩, ⟨some (true, 1, 0), [.fin false 1 0], 0, false⟩, rfl, rfl, rfl,
    fun x h => (by
      rcases List.mem_append.mp h with h | h <;> simp only [List.mem_cons, List.not_mem_nil, or_false] at h
      · rcases h with rfl | rfl <;> exact ⟨_, _, _, rfl⟩
      · exact ⟨_, _, _, h⟩), rfl⟩,
   ⟨⟨some (false, 1, 3), [.fin false 1 0], 0, false⟩, ⟨some (true, 1, 0), [], 0, false⟩, rfl, rfl, rfl,
    fun x h => ⟨_, _, _, List.mem_singleton.mp h⟩, rfl⟩,
   ⟨⟨none, [], 0, false⟩, rfl⟩, ⟨⟨some (false, 1, 0), [.nan], 0, false⟩, by decide, .nan, List.mem_singleton.mpr rfl, rfl⟩,
   by norm_num, ⟨0x3FC00000, 0xBFC00000, by decide +kernel⟩, ⟨0xFF800000, 0x7F800000, by decide +kernel⟩, ⟨0x7FC00001, 0, by decide +kernel⟩,
   ⟨List.replicate (blockElems 9) 0x7F800000, List.length_replicate, 0x7F800000, by decide +kernel⟩⟩

/-- A word copied within the scratchpad of array group 0, from byte 0 to byte 64. -/
def copy1 : Desc := { op := 1, srcSp := 1, dstSp := 1, rows := 1, rowWords := 1, dst := 64 }

/-- Allotment 3 with array group 0 and a transfer on mover 1. -/
def moving (z : Xfer) : State :=
  { upAt 8 with allots := [(3, { groups := 1, slice := 7, front := some (plane5 {} [copy1]) })], movers := [(1, { active := some z })] }

/-- A transfer of a descriptor that has moved n words. -/
def xfer (d : Desc) (n : Nat) : Xfer := { index := 0, desc := d, entry := 0, moved := n }

/-- A control packet from module 0 to module 0. -/
def aPacket : Packet := ⟨0, true, false, false, false, 0, 0, 0, false, 0, 0, 0, 0, 0, 0, 0, 0, []⟩

theorem test_hyp_movers :
    (∃ (s : State) (a : Allot) (d : Due) (mv ds : BitVec 16), s.due a.val = some d ∧ sget [] s.upset (entryKey a.val d.table d.ix) = [] ∧ d.kind = .move mv ds) ∧
    (∃ (s : State) (n m : Nat) (ix : BitVec 9) (z : Desc), s.frontDesc n m ix.toNat = some z ∧ (s.mover m).stopped = false ∧
      (s.mover m).active = none) ∧
    (∃ (s : State) (n m : Nat) (ix : BitVec 9), (s.mover m).stopped = false ∧ s.frontDesc n m ix.toNat = none) ∧
    (∃ (s : State) (n m : Nat) (ix : BitVec 9) (z : Desc), s.frontDesc n m ix.toNat = some z ∧ (s.mover m).stopped = false ∧
      (s.mover m).active ≠ none ∧ (s.mover m).pending ≠ none) ∧
    (∃ (s : State) (m : MoverIx) (n : Nat) (x : AllotSt) (z : Xfer), s.moverOwner m.val = some n ∧ s.allot n = some x ∧
      (s.mover m.val).active = some z ∧ s.clocked ∧ z.moved = z.desc.total ∧ s.sending m.val = false ∧ z.desc.trnEn = false ∧
      z.desc.nextEn ∧ x.stopped = false ∧ pavHeld m.val s = false ∧ swapHeld m.val x s = false) ∧
    (∃ (s : State) (m : MoverIx) (n : Nat) (x : AllotSt) (z : Xfer), s.moverOwner m.val = some n ∧ s.allot n = some x ∧
      (s.mover m.val).active = some z ∧ s.clocked ∧ z.moved = z.desc.total ∧ s.sending m.val = false ∧ z.desc.trnEn ∧ z.bad = false ∧
      z.desc.nextEn = false ∧ pavHeld m.val s = false ∧ swapHeld m.val x s = false) ∧
    (∃ (s : State) (m : MoverIx), s.sending m.val) ∧
    (∃ (s : State) (m : MoverIx) (n : Nat) (z : Xfer), s.moverOwner m.val = some n ∧ (s.mover m.val).active = some z ∧ s.clocked ∧
      z.desc.op ≠ 2 ∧ z.desc.srcSp = 3) ∧
    (∃ (s : State) (m : MoverIx) (n : Nat) (z : Xfer), s.moverOwner m.val = some n ∧ (s.mover m.val).active = some z ∧ s.clocked ∧
      ¬((z.desc.op ≠ 2 ∧ (z.desc.srcSp = 3 ∨ z.desc.srcSp = 4)) ∨ (z.desc.op = 3 ∧ (z.desc.dstSp = 3 ∨ z.desc.dstSp = 4))) ∧
      z.desc.dstSp = 3) ∧ ∃ (s : State) (m : MoverIx), (s.mover m.val).active = none :=
  ⟨⟨ttAt (.move 1 0) {}, 3, _, 1, 0, rfl, rfl, rfl⟩,
   ⟨ttAt (.move 1 0) { front := some (plane5 {} [copy1]) }, 3, 1, 0, _, rfl, by decide +kernel⟩, ⟨up, 0, 79, 511, by decide +kernel⟩,
   ⟨{ ttAt (.move 1 0) { front := some (plane5 {} [copy1]) } with movers := [(1, { active := some (xfer copy1 0)
                                                                                   pending := some (xfer copy1 0) })] },
    3, 1, 0, _, rfl, by decide +kernel⟩,
   ⟨moving (xfer { copy1 with nextEn := true, next := 511 } 1), 1, 3, _, _, rfl, rfl, rfl, by decide +kernel⟩,
   ⟨moving (xfer { copy1 with trnEn := true, trnInc := 1, trnIdx := 8191 } 1), 1, 3, _, _, rfl, rfl, rfl, by decide +kernel⟩,
   ⟨{ up with stations := [(22, { entry := [{ pkt := aPacket, since := 0, egress := 0, mover := some 69 }] })] }, 69, by decide +kernel⟩,
   ⟨moving (xfer { copy1 with srcSp := 3 } 0), 1, 3, _, rfl, rfl, by decide +kernel⟩,
   ⟨moving (xfer { copy1 with dstSp := 3 } 0), 1, 3, _, rfl, rfl, by decide +kernel⟩, ⟨up, 79, rfl⟩⟩

theorem test_hyp_wordTransfer :
    (∃ (s : State) (m : MoverIx) (n : Nat) (x : AllotSt) (z : Xfer) (st w st' w' : Nat), s.moverOwner m.val = some n ∧
      s.allot n = some x ∧ (s.mover m.val).active = some z ∧ s.clocked ∧ z.moved < z.desc.total ∧ wordHeld m.val z.desc s = false ∧
      swapHeld m.val x s = false ∧ z.desc.usesHost = false ∧ z.desc.op = 1 ∧
      placeIn' n x z.desc.srcSp.toNat (rowAddr z.desc.src.toNat z.desc.srcStride.toNat z.desc.rowWords.toNat z.moved) = .store st w ∧
      placeIn' n x z.desc.dstSp.toNat (rowAddr z.desc.dst.toNat z.desc.dstStride.toNat z.desc.rowWords.toNat z.moved) =
        .store st' w' ∧ s.clean st ∧
      (st' = 1 ∧ ∃ b ∈ s.bankWrites, b.at_ = s.now ∧ b.word = w' ∧ b.cycle = 3 ∧ moverRank m.val (bankOf (32 * w')) < b.rank)) ∧
    (∃ (s : State) (m : MoverIx) (n : Nat) (x : AllotSt) (z : Xfer) (st' w' : Nat), s.moverOwner m.val = some n ∧
      s.allot n = some x ∧ (s.mover m.val).active = some z ∧ s.clocked ∧ z.moved < z.desc.total ∧ wordHeld m.val z.desc s = false ∧
      swapHeld m.val x s = false ∧ z.desc.usesHost = false ∧ z.desc.op = 2 ∧
      placeIn' n x z.desc.dstSp.toNat (rowAddr z.desc.dst.toNat z.desc.dstStride.toNat z.desc.rowWords.toNat z.moved) =
        .store st' w' ∧ s.bankWrites = []) ∧
    (∃ (x : Transfer) (s : State) (a : Nat) (slot : Bool) (off : Nat) (b : List Byte) (c : ArrCfg) (e : EdgeProg),
      x.a.arrayCfg a = some (c, e) ∧ slot ≠ (s.arr a).slot ∧ off + 32 = 32 * c.tileWords.toNat ∧ b.length = 32 ∧ off % 32 = 0) ∧
    (∃ (s : State) (u : TransferSource) (b : BitVec 12) (n : Nat), s.sourceOwner u = some n ∧ s.clocked ∧ s.sliceOf n ≠ b) ∧
    (∃ (s : State) (u : TransferSource) (b : BitVec 12) (n : Nat) (err : List Byte), s.sourceOwner u = some n ∧ s.clocked ∧
      s.sliceOf n = b ∧ trellisDecode (fit 36 err) = .clean) ∧
    (∃ (s : State) (u : TransferSource) (b : BitVec 12) (n : Nat) (err left : List Byte), s.sourceOwner u = some n ∧ s.clocked ∧
      s.sliceOf n = b ∧ trellisDecode (fit 36 err) = .corrected left) ∧
    (∃ (s : State) (u : TransferSource) (b : BitVec 12) (n : Nat) (err : List Byte), s.sourceOwner u = some n ∧ s.clocked ∧
      s.sliceOf n = b ∧ trellisDecode (fit 36 err) = .uncorrectable) ∧
    ∃ (s : State) (u : TransferSource), s.sourceOwner u = none :=
  ⟨⟨{ moving (xfer copy1 0) with bankWrites := [⟨2, mark 8, 3, 100⟩] }, 1, 3, _, _, 1, 0, 1, 2, rfl, rfl, rfl, by decide +kernel,
    by decide +kernel, by decide +kernel, by decide +kernel, by decide +kernel, by decide +kernel, by decide +kernel, by decide +kernel, fun _ => rfl,
    by decide +kernel⟩,
   ⟨moving (xfer { copy1 with op := 2, srcSp := 0 } 0), 1, 3, _, _, 1, 2, rfl, rfl, rfl, by decide +kernel⟩,
   ⟨⟨3, { front := some (plane5 { tileWords := 2 } []) }, 1, xfer copy1 0, [], [], 0⟩, up, 5, true, 32, List.replicate 32 1, _, _, rfl,
    by decide +kernel⟩,
   ⟨moving (xfer copy1 0), .mover 1, 8, 3, rfl, by decide +kernel⟩, ⟨moving (xfer copy1 0), .array 5, 7, 3, [], rfl, by decide +kernel⟩,
   ⟨moving (xfer copy1 0), .array 5, 7, 3, [1], List.replicate 32 0, rfl, by decide +kernel⟩,
   ⟨moving (xfer copy1 0), .array 5, 7, 3, [1, 1, 1], rfl, by decide +kernel⟩, ⟨up, .mover 79, by decide +kernel⟩⟩

/-- Allotment 3 with a swap to phase 1 due at lap 1000 and a shadow load of that phase. -/
def swapping (t : BitVec 16) (h : Shadow) (a : AllotSt) : State :=
  { upAt t with allots := [(3, { a with swapDue := some (1, mark 0), shadow := some h })] }

theorem test_hyp_shadow :
    (∃ (s : State) (a : Allot) (d : Due) (phase : Byte), s.due a.val = some d ∧ sget [] s.upset (entryKey a.val d.table d.ix) = [] ∧ d.kind = .shadow phase ∧ s.clean 0) ∧
    (∃ (s : State) (a : Allot) (x : AllotSt) (h : Shadow), s.allot a.val = some x ∧ x.shadow = some h ∧ s.timed ∧ h.plane = none ∧
      h.stopped = false ∧ s.now = h.doneAt ∧ s.clean 0) ∧
    (∃ (s : State) (a : Allot) (x : AllotSt), s.allot a.val = some x ∧ x.shadow = none) ∧
    (∃ (s : State) (a : Allot) (x : AllotSt) (ph : BitVec 3) (u : Time), s.allot a.val = some x ∧
      x.swapDue = some (ph, u) ∧ swapReady x ph ≠ none ∧ s.timed ∧ s.clear ∧ s.cad.tick = 4 ∧
      u.toNat ≤ s.cad.lap.toNat * 65536 ∧ x.stopped = false) ∧
    (∃ (s : State) (a : Allot) (x : AllotSt) (ph : BitVec 3) (u : Time), s.allot a.val = some x ∧
      x.swapDue = some (ph, u) ∧ swapReady x ph ≠ none ∧ s.timed ∧ s.clear ∧ s.cad.tick = 4 ∧
      u.toNat ≤ s.cad.lap.toNat * 65536 ∧ x.stopped) ∧
    (∃ (s : State) (a : Allot) (x : AllotSt) (ph : BitVec 3) (u : Time), s.allot a.val = some x ∧ x.swapDue = some (ph, u) ∧
      swapReady x ph = none ∧ s.timed ∧ s.clear ∧ s.cad.tick = 4 ∧ u.toNat ≤ s.cad.lap.toNat * 65536) ∧
    (∃ (s : State) (a : Allot) (x : AllotSt) (ph : BitVec 3) (u : Time) (p : Plane), s.allot a.val = some x ∧
      x.swapDue = some (ph, u) ∧ swapReady x ph = some p ∧ s.timed ∧ s.cad.tick = 5 ∧
      x.swapAt = some (s.cad.lap ++ (4 : BitVec 16)) ∧ x.run = none) ∧
    ∃ (s : State) (a : Allot) (x : AllotSt) (ph : BitVec 3) (u : Time) (p : Plane), s.allot a.val = some x ∧
      x.swapDue = some (ph, u) ∧ swapReady x ph = some p ∧ s.timed ∧ s.cad.tick = 5 ∧
      x.swapAt = some (s.cad.lap ++ (4 : BitVec 16)) ∧ x.run ≠ none :=
  ⟨⟨ttAt (.shadow 1) {}, 3, _, 1, rfl, rfl, rfl, fun _ => rfl⟩,
   ⟨swapping 5 { phase := 1, doneAt := mark 5 } {}, 3, _, _, rfl, rfl, by decide +kernel, rfl, rfl, by decide +kernel, fun _ => rfl⟩,
   ⟨allot3 {} {}, 3, _, rfl, rfl⟩,
   ⟨swapping 4 { phase := 1, doneAt := 0, plane := some { plane0 with phase := 1 } } {}, 3, _, 1, _, rfl, rfl, by decide +kernel⟩,
   ⟨swapping 4 { phase := 1, doneAt := 0, plane := some { plane0 with phase := 1 } } { stopped := true }, 3, _, 1, _, rfl, rfl,
    by decide +kernel⟩,
   ⟨swapping 4 { phase := 1, doneAt := (1001 : BitVec 40) ++ (0 : BitVec 16) } {}, 3, _, 1, _, rfl, rfl, rfl, by decide +kernel⟩,
   ⟨swapping 5 { phase := 1, doneAt := 0, plane := some { plane0 with phase := 1 } } { swapAt := some (mark 4) },
    3, _, 1, _, _, rfl, rfl, rfl, by decide +kernel⟩,
   ⟨swapping 5 { phase := 1, doneAt := 0, plane := some { plane0 with phase := 1 } }
      { swapAt := some (mark 4), run := some run0 }, 3, _, 1, _, _, rfl, rfl, rfl, by decide +kernel⟩⟩

theorem test_hyp_turnstiles :
    (∃ (s : State) (a : Allot) (d : Due) (ti dl : BitVec 16) (tg : Word), s.due a.val = some d ∧ sget [] s.upset (entryKey a.val d.table d.ix) = [] ∧
      d.kind = .trnArm ti dl tg ∧ (s.trn ti.toNat).count.toNat < tg.toNat) ∧
    (∃ (s : State) (a : Allot) (d : Due) (ti dl : BitVec 16) (tg : Word), s.due a.val = some d ∧ sget [] s.upset (entryKey a.val d.table d.ix) = [] ∧
      d.kind = .trnArm ti dl tg ∧ (s.trn ti.toNat).count = tg) ∧
    (∃ (s : State) (a : Allot) (d : Due) (ti dl : BitVec 16) (tg : Word), s.due a.val = some d ∧ sget [] s.upset (entryKey a.val d.table d.ix) = [] ∧
      d.kind = .trnArm ti dl tg ∧ tg.toNat < (s.trn ti.toNat).count.toNat ∧ (s.trn ti.toNat).link = none ∧
      (s.trn ti.toNat).owner = some (BitVec.ofNat 4 a.val)) ∧
    (∃ (s : State) (k : Trn) (n : BitVec 4) (x : AllotSt), s.allot n.toNat = some x ∧ s.timed ∧ (s.trn k.val).owner = some n ∧
      (s.trn k.val).st = 1 ∧ s.over (s.trn k.val).deadline ∧ s.now.toNat = (s.trn k.val).deadline.toNat + 1 ∧ x.stopped = false ∧
      rising s.trns) ∧
    (∃ (s : State) (k : Trn), (s.trn k.val).st ≠ 1) ∧
    ∃ (s : State) (k : Trn) (n : Nat) (a : AllotSt) (was : Option Nat), s.allot n = some a ∧ n < 16 ∧ (s.trn k.val).st = 1 ∧
      (s.trn k.val).owner = some (BitVec.ofNat 4 n) ∧ (s.trn k.val).link = none ∧
      (s.trn k.val).target.toNat < (s.trn k.val).count.toNat ∧ was = some 4 ∧ 4 ≤ (s.trn k.val).target.toNat :=
  ⟨⟨ttAt (.trnArm 7 9 5) {}, 3, _, 7, 9, 5, rfl, rfl, rfl, by decide +kernel⟩,
   ⟨{ ttAt (.trnArm 7 9 5) {} with trns := [(7, { count := 5 })] }, 3, _, 7, 9, 5, rfl, rfl, rfl, by decide +kernel⟩,
   ⟨{ ttAt (.trnArm 7 9 5) {} with trns := [(7, { count := 6, owner := some 3 })] }, 3, _, 7, 9, 5, rfl, rfl, rfl, by decide +kernel⟩,
   ⟨{ upAt 9 with allots := [(3, {})], trns := [(8191, { owner := some 3, st := 1, deadline := mark 8 })] },
    8191, 3, _, rfl, by decide +kernel⟩, ⟨up, 8191, by decide +kernel⟩,
   ⟨{ upAt 8 with allots := [(3, {})], trns := [(7, { owner := some 3, st := 1, target := 4, count := 5 })] }, 7, 3, _, some 4, rfl,
    by decide +kernel⟩⟩

/-- The image of one plan with one stage of level TRAY, whose only member is this module. -/
def planImage : ImageSt := { plans := [⟨0, 1, 0, 1, 64, 0⟩], stages := [⟨1, 0, false, 0, 0, 0, 0, 0⟩], rosters := [[0]] }

/-- Allotment 3 of that image with its plan at work since tick 8. -/
def planning (t : BitVec 16) (r : List (Nat × Nat × Time × List Byte)) : State :=
  { upAt t with images := [(0, planImage)]
                allots := [(3, { plans := [{ plan := 0, at_ := mark 8, entry := 0, reduces := r }] })]
                trns := [(0, { owner := some 3, st := 2, deadline := mark 8 })] }

/-- Segment 0 of a stage of two members, sent by the first. -/
def sending1 : SegSend := ⟨3, {}, 0, ⟨⟨1, 0, false, 0, 0, 0, 0, 0⟩, [0, 5], 64⟩, 0, 0, 0, 0, []⟩

theorem test_hyp_collectives :
    (∃ (s : State) (a : Allot) (d : Due) (pl : BitVec 16), s.due a.val = some d ∧ sget [] s.upset (entryKey a.val d.table d.ix) = [] ∧ d.kind = .collective pl) ∧
    (∃ (s : State) (a : Allot) (pn : Fin 256) (sn : Fin 4) (gn : Fin 256) (x : AllotSt) (r : PlanRun) (pl : Plan) (i : StageInfo)
        (own : Nat), s.allot a.val = some x ∧ x.planRun pn.val = some r ∧ (s.image x.image).plans[pn.val]? = some pl ∧
      (s.planInfo x pn.val)[sn.val]? = some i ∧ posOf i.group i.stage.level.toNat (s.image x.image).coord = some own ∧ s.timed ∧
      s.hold.hold = false ∧ x.stopped = false ∧ r.halted = false ∧ gn.val < pl.segments ∧ i.stage.level ≠ 0 ∧
      s.now = later (i.stage.start + gn.val * i.stage.period) r.at_ ∧ ∀ st, st < 4 → s.clean st) ∧
    (∃ (s : State) (a : Allot) (pn : Fin 256) (sn : Fin 4) (gn : Fin 256) (x : AllotSt) (r : PlanRun) (pl : Plan) (i : StageInfo),
      s.allot a.val = some x ∧ x.planRun pn.val = some r ∧ (s.image x.image).plans[pn.val]? = some pl ∧
      (s.planInfo x pn.val)[sn.val]? = some i ∧ s.timed ∧ s.hold.hold = false ∧ x.stopped = false ∧ r.halted = false ∧
      gn.val < pl.segments ∧ (s.trn (segTrn i gn.val)).st = 2 ∧
      s.now = later 1 (s.trn (segTrn i gn.val)).deadline ∧ ∀ st, st < 4 → s.clean st) ∧
    (∃ (s : State) (a : Allot) (pn : Fin 256) (sn : Fin 4) (gn : Fin 256) (x : AllotSt) (r : PlanRun) (i : StageInfo) (e : Time)
        (sum : List Byte), s.allot a.val = some x ∧ x.planRun pn.val = some r ∧ (s.planInfo x pn.val)[sn.val]? = some i ∧
      r.reduces.find? (fun q => decide (q.1 = sn.val) && decide (q.2.1 = gn.val)) = some (sn.val, gn.val, e, sum) ∧ s.timed ∧
      s.now = e) ∧
    (∃ (s : State) (x : SegSend) (k : Nat), (∀ st, st < 4 → s.clean st) ∧ x.path = [] ∧ k ≠ x.own ∧ k < x.i.n) ∧
    (∃ (s : State) (x : SegSend), (∀ st, st < 4 → s.clean st) ∧ x.path = [] ∧ x.own < x.i.n) ∧
    (∃ (s : State) (x : AllotSt) (id : BitVec 16) (l : List Byte) (off : Nat) (b : StagingBuf), s.buffer x id = some b ∧ b.pool ≠ 2 ∧
      ((bufPlace b).2 + off) % 32 = 0 ∧ l.length % 32 = 0 ∧ l ≠ []) ∧
    ∃ (s : State) (a : Allot) (x : AllotSt), s.allot a.val = some x ∧ x.planRun 255 = none :=
  ⟨⟨ttAt (.collective 0) {}, 3, _, 0, rfl, rfl, rfl⟩,
   ⟨planning 8 [], 3, 0, 0, 0, _, _, _, _, _, rfl, rfl, rfl, rfl, rfl, by decide +kernel, by decide +kernel, by decide +kernel, by decide +kernel, by decide +kernel,
    by decide +kernel, by decide +kernel, fun _ _ _ => rfl⟩,
   ⟨planning 9 [], 3, 0, 0, 0, _, _, _, _, rfl, rfl, rfl, rfl, by decide +kernel, by decide +kernel, by decide +kernel, by decide +kernel, by decide +kernel, by decide +kernel,
    by decide +kernel, fun _ _ _ => rfl⟩,
   ⟨planning 20 [(0, 0, mark 20, [])], 3, 0, 0, 0, _, _, _, _, _, rfl, rfl, rfl, rfl, by decide +kernel⟩,
   ⟨planning 8 [], sending1, 1, fun _ _ _ => rfl, rfl, by decide +kernel, by decide +kernel⟩,
   ⟨planning 8 [], sending1, fun _ _ _ => rfl, rfl, by decide +kernel⟩,
   ⟨{ up with images := [(0, { staging := [⟨9, 0, 0, 0, 64⟩] })] }, {}, 9, List.replicate 32 1, 32, _, rfl, by decide +kernel⟩,
   ⟨planning 8 [], 3, _, rfl, rfl⟩⟩

theorem test_hyp_scrub :
    (∃ (s : State) (i : Fin 12), s.clocked ∧ s.scrubLeft (.stack i) ≠ 0 ∧ s.clean 0) ∧
    (∃ (s : State) (c : Fin 8), s.clocked ∧ s.scrubLeft (.channel c) ≠ 0 ∧ s.clean 0) ∧
    ∃ (s : State) (u : ScrubUnit), s.scrubLeft u = 0 :=
  ⟨⟨{ up with hbms := [(11, { trained := true, scrub := 2 ^ 31 - 1, scrubbed := 63 })] }, 11, by decide +kernel, by decide +kernel, fun _ => rfl⟩,
   ⟨{ up with capGib := 16, ddrs := [(7, { trained := true, gib := 16, scrubbed := 255 })] }, 7, by decide +kernel, by decide +kernel,
    fun _ => rfl⟩, ⟨{ up with hbms := [(11, { trained := true, scrubbed := 64 })] }, .stack 11, by decide +kernel⟩⟩

/-- A running module with one spoke in a state of its own. -/
def spoke (k : Nat) (x : SpokeSt) : State := { up with spokes := [(k, x)] }

/-- The identity record of module 0's spoke 7 with a correct check. -/
def record : List Byte :=
  let l : List Byte := [1, 0, 7, 0, 0, 0, 0, 0x80] ++ List.replicate 52 0
  l ++ bytesOf 4 (crc32c l)

theorem test_hyp_spokeTraining :
    (∃ (s : State) (k : Spoke), s.clocked ∧ 5 ≤ s.boot.step.toNat ∧ s.self.set ∧ s.spokeHeld k.val = false ∧ (s.spk k.val).state = 0) ∧
    (∃ (s : State) (k : Spoke), s.clocked ∧ (s.spk k.val).state = 1) ∧ (∃ (s : State) (k : Spoke), s.clocked ∧ (s.spk k.val).state = 2) ∧
    (∃ (s : State) (k : Spoke), s.clocked ∧ (s.spk k.val).state = 3) ∧ (∃ (s : State) (k : Spoke), s.clocked ∧ (s.spk k.val).state = 4) ∧
    (∃ (s : State) (k : Spoke), (s.spk k.val).state ≠ 5) ∧
    ∃ (s : State) (k : Spoke), s.clocked ∧ (s.spk k.val).state = 5 ∧ rising s.spokes ∧ rising s.stations :=
  ⟨⟨{ booting 5 0 with self := { set := true } }, 35, by decide +kernel⟩, ⟨spoke 0 { state := 1 }, 0, by decide +kernel⟩,
   ⟨spoke 0 { state := 2 }, 0, by decide +kernel⟩, ⟨spoke 0 { state := 3 }, 0, by decide +kernel⟩, ⟨spoke 0 { state := 4 }, 0, by decide +kernel⟩,
   ⟨up, 0, by decide +kernel⟩, ⟨spoke 35 { state := 5 }, 35, by decide +kernel⟩⟩

theorem test_hyp_identity :
    (∃ (s : State) (k : Spoke), s.clocked ∧ (s.spk k.val).state = 4 ∧ (s.spk k.val).ownAck) ∧
    (∃ (s : State) (k : Spoke), s.clocked ∧ (s.spk k.val).state = 4 ∧ (s.spk k.val).ownAck = false) ∧ (record.length = 64 ∧ recordOk record) ∧
    ((List.replicate 64 (0 : Byte)).length = 64 ∧ recordOk (List.replicate 64 0) = false) ∧
    (∃ (s : State) (k : Spoke), s.clocked ∧ (s.spk k.val).state = 4 ∧ (s.spk k.val).recIn) ∧
    (∃ (s : State) (k : Spoke), (s.spk k.val).state ≠ 4) ∧
    ∃ (s : State) (k : Nat), (s.spk k).wasUp ∧ s.s7Begun ∧ (s.spk k).checked ≠ some (s.spk k).identity :=
  ⟨⟨spoke 0 { state := 4, ownAck := true }, 0, by decide +kernel⟩, ⟨spoke 0 { state := 4 }, 0, by decide +kernel⟩, by decide +kernel, by decide +kernel,
   ⟨spoke 0 { state := 4, recIn := true }, 0, by decide +kernel⟩, ⟨up, 0, by decide +kernel⟩,
   ⟨spoke 35 { wasUp := true }, 35, by decide +kernel⟩⟩

theorem test_hyp_coordinate :
    (∃ (s : State) (p : Port) (v : Word), s.hears p ∧ s.isSteward p ∧ s.self.training = false ∧ bit v 31 ∧ (fld v 5 5).toNat = 23) ∧
    (∃ (s : State) (p : Port) (v : Word), s.hears p ∧ s.isSteward p ∧ bit v 31 ∧ (fld v 5 5).toNat = 24) ∧
    (∃ (s : State) (p : Port), s.hears p ∧ s.isSteward p ∧ s.s7Done) ∧
    (∃ (s : State) (p : Port), s.hears p ∧ s.isSteward p ∧ s.s7Done = false) ∧
    ∃ (s : State) (p : Port), s.hears p ∧ s.isSteward p = false :=
  ⟨⟨up, 0, 0x8003FEE0, by decide +kernel⟩, ⟨up, 0, 0x80000300, by decide +kernel⟩, ⟨booting 7 1, 0, by decide +kernel⟩,
   ⟨booting 7 0, 0, by decide +kernel⟩, ⟨up, 1, by decide +kernel⟩⟩

/-- A data packet of 8 words from module 3 to module 5. -/
def data8 : Packet :=
  ⟨1, false, false, false, false, 7, 0, 8, false, 0, 47, 0, 31, 0, 0, 0, 0, List.replicate 256 0⟩

/-- A control packet in the state in which its sender made it. -/
def control1 : Packet := { data8 with cls := 2, words := 1, payload := List.replicate 32 0 }

/-- A packet that has waited in a queue for spoke 4 since a tick. -/
def waiting (p : Packet) (t : Time) : Queued := { pkt := p, since := t, egress := 4 }

/-- A running module with a spoke to a module of its layout in a step of the exchange. -/
def keyed (x : LinkKey) (k : Bool) : State := spoke 4 { state := 5, outcome := 3, keyed := k, key := x }

theorem test_hyp_egress :
    (∃ (s : State) (k : Spoke) (q : Queued) (rest : List Queued), (s.spk k.val).ctl = [] ∧ (s.spk k.val).data = q :: rest ∧
      s.clocked ∧ epochDue (s.spk k.val) = false ∧ q.pkt.cls = 1 ∧ usable k.val q.pkt s ∧ (s.spk k.val).keyed) ∧
    (∃ (s : State) (k : Spoke) (q c : Queued) (rest : List Queued), (s.spk k.val).ctl = [c] ∧ (s.spk k.val).data = q :: rest ∧
      s.clocked ∧ epochDue (s.spk k.val) = false ∧ (s.spk k.val).lastCtl ∧ (s.spk k.val).hasCredit c.pkt ∧ q.pkt.cls = 1 ∧
      usable k.val q.pkt s = false) ∧
    (∃ (s : State) (k : Spoke) (q c : Queued) (rest : List Queued), (s.spk k.val).ctl = [c] ∧ (s.spk k.val).data = q :: rest ∧
      s.clocked ∧ epochDue (s.spk k.val) = false ∧ (s.spk k.val).lastCtl = false ∧ usable k.val c.pkt s ∧
      (s.spk k.val).hasCredit c.pkt = false ∧ q.pkt.cls = 1) ∧
    (∃ (s : State) (k : Spoke) (q c : Queued) (rest : List Queued), (s.spk k.val).ctl = [c] ++ q :: rest ∧ s.clocked ∧
      epochDue (s.spk k.val) = false ∧ usable k.val c.pkt s ∧ (s.spk k.val).hasCredit c.pkt = false ∧
      ((s.spk k.val).data = [] ∨ (s.spk k.val).lastCtl = false) ∧ usable k.val q.pkt s ∧ (s.spk k.val).hasCredit q.pkt ∧ q.pkt.cls = 2) ∧
    (∃ (s : State) (k : Spoke) (q : Queued) (rest : List Queued), (s.spk k.val).ctl = [] ++ q :: rest ∧ s.clocked ∧
      epochDue (s.spk k.val) = false ∧ ((s.spk k.val).data = [] ∨ (s.spk k.val).lastCtl = false) ∧ usable k.val q.pkt s = false) ∧
    (∃ (s : State) (k : Spoke), epochDue (s.spk k.val)) ∧
    (∃ (s : State) (k : Spoke) (c : Queued), (s.spk k.val).data = [] ∧ (s.spk k.val).ctl = [c] ∧ usable k.val c.pkt s ∧
      (s.spk k.val).hasCredit c.pkt = false) ∧
    (∃ (s : State) (k : Spoke) (q : Queued) (rest : List Queued), (s.spk k.val).ctl = [] ∧ (s.spk k.val).data = q :: rest ∧
      s.timed ∧ q.late = false ∧ q.since.toNat + 64 < s.now.toNat) ∧
    (∃ (s : State) (k : Spoke), (s.spk k.val).data ≠ [] ∧
      ∀ q ∈ (s.spk k.val).ctl ++ (s.spk k.val).data, q.late ∨ s.now.toNat ≤ q.since.toNat + 64) ∧
    (∃ (s : State) (k : Spoke), s.clocked ∧ (s.spk k.val).state = 4) ∧ ∃ (s : State) (k : Spoke), s.clocked ∧ (s.spk k.val).state = 5 :=
  ⟨⟨spoke 4 { state := 5, outcome := 3, keyed := true, data := [waiting data8 0] }, 4, _, _, rfl, rfl, by decide +kernel⟩,
   ⟨spoke 4 { state := 5, outcome := 3, matchAt := some (mark 0), lastCtl := true, cred0 := 1, ctl := [waiting control1 0]
              data := [waiting data8 0] }, 4, _, _, _, rfl, rfl, by decide +kernel⟩,
   ⟨spoke 4 { state := 5, outcome := 3, cred0 := 0, ctl := [waiting control1 0], data := [waiting data8 0] }, 4, _, _, _, rfl, rfl,
    by decide +kernel⟩,
   ⟨spoke 4 { state := 5, outcome := 3, cred0 := 0, cred1 := 1, ctl := [waiting control1 0, waiting { control1 with hops := 1 } 0]
              data := [waiting data8 0] }, 4, _, _, _, rfl, by decide +kernel⟩,
   ⟨spoke 4 { state := 4, ctl := [waiting control1 0], data := [waiting data8 0] }, 4, _, _, rfl, by decide +kernel⟩,
   ⟨keyed { step := .keyed, txCount := 2 ^ 32 } true, 4, by decide +kernel⟩,
   ⟨spoke 4 { state := 5, outcome := 3, cred0 := 0, ctl := [waiting control1 0] }, 4, _, rfl, rfl, by decide +kernel⟩,
   ⟨{ upAt 65 with spokes := [(4, { state := 5, data := [waiting data8 (mark 0)] })] }, 4, _, _, rfl, rfl, by decide +kernel⟩,
   ⟨{ upAt 64 with spokes := [(4, { state := 5, data := [waiting data8 (mark 0)] })] }, 4, by decide +kernel, by decide +kernel⟩,
   ⟨spoke 0 { state := 4 }, 0, by decide +kernel⟩, ⟨spoke 0 { state := 5 }, 0, by decide +kernel⟩⟩

/-- Whole and without an error. -/
def rxGood : RxState := ⟨true, true, false, false, 0⟩

theorem test_hyp_fabric :
    (∃ (s : State) (k : Spoke) (p : Packet) (rx : RxState), s.clocked ∧ (s.spk k.val).state = 5 ∧ (s.spk k.val).keyed = false ∧
      p.cls = 1 ∧ rx.whole ∧ s.matched k.val = false) ∧
    (∃ (s : State) (k : Spoke) (p : Packet) (e : BitVec 6), s.clocked ∧ (s.spk k.val).state = 5 ∧ (s.spk k.val).keyed = false ∧
      p.cls = 1 ∧ s.matched k.val ∧ headerBad (s.isHere p) p = false ∧ s.isHere p = false ∧ p.hops = 1 ∧
      s.route (k.val / 18) p.ver p.slice (modNum p.dst) = some e) ∧
    (∃ (s : State) (k : Spoke) (p : Packet) (rx : RxState), s.clocked ∧ (s.spk k.val).state = 5 ∧ rx.whole ∧ rx.headerWhole ∧
      rx.headerUe = false ∧ rx.payloadUe = false ∧ s.matched k.val ∧ p.cls = 1 ∧ openPacket k.val s p = none ∧
      (s.spk k.val).authLap ≠ 15) ∧
    (∃ (s : State) (g : Gh) (j : Fin 22) (q : Queued) (rest : List Queued), (s.station (22 * g.val + j.val)).ring = q :: rest ∧
      s.clocked ∧ s.exitStation g.val q ≠ j.val ∧ (s.station (22 * g.val + (j.val + 1) % 22)).ring.length < 4) ∧
    (∃ (s : State) (g : Gh) (j : Fin 22) (q : Queued) (rest : List Queued), (s.station (22 * g.val + j.val)).ring = q :: rest ∧
      s.clocked ∧ s.exitStation g.val q = j.val ∧ j.val = 20) ∧
    (∃ (s : State) (g : Gh) (j : Fin 22), s.clocked ∧ (s.station (22 * g.val + j.val)).ring = [] ∧
      s.comesOn g.val ((j.val + 21) % 22)) ∧
    (∃ (s : State) (g : Gh) (j : Fin 22), s.clocked ∧ (s.station (22 * g.val + j.val)).ring = [] ∧ s.entries g.val j.val ≠ [] ∧
      ∀ q ∈ s.entries g.val j.val, q.since = later 1 s.now) ∧
    (∃ (s : State) (g : Gh) (j : Fin 22) (k : Nat), s.clocked ∧ (s.station (22 * g.val + j.val)).ring = [] ∧ k < j.val ∧
      (sget (0, 22) s.ringAt g.val).1 ≠ s.now ∧ (s.enterable g.val k).isSome) ∧
    (∃ (s : State) (g : Gh) (j : Fin 22) (q : Queued), s.clocked ∧ (s.station (22 * g.val + j.val)).ring = [] ∧
      s.comesOn g.val ((j.val + 21) % 22) = false ∧ (∀ k, k < j.val → (s.enterable g.val k).isSome → (sget (0, 22) s.ringAt g.val).1 = s.now ∧
        (sget (0, 22) s.ringAt g.val).2 < j.val ∧ k ≤ (sget (0, 22) s.ringAt g.val).2) ∧
      s.entries g.val j.val = [] ++ q :: [] ∧ q.since ≠ later 1 s.now) ∧
    (∃ (s : State) (i : Nat) (l : BitVec 40), s.rte.pending = some i ∧ s.rte.switchLap = some l ∧ s.timed ∧ s.cad.tick = 7 ∧ s.clear ∧
      l = s.cad.lap) ∧
    (∃ (s : State) (i : Nat) (l : BitVec 40), s.rte.pending = some i ∧ s.rte.switchLap = some l ∧ s.timed ∧ s.cad.tick = 7 ∧ s.clear ∧
      l ≠ s.cad.lap ∧ l.setWidth 32 = s.cad.lap.setWidth 32) ∧
    ∃ s : State, s.rte.pending = none :=
  ⟨⟨spoke 20 { state := 5 }, 20, data8, rxGood, by decide +kernel⟩,
   ⟨{ spoke 20 { state := 5, outcome := 3 } with rte := { tables := [(2, [⟨true, 7, 5, 4⟩])] } }, 20, { data8 with hops := 1 }, 4,
    by decide +kernel⟩,
   ⟨spoke 20 { state := 5, outcome := 3, keyed := true, key := { rxDerived := false } }, 20, { data8 with key := true }, rxGood,
    by decide +kernel⟩,
   ⟨{ up with stations := [(43, { ring := [{ waiting data8 0 with egress := 20 }] })] }, 1, 21, _, _, rfl, by decide +kernel⟩,
   ⟨{ up with stations := [(42, { ring := [waiting data8 0] })] }, 1, 20, _, _, rfl, by decide +kernel⟩,
   ⟨{ up with stations := [(21, { ring := [waiting data8 0] })] }, 0, 0, by decide +kernel⟩,
   ⟨spoke 35 { ingress := [waiting data8 (later 1 up.now)] }, 1, 17, by decide +kernel⟩,
   ⟨{ up with spokes := [(18, { ingress := [waiting data8 0] }), (35, { ingress := [waiting data8 0] })] }, 1, 17, 0, by decide +kernel⟩,
   ⟨{ up with spokes := [(18, { ingress := [waiting data8 0] }), (35, { ingress := [waiting data8 0] })], ringAt := [(1, (up.now, 16))] },
    1, 17, _, by decide +kernel, by decide +kernel, by decide +kernel, by decide +kernel, rfl, by decide +kernel⟩,
   ⟨{ upAt 7 with rte := { pending := some 0, switchLap := some 1000 } }, 0, 1000, rfl, rfl, by decide +kernel⟩,
   ⟨{ upAt 7 with rte := { pending := some 0, switchLap := some (1000 + 2 ^ 32) } }, 0, _, rfl, rfl, by decide +kernel⟩, ⟨up, rfl⟩⟩

theorem test_hyp_linkKey :
    (∃ (s : State) (k : Spoke) (c : List Byte) (rest : List (Byte × List Byte)), s.keyAt k.val .cred ∧
      (s.spk k.val).key.inbox = (1, c) :: rest ∧ credOk (s.spk k.val).far c = false) ∧
    (∃ (s : State) (k : Spoke) (ct : List Byte) (rest : List (Byte × List Byte)), s.keyAt k.val .encap ∧
      (s.spk k.val).key.inbox = (2, ct) :: rest) ∧
    (∃ (s : State) (k : Spoke) (m : List Byte) (rest : List (Byte × List Byte)), s.keyAt k.val .confirm ∧
      (s.spk k.val).key.inbox = (3, m) :: rest) ∧
    (∃ (s : State) (k : Spoke) (m : List Byte) (rest : List (Byte × List Byte)), s.ctl ∧ s.keying k.val ∧
      (s.spk k.val).key.inbox = (4, m) :: rest) ∧
    (∃ (s : State) (k : Spoke), (s.spk k.val).key.inbox = []) ∧
    (∃ (s : State) (k : Spoke), s.timed ∧ s.keying k.val ∧ (s.spk k.val).key.since.toNat + 6250000 ≤ s.now.toNat) ∧
    (∃ (s : State) (k : Spoke), s.timed ∧ s.keying k.val ∧ s.now.toNat < (s.spk k.val).key.since.toNat + 6250000) ∧
    (∃ (s : State) (k : Spoke), s.timed ∧ s.keyAt k.val .failed ∧ (s.spk k.val).key.since.toNat + 62500000 ≤ s.now.toNat ∧
      s.boot.identity) ∧
    (∃ (s : State) (k : Spoke), s.clocked ∧ (s.spk k.val).keyed ∧ 2 ^ 32 ≤ (s.spk k.val).key.txCount.toNat) ∧
    ∃ (s : State) (k : Spoke), s.clocked ∧ (s.spk k.val).keyed ∧ (s.spk k.val).key.rxDerived = false :=
  ⟨⟨keyed { step := .cred, inbox := [(1, [0])] } false, 4, [0], [], by decide +kernel⟩,
   ⟨keyed { step := .encap, inbox := [(2, [0]), (3, [])] } false, 4, _, _, by decide +kernel, rfl⟩,
   ⟨keyed { step := .confirm, inbox := [(3, [0])] } false, 4, _, _, by decide +kernel, rfl⟩,
   ⟨keyed { step := .confirm, inbox := [(4, [])] } false, 4, _, _, by decide +kernel, by decide +kernel, rfl⟩, ⟨up, 0, rfl⟩,
   ⟨keyed { step := .confirm } false, 4, by decide +kernel⟩, ⟨keyed { step := .cred, since := mark 0 } false, 4, by decide +kernel⟩,
   ⟨keyed { step := .failed, since := 3036000 } false, 4, by decide +kernel⟩, ⟨keyed { step := .keyed, txCount := 2 ^ 32 } true, 4, by decide +kernel⟩,
   ⟨keyed { step := .keyed, rxDerived := false } true, 4, by decide +kernel⟩⟩

theorem test_hyp_pairs :
    (∃ (s : State) (g : Gh) (r : Role) (e : ErrSrc), s.clocked ∧ s.fwUp ∧ g.val = 1 ∧ r = .lodge ∧
      (e = .localMemory ∨ e = .busProtocol ∨ e = .exception)) ∧
    (∃ (s : State) (g : Gh) (e : ErrSrc), s.clocked ∧ s.fwUp ∧ g.val = 0 ∧ (e = .vghRail ∨ e = .controlPll)) ∧
    (∃ (s : State) (r : Fin 3) (b : Bool), (s.unit (unitIx r.val b)).inStep = false) ∧
    (∃ (s : State) (r : Fin 3) (b : Bool), (s.unit (unitIx r.val b)).inStep ∧ s.active r.val ≠ b) ∧
    (∃ (s : State) (r : Fin 3) (b : Bool), (s.unit (unitIx r.val b)).inStep ∧ s.active r.val = b ∧
      (s.unit (unitIx r.val (!b))).inStep) ∧
    (∃ (s : State) (r : Fin 3) (b : Bool), (s.unit (unitIx r.val b)).inStep ∧ s.active r.val = b ∧
      (s.unit (unitIx r.val (!b))).inStep = false) ∧
    (∃ s : State, s.clocked = false ∨ s.fwUp = false) ∧
    ∃ (s : State) (g : Gh) (r : Role), s.ctl ∧ (s.unit (unitIx (roleNum r) (decide (g.val = 1)))).inStep = false ∧
      (s.unit (unitIx (roleNum r) (decide (g.val = 1)))).retired = false :=
  ⟨⟨up, 1, .lodge, .exception, by decide +kernel⟩, ⟨up, 0, .vghRail, by decide +kernel⟩,
   ⟨{ up with lodge := { units := [(3, { inStep := false })] } }, 1, true, by decide +kernel⟩, ⟨up, 2, true, by decide +kernel⟩,
   ⟨up, 0, false, by decide +kernel⟩, ⟨{ up with lodge := { units := [(3, { inStep := false })] } }, 1, false, by decide +kernel⟩,
   ⟨{ boot := { step := 1 } }, by decide +kernel⟩,
   ⟨{ up with lodge := { units := [(5, { inStep := false })] } }, 1, .lodge, by decide +kernel⟩⟩

/-- A request of n words in the mailbox of H0, whose turn it is; the first word is the opcode. -/
def asking (op : Word) (n : BitVec 11) (l : Lodge) : State :=
  { up with ports := [(0, { linkUp := true, mailbox := { request := [(16, op)], reqWords := n, busy := true } })]
            lodge := { l with waiting := [0] } }

/-- A session of ID 0. -/
def session0 : Session := ⟨0, 9, List.replicate 32 0, [], [], 0, 0, []⟩

/-- A tenant's message of session 0: the opcode, sid and count 0, n words of ciphertext 0, and the tag. -/
def telling (op : Word) (n : Nat) : State :=
  let tag := beBytes 16 (gcmTag session0.ktm (msgNonce 0) (bytesOf 8 session0.sid) (List.replicate (4 * n) 0)).toNat
  { up with ports := [(0, { linkUp := true, mailbox := {
              request := (16, op) :: (List.range 4).map (fun i => (22 + n + i, le 32 tag (4 * i) 4))
              reqWords := BitVec.ofNat 11 (10 + n), busy := true } })]
            lodge := { sessions := [session0], waiting := [0] } }

theorem test_hyp_lodge :
    (∃ s : State, ∀ n ∈ s.lodge.waiting, (s.port (if n = 0 then 0 else 1)).mailbox.opcode ≠ none) ∧
    (∃ (s : State) (p : Port), s.ctl ∧ s.lodge.waiting = [p.val] ∧ (s.port p).mailbox.opcode = none) ∧
    (∃ (s : State) (p : Port), s.ctl = false ∨ s.lodge.waiting.head? ≠ some p.val) ∧
    (∃ (s : State) (p : Port), s.turnOf p 1 ∧ requestOk (s.port p).mailbox.bytes 40) ∧
    (∃ (s : State) (p : Port), s.turnOf p 2 ∧ requestOk (s.port p).mailbox.bytes 1713) ∧
    (∃ (s : State) (p : Port), s.turnOf p 3 ∧ requestOk (s.port p).mailbox.bytes 128 = false) ∧
    (∃ (s : State) (p : Port), s.turnOf p 4 ∧ requestOk (s.port p).mailbox.bytes 40 ∧ s.sessionOf (s.port p).mailbox.bytes = none) ∧
    (∃ (s : State) (p : Port) (x : Session), s.sessionOf (s.port p).mailbox.bytes = some x ∧ s.turnOf p 5 ∧
      requestOk (s.port p).mailbox.bytes 40 ∧ openMsg x (s.port p).mailbox.bytes 0 = none) ∧
    (∃ (s : State) (p : Port) (x : Session), s.sessionOf (s.port p).mailbox.bytes = some x ∧ s.turnOf p 3 ∧
      requestOk (s.port p).mailbox.bytes 128 ∧ (openMsg x (s.port p).mailbox.bytes 88).isSome) ∧
    (∃ (s : State) (p : Port) (x : Session), s.sessionOf (s.port p).mailbox.bytes = some x ∧ s.turnOf p 4 ∧
      requestOk (s.port p).mailbox.bytes 40 ∧ (openMsg x (s.port p).mailbox.bytes 0).isSome) ∧
    (∃ (s : State) (p : Port) (x : Session), s.sessionOf (s.port p).mailbox.bytes = some x ∧ s.turnOf p 5 ∧
      requestOk (s.port p).mailbox.bytes 40 ∧ (openMsg x (s.port p).mailbox.bytes 0).isSome) ∧
    ∃ (s : State) (p : Port), s.turnOf p 6 ∧ requestOk (s.port p).mailbox.bytes 8 ∧ s.boot.identity ∧ s.lodge.cred ≠ [] :=
  ⟨⟨asking 1 10 {}, by decide +kernel⟩, ⟨asking 7 10 {}, 0, by decide +kernel⟩, ⟨asking 1 10 {}, 1, by decide +kernel⟩,
   ⟨asking 1 10 {}, 0, ⟨by decide +kernel, by decide +kernel, by decide +kernel⟩, by decide +kernel⟩,
   ⟨asking 2 429 {}, 0, ⟨by decide +kernel, by decide +kernel, by decide +kernel⟩, by decide +kernel⟩,
   ⟨asking 3 31 {}, 0, ⟨by decide +kernel, by decide +kernel, by decide +kernel⟩, by decide +kernel⟩,
   ⟨asking 4 10 {}, 0, ⟨by decide +kernel, by decide +kernel, by decide +kernel⟩, by decide +kernel, by decide +kernel⟩,
   ⟨asking 5 10 { sessions := [{ session0 with rx := 1 }] }, 0, _, rfl, ⟨by decide +kernel, by decide +kernel, by decide +kernel⟩,
    by decide +kernel, by decide +kernel⟩,
   ⟨telling 3 22, 0, session0, by decide +kernel, ⟨by decide +kernel, by decide +kernel, by decide +kernel⟩, by decide +kernel, by decide +kernel⟩,
   ⟨telling 4 0, 0, session0, by decide +kernel, ⟨by decide +kernel, by decide +kernel, by decide +kernel⟩, by decide +kernel, by decide +kernel⟩,
   ⟨telling 5 0, 0, session0, by decide +kernel, ⟨by decide +kernel, by decide +kernel, by decide +kernel⟩, by decide +kernel, by decide +kernel⟩,
   ⟨asking 6 2 { cred := [0] }, 0, ⟨by decide +kernel, by decide +kernel, by decide +kernel⟩, by decide +kernel⟩⟩

/-- A secret has been agreed through H1. -/
def agreed : State := { up with ports := [(1, { linkUp := true, spdm := { secret := some [], secure := true } })] }

/-- GCM on one byte. -/
theorem crypt_one (key nonce : List Byte) (b : Byte) :
    gcmCrypt key nonce [b] = [b ^^^ byteAt (gcmStream key nonce 2 1) 0] := by simp [gcmCrypt, xorBytes]

/-- A record of one byte from the requester of a session. -/
def oneByte (x : Spdm) (b : Byte) : List Byte :=
  let key := x.key 0
  let c := gcmCrypt (key.take 32) (recordNonce key x.rx) [b]
  [0, 0, 0, 0, 1, 0] ++ c ++ beBytes 16 (gcmTag (key.take 32) (recordNonce key x.rx) [0, 0, 0, 0, 1, 0] c).toNat

theorem oneByte_opens (x : Spdm) (h : x.secret.isSome) (b : Byte) : x.opened (oneByte x b) = some [b] := by
  have n : ∀ t : Nat, (beBytes 16 t).length = 16 := fun t => by simp [beBytes, leBytes]
  simp [oneByte, Spdm.opened, h, n, crypt_one]

theorem test_hyp_security :
    (∃ s : State, s.lodgeRuns ∧ s.boot.step = 2 ∧ s.boot.state = 0) ∧ (∃ s : State, s.lodgeRuns = false) ∧
    (∃ (s : State) (p : Port), s.hears p = false) ∧ (∃ (s : State) (p : Port), s.hears p) ∧
    (∃ (s : State) (n : Nat) (a : AllotSt), s.allot n = some a ∧ n = 15) ∧
    (∃ (s : State) (p : Port) (record : List Byte), s.hears p ∧ (s.port p).spdm.opened record = none) ∧
    (∃ (s : State) (p : Port) (record : List Byte), s.hears p ∧ (s.port p).spdm.secret = some [] ∧
      (s.port p).spdm.opened record = some [0xEC]) ∧
    (∃ (x : Spdm) (session : List Byte), x.secret ≠ none ∧ session.length = 4) ∧
    (∃ (s : State) (p : Port), s.hears p ∧ (s.port p).tdi = .unlocked) ∧
    ∃ (s : State) (p : Port), s.hears p ∧ (s.port p).tdi = .locked :=
  ⟨⟨booting 2 0, by decide +kernel⟩, ⟨{ boot := { step := 1 } }, by decide +kernel⟩, ⟨{ boot := { step := 2 } }, 1, by decide +kernel⟩,
   ⟨up, 0, by decide +kernel⟩, ⟨{ up with allots := [(15, {})] }, 15, _, rfl, rfl⟩,
   ⟨up, 1, [], by decide +kernel⟩, ⟨agreed, 1, oneByte (agreed.port 1).spdm 0xEC, by decide +kernel, rfl, oneByte_opens _ rfl _⟩,
   ⟨{ secret := some [] }, [0, 0, 0, 0], by decide, rfl⟩, ⟨up, 1, by decide +kernel⟩,
   ⟨{ up with ports := [(0, { linkUp := true, tdi := .locked })] }, 0, by decide +kernel⟩⟩

/-- An event record. -/
def event (n : Word) : Event := ⟨n, 1, 0, 0, 0, 0⟩

/-- A running module with events in the queue. -/
def queued (l : List Event) (m : Mgmt) : State := { up with mgmt := { m with addr := some 9, eid := 8, events := l } }

theorem test_hyp_managementBus :
    (∃ s : State, s.ctl ∧ s.mgmt.addr ≠ none) ∧ (∃ s : State, s.ctl = false ∨ s.mgmt.addr = none) ∧
    (∃ (s : State) (a : BitVec 7) (w : List Byte), s.ctl ∧ s.mgmt.addr = some a ∧ w.getLast? ≠ some (pec a false w.dropLast)) ∧
    (∃ (s : State) (header : List Byte), s.ctl ∧ s.mgmt.addr = some 9 ∧ header.length = 4) ∧
    (∃ s : State, s.vaux ∧ s.mgmt.addr ≠ none) ∧ (∃ s : State, s.vaux = false ∨ s.mgmt.addr = none) ∧
    (∃ s : State, s.ctl ∧ s.mgmt.ibiEn ∧ s.mgmt.addr ≠ none ∧ s.mgmt.events ≠ []) ∧
    (∃ s : State, s.vaux ∧ s.mgmt.addr = none) ∧ (∃ s : State, s.vaux = false) ∧
    (∃ (s : State) (l : BitVec 40), s.mgmt.ibiLap = some l ∧ s.ctl ∧ s.timed ∧ s.mgmt.ibiEn ∧ s.mgmt.addr ≠ none ∧
      s.mgmt.events ≠ [] ∧ l.toNat + 1024 ≤ s.cad.lap.toNat) ∧
    (∃ s : State, s.ctl ∧ s.timed ∧ s.cad.tick = 0 ∧ s.cad.lap.toNat % 57220 = 0 ∧ s.flash.odoNext = false) ∧
    ∃ s : State, s.ctl ∧ s.timed ∧ s.cad.tick = 0 ∧ s.cad.lap.toNat % 57220 = 0 ∧ s.flash.odoNext :=
  ⟨⟨up, by decide +kernel⟩, ⟨{ boot := { supply := .aux } }, by decide +kernel⟩,
   ⟨up, 9, [1], by decide +kernel⟩, ⟨up, [0, 0, 0, 0], by decide +kernel⟩, ⟨up, by decide +kernel⟩,
   ⟨{ boot := { supply := .off }, mgmt := { addr := some 9 } }, by decide +kernel⟩, ⟨queued [event 1] {}, by decide +kernel⟩,
   ⟨{ boot := { supply := .aux } }, by decide +kernel⟩, ⟨{ boot := { supply := .off } }, by decide +kernel⟩,
   ⟨{ queued [event 1] { ibiLap := some 1 } with cad := { up.cad with lap := 1025 } }, 1, by decide +kernel⟩,
   ⟨{ up with cad := { up.cad with lap := 57220 } }, by decide +kernel⟩,
   ⟨{ up with cad := { up.cad with lap := 114440 }, flash := { odoNext := true } }, by decide +kernel⟩⟩

theorem test_hyp_pldm :
    (∃ s : State, s.ctl ∧ s.mgmt.addr ≠ none ∧ s.mgmt.eid ≠ 0 ∧ s.mgmt.events = []) ∧
    (∃ type cmd : Byte, cmd.toNat ∉ (pldmCodes type.toNat).getD []) ∧
    (∃ s : State, s.ctl ∧ s.mgmt.addr ≠ none ∧ s.mgmt.eid ≠ 0 ∧ s.pdrExists 71 ∧ s.sensor 27 = some (some 0) ∧
      s.stateSensor 29 ≠ none) ∧
    (∃ (s : State) (e f : Event) (rest : List Event), s.mgmt.events = e :: f :: rest ∧ s.mgmt.polled = some e.seq ∧ s.ctl ∧
      s.mgmt.addr ≠ none ∧ s.mgmt.eid ≠ 0) ∧
    (∃ s : State, s.ctl ∧ s.mgmt.addr ≠ none ∧ s.mgmt.eid = 0) ∧ ∃ s : State, s.ctl = false ∧ s.mgmt.addr ≠ none :=
  ⟨⟨up, by decide +kernel⟩, ⟨2, 0, by decide +kernel⟩, ⟨up, by decide +kernel⟩,
   ⟨queued [event 1, event 2] { polled := some 1 }, _, _, _, rfl, by decide +kernel⟩,
   ⟨{ up with mgmt := { addr := some 9 } }, by decide +kernel⟩,
   ⟨{ up with boot := { supply := .aux }, mgmt := { addr := some 9, eid := 8 } }, by decide +kernel⟩⟩

/-- A running module in update mode whose transfer runs. -/
def updating (u : Upd) : State := { up with mgmt := { up.mgmt with updMode := true, updXfer := true }, upd := u }

/-- A bundle of 8 pieces with a table of one, or of 8 pieces of which all lie in the header and its table. -/
def bundle8 (t : Nat) : Bundle := ⟨1, 1, 0, 0, 8, t, []⟩

theorem test_hyp_trayUpdate :
    (∃ s : State, s.ctl ∧ s.mgmt.addr ≠ none ∧ s.mgmt.eid ≠ 0 ∧ s.mgmt.updMode = false ∧ s.upd.state = 3 ∧ s.cad.lap.toNat < 2 ^ 39) ∧
    (∃ (s : State) (i : Nat), s.ctl ∧ s.mgmt.addr ≠ none ∧ s.mgmt.eid ≠ 0 ∧ s.mgmt.updXfer ∧ s.upd.wanted = some i) ∧
    (∃ s : State, s.mgmt.updXfer ∧ s.upd.wanted = none ∧ s.upd.state = 3) ∧
    (∃ (s : State) (i : Nat) (data : List Byte), data.length = 4096 ∧ s.ctl ∧ s.mgmt.addr ≠ none ∧ s.mgmt.eid ≠ 0 ∧
      s.mgmt.updXfer ∧ i < 2 ^ 20 ∧ pieceCode s.upd i data = 0) ∧
    (∃ (s : State) (i : Nat) (data : List Byte), data.length = 4096 ∧ s.ctl ∧ s.mgmt.addr ≠ none ∧ s.mgmt.eid ≠ 0 ∧
      s.mgmt.updXfer ∧ i < 2 ^ 20 ∧ pieceCode s.upd i data = 5) ∧
    ∃ (s : State) (i : Nat) (data : List Byte), data.length = 4096 ∧ s.ctl ∧ s.mgmt.addr ≠ none ∧ s.mgmt.eid ≠ 0 ∧
      s.mgmt.updXfer ∧ i < 2 ^ 20 ∧ pieceCode s.upd i data = 1 :=
  ⟨⟨{ up with upd := { state := 3 } }, by decide +kernel⟩, ⟨updating {}, 0, by decide +kernel⟩,
   ⟨updating { bundle := some (bundle8 1), state := 3, present := (List.range 8).map (fun i => (i, [])) }, by decide +kernel⟩,
   ⟨updating { bundle := some (bundle8 1) }, 6, List.replicate 4096 0, List.length_replicate, by decide +kernel⟩,
   ⟨updating { bundle := some (bundle8 1), armed := some 2000 }, 6, List.replicate 4096 0, List.length_replicate, by decide +kernel⟩,
   ⟨updating { bundle := some (bundle8 1), present := [(6, [])] }, 6, List.replicate 4096 0, List.length_replicate, by decide +kernel⟩⟩

/-- A piece of an erased sector. -/
def blank : List Byte := List.replicate 4096 0xFF

/-- A VERIFYING session of 8 pieces without a table entry, which the inactive bank holds but for the ones listed. -/
def verifying (h : List Byte) (l : Sparse (List Byte)) : State :=
  { up with upd := { bundle := some (bundle8 2), state := 2, head := [h], present := l ++ (List.range 8).map (fun i => (i, [])) }
            flash := { bank1 := ⟨(List.range 8).map (fun i => (i, [])), false⟩ } }

/-- A header with the number of its components at 0x32. -/
def header (n : Byte) : List Byte := (List.range 320).map (fun i => if i = 0x32 then n else 0)

theorem test_hyp_hostUpdate :
    (∃ (s : State) (p : Port), s.hears p ∧ s.isSteward p ∧ s.fwUp ∧ s.upd.hostBusy = false ∧
      ∀ e ∈ s.upd.busy, tied 5 s.now e = false) ∧
    (∃ (s : State) (p : Port) (n : BitVec 15) (d : List Byte), s.hears p ∧ s.isSteward p ∧ s.fwUp ∧
      s.upd.busy = [(n.toNat, d, true, s.now)] ∧ pieceCode { s.upd with busy := [] } n.toNat s.upd.windowBytes = 0) ∧
    (∃ (u : Upd) (x : Bundle), u.bundle = some x ∧ u.armed ≠ none ∧ sfind u.present 7 ≠ none ∧ 7 < x.pieces ∧ sfind u.present 6 = none ∧
      u.taking 6 = false ∧ u.head.getD 0 [] ≠ [1]) ∧
    (∃ (u : Upd) (x : Bundle), u.bundle = some x ∧ u.armed = none ∧ 6 + x.table ≤ 7 ∧ 7 < x.pieces ∧ sfind u.present 7 = none ∧
      u.tableOk = false ∧ u.head.getD 0 [] = [] ∧ sfind u.present 0 ≠ none) ∧
    (∃ (u : Upd) (x : Bundle), u.bundle = some x ∧ u.armed = none ∧ 6 + x.table ≤ 7 ∧ 7 < x.pieces ∧ sfind u.present 7 = none ∧
      u.tableOk ∧ u.tableHeld x ∧ u.taking 7 = false) ∧
    (∃ (s : State) (p : Port), s.hears p ∧ s.isSteward p ∧ s.upd.hostBusy) ∧ (∃ s : State, s.upd.busy = []) ∧
    (∃ (s : State) (e : Nat × List Byte × Bool × Time) (rest : List (Nat × List Byte × Bool × Time)), s.upd.busy = e :: rest ∧
      s.upd.bundle = none) ∧
    (∃ (s : State) (e : Nat × List Byte × Bool × Time) (rest : List (Nat × List Byte × Bool × Time)), s.upd.busy = e :: rest ∧
      s.upd.bundle ≠ none ∧ e.1 / 16 ∉ s.upd.erased) ∧
    (∃ (s : State) (i : Nat) (b : List Byte) (tray : Bool) (at_ : Time) (x : Bundle), s.upd.busy = [(i, b, tray, at_)] ∧
      s.upd.bundle = some x ∧ s.ctl ∧ 6 + x.table ≤ i ∧ i < x.pieces ∧ s.mgmt.updXfer = false ∧
      ∀ j < x.pieces, j ≠ i → sfind s.upd.present j ≠ none) ∧
    (∃ (s : State) (i : Nat) (b : List Byte) (tray : Bool) (at_ : Time), s.upd.busy = [(i, b, tray, at_)] ∧ s.upd.bundle = none ∧
      s.ctl ∧ s.mgmt.updXfer = false) ∧
    (∃ (s : State) (b : Bundle), s.upd.bundle = some b ∧ s.ctl ∧ s.upd.state = 2 ∧ s.mgmt.updMode = false ∧
      (∀ i < b.pieces, bankPieceOk s.upd s.spare b i) ∧ bankComponentsOk (s.upd.head.headD []) s.spare) ∧
    (∃ (s : State) (b : Bundle), s.upd.bundle = some b ∧ s.ctl ∧ s.upd.state = 2 ∧ s.mgmt.updMode = false ∧
      (∀ i < b.pieces, bankPieceOk s.upd s.spare b i) ∧ bankComponentsOk (s.upd.head.headD []) s.spare = false) ∧
    (∃ (s : State) (b : Bundle) (i : Nat), s.upd.bundle = some b ∧ s.ctl ∧ s.upd.state = 2 ∧ s.mgmt.updMode = false ∧ i < b.pieces ∧
      ∀ j < b.pieces, bankPieceOk s.upd s.spare b j = decide (j ≠ i)) ∧
    (∃ (s : State) (p : Port), s.hears p ∧ s.isSteward p ∧ s.upd.bundle ≠ none ∧ s.cad.synced ∧
      s.cad.lap.toNat + 2 ≤ (s.upd.actHi ++ s.upd.actLo).toNat) ∧
    (∃ (s : State) (p : Port), s.hears p ∧ s.isSteward p ∧ s.upd.bundle ≠ none ∧ s.cad.synced ∧
      (s.upd.actHi ++ s.upd.actLo).toNat < s.cad.lap.toNat + 2) ∧
    ∃ (s : State) (p : Port), s.hears p ∧ s.isSteward p = false :=
  ⟨⟨{ up with upd := { busy := [(4, blank, true, up.now)] } }, 0, by decide +kernel⟩,
   ⟨{ up with upd := { busy := [(5, [], true, up.now)] } }, 0, 5, [], by decide +kernel⟩,
   ⟨{ bundle := some (bundle8 1), armed := some 2000, present := [(7, [])] }, _, rfl, by decide +kernel⟩,
   ⟨{ bundle := some (bundle8 1), head := [[]], present := [(0, [])] }, _, rfl, by decide +kernel⟩,
   ⟨{ bundle := some (bundle8 1), tableOk := true, present := [(6, [])] }, _, rfl, by decide +kernel⟩,
   ⟨{ up with upd := { busy := [(4, [], false, 0)] } }, 0, by decide +kernel⟩, ⟨up, rfl⟩,
   ⟨{ up with upd := { busy := [(4, [], false, 0)] } }, _, _, rfl, rfl⟩,
   ⟨{ up with upd := { busy := [(16, [], false, 0)], bundle := some (bundle8 1), erased := [0] } }, _, _, rfl, by decide +kernel⟩,
   ⟨{ up with upd := { bundle := some (bundle8 1), busy := [(7, [], true, 0)]
                       present := (List.range 7).map (fun i => (i, [])) } }, 7, [], true, 0, bundle8 1, rfl, rfl, by decide +kernel⟩,
   ⟨{ up with upd := { busy := [(5, [], true, 0)] } }, 5, [], true, 0, rfl, rfl, by decide +kernel⟩,
   ⟨verifying (header 0) [], bundle8 2, rfl, by decide +kernel⟩, ⟨verifying (header 1) [], bundle8 2, rfl, by decide +kernel⟩,
   ⟨verifying (header 0) [(7, [1])], bundle8 2, 7, rfl, by decide +kernel⟩,
   ⟨{ up with upd := { bundle := some (bundle8 1), actLo := 1002 } }, 0, by decide +kernel⟩,
   ⟨{ up with upd := { bundle := some (bundle8 1), actLo := 1001 } }, 0, by decide +kernel⟩, ⟨up, 1, by decide +kernel⟩⟩

theorem test_hyp_completionOrder :
    (∃ (s : State) (r : RingIx) (p : Port) (c : Completion) (rest : List Completion), (s.ring r.val).pend = c :: rest ∧ s.clocked ∧
      s.ringPort r.val = some p ∧ s.ringServed r.val ∧ (s.ring r.val).cqTail = 15 ∧
      ((s.ring r.val).cqTail.toNat + (s.ring r.val).n - (s.ring r.val).cqHead.toNat % (s.ring r.val).n) % (s.ring r.val).n <
        (s.ring r.val).n - 1) ∧
    (∃ (s : State) (r : RingIx) (p : Port) (c : Completion) (rest : List Completion), (s.ring r.val).pend = c :: rest ∧ s.clocked ∧
      s.ringPort r.val = some p ∧ s.ringServed r.val ∧ (s.ring r.val).n - 1 ≤
        ((s.ring r.val).cqTail.toNat + (s.ring r.val).n - (s.ring r.val).cqHead.toNat % (s.ring r.val).n) % (s.ring r.val).n) ∧
    ∃ (s : State) (r : RingIx), (s.ring r.val).pend = [] :=
  ⟨⟨{ up with rings := [(1, { enable := true, cqTail := 15, cqHead := 1, pend := [done1] })] }, 1, 1, _, _, rfl, by decide +kernel⟩,
   ⟨{ up with rings := [(1, { enable := true, cqTail := 15, pend := [done1] })] }, 1, 1, _, _, rfl, by decide +kernel⟩, ⟨up, 17, rfl⟩⟩

theorem test_hyp_everyStep :
    (∃ (s : State) (c : Instr) (rest : List Instr), s.pending = c :: rest ∧ c.sendable s) ∧
    (∃ (s : State) (c : Instr) (rest : List Instr), s.pending = c :: rest ∧ c.sendable s ∧ s.load ≠ none) ∧
    (∃ s : State, s.pending = [] ∧ s.cad.aligned = false ∧ ∀ g : Sgrp, (s.strobe g.val).due = false) ∧
    ∃ s t : State, s.storesWf ∧ s.bounded ∧ step s = .next t :=
  ⟨⟨{ pending := [.getbcr] }, .getbcr, [], by decide +kernel⟩,
   ⟨{ pending := [.loadReadDone [0]], load := some ⟨false, 7, 0, 1, 0, 0, 0, 0⟩ }, .loadReadDone [0], [], by decide +kernel⟩,
   ⟨{}, by decide +kernel⟩,
   ⟨{ boot := { supply := .aux } }, _, by decide +kernel,
    ⟨by decide +kernel, fun _ h => (by rcases h with h | h <;> cases h), fun _ => Nat.zero_le 1024, by decide +kernel, fun _ h => (nomatch h)⟩, rfl⟩⟩

/-! ### WellFormed: an ill-formed term for each check -/

theorem test_sample_lengths : Instr.wellFormed (.powerSample sample) ∧
    ¬ Instr.wellFormed (.powerSample { sample with vcore := [580] }) ∧ ¬ Instr.wellFormed (.powerSample { sample with icore := [] }) ∧
    ¬ Instr.wellFormed (.powerSample { sample with diodes := List.replicate 63 30000 }) ∧
    ¬ Instr.wellFormed (.powerSample { sample with stackT := List.replicate 13 30000 }) ∧
    ¬ Instr.wellFormed (.powerSample { sample with railI := List.replicate 7 0 }) := by decide +kernel

theorem test_fetch_lengths : Instr.wellFormed (.submissionFetch 0 0 [entry 1 []]) ∧
    ¬ Instr.wellFormed (.submissionFetch 0 0 [[0x80]]) ∧
    ¬ Instr.wellFormed (.submissionFetch 0 0 (List.replicate 5 (entry 1 []))) := by decide +kernel

theorem test_entry_lengths : ¬ Instr.wellFormed (.run 3 (entry 1 []).tail) ∧ ¬ Instr.wellFormed (.loadLayout 0 (entry 0x10 []).tail) ∧
    ¬ Instr.wellFormed (.start 0 (entry 0x11 []).tail) ∧ ¬ Instr.wellFormed (.release 0 (entry 0x12 []).tail) ∧
    ¬ Instr.wellFormed (.give 0 (entry 0x13 []).tail) ∧ ¬ Instr.wellFormed (.take 0 (0 :: entry 0x14 [])) := by decide +kernel

theorem test_record_length : Instr.wellFormed (.identityRecordReceive 0 record) ∧
    ¬ Instr.wellFormed (.identityRecordReceive 0 record.tail) := by decide +kernel

theorem test_piece_length : ¬ Instr.wellFormed (.requestFirmwareData 0 [0]) := by decide

/-- No row of the table gives bits. -/
theorem test_no_word : decodeTableWord 8 1 = none ∧ State.withFetchWord {} 8 1 = {} := ⟨rfl, rfl⟩

/-! ### Worked examples and tables of the spec, and the published vectors of the standards it cites -/

/-- FIPS 180-4: SHA-384 of "abc". -/
theorem test_sha384 : digestBytes (sha384 [0x61, 0x62, 0x63]) =
    [0xCB, 0x00, 0x75, 0x3F, 0x45, 0xA3, 0x5E, 0x8B, 0xB5, 0xA0, 0x3D, 0x69, 0x9A, 0xC6, 0x50, 0x07, 0x27, 0x2C, 0x32, 0xAB, 0x0E, 0xDE,
     0xD1, 0x63, 0x1A, 0x8B, 0x60, 0x5A, 0x43, 0xFF, 0x5B, 0xED, 0x80, 0x86, 0x07, 0x2B, 0xA1, 0xE7, 0xCC, 0x23, 0x58, 0xBA, 0xEC, 0xA1,
     0x34, 0xC8, 0x25, 0xA7] := by decide +kernel

/-- FIPS 197, appendix C.3: AES-256, and its inverse. -/
theorem test_aes : aesBlock ((List.range 32).map (BitVec.ofNat 8)) ((List.range 16).map (fun i => BitVec.ofNat 8 (17 * i))) =
      [0x8E, 0xA2, 0xB7, 0xCA, 0x51, 0x67, 0x45, 0xBF, 0xEA, 0xFC, 0x49, 0x90, 0x4B, 0x49, 0x60, 0x89] ∧
    aesInvBlock ((List.range 32).map (BitVec.ofNat 8))
        [0x8E, 0xA2, 0xB7, 0xCA, 0x51, 0x67, 0x45, 0xBF, 0xEA, 0xFC, 0x49, 0x90, 0x4B, 0x49, 0x60, 0x89] =
      (List.range 16).map (fun i => BitVec.ofNat 8 (17 * i)) := by decide +kernel

/-- The GCM specification, test cases 13 and 14: a key and a nonce of zeros, no text and one block of zeros. -/
theorem test_gcm : gcmTag (List.replicate 32 0) (List.replicate 12 0) [] [] = 0x530F8AFBC74536B9A963B4F1C4CB738B#128 ∧
    gcmCrypt (List.replicate 32 0) (List.replicate 12 0) (List.replicate 16 0) =
      [0xCE, 0xA7, 0x40, 0x3D, 0x4D, 0x60, 0x6B, 0x6E, 0x07, 0x4E, 0xC5, 0xD3, 0xBA, 0xF3, 0x9D, 0x18] := by decide +kernel

/-- 00_scope, the example of cadence time. -/
theorem test_time : State.now { cad := { lap := 1207, tick := 448 } } = 0x4B701C0 := by decide +kernel

/-- 07_memory, the example of R182. -/
theorem test_check_symbols : checkSymbols (List.replicate 31 0 ++ [1]) = [0x0F, 0x36, 0x78, 0x40] := by decide +kernel

/-- R183: an error of two symbols is found. -/
theorem test_two_symbols : findError (0x80 :: List.replicate 30 0 ++ [1, 0, 0, 0, 0]) = some [(0, 0x80), (31, 1)] := by decide +kernel

/-- R185: the check value of CRC-32C and the tag input of the DDR5 example. -/
theorem test_crc : crc32c [0x31, 0x32, 0x33, 0x34, 0x35, 0x36, 0x37, 0x38, 0x39] = 0xE3069283 ∧
    ddrTag 2 (0x40000040 / 32) = crc32c [0x02, 0x00, 0x00, 0x02, 0x20, 0x00, 0x00, 0x00] := by decide +kernel

/-- 08_spokes_and_routing, the example of R204: gatehouse 0 of rack 3, tray 17, slot 2. -/
theorem test_coordinate : withDie (modNum (State.ownCoord { self := { rack := 3, tray := 17, slot := 2 } })) 4 = 0xE34 := by
  decide +kernel

/-- 14_bringup_and_recovery, the example of R390. -/
theorem test_fault_code : faultCode 0x6 0x001 0x104C = 0x6001104C ∧
    faultCtx 0x2A5 5 0x11 (some 0xD2C) 0x6804 = 0x2A5A23000D2C6804 := by decide +kernel

/-- 15_firmware_update, the example of R399. -/
theorem test_table_pieces : tablePieces 15000 = 118 := by decide

/-- 14_bringup_and_recovery, the example of R384: site 40 spare of region 2, and site 41 at position 6 (04, R78). -/
theorem test_region_word : regionOk 0x800DFFFF ∧ regionOk 0x800DFFBF ∧ regionOk 0x800DFFBE = false ∧
    sitePos 0x800DFFFF 7 = some 6 ∧ sitePos 0x800DFFFF 6 = none := by decide +kernel

/-- 10_power_and_cooling, the example of R278: P(5,15) and P(5,14) of a member at 4,100 W with S_h 470 W. -/
theorem test_predict : predict { pGov := 4100, sH := 470, gear := 5 } 5 15 = 3865 ∧
    predict { pGov := 4100, sH := 470, gear := 5 } 5 14 = 3630 := by decide +kernel

/-- The weights of the worked example of 03_number_formats. -/
def weights : List Word :=
  [0x3E800000, 0xBF000000, 0x3F800000, 0x40100000, 0xBFA00000, 0x41B00000, 0x00000000, 0x40000000,
   0x3F400000, 0xBEC00000, 0x3DCCCCCD, 0x3F000000, 0x00000000, 0xBF400000, 0x3E800000, 0x3F200000,
   0x3FC00000, 0xBF800000, 0x3ECCCCCD, 0x00000000, 0x3F99999A, 0xBE99999A, 0x3F666666, 0x3D4CCCCD,
   0x3E4CCCCD, 0xBDCCCCCD, 0x3D4CCCCD, 0x00000000, 0x3E19999A, 0xBE4CCCCD, 0x3E000000, 0x00000000] ++
  List.replicate 8 0x3F800000 ++ [0x3F000000, 0xBF000000, 0xC1180000, 0x3F000000, 0xBF000000, 0x3F000000, 0xBF000000, 0x3F000000] ++
  List.replicate 8 0 ++ List.replicate 8 0xBFE00000

/-- The HF4P block of the worked example. -/
def weightBlock : List Byte :=
  [0x7E, 0xD8, 0x49, 0xA1, 0x64, 0x0C, 0x60, 0xD7, 0x62, 0xF0, 0x64, 0xE7, 0x03, 0xA6, 0x06, 0xB5, 0x02, 0xD4, 0x04,
   0x66, 0x66, 0x66, 0x66, 0xE6, 0x60, 0x6E, 0x6E, 0x00, 0x00, 0x00, 0x00, 0xFF, 0xFF, 0xFF, 0xFF, 0x63, 0x85, 0xDA, 0xAA]

/-- 03_number_formats, the worked example: the 39 bytes, and the counters. -/
theorem test_quantise : quantHf true none weights = (weightBlock, { satElem := 8, micro := 1, panOut := 2 }) := by decide +kernel

/-- 03_number_formats, the worked example: the block sum with the activation block is 44.90625. -/
theorem test_block_sum :
    (blockSum 8 7 (decBlock 8 weightBlock) (decBlock 7 ((List.range 35).map (fun i =>
      sget 0 ([(0, 0x7E), (1, 0x08), (2, 0x48), (4, 0x50), (5, 0x60), (7, 0xF0), (12, 0x07), (24, 0x06), (33, 0x0E)] : Sparse Byte) i)))).bits
      = 0x4233A000 := by decide +kernel

/-! ### Steps -/

/-- The state after a command. -/
def after (c : Instr) (s : State) : State := match step { s with pending := [c] } with
  | .next t => t
  | _ => {}

/-- R21: the first lap mark is cadence zero. -/
theorem test_first_mark : (after .firstLapMark { boot := { step := 1 } }).cad.aligned := by decide +kernel

/-- R36, R437: a lap has 65,536 ticks, and 1000:65535 is followed by 1001:00000. -/
theorem test_lap_end : (after (.lapBoundary true ⟨0, 0⟩) (upAt 65535)).now = 0x3E90000 := by decide +kernel

/-- R27: an arm while a timed arm is pending is refused. -/
theorem test_sync_refused : (after (.syncArmAdopt 0 3) { up with strobes := [(3, { armed := some 9 })] }).cad.syncRefused := by
  decide +kernel

/-- R309: a write to global state through the port that is not the steward is counted and does nothing else. -/
theorem test_not_steward : ((after (.registerWrite 1 0x52000C 1) up).port 1).nsWrites = 1 ∧
    ((after (.registerWrite 1 0x52000C 1) up).rest 1).buf = (up.rest 1).buf := by decide +kernel

/-- R286: BRAKE sampled high begins a hold at the brake point. -/
theorem test_hold : (after .holdBegin (upAt 64)).hold.at_ = mark 64 := by decide +kernel

/-- R287: the release is 320 ticks, five brake points, after BRAKE is sampled low. -/
theorem test_hold_release : (after .brakeReleaseSample { upAt 64 with hold := { hold := true } }).hold.releaseAt = some (mark 384) := by
  decide +kernel

/-- Table 14-1: S0 fails after 500 ms. -/
theorem test_step_timeout : (after (.stepTimeout 501) (booting 0 0)).boot.state = 2 ∧
    (after (.stepTimeout 500) (booting 0 0)).boot.state = 0 := by decide +kernel

/-- R322: the completion tail of a ring of 16 wraps, and PHASE inverts with it. -/
theorem test_completion_wrap :
    ((after (.completionWrite 1) { up with rings := [(1, { enable := true, cqTail := 15, cqHead := 1, pend := [done1] })] }).ring 1).cqTail
      = 0 ∧
    ((after (.completionWrite 1) { up with rings := [(1, { enable := true, cqTail := 15, cqHead := 1, pend := [done1] })] }).ring
      1).cqPhase = false := by decide +kernel

/-- R307, R316: a write through the mapped window changes the bytes it names and not the one after them. -/
theorem test_window_write :
    ((after (.stagingWindowWrite 0 0x3000001 [7, 8] ⟨[], []⟩) (allot3 { parts := [(0, 1)], winEn := true, winBase := 16 } {})).byte 0 0x10000002)
      = 8 := by decide +kernel

/-- R103: COPY moves a word to its destination. -/
theorem test_copy : ((after (.moverWordTransfer 1 [] ⟨[], [], 0⟩) { moving (xfer copy1 0) with scr := [(3, 9)] }).byte 1 67) = 9 := by
  decide +kernel

/-- R191: the pass of a stack ends with its last word. -/
theorem test_scrub_pass : ((after (.scrubWord (.stack 11) []) { up with hbms := [(11, { trained := true, scrub := 2 ^ 31 - 1 })] }).hbm
    11).passes = 1 := by decide +kernel

/-- R223: returned credits do not exceed the book of 16, 8 and 8. -/
theorem test_credits :
    ((after (.linkWordReceive 4 9 0 0 false false) (spoke 4 { state := 5, cred0 := 12, cred1 := 3 })).spk 4).cred0 = 16 := by
  decide +kernel

/-- R218: a packet moves by one station, from 21 to 0. -/
theorem test_ring_hop :
    ((after (.transitRingHop 1 ⟨21, []⟩) { up with stations := [(43, { ring := [{ waiting data8 0 with egress := 20 }] })] }).station 22).ring.length = 1 := by
  decide +kernel

/-- R247, Table 14-8: the deadline of turnstile 8191 passes and names it. -/
theorem test_deadline :
    (sget {} (after (.turnstileDeadline 8191) { upAt 9 with
      allots := [(3, {})], trns := [(8191, { owner := some 3, st := 1, deadline := mark 8 })] }).frc.recs 0).code = 0x60011FFF := by
  decide +kernel

/-- R374: an error of the active warden enables its partner. -/
theorem test_failover : (after (.unitErrorSignal 0 .warden .localMemory) up).lodge.actWarden := by decide +kernel

/-- R362: GETPID of slot 2. -/
theorem test_getpid : (after .getpid { up with boot := { up.boot with slot := 2 } }).out = [.ccc [0x16, 0x74, 0x48, 0x34, 0x20, 0x00]] := by
  decide +kernel

/-- R24, R227: a switch lap is compared as a whole lap. -/
theorem test_switch_lap : (after .routingSwitch { upAt 7 with rte := { pending := some 0, switchLap := some 1000 } }).rte.cur ∧
    (after .routingSwitch { upAt 7 with rte := { pending := some 0, switchLap := some (1000 + 2 ^ 32) } }).rte.cur = false := by
  decide +kernel

/-- R315: APPLY takes effect in the tick after the write. -/
theorem test_apply : ((after (.strobeApply 0 0) { upAt 8 with rests := [(0, ⟨1, 2, 1, none⟩)] }).rest 0).eff = 1 ∧
    ((match step (after (.strobeApply 0 0) { upAt 8 with rests := [(0, ⟨1, 2, 1, none⟩)] }) with
      | .next t => t
      | _ => {}).rest 0).eff = 2 := by decide +kernel

/-- R361: the write length is at most 256. -/
theorem test_setmwl : (after (.setmwl 257) up).mgmt.mwl = 256 ∧ (after (.setmwl 64) up).mgmt.mwl = 64 := by decide +kernel

/-- R406: an arm needs at least 2 laps. -/
theorem test_arm_late : (after (.updArm 0) { up with upd := { bundle := some (bundle8 1), actLo := 1001 } }).upd.armRefused := by
  decide +kernel

/-- R355: STOP_INTERFACE brings the interface back. -/
theorem test_stop_interface : ((after (.stopInterface 0) { up with ports := [(0, { linkUp := true, tdi := .run })] }).port 0).tdi =
    .unlocked := by decide +kernel

/-- R205: a bad alignment measurement returns the spoke to DETECT. -/
theorem test_align : ((after (.alignMeasurementDone 4 false) (spoke 4 { state := 3 })).spk 4).state = 1 := by decide +kernel

/-- An ill-formed command stops the machine. -/
theorem test_ill_formed : step { pending := [.requestFirmwareData 0 [0]] } = .fault .illFormed := by rfl

/-- R428: F0 carries spokes 0-5 and 18-23, F1 6-17, F2 24-35; R427: contacts 97 and 98 of a subchannel are its last signal and the
first reserved contact; R425: contact 65 of a port's block is PERST_N. -/
theorem test_contacts :
    (List.range 12).map (waferSpoke 0) = [0, 1, 2, 3, 4, 5, 18, 19, 20, 21, 22, 23] ∧ waferSpoke 1 11 = 17 ∧ waferSpoke 2 0 = 24 ∧
    mezzanineContact 97 = (some 0, .ddrReset) ∧ mezzanineContact 1598 = (some 7, .open_) ∧ pcieContact 1 65 = .perst 1 ∧
    pcieContact 0 62 = .pcieRx 0 7 .neg ∧ flyoverContact 2 11 24 = .spokeRx 35 3 .neg := by decide

/-- RING_STATE.STOPPED (Table 11-6): 1 once a fault has stopped the timetable, 0 where a reset of the allotment has. -/
theorem test_ring_stopped :
    let st := fun (a : AllotSt) => ringReg { State.reset with allots := [(0, a)] } 2 0x14
    st { stopped := true, reset := .draining } = 0 ∧ st (AllotSt.fault {}) = 0x20000000 := by decide

end Sys2Proof.Tests
end

section
/-! SUPPORT. Register writes through BAR0 and the indirect pair (11_host_interface): where a write of one dword goes, what a
write outside the writable registers comes to, and what an access to the rack plan leaves. -/

namespace Sys2Proof.Machine

/-! ### Where a write of a dword goes (R309) -/

theorem exec_registerWrite (p : Port) (o : BitVec 26) (v : Word) (s : State) (h : o.toNat / 4 * 4 ≠ 0x400C) :
    exec (.registerWrite p o v) s = .next (regWrite p (o.toNat / 4 * 4) v s) :=
  if_neg h

theorem regWrite_global {o : Nat} {f : Word → State → State} (p : Port) (v : Word) (s : State) (h : globalWrite o = some f) :
    regWrite p o v s = stewardWrite p (f v) s := by
  rw [regWrite, h]

theorem regWrite_block {o : Nat} (p : Port) (v : Word) (s : State) (h : globalWrite o = none) (hb : partBlock o = true) :
    regWrite p o v s = stewardWrite p id s := by
  simp only [regWrite, h, hb, if_true]

theorem regWrite_port {o : Nat} (p : Port) (v : Word) (s : State) (h : globalWrite o = none) (hb : partBlock o = false) :
    regWrite p o v s = hostWrite p (portWrite p o v) s := by
  simp only [regWrite, h, hb, Bool.false_eq_true, if_false]

/-- BOOT_RESET, which REGISTER_WRITE treats apart (R376), is no global register and lies in no gatehouse or pavilion. -/
theorem ne_bootReset_of_stewardOnly {o : Nat} (h : globalWrite o ≠ none ∨ partBlock o = true) : o ≠ 0x400C := by
  rintro rfl
  exact absurd h (by decide)

/-- The dword that a number below the BAR's size spells as an offset. -/
theorem dwordOf_ofNat {x : Nat} (h : x < 2 ^ 26) (h4 : x % 4 = 0) : (BitVec.ofNat 26 x).toNat / 4 * 4 = x := by
  rw [BitVec.toNat_ofNat, Nat.mod_eq_of_lt h]
  omega

/-- From a port that is not the steward a write to global state is counted and does nothing else (R309). -/
theorem regWrite_notSteward {o : Nat} (p : Port) (v : Word) (s : State) (hh : s.hears p = true) (hs : s.isSteward p = false)
    (h : globalWrite o ≠ none ∨ partBlock o = true) : regWrite p o v s = countNs p s := by
  cases hg : globalWrite o with
  | some f => rw [regWrite_global p v s hg, stewardWrite_other p _ s hh hs]
  | none =>
    have hb : partBlock o = true := h.resolve_left fun h => h hg
    rw [regWrite_block p v s hg hb, stewardWrite_other p _ s hh hs]

/-! ### Allotment pages (R308) -/

/-- A dword of the page of allotment n goes to its ring, to ALLOT_WIN, to ALLOT_SCHED or nowhere. -/
theorem portWrite_page (p : Port) (n q : Nat) (v : Word) (s : State) (hn : n < 16) (hq : q < 0x10000) :
    portWrite p (0x3000000 + 0x10000 * n + q) v s =
      if q < 0x20 then writeRing p (2 + n) q v s
      else if q = 0x20 then writeWin p n v s
      else if q = 0x28 then writeSched p n v s
      else s := by
  have hdiv : (0x3000000 + 0x10000 * n + q - 0x3000000) / 0x10000 = n := by omega
  have hmod : (0x3000000 + 0x10000 * n + q) % 0x10000 = q := by omega
  unfold portWrite
  iterate 7 rw [if_neg (by omega)]
  rw [if_pos (by omega)]
  simp only [hdiv, hmod]

theorem globalWrite_page (x : Nat) (h : 0x3000000 ≤ x) : globalWrite x = none := by
  unfold globalWrite
  iterate 12 rw [if_neg (by omega)]

theorem partBlock_page (x : Nat) (h : 0x3000000 ≤ x) : partBlock x = false := by
  simp only [partBlock, Bool.or_eq_false_iff, Bool.and_eq_false_iff, decide_eq_false_iff_not]
  omega

theorem exec_registerWrite_page (p : Port) (n q : Nat) (v : Word) (s : State) (hn : n < 16) (hq : q < 0x10000) (h4 : q % 4 = 0) :
    exec (.registerWrite p (BitVec.ofNat 26 (0x3000000 + 0x10000 * n + q)) v) s =
      .next (hostWrite p (portWrite p (0x3000000 + 0x10000 * n + q) v) s) := by
  have ho : (BitVec.ofNat 26 (0x3000000 + 0x10000 * n + q)).toNat / 4 * 4 = 0x3000000 + 0x10000 * n + q :=
    dwordOf_ofNat (by omega) (by omega)
  rw [exec_registerWrite _ _ _ _ (by omega), ho,
    regWrite_port p v s (globalWrite_page _ (by omega)) (partBlock_page _ (by omega))]

theorem exec_registerWrite_window (p : Port) (a : Allot) (v : Word) (s : State) :
    exec (.registerWrite p (BitVec.ofNat 26 (0x3000020 + 0x10000 * a.val)) v) s = exec (.stagingWindowMap p a v) s := by
  have ho : 0x3000020 + 0x10000 * a.val = 0x3000000 + 0x10000 * a.val + 0x20 := by omega
  have hw : portWrite p (0x3000000 + 0x10000 * a.val + 0x20) v = writeWin p a.val v :=
    funext fun t => portWrite_page p a.val 0x20 v t a.isLt (by omega)
  rw [ho, exec_registerWrite_page p a.val 0x20 v s a.isLt (by omega) (by omega), hw]
  rfl

theorem exec_registerWrite_sched (p : Port) (a : Allot) (v : Word) (s : State) :
    exec (.registerWrite p (BitVec.ofNat 26 (0x3000028 + 0x10000 * a.val)) v) s = exec (.allotSchedWrite p a v) s := by
  have ho : 0x3000028 + 0x10000 * a.val = 0x3000000 + 0x10000 * a.val + 0x28 := by omega
  have hw : portWrite p (0x3000000 + 0x10000 * a.val + 0x28) v = writeSched p a.val v :=
    funext fun t => portWrite_page p a.val 0x28 v t a.isLt (by omega)
  rw [ho, exec_registerWrite_page p a.val 0x28 v s a.isLt (by omega) (by omega), hw]
  rfl

/-! ### Dwords that no write changes (R6, R7, R312) -/

/-- The dword is none of the writable registers of Table 11-1: none of the single ones, and in no writable place of the port
ring, the strobe groups, the piece window, the MSI-X table and the allotment pages. -/
structure NotWritable (d : Nat) : Prop where
  single : d ∉ [0xC10, 0x1000, 0x1040, 0x1044, 0x1054, 0x1060, 0x200C, 0x2010, 0x2014, 0x2400, 0x2404, 0x3004, 0x300C, 0x3038,
    0x4000, 0x400C, 0x7010, 0x7014, 0x7018, 0x701C, 0x163000, 0x263000, 0x42000C, 0x52000C, 0x62000C, 0x72000C]
  ring : d < 0x1100 ∨ 0x1114 ≤ d
  strobe : d < 0x1200 ∨ 0x1300 ≤ d ∨ d % 16 = 12
  piece : d < 0x8000 ∨ 0x9000 ≤ d
  msix : d < 0x40000 ∨ 0x48000 ≤ d
  page : d < 0x3000000 ∨ 0x3100000 ≤ d ∨ (0x14 ≤ d % 0x10000 ∧ d % 0x10000 < 0x20) ∨ 0x2C ≤ d % 0x10000 ∨ d % 0x10000 = 0x24

theorem NotWritable.ne_bootReset {d : Nat} (h : NotWritable d) : d ≠ 0x400C := by
  rintro rfl
  exact h.single (by decide)

theorem NotWritable.globalWrite {d : Nat} (h : NotWritable d) : globalWrite d = none := by
  obtain ⟨single, -, strobe, piece, -, -⟩ := h
  simp only [List.mem_cons, List.not_mem_nil, not_or] at single
  unfold Machine.globalWrite
  iterate 12 rw [if_neg (by omega)]

/-- Where the TDI is neither locked nor running, a write that it guards is the plain write (R355). -/
theorem guarded_open (p : Port) (f : State → State) (s : State) (hl : (s.port p).tdi ≠ .locked) (hr : (s.port p).tdi ≠ .run) :
    guarded p f s = f s := by
  unfold guarded
  split
  case h_1 h => exact absurd h hl
  case h_2 h => exact absurd h hr
  case h_3 => rfl

/-- A ring block ends with RING_CTL at 0x10; RING_STATE and what follows is read-only. -/
theorem writeRing_readOnly (p : Port) (r o : Nat) (v : Word) (s : State) (h : 0x14 ≤ o) (hl : (s.port p).tdi ≠ .locked)
    (hr : (s.port p).tdi ≠ .run) : writeRing p r o v s = s := by
  have hlt : ¬o < 0x10 := by omega
  unfold writeRing
  rw [if_neg (by omega), guarded_open p _ s hl hr, if_neg hlt, ite_self]

theorem NotWritable.portWrite {d : Nat} (h : NotWritable d) (p : Port) (v : Word) (s : State)
    (hl : (s.port p).tdi ≠ .locked) (hr : (s.port p).tdi ≠ .run) : portWrite p d v s = s := by
  obtain ⟨single, ring, -, -, msix, page⟩ := h
  simp only [List.mem_cons, List.not_mem_nil, not_or] at single
  by_cases hp : 0x3000000 ≤ d ∧ d < 0x3100000
  · have hd : d = 0x3000000 + 0x10000 * ((d - 0x3000000) / 0x10000) + d % 0x10000 := by omega
    rw [hd, portWrite_page p _ _ v s (by omega) (by omega)]
    split_ifs
    · exact writeRing_readOnly p _ _ v s (by omega) hl hr
    · omega
    · omega
    · rfl
  · unfold Machine.portWrite
    iterate 5 rw [if_neg (by omega)]
    by_cases hb : 0x1100 ≤ d ∧ d < 0x1120
    · rw [if_pos hb, writeRing_readOnly p _ _ v s (by omega) hl hr]
    · rw [if_neg hb, if_neg (by omega), if_neg hp]

theorem NotWritable.regWrite {d : Nat} (h : NotWritable d) (p : Port) (v : Word) (s : State) (hh : s.hears p = true)
    (hs : s.isSteward p = true) (hl : (s.port p).tdi ≠ .locked) (hr : (s.port p).tdi ≠ .run) : regWrite p d v s = s := by
  cases hb : partBlock d with
  | true => rw [regWrite_block p v s h.globalWrite hb, stewardWrite_on p id s hh hs, id]
  | false => rw [regWrite_port p v s h.globalWrite hb, hostWrite_on p _ s hh, h.portWrite p v s hl hr]

/-! ### The rack plan through the indirect pair (R318, Table 8-5) -/

/-- WORD after an access to the rack plan: INC moves it on through the 144 words. -/
theorem nextWord_plan (inc : Bool) (w : BitVec 16) (h : w.toNat < 144) :
    nextWord 1 inc w = if inc then BitVec.ofNat 16 ((w.toNat + 1) % 144) else w := by
  unfold nextWord
  split_ifs with hi hw
  · rw [show w.toNat + 1 = 144 from hw]
    rfl
  · have hlt : w.toNat + 1 ≠ 144 := hw
    rw [Nat.mod_eq_of_lt (by omega), BitVec.ofNat_add, BitVec.ofNat_toNat, BitVec.setWidth_eq]
    rfl
  · rfl

/-- The reserved bits of a word of the rack plan are left out (R7). -/
theorem and_planMask (v : Word) (w : Nat) : v &&& planMask w =
    if w % 4 = 0 then v &&& 0x3FF else if w % 4 = 1 then v &&& 0x3FFFF else if w % 4 = 2 then v &&& 0xFF else 0 := by
  unfold planMask
  split
  case h_1 h => simp [h]
  case h_2 h => simp [h]
  case h_3 h => simp [h]
  case h_4 h0 h1 h2 =>
    rw [if_neg h0, if_neg h1, if_neg h2]
    exact BitVec.and_zero

/-- What an access to the rack plan leaves in the port's indirect pair: no error, and WORD moved on where INC is set. -/
def planAccessed (x : PortSt) : PortSt :=
  { x with indErr := false, indWord := if x.indInc then BitVec.ofNat 16 ((x.indWord.toNat + 1) % 144) else x.indWord }

theorem State.modPort_port_of_ne (s : State) {p q : Port} (f : PortSt → PortSt) (h : q ≠ p) : (s.modPort p f).port q = s.port q := by
  rw [State.modPort_port, if_neg h]

/-- A change to a port's entry matters only in what it makes of the entry that stands. -/
theorem State.modPort_congr (s : State) (p : Port) {f g : PortSt → PortSt} (h : f (s.port p) = g (s.port p)) :
    s.modPort p f = s.modPort p g := by
  have hv : f (sget {} s.ports p.val) = g (sget {} s.ports p.val) := h
  rw [State.modPort, State.modPort, smod, smod, hv]

/-- The indirect pair's own change to the port, in the rack plan. -/
theorem modPort_planAccessed (s : State) (p : Port) (hw : (s.port p).indWord.toNat < 144) :
    s.modPort p (fun y => { y with indErr := false, indWord := nextWord 1 (s.port p).indInc (s.port p).indWord }) =
      s.modPort p planAccessed :=
  s.modPort_congr p (by rw [nextWord_plan _ _ hw]; rfl)

/-- A write that a writable rack plan takes from the steward. -/
theorem indirect_write_plan (p : Port) (v : Word) (s : State) (hs : s.isSteward p = true) (hp : (s.port p).indSpace = 1)
    (hw : (s.port p).indWord.toNat < 144) (hpw : s.planWritable = true) :
    indirect p (some v) s = (writeSpace p 1 (s.port p).indWord.toNat v s).modPort p planAccessed := by
  have hsp : (s.port p).indSpace.toNat = 1 := by rw [hp]; rfl
  have hlen : ¬spaceWords 1 ≤ (s.port p).indWord.toNat := Nat.not_le.mpr hw
  calc indirect p (some v) s
    _ = (writeSpace p 1 (s.port p).indWord.toNat v s).modPort p (fun y =>
        { y with indErr := false, indWord := nextWord 1 (s.port p).indInc (s.port p).indWord }) := by
      simp [indirect, spaceRefuses, hsp, hs, hpw, hlen]
    _ = (writeSpace p 1 (s.port p).indWord.toNat v s).modPort p planAccessed := modPort_planAccessed _ p hw

/-- A read of the rack plan puts the word on the port that asks. -/
theorem indirect_read_plan (p : Port) (s : State) (hp : (s.port p).indSpace = 1) (hw : (s.port p).indWord.toNat < 144) :
    indirect p none s = (s.emit (.readData (decide (p.val = 1))
      (bytesOf 4 (sget 0 s.self.plan (s.port p).indWord.toNat)) false)).modPort p planAccessed := by
  have hsp : (s.port p).indSpace.toNat = 1 := by rw [hp]; rfl
  have hlen : ¬spaceWords 1 ≤ (s.port p).indWord.toNat := Nat.not_le.mpr hw
  calc indirect p none s
    _ = (s.emit (.readData (decide (p.val = 1)) (bytesOf 4 (sget 0 s.self.plan (s.port p).indWord.toNat)) false)).modPort p (fun y =>
        { y with indErr := false, indWord := nextWord 1 (s.port p).indInc (s.port p).indWord }) := by
      simp [indirect, spaceWord, hsp, hlen]
    _ = _ := modPort_planAccessed _ p hw

theorem exec_indirectDataAccess_write (p : Port) (v : Word) (s : State) (hh : s.hears p = true) :
    exec (.indirectDataAccess p (some v)) s = .next (indirect p (some v) s) :=
  congrArg _ (hostWrite_on p (indirect p (some v)) s hh)

theorem exec_indirectDataAccess_read (p : Port) (s : State) (hc : s.clocked = true) (hl : (s.port p).linkUp = true) :
    exec (.indirectDataAccess p none) s = .next (indirect p none s) := by
  have hgate : (s.clocked && (s.port p).linkUp) = true := by rw [hc, hl]; rfl
  exact congrArg _ (if_pos hgate)

end Sys2Proof.Machine

namespace Sys2Proof.Proofs

open Sys2Proof Sys2Proof.Machine

/-- Settles O30: each offset is traced to the write that `globalWrite`, `partBlock` and `portWrite` give it. -/
theorem registerCommands : Obligations.RegisterCommands := by
  unfold Obligations.RegisterCommands
  refine ⟨?_, ?_, ?_, ?_, ?_, ?_, ?_⟩
  · intro s p v hh hs
    exact ⟨congrArg _ (stewardWrite_on p (writeRest 1 v) s hh hs), congrArg _ (stewardWrite_on p (writePieceCtl v) s hh hs)⟩
  · intro s p o v hh hs d single ring strobe piece msix page hl hr
    have hd : NotWritable d := ⟨single, ring, strobe, piece, msix, page⟩
    rw [exec_registerWrite p o v s hd.ne_bootReset, hd.regWrite p v s hh hs hl hr]
  · intro s p o v hh hs h
    rw [exec_registerWrite p o v s (ne_bootReset_of_stewardOnly h), regWrite_notSteward p v s hh hs h]
    rfl
  · intro s p v
    have hro : exec (.registerWrite p 0x0000010 v) s = .next s := congrArg _ (ite_self s)
    exact ⟨hro, rfl, rfl, rfl, rfl, rfl, fun a => ⟨exec_registerWrite_window p a v s, exec_registerWrite_sched p a v s⟩⟩
  · intro s p v hh
    exact congrArg _ (hostWrite_on p (portWrite p 0x1040 v) s hh)
  · intro s p v hh hs hp hw h7
    have hpw : s.planWritable = true := by simp [State.planWritable, h7]
    rw [exec_indirectDataAccess_write p v s hh, indirect_write_plan p v s hs hp hw hpw]
    refine ⟨_, rfl, fun k => ?_, State.modPort_port_same _ p _, fun q hq => State.modPort_port_of_ne _ _ hq, rfl⟩
    rw [← and_planMask, ite_not]
    exact Laws.sget_sput 0 s.self.plan _ k _
  · intro s p hc hl hp hw
    rw [exec_indirectDataAccess_read p s hc hl, indirect_read_plan p s hp hw]
    exact ⟨_, rfl, rfl, State.modPort_port_same _ p _, fun q hq => State.modPort_port_of_ne _ _ hq, rfl⟩

end Sys2Proof.Proofs
end

section
/-! SUPPORT. The passing of CADREF cycles: what a cycle with no strobe due comes to, and when time is counted. -/

namespace Sys2Proof.Machine

/-! ### Due strobes -/

theorem applyDue_notDue (s : State) (g : Nat) (h : (s.strobe g).due = false) : applyDue s g = s := by
  rw [applyDue, h]
  rfl

/-- A fold whose every step leaves the state as it is. -/
theorem foldl_eq_self {α β : Type} (f : α → β → α) (a : α) (l : List β) (h : ∀ b ∈ l, f a b = a) : l.foldl f a = a := by
  induction l with
  | nil => rfl
  | cons b l ih =>
    rw [List.foldl_cons, h b (by simp)]
    exact ih fun c hc => h c (List.mem_cons_of_mem b hc)

/-- A cycle that no strobe is due in begins with nothing (R315). -/
theorem beginCycle_notDue (s : State) (h : ∀ g : Sgrp, (s.strobe g.val).due = false) : beginCycle s = s :=
  foldl_eq_self applyDue s _ fun g hg => applyDue_notDue s g (h ⟨g, List.mem_range.mp hg⟩)

/-! ### Counted time -/

theorem timed_eq (s : State) : s.timed = (s.clocked && s.cad.aligned) := rfl

theorem timed_notAligned (s : State) (h : s.cad.aligned = false) : s.timed = false := by
  rw [timed_eq, h, Bool.and_false]

theorem timed_notClocked (s : State) (h : s.clocked = false) : s.timed = false := by
  rw [timed_eq, h, Bool.false_and]

theorem counting_notAligned (s : State) (h : s.cad.aligned = false) : s.counting = false := by
  rw [State.counting, h, Bool.and_false]

/-! ### The cycle in which no command waits -/

theorem idleCycle_counted (s : State) (ht : s.timed = true) (h : s.cad.tick.toNat < 65535) :
    idleCycle s = beginCycle (countTick (endTick s)) := by
  rw [idleCycle, if_pos ht, if_pos h]

theorem idleCycle_lapEnd (s : State) (ht : s.timed = true) (h : s.cad.tick = 65535) : idleCycle s = s := by
  rw [idleCycle, if_pos ht, if_neg (by rw [h]; decide)]

theorem idleCycle_uncounted (s : State) (ht : s.timed = false) (hc : s.counting = false) :
    idleCycle s = if s.clocked then beginCycle s else s := by
  rw [idleCycle, ht, hc]
  rfl

/-- Before the first lap mark nothing is counted (R438). -/
theorem idleCycle_notAligned (s : State) (h : s.cad.aligned = false) : idleCycle s = if s.clocked then beginCycle s else s :=
  idleCycle_uncounted s (timed_notAligned s h) (counting_notAligned s h)

theorem endTick_zero (s : State) (h : s.cad.tick = 0) : endTick s = deferSwitch (shiftPoint (takeStarts s)) := if_pos h

theorem endTick_later (s : State) (h : s.cad.tick ≠ 0) : endTick s = s := if_neg h

theorem tick_lt_of_ne {t : BitVec 16} (h : t ≠ 65535) : t.toNat < 65535 := by
  have hne : t.toNat ≠ 65535 := fun e => h (BitVec.eq_of_toNat_eq e)
  omega

/-! ### Steps -/

theorem step_command (s : State) (c : Instr) (rest : List Instr) (h : s.pending = c :: rest) :
    step s = exec c { s with pending := rest } := by
  rw [step, h]

theorem step_idle (s : State) (h : s.pending = []) : step s = .next (idleCycle s) := by
  rw [step, h]

end Sys2Proof.Machine

namespace Sys2Proof.Proofs

open Sys2Proof Sys2Proof.Machine

/-- Settles O1: the branches of `step` and `idleCycle`, and a cycle with no strobe due begins with nothing. -/
theorem stepRunsFrontCommand : Obligations.StepRunsFrontCommand := by
  unfold Obligations.StepRunsFrontCommand
  refine ⟨step_command, step_idle, ?_, ?_, idleCycle_lapEnd, ?_⟩
  · intro s ht h0 hlast hdue
    rw [idleCycle_counted s ht (tick_lt_of_ne hlast), endTick_later s h0, beginCycle_notDue (countTick s) hdue]
    rfl
  · intro s ht h0
    rw [idleCycle_counted s ht (by rw [h0]; decide), endTick_zero s h0]
  · intro s hc hn
    rw [idleCycle_uncounted s (timed_notClocked s hc) hn, hc]
    rfl

end Sys2Proof.Proofs
end

section
/-! SUPPORT. Lap marks and the loss of CADREF (02_cadence). -/

namespace Sys2Proof.Machine

theorem downStep_eq (x : PortSt) : downStep x = { x with
    downLaps := if x.downLap ∧ x.linkUp = false then satAdd x.downLaps 1 else x.downLaps, downLap := !x.linkUp } := by
  simp only [downStep, Bool.and_eq_true, Bool.not_eq_true']

/-- A change that both ports take. -/
theorem State.modPorts_port (s : State) (f : PortSt → PortSt) (p : Port) : ((s.modPort 0 f).modPort 1 f).port p = f (s.port p) := by
  rw [State.modPort_port, State.modPort_port, State.modPort_port]
  fin_cases p <;> rfl

/-- FIRST_LAP_MARK (R21). -/
theorem exec_firstLapMark (s : State) (hc : s.clocked = true) (ha : s.cad.aligned = false) (h1 : 1 ≤ s.boot.step.toNat) :
    exec .firstLapMark s = .next (beginCycle
      ((({ s with cad := { s.cad with lap := 0, tick := 0, aligned := true } } : State).modPort 0 downStep).modPort 1 downStep)) := by
  simp [exec, execFirstLapMark, hc, ha, h1]

/-- MISPLACED_LAP_MARK (R22). -/
theorem exec_misplacedLapMark (s : State) (ht : s.timed = true) (h0 : s.cad.tick ≠ 0) :
    exec .misplacedLapMark s = .next (markError s) :=
  congrArg Host.Outcome.next (if_pos (by rw [ht, decide_eq_true h0]; rfl))

/-- The clocks that a stopped CADREF leaves without lock (R41, R42). -/
def unlockClocks (s : State) : State :=
  { s with cad := { s.cad with stopped := true, fixedLock := false }
           plls := smapD {} (fun x => { x with activeLock := false, idleLock := false }) s.plls }

/-- CADREF_STOP (R41, R42), in a module that runs or in a hold-up save. -/
theorem exec_cadrefStop (s : State) (h : s.clocked = true ∨ (s.boot.supply = .saved ∧ s.cad.stopped = false)) :
    exec .cadrefStop s = .next (((unlockClocks s).modPort 0 (fun x => { x with linkUp := false })).modPort 1
      (fun x => { x with linkUp := false })) :=
  congrArg Host.Outcome.next (if_pos (by simpa using h))

/-- MARK_FAULT is bit 7 of HST_EVT. -/
theorem evtBits_markFault (s : State) (h : s.cad.markFault = true) : bit (evtBits s) 7 = true := by
  simp only [evtBits, bit, BitVec.getLsbD_append, h]
  rfl

theorem alertLow_of_cause (s : State) (i : Nat) (h : bit (evtBits s) i = true) : alertLow s = true := by
  have hne : evtBits s ≠ 0 := by
    intro h0
    rw [h0, bit, BitVec.ofNat_eq_ofNat, BitVec.getLsbD_zero] at h
    exact absurd h (by decide)
  simp only [alertLow, decide_eq_true hne, Bool.true_or]

end Sys2Proof.Machine

namespace Sys2Proof.Proofs

open Sys2Proof Sys2Proof.Machine

/-- Settles O2: one branch of a command each; the alert's events leave cadence time as it is. -/
theorem cadenceMarkCommands : Obligations.CadenceMarkCommands := by
  unfold Obligations.CadenceMarkCommands
  refine ⟨?_, ?_, ?_⟩
  · intro s hc ha h1 hdue
    rw [exec_firstLapMark s hc ha h1, beginCycle_notDue]
    · refine ⟨_, rfl, rfl, fun p => ?_, rfl⟩
      rw [State.modPorts_port, downStep_eq]
      rfl
    · exact hdue
  · intro s ht h0
    have hcause : bit (evtBits (markError s)) 7 = true := evtBits_markFault _ (by simp [markError])
    have hcad : (markError s).cad = { s.cad with markErr := satAdd s.cad.markErr 1, markErrLap := true, markFault := true } :=
      alertEvents_cad _
    refine ⟨_, exec_misplacedLapMark s ht h0, hcad, hcause, alertLow_of_cause _ 7 hcause, ?_⟩
    rw [hcad]
    rfl
  · intro s h hr
    refine ⟨_, exec_cadrefStop s h, ?_, ?_, ?_, rfl, fun p => ?_, fun p => ?_, rfl⟩
    · simp [State.clocked, unlockClocks]
    · simp [State.timed, unlockClocks]
    · simp [State.counting, unlockClocks]
    · exact ⟨State.modPorts_port _ _ p, by simp [State.hears, State.clocked, unlockClocks]⟩
    · exact Laws.sget_smapD {} (fun x : Pll => { x with activeLock := false, idleLock := false }) s.plls p hr rfl

end Sys2Proof.Proofs
end

section
/-! SUPPORT. Synchronisation and lap beacons (02_cadence). -/

namespace Sys2Proof.Machine

/-! ### The arm of CAD_SYNC_CTL (R26, R27) -/

theorem syncWrite_refused (mode : BitVec 2) (k : BitVec 6) (s : State) (h : syncRefuses mode s = true) :
    syncWrite mode k true s = { s with cad := { s.cad with
      syncMode := mode, syncSpoke := k, syncArmed := false, syncRefused := true } } := by
  simp only [syncWrite, h, if_true]

theorem syncWrite_armed (mode : BitVec 2) (k : BitVec 6) (s : State) (h : syncRefuses mode s = false) :
    syncWrite mode k true s = { s with cad := { s.cad with
      syncMode := mode, syncSpoke := k, syncArmed := true, syncRefused := false } } := by
  simp only [syncWrite, h, if_true, Bool.false_eq_true, if_false]

/-- A timetable is loaded or a timed event is armed, which refuses every arm (R27). -/
def State.syncBlocked (s : State) : Prop := timedArmed s = true ∨ ∃ e ∈ s.allots, e.2.tables ≠ []

theorem syncRefuses_of_blocked (mode : BitVec 2) (s : State) (h : s.syncBlocked) : syncRefuses mode s = true := by
  rcases h with h | ⟨e, he, ht⟩
  · simp [syncRefuses, h]
  · have hany : s.allots.any (fun e => !e.2.tables.isEmpty) = true :=
      List.any_eq_true.mpr ⟨e, he, by simpa using ht⟩
    simp [syncRefuses, hany]

/-- Where nothing blocks it, only the lap and the tick of a SET can refuse an arm (R27, R38). -/
theorem syncRefuses_free (mode : BitVec 2) (s : State) (ha : s.cad.aligned = true) (hb : ∀ e ∈ s.allots, e.2.tables = [])
    (ht : timedArmed s = false) (hm : mode = 1 ∨ mode = 2) :
    syncRefuses mode s =
      (decide (mode = 1) && (decide (0x80 ≤ s.cad.syncLapHi.toNat) || decide (s.cad.tick.toNat = 65535))) := by
  have hany : s.allots.any (fun e => !e.2.tables.isEmpty) = false :=
    List.any_eq_false.mpr fun e he => by simp [hb e he]
  have h0 : decide (mode = 0) = false := by rcases hm with rfl | rfl <;> rfl
  have h3 : decide (mode = 3) = false := by rcases hm with rfl | rfl <;> rfl
  simp only [syncRefuses, ha, hany, ht, h0, h3, Bool.not_true, Bool.false_or]

/-! ### Lap beacons (R25, R26, R29) -/

theorem mem_spokesUp (s : State) (k : Nat) : k ∈ s.spokesUp ↔ k < 36 ∧ (s.spk k).state = 5 := by
  simp [State.spokesUp]

/-- A beacon that is served: it comes in ticks 00008 to 32767 on a spoke that is UP. -/
def State.beaconServed (s : State) (k : Spoke) : Prop :=
  s.timed = true ∧ 8 ≤ s.cad.tick.toNat ∧ s.cad.tick.toNat ≤ 32767 ∧ (s.spk k.val).state = 5

theorem exec_lapBeaconReceive (k : Spoke) (lap : BitVec 40) (sy : Bool) (s : State) (h : s.beaconServed k) :
    exec (.lapBeaconReceive k lap sy) s = .next (compareBeacon k.val lap sy (adopt k.val lap sy s)) := by
  obtain ⟨ht, h8, hlast, hup⟩ := h
  exact congrArg Host.Outcome.next (if_pos (by simp [ht, h8, hlast, hup]))

theorem exec_lapBeaconReceive_ignored (k : Spoke) (lap : BitVec 40) (sy : Bool) (s : State) (h : ¬s.beaconServed k) :
    exec (.lapBeaconReceive k lap sy) s = .next s :=
  congrArg Host.Outcome.next (if_neg fun hc => h (by simpa [State.beaconServed, and_assoc] using hc))

/-- ADOPT is armed for the spoke and the sender is synchronised (R26). -/
def State.adopts (s : State) (k : Nat) (sy : Bool) : Prop :=
  s.cad.syncArmed = true ∧ s.cad.syncMode = 2 ∧ s.cad.syncSpoke.toNat = k ∧ sy = true

theorem adopt_taken (k : Nat) (lap : BitVec 40) (sy : Bool) (s : State) (h : s.adopts k sy) :
    adopt k lap sy s = { s with cad := { s.cad with lap := lap, synced := true, syncArmed := false } } := by
  obtain ⟨harm, hmode, hspoke, hsy⟩ := h
  exact if_pos (by simp [harm, hmode, hspoke, hsy])

theorem adopt_not (k : Nat) (lap : BitVec 40) (sy : Bool) (s : State) (h : ¬s.adopts k sy) : adopt k lap sy s = s :=
  if_neg fun hc => h (by simpa [State.adopts, and_assoc] using hc)

theorem not_adopts {s : State} {k : Nat} {sy : Bool}
    (h : s.cad.syncArmed = false ∨ s.cad.syncMode ≠ 2 ∨ s.cad.syncSpoke.toNat ≠ k ∨ sy = false) : ¬s.adopts k sy := by
  rintro ⟨harm, hmode, hspoke, hsy⟩
  rcases h with h | h | h | h
  · exact absurd harm (by simp [h])
  · exact h hmode
  · exact h hspoke
  · exact absurd hsy (by simp [h])

theorem compareBeacon_unsynced (k : Nat) (lap : BitVec 40) (sy : Bool) (s : State) (h : s.cad.synced = false) :
    compareBeacon k lap sy s = s := by
  simp [compareBeacon, h]

/-- A beacon that agrees, or comes from a sender that is not synchronised, takes the spoke's disagreement back. -/
theorem compareBeacon_agrees (k : Nat) (lap : BitVec 40) (sy : Bool) (s : State) (h : s.cad.synced = true)
    (ha : ¬(sy = true ∧ lap ≠ s.cad.lap)) :
    compareBeacon k lap sy s = { s with cad := { s.cad with mismatch := s.cad.mismatch &&& ~~~BitVec.twoPow 36 k } } := by
  have hc : (sy && decide (lap ≠ s.cad.lap)) = false := by simpa using ha
  simp only [compareBeacon, h, hc, if_true, Bool.false_eq_true, if_false]

/-- A beacon of a synchronised sender with another lap sets it. -/
theorem compareBeacon_disagrees (k : Nat) (lap : BitVec 40) (sy : Bool) (s : State) (h : s.cad.synced = true)
    (ha : sy = true ∧ lap ≠ s.cad.lap) :
    compareBeacon k lap sy s = { s with cad := { s.cad with mismatch := s.cad.mismatch ||| BitVec.twoPow 36 k } } := by
  have hc : (sy && decide (lap ≠ s.cad.lap)) = true := by simpa using ha
  simp only [compareBeacon, h, hc, if_true]

/-- What is left of the bits of a word when one of them is set, or cleared. -/
theorem getLsbD_setBit {w : Nat} (m : BitVec w) (k j : Nat) (hk : k < w) :
    (m ||| BitVec.twoPow w k).getLsbD j = if j = k then true else m.getLsbD j := by
  by_cases h : j = k
  · simp [h, hk]
  · simp [h, Ne.symm h]

theorem getLsbD_clearBit {w : Nat} (m : BitVec w) (k j : Nat) (hk : k < w) :
    (m &&& ~~~BitVec.twoPow w k).getLsbD j = if j = k then false else m.getLsbD j := by
  by_cases h : j = k
  · simp [h, hk]
  · by_cases hj : j < w
    · simp [hj, h]
    · simp [h, Nat.not_lt.mp hj]

end Sys2Proof.Machine

namespace Sys2Proof.Proofs

open Sys2Proof Sys2Proof.Machine

/-- Settles O3: an arm is refused or taken by `syncRefuses`, and a beacon that is served is adopted or compared. -/
theorem synchronisationCommands : Obligations.SynchronisationCommands := by
  unfold Obligations.SynchronisationCommands
  refine ⟨⟨?_, ?_, ?_, ?_⟩, ?_, mem_spokesUp, ?_, ?_, ?_, ?_⟩
  · intro s p k hh hs ha hb ht
    have hset := syncRefuses_free 1 s ha hb ht (.inl rfl)
    have hadopt := syncRefuses_free 2 s ha hb ht (.inr rfl)
    refine ⟨fun hlap htick => ?_, fun hlap => ?_, ?_⟩
    · have hlast : s.cad.tick.toNat ≠ 65535 := (tick_lt_of_ne htick).ne
      have hok : syncRefuses 1 s = false := by rw [hset]; simp [hlast, hlap]
      exact congrArg _ ((stewardWrite_on p _ s hh hs).trans (syncWrite_armed 1 k s hok))
    · have hno : syncRefuses 1 s = true := by rw [hset]; simp [hlap]
      exact congrArg _ ((stewardWrite_on p _ s hh hs).trans (syncWrite_refused 1 k s hno))
    · exact congrArg _ ((stewardWrite_on p _ s hh hs).trans (syncWrite_armed 2 k s hadopt))
  · intro s p k hh hs hb
    exact ⟨congrArg _ ((stewardWrite_on p _ s hh hs).trans (syncWrite_refused 1 k s (syncRefuses_of_blocked 1 s hb))),
      congrArg _ ((stewardWrite_on p _ s hh hs).trans (syncWrite_refused 2 k s (syncRefuses_of_blocked 2 s hb)))⟩
  · intro s p hh hs
    exact congrArg _ (stewardWrite_on p _ s hh hs)
  · intro s p k hh hs
    exact ⟨congrArg _ (stewardWrite_other p _ s hh hs), congrArg _ (stewardWrite_other p _ s hh hs),
      congrArg _ (stewardWrite_other p _ s hh hs)⟩
  · intro s ht h8
    exact congrArg Host.Outcome.next (if_pos (by rw [State.atTick, ht, h8]; rfl))
  · intro s k lap ht h8 hlast hup harm hmode hspoke
    rw [exec_lapBeaconReceive k lap true s ⟨ht, h8, hlast, hup⟩, adopt_taken k.val lap true s ⟨harm, hmode, hspoke, rfl⟩]
    exact congrArg _ (compareBeacon_agrees _ _ _ _ rfl (by simp))
  · intro s k lap sy ht h8 hlast hup hsync hno
    rw [exec_lapBeaconReceive k lap sy s ⟨ht, h8, hlast, hup⟩, adopt_not k.val lap sy s (not_adopts hno)]
    refine ⟨_, rfl, ?_⟩
    by_cases hd : sy = true ∧ lap ≠ s.cad.lap
    · rw [compareBeacon_disagrees k.val lap sy s hsync hd]
      refine ⟨rfl, ?_, fun j hj => ?_, rfl⟩
      · simp only [getLsbD_setBit _ _ _ k.isLt, if_true, true_iff]
        exact hd
      · simp only [getLsbD_setBit _ _ _ k.isLt, hj, if_false]
    · rw [compareBeacon_agrees k.val lap sy s hsync hd]
      refine ⟨rfl, ?_, fun j hj => ?_, rfl⟩
      · simp only [getLsbD_clearBit _ _ _ k.isLt, if_true, hd, Bool.false_eq_true]
      · simp only [getLsbD_clearBit _ _ _ k.isLt, hj, if_false]
  · intro s k lap sy hsync hno
    by_cases hserved : s.beaconServed k
    · rw [exec_lapBeaconReceive k lap sy s hserved, adopt_not k.val lap sy s (not_adopts hno),
        compareBeacon_unsynced k.val lap sy s hsync]
    · exact exec_lapBeaconReceive_ignored k lap sy s hserved
  · intro s k lap sy h
    refine exec_lapBeaconReceive_ignored k lap sy s fun ⟨_, h8, hlast, hup⟩ => ?_
    rcases h with h | h | h
    · omega
    · omega
    · exact h hup

end Sys2Proof.Proofs
end

section
/-! SUPPORT. The array-domain PLLs, the lock check and the shift of the gear (10_power_and_cooling). -/

namespace Sys2Proof.Machine

/-! ### VCORE (R268) -/

theorem slewTo_tripped (p : Nat) (mv : Rat) (t : Time) (s : State) (h : s.thm.trip = true) : slewTo p mv t s = s := if_pos h

theorem slewTo_gear (p : Nat) (mv : Rat) (t : Time) (s : State) (h : s.thm.trip = false) : slewTo p mv t s =
    { s with gear := { s.gear with slews := smod {} s.gear.slews p (fun w => ⟨coreLevel w s.now, mv, t⟩) } } :=
  if_neg (by rw [h]; decide)

/-- The VCORE of the given pavilions set on its way to a level. -/
theorem foldl_slewTo (mv : Rat) (now : Time) (l : List Nat) (s : State) (h : s.thm.trip = false) (hn : s.now = now) :
    l.foldl (fun s p => slewTo p mv s.now s) s =
      { s with gear := { s.gear with slews := l.foldl (fun m p => smod {} m p (fun w => ⟨coreLevel w now, mv, now⟩)) s.gear.slews } } := by
  induction l generalizing s with
  | nil => rfl
  | cons p l ih =>
    rw [List.foldl_cons, slewTo_gear p mv s.now s h, hn, ih]
    · rfl
    · exact h
    · exact hn

/-- A change that the four pavilions' entries take one after another. -/
theorem sget_foldl_smod_range4 {α : Type} [DecidableEq α] (d : α) (m : Sparse α) (f : α → α) (p : Pav) :
    sget d ((List.range 4).foldl (fun m p => smod d m p f) m) p.val = f (sget d m p.val) := by
  simp only [List.range, List.range.loop, List.foldl_cons, List.foldl_nil, Laws.sget_smod]
  fin_cases p <;> rfl

theorem idlePllLock_due (s : State) (p : Pav) (hc : s.clocked = true) (hp : s.gear.programmed ≠ 0)
    (hl : (s.pll p.val).idleLock = false) :
    (s.clocked && decide (s.gear.programmed ≠ 0) && !(s.pll p.val).idleLock) = true := by
  rw [hc, decide_eq_true hp, hl]
  rfl

/-- IDLE_PLL_LOCK where no upshift is due, or after a trip: VCORE stays (R32, R295). -/
theorem exec_idlePllLock_still (s : State) (p : Pav) (hc : s.clocked = true) (hp : s.gear.programmed ≠ 0)
    (hl : (s.pll p.val).idleLock = false)
    (h : s.gear.shiftDue = false ∨ s.gear.programmed.toNat ≤ s.gear.gear.toNat ∨ s.thm.trip = true) :
    exec (.idlePllLock p) s = .next (s.modPll p.val (fun x => { x with idleLock := true })) := by
  refine congrArg Host.Outcome.next ((if_pos (idlePllLock_due s p hc hp hl)).trans ?_)
  rcases h with h | h | h
  · exact if_neg (by simp [h])
  · exact if_neg (by simp [Nat.not_lt.mpr h])
  · dsimp only
    rw [slewTo_tripped _ _ _ (s.modPll p.val _) h, ite_self]

/-- IDLE_PLL_LOCK where an upshift is due: VCORE slews from the next tick on (R268). -/
theorem exec_idlePllLock_slews (s : State) (p : Pav) (hc : s.clocked = true) (hp : s.gear.programmed ≠ 0)
    (hl : (s.pll p.val).idleLock = false) (hd : s.gear.shiftDue = true)
    (hup : s.gear.gear.toNat < s.gear.programmed.toNat) (ht : s.thm.trip = false) :
    exec (.idlePllLock p) s = .next { s with
      plls := smod {} s.plls p.val (fun x => { x with idleLock := true })
      gear := { s.gear with
        slews := smod {} s.gear.slews p.val (fun w => ⟨coreLevel w s.now, coreMv s.gear.programmed.toNat, later 1 s.now⟩) } } :=
  congrArg Host.Outcome.next ((if_pos (idlePllLock_due s p hc hp hl)).trans
    ((if_pos (by simp [hd, hup])).trans (slewTo_gear p.val _ _ _ ht)))

/-! ### The lock check (R34) -/

theorem unlocked_none (s : State) (h : ∀ p : Pav, (s.pll p.val).idleLock = true) : s.unlocked = none :=
  List.find?_eq_none.mpr fun p hp => by simp [h ⟨p, List.mem_range.mp hp⟩]

/-- The lowest pavilion whose idle PLL is not locked. -/
theorem unlocked_lowest (s : State) (p : Pav) (h : (s.pll p.val).idleLock = false)
    (hlow : ∀ q : Pav, q < p → (s.pll q.val).idleLock = true) : s.unlocked = some p.val := by
  refine List.find?_range_eq_some.mpr ⟨by simp [h], List.mem_range.mpr p.isLt, fun q hq => ?_⟩
  simp [hlow ⟨q, hq.trans p.isLt⟩ hq]

section
variable (s : State) (hc : s.ctl = true) (ht : s.timed = true) (h : s.cad.tick = 32767) (hd : s.gear.shiftDue = true)
include hc ht h hd

theorem pllLockCheck_due : (s.ctl && s.atTick 32767 && s.gear.shiftDue) = true := by
  rw [hc, State.atTick, ht, h, hd]
  rfl

theorem exec_pllLockCheck_locked (hu : s.unlocked = none) : exec .pllLockCheck s = .next s :=
  congrArg Host.Outcome.next ((if_pos (pllLockCheck_due s hc ht h hd)).trans (by rw [hu]))

theorem exec_pllLockCheck_failed (p : Nat) (hu : s.unlocked = some p) : exec .pllLockCheck s = .next (
    writeFault (faultCode 0x1 0x001 (BitVec.ofNat 16 p)) 0 7 0xFF none
      { s with gear := { s.gear with shiftDue := false, lockFailed := some (BitVec.ofNat 2 p), pllFault := true } }) :=
  congrArg Host.Outcome.next ((if_pos (pllLockCheck_due s hc ht h hd)).trans (by rw [hu]))

end

/-- The code of PLL_LOCK names the pavilion (Table 14-5). -/
theorem faultCode_pllLock (p : Pav) : faultCode 0x1 0x001 (BitVec.ofNat 16 p.val) = 0x10010000#32 + BitVec.ofNat 32 p.val := by
  revert p
  decide

theorem alertLow_of_pllFault (s : State) (h : s.gear.pllFault = true) : alertLow s = true := by
  simp [alertLow, h]

/-! ### The shift (R33, R269, R270) -/

/-- A pavilion has changed to its other PLL, and the one that is idle now is programmed to the old gear. -/
def flipPll (old : BitVec 3) (x : Pll) : Pll :=
  { active := !x.active, activeLock := x.idleLock, idleLock := x.activeLock, ratio := BitVec.ofNat 5 (cptOf old.toNat) }

theorem foldl_modPll (f : Pll → Pll) (l : List Nat) (s : State) :
    l.foldl (fun s p => s.modPll p f) s = { s with plls := l.foldl (fun m p => smod {} m p f) s.plls } := by
  induction l generalizing s with
  | nil => rfl
  | cons p l ih => exact ih (s.modPll p f)

/-- The shift before its event and the change of levels: the PLLs and GEAR. -/
def flipAll (s : State) : State :=
  { s with plls := (List.range 4).foldl (fun m p => smod {} m p (flipPll s.gear.gear)) s.plls
           gear := { s.gear with gear := s.gear.programmed, programmed := s.gear.gear, shiftDue := false }
           acc := { s.acc with shifted := true } }

theorem flipAll_pll (s : State) (p : Pav) : sget {} (flipAll s).plls p.val = flipPll s.gear.gear (s.pll p.val) := by
  rw [flipAll, sget_foldl_smod_range4, State.pll]

/-- A shift: the PLLs and GEAR, then the fills of an upshift or the VCORE of a downshift, then its event. -/
theorem shiftGear_eq (s : State) : shiftGear s =
    queueEvent 0x0007 0 (BitVec.ofNat 32 (16 * s.gear.gear.toNat + s.gear.programmed.toNat)) 0
      (if s.gear.gear.toNat < s.gear.programmed.toNat then fillRestart (flipAll s)
       else (List.range 4).foldl (fun u p => slewTo p (coreMv s.gear.programmed.toNat) u.now u) (flipAll s)) := by
  unfold shiftGear
  extract_lets old new flip flipped gear acc shifted moved
  have hflip : flipped = { s with plls := (List.range 4).foldl (fun m p => smod {} m p (flipPll old)) s.plls } :=
    foldl_modPll (flipPll old) (List.range 4) s
  have hshift : shifted = flipAll s := by
    simp only [shifted, gear, acc, hflip]
    rfl
  simp only [moved, hshift, old, new]

/-- A level of 16 restarts at 14 (R269). -/
theorem fillRestart_ramp (s : State) (g : Nat) (h : rising s.ramps = true) : (fillRestart s).ramp g =
    if (s.ramp g).level = 16 then { s.ramp g with level := 14, recover := decide ((s.ramp g).target = 16) } else s.ramp g :=
  Laws.sget_smapD ({} : Ramp)
    (fun r => if r.level = 16 then { r with level := 14, recover := decide (r.target = 16) } else r) s.ramps g h rfl

end Sys2Proof.Machine

namespace Sys2Proof.Proofs

open Sys2Proof Sys2Proof.Machine

/-- Settles O5: the branches of the three commands; a shift is the change of the PLLs and of GEAR, then fills or VCORE, then its
event. -/
theorem gearShiftCommands : Obligations.GearShiftCommands := by
  unfold Obligations.GearShiftCommands
  refine ⟨?_, ?_, ?_, ?_, ?_, ?_, ?_⟩
  · intro s p hc hp hl
    by_cases h : s.gear.shiftDue = false ∨ s.gear.programmed.toNat ≤ s.gear.gear.toNat ∨ s.thm.trip = true
    · refine ⟨_, exec_idlePllLock_still s p hc hp hl h, State.modPll_pll_same s p.val _, fun q hq => ?_, fun _ => rfl,
        fun hd hup ht => absurd h ?_, rfl⟩
      · rw [State.modPll_pll, if_neg hq]
      · simp [hd, ht, hup]
    · obtain ⟨hd, hup, ht⟩ : s.gear.shiftDue = true ∧ s.gear.gear.toNat < s.gear.programmed.toNat ∧ s.thm.trip = false := by
        simpa using h
      refine ⟨_, exec_idlePllLock_slews s p hc hp hl hd hup ht, State.modPll_pll_same s p.val _, fun q hq => ?_,
        fun hn => absurd hn h, fun _ _ _ => ⟨rfl, by simp only [Laws.sget_smod_same], fun q hq => ?_⟩, rfl⟩
      · exact (State.modPll_pll s p.val q _).trans (if_neg hq)
      · simp only [Laws.sget_smod, if_neg hq]
  · intro s hc ht h hd hl
    exact exec_pllLockCheck_locked s hc ht h hd (unlocked_none s hl)
  · intro s hd
    exact congrArg Host.Outcome.next (if_neg (by simp [hd]))
  · intro s hc ht h hd p hp hlow
    rw [exec_pllLockCheck_failed s hc ht h hd p.val (unlocked_lowest s p hp hlow), faultCode_pllLock]
    exact ⟨_, rfl, rfl, by rw [writeFault_gear], alertLow_of_pllFault _ (by rw [writeFault_gear])⟩
  · intro s hf hc
    exact if_pos (by rw [hc, isSome_of_ne hf]; rfl)
  · intro s hc ht h hd hclear htrip hr
    have hnow : s.shiftNow = true := by
      simp [State.shiftNow, State.shiftComes, hc, ht, h, hd, hclear, htrip]
    have hexec : exec .gearShift s = .next (shiftGear s) := congrArg Host.Outcome.next (if_pos hnow)
    rw [hexec, shiftGear_eq]
    by_cases hup : s.gear.gear.toNat < s.gear.programmed.toNat
    · rw [if_pos hup]
      refine ⟨_, rfl, ?_, fun p => ?_, fun _ => ⟨?_, fun g => ?_⟩, fun hdown => absurd hup (Nat.not_lt.mpr hdown), ?_⟩
      · rw [queueEvent_gear]
        rfl
      · rw [State.pll, queueEvent_plls]
        exact flipAll_pll s p
      · rw [queueEvent_gear]
        rfl
      · rw [State.ramp, queueEvent_ramps]
        exact fillRestart_ramp (flipAll s) g hr
      · rw [queueEvent_plls, queueEvent_gear, queueEvent_ramps]
        rfl
    · rw [if_neg hup, foldl_slewTo (coreMv s.gear.programmed.toNat) s.now (List.range 4) (flipAll s) htrip rfl]
      refine ⟨_, rfl, ?_, fun p => ?_, fun h => absurd h hup, fun _ => ⟨?_, fun p => ?_⟩, ?_⟩
      · rw [queueEvent_gear]
        rfl
      · rw [State.pll, queueEvent_plls]
        exact flipAll_pll s p
      · rw [queueEvent_ramps]
        rfl
      · rw [queueEvent_gear]
        simp only [sget_foldl_smod_range4, flipAll]
      · rw [queueEvent_plls, queueEvent_gear, queueEvent_ramps]
        rfl
  · intro s h
    refine congrArg Host.Outcome.next (if_neg ?_)
    rcases h with h | h | h <;> simp [State.shiftNow, State.shiftComes, h]

end Sys2Proof.Proofs
end

section
/-! SUPPORT. A strobe of SPK_HOLD on a spoke table that is not in its canonical order (11_host_interface). -/

namespace Sys2Proof.Proofs

open Sys2Proof Sys2Proof.Machine

/-- Gatehouse 0 is in module group 1, a strobe holds its spoke 0, and the table of spokes lists spoke 1 twice: at its default, which
the canonical form leaves out, and in ALIGN. -/
def spokeListedTwice : State :=
  { spokes := [(1, {}), (1, { state := 3 })], sgrpSel := 0x10, self := { hold0 := ⟨0, 1, 0, none⟩ } }

/-- The strobe neither holds nor frees spoke 1, which reads as DOWN. -/
theorem spokeListedTwice_reads : (spokeListedTwice.self.hold0.applied 0).getLsbD 1 = spokeListedTwice.self.hold0.eff.getLsbD 1 ∧
    (spokeListedTwice.spk 1).state = 0 := by
  decide

/-- The fall of spoke 0 abandons its credit book, which writes the whole table anew (R223): the default entry goes, and spoke 1 then
reads as in ALIGN. -/
theorem spokeListedTwice_strobed : ((applyStrobe 1 0 spokeListedTwice).spk 1).state = 3 := by
  rfl

/-- Refutes O31: its last clause holds of the states whose table of spokes is in canonical order, and it does not ask for that order;
the strobe moves a spoke of `spokeListedTwice` whose hold does not change. -/
theorem not_strobeCommands : ¬ Obligations.StrobeCommands := by
  unfold Obligations.StrobeCommands
  rintro ⟨-, -, -, -, -, hstrobe⟩
  obtain ⟨-, -, -, -, -, -, -, -, -, hspokes, -⟩ := hstrobe 1 0 spokeListedTwice
  obtain ⟨-, -, hkept⟩ := hspokes ⟨0, by decide⟩ ⟨1, by decide⟩ (by decide)
  obtain ⟨hsame, hdown⟩ := spokeListedTwice_reads
  exact absurd ((spokeListedTwice_strobed.symm.trans (hkept hsame)).trans hdown) (by decide)

end Sys2Proof.Proofs
end

section
/-! SUPPORT. Spoke training and the fall of a spoke (08_lattice). -/

namespace Sys2Proof.Machine

/-! ### Saturating counters -/

@[simp] theorem satAdd_zero {w : Nat} (v : BitVec w) : satAdd v 0 = v := by
  rw [satAdd, if_neg (by have := v.isLt; omega)]
  simp

/-- Two additions to a counter come to one of their sum. -/
theorem satAdd_satAdd {w : Nat} (v : BitVec w) (m n : Nat) : satAdd (satAdd v m) n = satAdd v (m + n) := by
  have hpos : 0 < 2 ^ w := Nat.two_pow_pos w
  by_cases hm : 2 ^ w ≤ v.toNat + m
  · have hmax : satAdd v m = BitVec.allOnes w := if_pos hm
    have hsum : satAdd v (m + n) = BitVec.allOnes w := if_pos (by omega)
    rw [hmax, hsum]
    rcases Nat.eq_zero_or_pos n with rfl | hn
    · exact satAdd_zero _
    · exact if_pos (by rw [BitVec.toNat_allOnes]; omega)
  · have hsum : (satAdd v m).toNat = v.toNat + m := by
      rw [satAdd, if_neg hm, BitVec.toNat_ofNat, Nat.mod_eq_of_lt (by omega)]
    rw [satAdd, hsum, satAdd, Nat.add_assoc]

/-- A counter of the live set after one increment for each entry of a list. -/
theorem sget_foldl_count {α : Type} {w : Nat} (l : List α) (m : Sparse (BitVec w)) (k c : Nat) :
    sget 0 (l.foldl (fun m _ => smod 0 m k (fun v => satAdd v 1)) m) c =
      if c = k then satAdd (sget 0 m c) l.length else sget 0 m c := by
  induction l generalizing m with
  | nil => simp
  | cons x l ih =>
    rw [List.foldl_cons, ih, Laws.sget_smod]
    by_cases h : c = k
    · subst h
      simp only [if_true, satAdd_satAdd, List.length_cons, Nat.add_comm 1]
    · simp only [if_neg h]

/-! ### The fall of a spoke (R206, R222, R223) -/

/-- The link word that gives a queued packet's credit back, where its ingress spoke is UP (R222). -/
def State.creditOf (s : State) (q : Queued) : Option Out := q.back.bind (fun b =>
  if (s.spk b.1).state = 5 then some (.linkWord b.1 (creditWord b.2 (s.linkEpoch b.1))) else none)

theorem giveBack_eq (q : Queued) (s : State) : giveBack q s = { s with out := s.out ++ (s.creditOf q).toList } := by
  unfold giveBack State.creditOf
  cases q.back with
  | none => simp
  | some b =>
    by_cases h : (s.spk b.1).state = 5
    · simp only [Option.bind_some, if_pos h]
      rfl
    · simp only [Option.bind_some, if_neg h, Option.toList_none, List.append_nil]

/-- Packets discarded at an egress: their credits return, and each counts in DROP. -/
theorem foldl_dropAt (k : Nat) (l : List Queued) (s : State) : l.foldl (fun s q => dropAt k q s) s =
    { s with out := s.out ++ l.filterMap s.creditOf
             live := l.foldl (fun m _ => smod 0 m (cSpk k 2) (fun v => satAdd v 1)) s.live } := by
  induction l generalizing s with
  | nil => simp
  | cons q l ih =>
    have hcredit : (q :: l).filterMap s.creditOf = (s.creditOf q).toList ++ l.filterMap s.creditOf := by
      cases h : s.creditOf q <;> simp [h]
    rw [List.foldl_cons, ih, dropAt, giveBack_eq, hcredit, ← List.append_assoc]
    rfl

/-- What the fall leaves of a spoke, before its book is abandoned. -/
def SpokeSt.fallen (x : SpokeSt) (dest : BitVec 3) : SpokeSt :=
  { x with state := dest, keyed := false, farValid := false, recIn := false, ownAck := false, matchAt := none, cred0 := 0,
           cred1 := 0, cred2 := 0, ctl := [], data := [], lastCtl := false, farEpoch := false, key := {} }

/-- Packets that owe no credit to the book of spoke k any more, at a spoke and at a station (R223). -/
def SpokeSt.unowed (k : Nat) (x : SpokeSt) : SpokeSt :=
  { x with ingress := x.ingress.map (Queued.unowed k), ctl := x.ctl.map (Queued.unowed k) }

def Station.unowed (k : Nat) (x : Station) : Station := ⟨x.ring.map (Queued.unowed k), x.entry.map (Queued.unowed k)⟩

/-- The fall of a spoke: the table of spokes, the stations, DROP, the credits that return and the disagreement of the spoke. -/
theorem spokeFall_eq (k : Nat) (dest : BitVec 3) (s : State) : spokeFall k dest s =
    { s with
      spokes := smapD {} (SpokeSt.unowed k) (smod {} s.spokes k (·.fallen dest))
      stations := smapD {} (Station.unowed k) s.stations
      live := ((s.spk k).ctl ++ (s.spk k).data).foldl (fun m _ => smod 0 m (cSpk k 2) (fun v => satAdd v 1)) s.live
      out := s.out ++ ((s.spk k).ctl ++ (s.spk k).data).filterMap s.creditOf
      cad := { s.cad with mismatch := s.cad.mismatch &&& ~~~BitVec.twoPow 36 k } } := by
  dsimp only [spokeFall]
  rw [foldl_dropAt]
  rfl

theorem spokeFall_spk (k : Nat) (dest : BitVec 3) (s : State) (h : rising s.spokes = true) (j : Nat) :
    (spokeFall k dest s).spk j = if j = k then ((s.spk k).fallen dest).unowed k else (s.spk j).unowed k := by
  have hread : (spokeFall k dest s).spk j = sget {} (smapD {} (SpokeSt.unowed k) (smod {} s.spokes k (·.fallen dest))) j := by
    rw [spokeFall_eq]
    rfl
  rw [hread, Laws.sget_smapD {} _ _ j (Laws.rising_smod {} _ _ _ h) rfl, Laws.sget_smod]
  exact apply_ite (SpokeSt.unowed k) _ _ _

theorem spokeFall_station (k : Nat) (dest : BitVec 3) (s : State) (h : rising s.stations = true) (i : Nat) :
    (spokeFall k dest s).station i = (s.station i).unowed k := by
  have hread : (spokeFall k dest s).station i = sget {} (smapD {} (Station.unowed k) s.stations) i := by
    rw [spokeFall_eq]
    rfl
  rw [hread, Laws.sget_smapD {} _ _ i h rfl]
  rfl

theorem spokeFall_live (k : Nat) (dest : BitVec 3) (s : State) (c : Nat) : sget 0 (spokeFall k dest s).live c =
    if c = cSpk k 2 then satAdd (sget 0 s.live c) ((s.spk k).ctl.length + (s.spk k).data.length) else sget 0 s.live c := by
  rw [spokeFall_eq, ← List.length_append]
  exact sget_foldl_count _ _ _ _

/-! ### The commands -/

theorem exec_lossOfSignal_up (s : State) (k : Spoke) (hc : s.clocked = true) (h : (s.spk k.val).state = 5) :
    exec (.lossOfSignal k) s = .next (spokeFall k.val 0 s) :=
  congrArg Host.Outcome.next (if_pos (by rw [hc, h]; rfl))

theorem exec_lossOfSignal_still (s : State) (k : Spoke) (h : (s.spk k.val).state ≠ 5) : exec (.lossOfSignal k) s = .next s :=
  congrArg Host.Outcome.next (if_neg (by rw [decide_eq_false h]; simp))

/-- The three states of an attempt that has not reached UP (R205). -/
theorem inAttempt_iff (x : BitVec 3) : (decide (2 ≤ x.toNat) && decide (x.toNat ≤ 4)) = true ↔ x = 2 ∨ x = 3 ∨ x = 4 := by
  revert x
  decide

end Sys2Proof.Machine

namespace Sys2Proof.Proofs

open Sys2Proof Sys2Proof.Machine

/-- Settles O39: each training command is one guarded change of the spoke; the loss of signal is the fall to DOWN, whose effect on
spokes, stations and counters is read off the tables. -/
theorem spokeTrainingCommands : Obligations.SpokeTrainingCommands := by
  unfold Obligations.SpokeTrainingCommands
  refine ⟨fun s k => ?_, fun s k hc => ⟨?_, ?_, fun good => ?_, ?_⟩, fun s k h => exec_lossOfSignal_still s k h,
    fun s k hc h hspokes hstations => ?_⟩
  · exact congrArg Host.Outcome.next (if_congr (by simp [State.s5Begun, and_assoc]) rfl rfl)
  · exact congrArg Host.Outcome.next (if_congr (by simp [hc]) rfl rfl)
  · exact congrArg Host.Outcome.next (if_congr (by simp [hc]) rfl rfl)
  · exact congrArg Host.Outcome.next (if_congr (by simp [hc]) rfl rfl)
  · exact congrArg Host.Outcome.next (if_congr (by rw [hc, Bool.true_and, inAttempt_iff]) rfl rfl)
  · refine ⟨_, exec_lossOfSignal_up s k hc h, ?_, fun j hj => ?_, spokeFall_station k.val 0 s hstations,
      spokeFall_live k.val 0 s, ?_, ?_⟩
    · rw [spokeFall_spk k.val 0 s hspokes, if_pos rfl]
      rfl
    · rw [spokeFall_spk k.val 0 s hspokes, if_neg hj]
      rfl
    · rw [spokeFall_eq]
      rfl
    · rw [spokeFall_eq]

end Sys2Proof.Proofs
end

section
/-! SUPPORT. Strobes leave cadence time and the latched counters (02_cadence, 11_host_interface). -/

namespace Sys2Proof.Machine

/-- Cadence time, whether it has begun, and the counters of the ended lap. -/
def State.clockFace (s : State) : BitVec 40 × BitVec 16 × Bool × Sparse Word := (s.cad.lap, s.cad.tick, s.cad.aligned, s.latched)

/-- What every step of a fold keeps, the fold keeps. -/
theorem foldl_keeps {α β γ : Type} (P : α → γ) (f : α → β → α) (h : ∀ a b, P (f a b) = P a) (l : List β) (a : α) :
    P (l.foldl f a) = P a := by
  induction l generalizing a with
  | nil => rfl
  | cons b l ih => exact (ih (f a b)).trans (h a b)

/-- A choice has what both of its branches have. -/
theorem apply_ite_eq {α γ : Type} (P : α → γ) {c : Prop} [Decidable c] {a b : α} {x : γ} (ha : P a = x) (hb : P b = x) :
    P (if c then a else b) = x := by
  rw [apply_ite P, ha, hb, ite_self]

theorem recompute_clockFace (s : State) : (recompute s).clockFace = s.clockFace := by
  rw [recompute_frame]
  rfl

theorem writeHostCap_clockFace (gear : BitVec 3) (cap : BitVec 16) (s : State) :
    (writeHostCap gear cap s).clockFace = s.clockFace :=
  apply_ite_eq State.clockFace (recompute_clockFace _) rfl

theorem strobeSched_clockFace (t : Time) (s : State) : (strobeSched t s).clockFace = s.clockFace :=
  apply_ite_eq State.clockFace (writeHostCap_clockFace _ _ _) rfl

theorem spokeFall_clockFace (k : Nat) (dest : BitVec 3) (s : State) : (spokeFall k dest s).clockFace = s.clockFace := by
  rw [spokeFall_eq]
  rfl

theorem strobeHold_clockFace (h : Nat) (t : Time) (s : State) : (strobeHold h t s).clockFace = s.clockFace := by
  unfold strobeHold
  extract_lets old src held new
  have hstep : ∀ (u : State) (j : Nat), State.clockFace (
      if new.getLsbD j && !old.getLsbD j then spokeFall (18 * h + j) 0 u
      else if old.getLsbD j && !new.getLsbD j && u.s5Begun && u.self.set && decide ((u.spk (18 * h + j)).state = 0) then
        startTraining (18 * h + j) u
      else u) = u.clockFace :=
    fun u j => apply_ite_eq State.clockFace (spokeFall_clockFace _ _ u) (apply_ite_eq State.clockFace rfl rfl)
  exact (foldl_keeps State.clockFace _ hstep _ held).trans (apply_ite_eq State.clockFace rfl rfl)

theorem strobeRest_clockFace (p : Nat) (t : Time) (s : State) : (strobeRest p t s).clockFace = s.clockFace := by
  dsimp only [strobeRest]
  split
  · rfl
  · have hramps : ((s.restingGroups p).foldl (fun u g => u.modRamp g (fun r => { r with target := u.restLevel g }))
        (s.modRest p (fun f => f.strobe t))).clockFace = s.clockFace := foldl_keeps State.clockFace _ (fun _ _ => by rfl) _ _
    exact apply_ite_eq State.clockFace hramps hramps

theorem applyStrobe_clockFace (g : Nat) (t : Time) (s : State) : (applyStrobe g t s).clockFace = s.clockFace :=
  calc (applyStrobe g t s).clockFace
    _ = _ := foldl_keeps State.clockFace _ (fun u p => apply_ite_eq State.clockFace (strobeRest_clockFace p t u) rfl) _ _
    _ = _ := foldl_keeps State.clockFace _ (fun u h => apply_ite_eq State.clockFace (strobeHold_clockFace h t u) rfl) _ _
    _ = s.clockFace := apply_ite_eq State.clockFace (strobeSched_clockFace t s) rfl

/-- The strobes that a cycle begins with move no time and no latched counter (R315). -/
theorem beginCycle_clockFace (s : State) : (beginCycle s).clockFace = s.clockFace :=
  foldl_keeps State.clockFace applyDue (fun _ _ => apply_ite_eq State.clockFace (applyStrobe_clockFace _ _ _) rfl) _ s

theorem idleCycle_clockFace_notAligned (s : State) (h : s.cad.aligned = false) : (idleCycle s).clockFace = s.clockFace := by
  rw [idleCycle_notAligned s h]
  exact apply_ite_eq State.clockFace (beginCycle_clockFace s) rfl

end Sys2Proof.Machine

namespace Sys2Proof.Proofs

open Sys2Proof Sys2Proof.Machine

/-- Settles O54: the empty queue's cycle only applies the strobes that are due, which keep cadence time and the latched counters. -/
theorem cyclesBeforeFirstMark : Obligations.CyclesBeforeFirstMark := by
  unfold Obligations.CyclesBeforeFirstMark
  refine ⟨fun s hp ha hdue => ?_, fun s hp ha => ?_⟩
  · rw [step_idle s hp, idleCycle_notAligned s ha, beginCycle_notDue s hdue, ite_self]
  · obtain ⟨hlap, hface⟩ := Prod.mk.inj (idleCycle_clockFace_notAligned s ha)
    obtain ⟨htick, hface⟩ := Prod.mk.inj hface
    obtain ⟨haligned, hlatched⟩ := Prod.mk.inj hface
    exact ⟨_, step_idle s hp, idleCycle_notAligned s ha, hlap, htick, haligned.trans ha, hlatched⟩

end Sys2Proof.Proofs
end

section
/-! SUPPORT. The transfer of one word, a word of a weight slot, and a transfer at a port of the fabric (04_memory). -/

namespace Sys2Proof.Machine

/-! ### Bank ports (R98) -/

/-- A write of a later source stands at the word of the bank in this array cycle. -/
def State.outranked (s : State) (rank : Nat) (cycle : BitVec 4) (w : Nat) : Prop :=
  ∃ b ∈ s.bankWrites, b.at_ = s.now ∧ b.word = w ∧ b.cycle = cycle ∧ rank < b.rank

theorem outranked_iff (s : State) (rank : Nat) (cycle : BitVec 4) (w : Nat) :
    (s.bankWrites.filter (fun x => decide (x.at_ = s.now))).any
      (fun x => decide (x.word = w) && decide (x.cycle = cycle) && decide (rank < x.rank)) = true ↔ s.outranked rank cycle w := by
  simp [State.outranked, and_assoc]

theorem bankWrite_outranked (rank : Nat) (cycle : BitVec 4) (w : Nat) (b : List Byte) (s : State) (h : s.outranked rank cycle w)
    (u x : Nat) : (bankWrite rank cycle w b s).byte u x = s.byte u x := by
  have hkept : bankWrite rank cycle w b s = { s with bankWrites := s.bankWrites.filter (fun x => decide (x.at_ = s.now)) } :=
    if_pos ((outranked_iff s rank cycle w).mpr h)
  rw [hkept]
  rfl

theorem bankWrite_byte (rank : Nat) (cycle : BitVec 4) (w : Nat) (b : List Byte) (s : State) (h : ¬s.outranked rank cycle w)
    (hb : b.length = 32) (u x : Nat) : (bankWrite rank cycle w b s).byte u x =
      if min 1 3 = min u 3 ∧ 32 * w ≤ x ∧ x < 32 * w + 32 then byteAt b (x - 32 * w) else s.byte u x := by
  have hwrite : bankWrite rank cycle w b s = writeWord 1 w b { s with
      bankWrites := s.bankWrites.filter (fun x => decide (x.at_ = s.now)) ++ [⟨w, s.now, cycle, rank⟩] } :=
    if_neg ((outranked_iff s rank cycle w).not.mpr h)
  rw [hwrite, Laws.writeWord_byte 1 w u x b _ hb]
  rfl

/-! ### The word of a store (R97, R103) -/

/-- A mover's word is written at a word of a store: at a bank's port where the store is the scratchpad. -/
def storeWord (x : Transfer) (st w : Nat) (b : List Byte) (s : State) : State :=
  if st = 1 then bankWrite (moverRank x.m (bankOf (32 * w))) x.cycle w b s else writeWord st w b s

/-- The write is lost to a later source's at a bank's port (R98). -/
def Transfer.lost (x : Transfer) (st w : Nat) (s : State) : Prop := st = 1 ∧ s.outranked (moverRank x.m (bankOf (32 * w))) x.cycle w

theorem storeWord_byte (x : Transfer) (st w : Nat) (b : List Byte) (s : State) (hb : b.length = 32) (h : ¬x.lost st w s) (u y : Nat) :
    (storeWord x st w b s).byte u y =
      if min st 3 = min u 3 ∧ 32 * w ≤ y ∧ y < 32 * w + 32 then byteAt b (y - 32 * w) else s.byte u y := by
  unfold storeWord
  by_cases h1 : st = 1
  · subst h1
    rw [if_pos rfl, bankWrite_byte _ _ w b s (fun ho => h ⟨rfl, ho⟩) hb]
  · rw [if_neg h1, Laws.writeWord_byte st w u y b s hb]

theorem storeWord_lost (x : Transfer) (st w : Nat) (b : List Byte) (s : State) (h : x.lost st w s) (u y : Nat) :
    (storeWord x st w b s).byte u y = s.byte u y := by
  obtain ⟨rfl, ho⟩ := h
  exact bankWrite_outranked _ _ w b s ho u y

theorem storeWord_frame (x : Transfer) (st w : Nat) (b : List Byte) (s : State) : ∃ m c l g u k,
    storeWord x st w b s = { s with mem := m, scr := c, wslots := l, stage := g, upset := u, bankWrites := k } := by
  unfold storeWord
  by_cases h : st = 1
  · rw [if_pos h]
    exact Laws.bankWrite_frame _ _ w b s
  · rw [if_neg h]
    obtain ⟨_, _, _, _, hw⟩ := Laws.writeWord_frame st w b s
    exact ⟨_, _, _, _, _, _, hw⟩

/-- A place that is a word of a store is one of module memory or of a scratchpad (Table 4-6). -/
theorem placeIn'_store (n : Nat) (a : AllotSt) (space addr st w : Nat) (h : placeIn' n a space addr = .store st w) : st = 0 ∨ st = 1 := by
  unfold placeIn' memPlace at h
  split at h
  · left
    split at h <;> cases h
    rfl
  · right
    split at h <;> cases h
    rfl
  · dsimp only at h
    split at h <;> cases h
  · cases h
  · left
    split at h
    · split at h <;> cases h
      rfl
    · cases h
  · cases h

/-- A word on a path on which nothing happens is written as it comes. -/
theorem putWord_store (x : Transfer) (k addr : Nat) (b : List Byte) (s : State) (st w : Nat) (hp : x.path = [])
    (h : x.place addr = .store st w) (hb : b.length = 32) : putWord x k addr b s = .ok (storeWord x st w b s) := by
  have hfar : x.farPath s = [] := by rw [Transfer.farPath, hp]; rfl
  unfold putWord
  rw [h, hfar]
  simp only [Laws.carry_nil, Laws.fit_length 32 b hb]
  rfl

/-- The word that COPY and FILL write (R103). -/
def Transfer.sourceBytes (x : Transfer) (st w : Nat) (s : State) : List Byte :=
  if x.t.desc.op = 1 then s.bytes st (32 * w) 32 else List.replicate 32 0

theorem sourceBytes_length (x : Transfer) (st w : Nat) (s : State) : (x.sourceBytes st w s).length = 32 := by
  unfold Transfer.sourceBytes
  split <;> simp [State.bytes]

theorem byteAt_sourceBytes (x : Transfer) (st w : Nat) (s : State) (i : Nat) (h : i < 32) :
    byteAt (x.sourceBytes st w s) i = if x.t.desc.op = 1 then s.byte st (32 * w + i) else 0 := by
  unfold Transfer.sourceBytes byteAt
  split
  · simp [State.bytes, h]
  · rw [List.getD_eq_getElem _ _ (by simpa using h), List.getElem_replicate]

theorem getWord_clean (x : Transfer) (s : State) (st w : Nat) (hp : x.path = []) (hop : x.t.desc.op = 1 ∨ x.t.desc.op = 2)
    (hc : s.clean st) (hs : x.t.desc.op = 1 → x.source = .store st w) : getWord x s = .word s (x.sourceBytes st w s) := by
  unfold getWord Transfer.sourceBytes
  rcases hop with hop | hop
  · rw [if_neg (by rw [hop]; decide), if_pos hop, hs hop, fetchWord, Laws.readWord_clean st w s (hc w), hp]
    rfl
  · rw [if_pos hop, if_neg (by rw [hop]; decide)]

/-- The transfer of a word of COPY or FILL between stores. -/
theorem transferWord_store (x : Transfer) (s : State) (st w st' w' : Nat) (hp : x.path = [])
    (hop : x.t.desc.op = 1 ∨ x.t.desc.op = 2) (hhost : x.t.desc.usesHost = false) (hc : s.clean st)
    (hs : x.t.desc.op = 1 → x.source = .store st w) (hd : x.place (x.dstAddr x.t.moved) = .store st' w') :
    transferWord x s = .ok (movedWord x.m [] (storeWord x st' w' (x.sourceBytes st w s) s)) := by
  have hseal : ¬(x.t.desc.dstSp = 3 ∧ (s.image x.a.image).confidential = true ∧ x.t.desc.op = 1) := by
    rintro ⟨h3, -, -⟩
    simp [Desc.usesHost, h3] at hhost
  have hops : x.t.desc.op ≠ 3 ∧ x.t.desc.op ≠ 4 ∧ x.t.desc.op ≠ 5 := by
    rcases hop with hop | hop <;> rw [hop] <;> decide
  obtain ⟨h3, h4, h5⟩ := hops
  have hput := putWord_store x (x.t.moved + 0) _ _ s st' w' hp hd (sourceBytes_length x st w s)
  simp only [transferWord, hd, getWord_clean x s st w hp hop hc hs, if_neg h3, if_neg h4, if_neg h5, if_neg hseal,
    reduceCtorEq, and_false, if_false, putWords, List.zipIdx_cons, List.zipIdx_nil, List.foldl_cons, List.foldl_nil, hput, Put.step]

theorem exec_moverWordTransfer_served (s : State) (m : MoverIx) (host : List Byte) (cycle : BitVec 4) (n : Nat) (a : AllotSt)
    (z : Xfer) (hc : s.clocked = true) (ho : s.moverOwner m.val = some n) (ha : s.allot n = some a)
    (hz : (s.mover m.val).active = some z) (hlt : z.moved < z.desc.total) (hh : wordHeld m.val z.desc s = false)
    (hs : swapHeld m.val a s = false) (hhost : z.desc.usesHost = false) (t : State)
    (ht : transferWord ⟨n, a, m.val, z, host, [], cycle⟩ s = .ok t) :
    exec (.moverWordTransfer m host ⟨[], [], cycle⟩) s = .next t := by
  have hnoise : applyNoise [] s = s := rfl
  refine congrArg Host.Outcome.next ?_
  rw [ho, hz]
  simp only [ha, hc, hh, hs, hlt, hhost, hnoise, ht, Bool.not_false, Bool.and_self, Bool.false_and,
    decide_true, if_true, Bool.false_eq_true, if_false]

theorem movedWord_mover (m : Nat) (held : List Byte) (s : State) (z : Xfer) (h : (s.mover m).active = some z) :
    (movedWord m held s).mover m = { s.mover m with active := some { z with moved := z.moved + 1, held := held } } := by
  rw [State.mover, movedWord, State.bump_movers, modXfer]
  exact (State.modMover_mover_same s m _).trans (by rw [h]; rfl)

theorem movedWord_mover_of_ne (m j : Nat) (held : List Byte) (s : State) (h : j ≠ m) : (movedWord m held s).mover j = s.mover j := by
  rw [State.mover, movedWord, State.bump_movers, modXfer]
  exact (State.modMover_mover s m j _).trans (if_neg h)

theorem movedWord_byte (m : Nat) (held : List Byte) (s : State) (u y : Nat) : (movedWord m held s).byte u y = s.byte u y := rfl

/-- What the transfer of a word changes besides the bytes: the mover, its counter, and the stores. -/
theorem movedWord_storeWord_frame (x : Transfer) (st w : Nat) (b : List Byte) (s : State) : ∃ m c l g u k,
    movedWord x.m [] (storeWord x st w b s) =
      { movedWord x.m [] s with mem := m, scr := c, wslots := l, stage := g, upset := u, bankWrites := k } := by
  obtain ⟨_, _, _, _, _, _, h⟩ := storeWord_frame x st w b s
  rw [h]
  exact ⟨_, _, _, _, _, _, rfl⟩

/-! ### Weight slots (R82) -/

@[simp] theorem ArrSt.setFull_full (a : ArrSt) (slot b : Bool) : (a.setFull slot b).full slot = b := by
  cases slot <;> rfl

@[simp] theorem ArrSt.switch_full (uses : Nat) (a : ArrSt) (slot : Bool) : (a.switch uses).full slot = a.full slot := rfl

/-- A slot begins at a word, so that a word of a tile is a word of the store. -/
theorem slotAddr_word (a : Nat) (slot : Bool) (off : Nat) (h : off % 32 = 0) : 32 * (slotAddr a slot off / 32) = slotAddr a slot off := by
  unfold slotAddr slotBytes
  omega

/-- The bytes of a word written into a slot read as they were written. -/
theorem slotWord_byte (a : Nat) (slot : Bool) (off : Nat) (b : List Byte) (s : State) (h : off % 32 = 0) (hb : b.length = 32)
    (i : Nat) (hi : i < 32) : (writeWord 2 (slotAddr a slot off / 32) b s).byte 2 (slotAddr a slot off + i) = byteAt b i := by
  rw [Laws.writeWord_byte 2 _ 2 _ b s hb, slotAddr_word a slot off h, if_pos ⟨rfl, by omega, by omega⟩, Nat.add_sub_cancel_left]

theorem modArr_byte (s : State) (a : Nat) (f : ArrSt → ArrSt) (u y : Nat) : (s.modArr a f).byte u y = s.byte u y := rfl

/-- What a word written into a slot makes of its array (R82). -/
def ArrSt.slotWritten (r : ArrSt) (slot filled : Bool) (uses : Nat) : ArrSt :=
  if filled && (r.setFull slot filled).released && decide (slot ≠ (r.setFull slot filled).slot) then (r.setFull slot filled).switch uses
  else r.setFull slot filled

theorem ArrSt.slotWritten_full (r : ArrSt) (slot filled : Bool) (uses : Nat) : (r.slotWritten slot filled uses).full slot = filled := by
  unfold ArrSt.slotWritten
  split <;> simp

theorem putSlot_open (x : Transfer) (s : State) (a : Nat) (slot : Bool) (off : Nat) (b : List Byte) (c : ArrCfg) (e : EdgeProg)
    (hcfg : x.a.arrayCfg a = some (c, e)) (hopen : slot ≠ (s.arr a).slot ∨ (s.arr a).released = true)
    (hoff : off + 32 ≤ 32 * c.tileWords.toNat) :
    putSlot x a slot off b s = .ok ((writeWord 2 (slotAddr a slot off / 32) b s).modArr a
      (·.slotWritten slot (decide (off + 32 = 32 * c.tileWords.toNat)) c.uses.toNat)) := by
  have hboth : (decide (slot ≠ (s.arr a).slot) || (s.arr a).released) = true ∧ off + 32 ≤ 32 * c.tileWords.toNat :=
    ⟨by simpa using hopen, hoff⟩
  unfold putSlot
  rw [hcfg]
  exact if_pos hboth

theorem writeWord_arr (st w : Nat) (b : List Byte) (s : State) (y : Nat) : (writeWord st w b s).arr y = s.arr y := by
  obtain ⟨_, _, _, _, h⟩ := Laws.writeWord_frame st w b s
  rw [h]
  rfl

/-! ### A transfer at a port (R94, R184, R187) -/

/-- A transfer that arrives while its source belongs to an allotment. -/
def arriveOwned (n : Nat) (p : FabricPort) (u : TransferSource) (word : ArrivingWord) (s : State) : State :=
  if s.sliceOf n ≠ word.bound then allotFault n (faultCode 0x2 0x002 (portDetail p).2) (portDetail p).1 0xFF none s
  else match portDecode p word.err [] s with
    | (s, some _) => s
    | (s, none) => sourceFault n u (memFault false (portPlace p)) s

theorem exec_pergolaTransferArrive_owned (s : State) (p : FabricPort) (u : TransferSource) (word : ArrivingWord) (n : Nat)
    (hc : s.clocked = true) (h : s.sourceOwner u = some n) :
    exec (.pergolaTransferArrive p u word) s = .next (arriveOwned n p u word s) := by
  refine congrArg Host.Outcome.next ?_
  rw [h, hc]
  rfl

theorem exec_pergolaTransferArrive_unowned (s : State) (p : FabricPort) (u : TransferSource) (word : ArrivingWord)
    (h : s.sourceOwner u = none) : exec (.pergolaTransferArrive p u word) s = .next s := by
  refine congrArg Host.Outcome.next ?_
  rw [h]

theorem arriveOwned_bound (n : Nat) (p : FabricPort) (u : TransferSource) (b : BitVec 12) (err : List Byte) (s : State)
    (h : s.sliceOf n = b) : arriveOwned n p u ⟨b, err⟩ s = match portDecode p err [] s with
      | (s, some _) => s
      | (s, none) => sourceFault n u (memFault false (portPlace p)) s :=
  if_neg (not_not_intro h)

end Sys2Proof.Machine

namespace Sys2Proof.Proofs

open Sys2Proof Sys2Proof.Machine

/-- Settles O35: the word of a store by the law of the word that is written, a word of a slot by the same law, and an arriving
transfer by the outcomes of the port's decoder. -/
theorem wordTransferCommands : Obligations.WordTransferCommands := by
  unfold Obligations.WordTransferCommands
  refine ⟨?_, ?_, ?_, fun s p u b err h => exec_pergolaTransferArrive_unowned s p u _ h⟩
  · intro s m host cycle n a z st w st' w' hc ho ha hz hlt hh hs hhost hop hclean hsrc hdst lost
    have hstore := placeIn'_store _ _ _ _ _ _ hdst
    have hword := transferWord_store ⟨n, a, m.val, z, host, [], cycle⟩ s st w st' w' rfl hop hhost hclean hsrc hdst
    have hserved := exec_moverWordTransfer_served s m host cycle n a z hc ho ha hz hlt hh hs hhost _ hword
    generalize hx : (⟨n, a, m.val, z, host, [], cycle⟩ : Transfer) = x at hserved
    have hm : x.m = m.val := by rw [← hx]
    have hbytes := byteAt_sourceBytes x st w s
    have hwritten := storeWord_byte x st' w' _ s (sourceBytes_length x st w s)
    have hlost := storeWord_lost x st' w' (x.sourceBytes st w s) s
    obtain ⟨_, _, _, _, _, _, hframe⟩ := movedWord_storeWord_frame x st' w' (x.sourceBytes st w s) s
    have hlostIff : lost ↔ x.lost st' w' s := by rw [← hx]; rfl
    have hopz : x.t.desc.op = z.desc.op := by rw [← hx]
    refine ⟨_, hserved, fun hl i hi => ?_, fun hl u b => ?_, fun u b hu hb => ?_, ?_, fun j hj => ?_, ?_, ?_⟩
    · rw [movedWord_byte, hwritten (hlostIff.not.mp hl), if_pos ⟨rfl, by omega, by omega⟩, Nat.add_sub_cancel_left, hbytes i hi, hopz]
    · rw [movedWord_byte, hlost (hlostIff.mp hl)]
    · rw [movedWord_byte]
      by_cases hl : x.lost st' w' s
      · exact hlost hl u b
      · exact (hwritten hl u b).trans (if_neg (by omega))
    · rw [hframe, hm]
      exact movedWord_mover m.val [] s z hz
    · rw [hframe, hm]
      exact movedWord_mover_of_ne m.val j [] s hj
    · rw [hframe, hm]
      rfl
    · rw [hframe]
      rfl
  · intro x s a slot off b c e hcfg hopen hoff hb halign
    refine ⟨_, putSlot_open x s a slot off b c e hcfg hopen hoff, fun i hi => ?_, ?_, fun y hy => ?_⟩
    · rw [modArr_byte]
      exact slotWord_byte a slot off b s halign hb i hi
    · rw [State.modArr_arr_same, ArrSt.slotWritten_full]
    · rw [State.modArr_arr, if_neg hy, writeWord_arr]
  · intro s p u b err n hc ho
    refine ⟨fun h => ?_, fun h => ⟨fun hd => ?_, fun left hd => ?_, fun hd => ?_⟩⟩
    · rw [exec_pergolaTransferArrive_owned s p u _ n hc ho]
      exact congrArg Host.Outcome.next (if_pos h)
    all_goals
      rw [exec_pergolaTransferArrive_owned s p u _ n hc ho, arriveOwned_bound n p u b err s h, portDecode, hd]

end Sys2Proof.Proofs
end

section
/-! SUPPORT. What the end of a lap makes of the lap: the scrubbers' share, the odometer, the calibration and the ceilings
(02_cadence, 10_power_and_cooling). -/

namespace Sys2Proof.Machine

/-! ### Scrubbing (R191, R192) -/

/-- What scrubbing may change: what it counts and the error patterns, and in the odometer neither laps nor activations. -/
def Scrubbed (s t : State) : Prop := ∃ o h d l u,
  t = { s with mgmt := { s.mgmt with odo := o }, hbms := h, ddrs := d, live := l, upset := u } ∧
    o.powered = s.mgmt.odo.powered ∧ o.activations = s.mgmt.odo.activations

theorem Scrubbed.refl (s : State) : Scrubbed s s := ⟨_, _, _, _, _, rfl, rfl, rfl⟩

theorem Scrubbed.trans {s t v : State} (h : Scrubbed s t) (h' : Scrubbed t v) : Scrubbed s v := by
  obtain ⟨_, _, _, _, _, rfl, hp, ha⟩ := h
  obtain ⟨_, _, _, _, _, rfl, hp', ha'⟩ := h'
  exact ⟨_, _, _, _, _, rfl, hp'.trans hp, ha'.trans ha⟩

/-- A fold of scrubbing steps scrubs. -/
theorem scrubbed_foldl {α : Type} (f : State → α → State) (h : ∀ s a, Scrubbed s (f s a)) (l : List α) (s : State) :
    Scrubbed s (l.foldl f s) := by
  induction l generalizing s with
  | nil => exact Scrubbed.refl s
  | cons a l ih => exact (h s a).trans (ih (f s a))

theorem bump_scrubbed (s : State) (k n : Nat) : Scrubbed s (s.bump k n) := ⟨_, _, _, _, _, rfl, rfl, rfl⟩

theorem noteUe_scrubbed (st w : Nat) (tag : Bool) (s : State) : Scrubbed s (noteUe st w tag s) := by
  unfold noteUe
  dsimp only
  split_ifs <;> exact ⟨_, _, _, _, _, rfl, rfl, rfl⟩

theorem readWord_scrubbed (st w : Nat) (s : State) : Scrubbed s (readWord st w s).1 := by
  unfold readWord
  dsimp only
  by_cases c : (sget [] s.upset (upsetKey st w)).isEmpty = true
  · rw [if_pos c]
    exact Scrubbed.refl s
  · rw [if_neg c]
    cases trellisDecode ((sget [] s.upset (upsetKey st w)).take 36) with
    | uncorrectable => exact noteUe_scrubbed st w _ s
    | clean =>
      dsimp only
      split_ifs
      · exact noteUe_scrubbed st w true s
      · exact Scrubbed.refl s
    | corrected left =>
      dsimp only
      split_ifs
      · exact (bump_scrubbed s _ 1).trans (noteUe_scrubbed st w true _)
      · exact bump_scrubbed s _ 1

theorem scrub_scrubbed (w : Nat) (s : State) : Scrubbed s (scrub w s) := by
  have hread := readWord_scrubbed 0 w s
  unfold scrub
  dsimp only
  generalize readWord 0 w s = r at hread
  obtain ⟨t, r⟩ := r
  cases r with
  | good b =>
    obtain ⟨_, _, _, _, _, rfl, hp, ha⟩ := hread
    exact ⟨_, _, _, _, _, rfl, hp, ha⟩
  | ue => exact hread
  | tagBad => exact hread

theorem Scrubbed.withUnits {s t : State} (h : Scrubbed s t) (hbms : Sparse Hbm) (ddrs : Sparse Ddr) :
    Scrubbed s { t with hbms := hbms, ddrs := ddrs } :=
  h.trans ⟨_, _, _, _, _, rfl, rfl, rfl⟩

theorem modHbm_scrubbed {s t : State} (h : Scrubbed s t) (i : Nat) (f : Hbm → Hbm) : Scrubbed s (t.modHbm i f) := h.withUnits _ _

theorem modDdr_scrubbed {s t : State} (h : Scrubbed s t) (i : Nat) (f : Ddr → Ddr) : Scrubbed s (t.modDdr i f) := h.withUnits _ _

/-- A scrubbing step scrubs one word and moves the walk of its stack or channel. (Its proof takes `walk` for any function, so that
the kernel evaluates no comparison with 2 ^ 31.) -/
theorem scrubNext_cases (P : State → Prop) (s : State) (hstack : ∀ w i f, P ((scrub w s).modHbm i f))
    (hchannel : ∀ w i f, P ((scrub w s).modDdr i f)) (u : ScrubUnit) : P (scrubNext u s) := by
  obtain ⟨step, hstep⟩ : ∃ step, step = walk := ⟨_, rfl⟩
  unfold scrubNext
  rw [← hstep]
  cases u with
  | stack site => exact hstack _ _ _
  | channel ch => exact hchannel _ _ _

theorem scrubNext_scrubbed (u : ScrubUnit) (s : State) : Scrubbed s (scrubNext u s) :=
  scrubNext_cases (Scrubbed s) s (fun w i f => modHbm_scrubbed (scrub_scrubbed w s) i f)
    (fun w i f => modDdr_scrubbed (scrub_scrubbed w s) i f) u

/-- The rest of the lap's share of one unit. -/
def scrubRest (s : State) (u : ScrubUnit) : State := (List.range (s.scrubLeft u)).foldl (fun s _ => scrubNext u s) s

theorem scrubRest_scrubbed (s : State) (u : ScrubUnit) : Scrubbed s (scrubRest s u) :=
  scrubbed_foldl _ (fun s _ => scrubNext_scrubbed u s) _ s

theorem scrubRest_nothingLeft (s : State) (u : ScrubUnit) (h : s.scrubLeft u = 0) : scrubRest s u = s := by
  rw [scrubRest, h]
  rfl

/-- The units that scrub. -/
def scrubUnits : List ScrubUnit := (List.finRange 12).map ScrubUnit.stack ++ (List.finRange 8).map ScrubUnit.channel

theorem scrubLap_eq (s : State) : scrubLap s = { scrubUnits.foldl scrubRest s with
    hbms := smapD {} (fun x => { x with scrubbed := 0 }) (scrubUnits.foldl scrubRest s).hbms
    ddrs := smapD {} (fun x => { x with scrubbed := 0 }) (scrubUnits.foldl scrubRest s).ddrs } := by
  unfold scrubLap scrubUnits scrubRest
  rfl

theorem scrubLap_scrubbed (s : State) : Scrubbed s (scrubLap s) := by
  rw [scrubLap_eq]
  exact (scrubbed_foldl scrubRest scrubRest_scrubbed scrubUnits s).withUnits _ _

/-- Where every unit has done its share, the end of the lap counts nothing more (R191). -/
theorem scrubLap_live_nothingLeft (s : State) (h : ∀ u, s.scrubLeft u = 0) : (scrubLap s).live = s.live := by
  rw [scrubLap_eq, foldl_eq_self scrubRest s scrubUnits fun u _ => scrubRest_nothingLeft s u (h u)]

/-! ### The odometer (R370) -/

theorem odoLap_frame (s : State) : ∃ o, odoLap s = { s with mgmt := { s.mgmt with odo := o } } ∧
    o.powered = s.mgmt.odo.powered + 1 ∧ o.activations = s.mgmt.odo.activations := ⟨_, rfl, rfl, rfl⟩

/-! ### Calibration and ceilings (R277, R288, R291, R294) -/

theorem calibrate_frame (m : LapMeasure) (s : State) : ∃ p, calibrate m s = { s with pwr := p } ∧ p.leaseLeft = s.pwr.leaseLeft ∧
    p.lapsed = s.pwr.lapsed := by
  unfold calibrate
  dsimp only
  by_cases h : s.acc.n = 0
  · rw [if_pos h]
    exact ⟨s.pwr, rfl, rfl, rfl⟩
  · rw [if_neg h]
    exact ⟨_, rfl, rfl, rfl⟩

/-- The calibration reads the lap's sums, the power state and the gear alone. -/
theorem calibrate_pwr_congr (m : LapMeasure) {s t : State} (ha : t.acc = s.acc) (hp : t.pwr = s.pwr) (hg : t.gear = s.gear) :
    (calibrate m t).pwr = (calibrate m s).pwr := by
  unfold calibrate
  rw [ha, hp, hg]
  dsimp only
  by_cases h : s.acc.n = 0
  · rw [if_pos h, if_pos h, hp]
  · rw [if_neg h, if_neg h]

/-- The check of the diodes changes what it keeps of them alone. -/
theorem diodeCheck_frame (a : LapAcc) (t : Thm) : ∃ f b, diodeCheck a t = { t with failed := f, badLaps := b } := by
  unfold diodeCheck
  by_cases h : a.n = 0
  · rw [if_pos h]
    exact ⟨_, _, rfl⟩
  · rw [if_neg h]
    refine List.foldlRecOn (motive := fun u : Thm => ∃ f b, u = { t with failed := f, badLaps := b }) (List.range 64) _
      ⟨_, _, rfl⟩ fun u hu i _ => ?_
    obtain ⟨_, _, rfl⟩ := hu
    dsimp only
    split_ifs <;> exact ⟨_, _, rfl⟩

theorem ceilings_frame (lap : BitVec 40) (s : State) : ∃ t o, ceilings lap s = { s with thm := t, mgmt := { s.mgmt with odo := o } } ∧
    t.trip = s.thm.trip ∧ o.powered = s.mgmt.odo.powered ∧ o.activations = s.mgmt.odo.activations := by
  unfold ceilings
  dsimp only
  by_cases h : s.acc.n = 0
  · rw [if_pos h]
    exact ⟨s.thm, s.mgmt.odo, rfl, rfl, rfl, rfl⟩
  · rw [if_neg h]
    obtain ⟨_, _, hdiodes⟩ := diodeCheck_frame s.acc s.thm
    rw [hdiodes]
    exact ⟨_, _, rfl, rfl, rfl, rfl⟩

/-- The ceilings come of the lap's sums, the thermal state, the images and the gear alone. -/
theorem ceilings_thm_congr (lap : BitVec 40) {s t : State} (ha : t.acc = s.acc) (ht : t.thm = s.thm) (hi : t.images = s.images)
    (hg : t.gear = s.gear) : (ceilings lap t).thm = (ceilings lap s).thm := by
  unfold ceilings State.offered
  rw [ha, ht, hi, hg]
  dsimp only
  by_cases h : s.acc.n = 0
  · rw [if_pos h, if_pos h, ht]
  · rw [if_neg h, if_neg h]

/-! ### The closed lap -/

/-- The state once the lap is latched and closed, with fresh sums for the next. -/
def closedLap (m : LapMeasure) (s : State) : State := freshAcc (closeLap m (latchCounters (scrubLap s)))

theorem closeLap_frame (m : LapMeasure) (s : State) : ∃ p t o,
    closeLap m s = { s with pwr := p, thm := t, mgmt := { s.mgmt with odo := o } } ∧
      (p.leaseLeft = s.pwr.leaseLeft ∧ p.lapsed = s.pwr.lapsed) ∧ t.trip = s.thm.trip ∧
      (o.powered = s.mgmt.odo.powered + 1 ∧ o.activations = s.mgmt.odo.activations) ∧
      (s.ctl = true → p = (calibrate m s).pwr ∧ t = (ceilings s.cad.lap s).thm) := by
  obtain ⟨o, ho, hpow, hact⟩ := odoLap_frame s
  unfold closeLap
  rw [ho]
  dsimp only
  split
  next hc =>
    obtain ⟨p, hcal, hleft, hlapsed⟩ := calibrate_frame m { s with mgmt := { s.mgmt with odo := o } }
    have hp : p = (calibrate m s).pwr := by
      rw [← calibrate_pwr_congr m (s := s) (t := { s with mgmt := { s.mgmt with odo := o } }) rfl rfl rfl, hcal]
    rw [hcal]
    obtain ⟨t, o', hceil, htrip, hpow', hact'⟩ :=
      ceilings_frame s.cad.lap { s with pwr := p, mgmt := { s.mgmt with odo := o } }
    have ht : t = (ceilings s.cad.lap s).thm := by
      rw [← ceilings_thm_congr s.cad.lap (s := s) (t := { s with pwr := p, mgmt := { s.mgmt with odo := o } }) rfl rfl rfl rfl, hceil]
    exact ⟨p, t, o', hceil, ⟨hleft, hlapsed⟩, htrip, ⟨hpow'.trans hpow, hact'.trans hact⟩, fun _ => ⟨hp, ht⟩⟩
  next hc =>
    exact ⟨s.pwr, s.thm, o, rfl, ⟨rfl, rfl⟩, rfl, ⟨hpow, hact⟩, fun h => absurd h hc⟩

theorem closedLap_frame (m : LapMeasure) (s : State) : ∃ p t o h d u,
    closedLap m s = { s with
      pwr := p, thm := t, acc := { held := s.hold.hold }, mgmt := { s.mgmt with odo := o }, hbms := h, ddrs := d, upset := u
      live := [], latched := (scrubLap s).live } ∧
      (p.leaseLeft = s.pwr.leaseLeft ∧ p.lapsed = s.pwr.lapsed) ∧ t.trip = s.thm.trip ∧
      (o.powered = s.mgmt.odo.powered + 1 ∧ o.activations = s.mgmt.odo.activations) ∧
      (s.ctl = true → p = (calibrate m s).pwr ∧ t = (ceilings s.cad.lap s).thm) := by
  obtain ⟨o, h, d, l, u, hs, hpow, hact⟩ := scrubLap_scrubbed s
  obtain ⟨p, t, o', hclose, hlease, htrip, ⟨hpow', hact'⟩, hctl⟩ := closeLap_frame m (latchCounters (scrubLap s))
  refine ⟨p, t, o', h, d, u, ?_, ?_, ?_, ⟨?_, ?_⟩, fun hc => ?_⟩
  · rw [closedLap, hclose, hs]
    rfl
  · rw [hs] at hlease
    exact hlease
  · rw [hs] at htrip
    exact htrip
  · rw [hs] at hpow'
    exact hpow'.trans (congrArg (· + 1) hpow)
  · rw [hs] at hact'
    exact hact'.trans hact
  · rw [hs] at hctl
    obtain ⟨hp, ht⟩ := hctl hc
    exact ⟨hp.trans (calibrate_pwr_congr m rfl rfl rfl), ht.trans (ceilings_thm_congr s.cad.lap rfl rfl rfl rfl)⟩

end Sys2Proof.Machine
end

section
/-! SUPPORT. The edge of tick 00000: the new lap, its mark, the roles taken back, the lease and the permitted gear (02_cadence,
10_power_and_cooling). -/

namespace Sys2Proof.Machine

/-! ### Events and messages -/

/-- What events and messages to the host leave as it was, whatever else changes; at most n events come, and none is lost while the
queue has room for n. -/
def Announced (n : Nat) (s t : State) : Prop :=
  (t.mgmt.odo = s.mgmt.odo ∧ t.mgmt.odoRead = s.mgmt.odoRead) ∧
    (∀ p : Port, t.port p = { s.port p with evtDue := (t.port p).evtDue }) ∧ (∀ e ∈ s.mgmt.events, e ∈ t.mgmt.events) ∧
    (s.mgmt.lostRun = 0 → s.mgmt.events.length + n ≤ 256 →
      t.mgmt.lostRun = 0 ∧ t.mgmt.events.length ≤ s.mgmt.events.length + n)

theorem Announced.of_eq {s t : State} (hm : t.mgmt = s.mgmt) (hp : t.ports = s.ports) (n : Nat) : Announced n s t := by
  unfold Announced State.port
  rw [hm, hp]
  exact ⟨⟨rfl, rfl⟩, fun _ => rfl, fun _ he => he, fun h _ => ⟨h, Nat.le_add_right _ _⟩⟩

theorem Announced.trans {a b : Nat} {s t v : State} (h : Announced a s t) (h' : Announced b t v) : Announced (a + b) s v := by
  obtain ⟨⟨ho, hr⟩, hp, he, hl⟩ := h
  obtain ⟨⟨ho', hr'⟩, hp', he', hl'⟩ := h'
  refine ⟨⟨ho'.trans ho, hr'.trans hr⟩, fun p => ?_, fun e h => he' e (he e h), fun hz hn => ?_⟩
  · rw [hp' p, hp p]
  · obtain ⟨hz', hn'⟩ := hl hz (by omega)
    obtain ⟨hz'', hn''⟩ := hl' hz' (by omega)
    exact ⟨hz'', by omega⟩

/-- What is queued where the queue has room (R366). -/
theorem queueEvent_room (ty : BitVec 16) (fl : Byte) (c : Word) (x : BitVec 64) (s : State) (hz : s.mgmt.lostRun = 0)
    (hn : s.mgmt.events.length < 256) : queueEvent ty fl c x s = pushEvent ty fl s.now c x s := by
  unfold queueEvent queueEventAt
  dsimp only
  rw [if_pos hz, if_pos hn]

theorem mem_queueEvent (ty : BitVec 16) (fl : Byte) (c : Word) (x : BitVec 64) (s : State) (e : Event) (h : e ∈ s.mgmt.events) :
    e ∈ (queueEvent ty fl c x s).mgmt.events := by
  unfold queueEvent queueEventAt
  dsimp only
  split_ifs
  · exact List.mem_append_left _ h
  · exact h
  · exact List.mem_append_left _ (List.mem_append_left _ h)
  · exact h

theorem queueEvent_announced (ty : BitVec 16) (fl : Byte) (c : Word) (x : BitVec 64) (s : State) :
    Announced 1 s (queueEvent ty fl c x s) := by
  refine ⟨⟨queueEvent_odo ty fl c x s, by rw [queueEvent_mgmt]⟩, fun p => ?_, mem_queueEvent ty fl c x s, fun hz hn => ?_⟩
  · rw [State.port, queueEvent_ports]
    rfl
  · rw [queueEvent_room ty fl c x s hz (by omega)]
    exact ⟨hz, by simp [pushEvent]⟩

theorem alertEvent_announced (new : BitVec 8) (i : Nat) (s : State) : Announced 1 s (alertEvent new i s) := by
  unfold alertEvent
  split
  · exact Announced.of_eq rfl rfl 1
  · exact queueEvent_announced _ _ _ _ s

theorem alertFold_announced (new : BitVec 8) (l : List Nat) (s : State) :
    Announced l.length s (l.foldl (fun s i => alertEvent new i s) s) := by
  induction l generalizing s with
  | nil => exact Announced.of_eq rfl rfl 0
  | cons i l ih =>
    rw [List.length_cons, Nat.add_comm]
    exact (alertEvent_announced new i s).trans (ih _)

theorem alertEvents_announced (s : State) : Announced 8 s (alertEvents s) := by
  obtain ⟨⟨ho, hr⟩, -, he, hl⟩ := alertFold_announced (evtBits s) (List.range 8) s
  exact ⟨⟨ho, hr⟩, alertEvents_port s, he, hl⟩

theorem recompute_announced (s : State) : Announced 8 s (recompute s) := by
  unfold recompute
  dsimp only
  split
  · exact (Announced.of_eq rfl rfl 0).trans (alertEvents_announced _)
  · exact Announced.of_eq rfl rfl 8

/-! ### The new lap (R21, R26) -/

/-- Cadence time of the new lap, with the latch of the ended lap's number. -/
def State.nextCad (s : State) : Cad := (newLap { s with cad := { s.cad with latchLap := s.cad.lap.setWidth 32 } }).cad

theorem newLap_frame (s : State) : newLap s = { s with cad := (newLap s).cad } := by
  unfold newLap
  split <;> rfl

theorem newLap_cad_congr {s t : State} (h : t.cad = s.cad) : (newLap t).cad = (newLap s).cad := by
  unfold newLap
  rw [h]
  split <;> rfl

theorem nextCad_set (s : State) (h : s.cad.syncArmed = true ∧ s.cad.syncMode = 1) : s.nextCad = { s.cad with
    lap := s.cad.syncLapHi ++ s.cad.syncLapLo, tick := 0, synced := true, syncArmed := false
    latchLap := s.cad.lap.setWidth 32 } := by
  obtain ⟨ha, hm⟩ := h
  unfold State.nextCad newLap
  rw [if_pos (by rw [ha, hm]; rfl)]

theorem nextCad_counted (s : State) (h : ¬(s.cad.syncArmed = true ∧ s.cad.syncMode = 1)) : s.nextCad = { s.cad with
    lap := s.cad.lap + 1, tick := 0, latchLap := s.cad.lap.setWidth 32 } := by
  unfold State.nextCad newLap
  rw [if_neg (by simpa using h)]

theorem nextCad_stopped (s : State) : s.nextCad.stopped = s.cad.stopped := by
  unfold State.nextCad newLap
  split <;> rfl

theorem nextCad_aligned (s : State) : s.nextCad.aligned = s.cad.aligned := by
  unfold State.nextCad newLap
  split <;> rfl

theorem nextCad_lap (s : State) : s.nextCad.lap =
    if s.cad.syncArmed = true ∧ s.cad.syncMode = 1 then s.cad.syncLapHi ++ s.cad.syncLapLo else s.cad.lap + 1 := by
  split
  next h => rw [nextCad_set s h]
  next h => rw [nextCad_counted s h]

theorem nextCad_synced (s : State) :
    s.nextCad.synced = true ↔ s.cad.synced = true ∨ s.cad.syncArmed = true ∧ s.cad.syncMode = 1 := by
  by_cases h : s.cad.syncArmed = true ∧ s.cad.syncMode = 1
  · simp only [nextCad_set s h, h, and_self, or_true]
  · simp only [nextCad_counted s h, h, or_false]

theorem nextCad_syncArmed (s : State) : s.nextCad.syncArmed = true ↔ s.cad.syncArmed = true ∧ s.cad.syncMode ≠ 1 := by
  by_cases h : s.cad.syncArmed = true ∧ s.cad.syncMode = 1
  · rw [nextCad_set s h]
    simp [h.2]
  · rw [nextCad_counted s h]
    exact ⟨fun ha => ⟨ha, fun hm => h ⟨ha, hm⟩⟩, And.left⟩

/-- What the new lap leaves of the mark errors, and its tick and latch. -/
theorem nextCad_frame (s : State) : s.nextCad.markErr = s.cad.markErr ∧ s.nextCad.markFault = s.cad.markFault ∧
    s.nextCad.tick = 0 ∧ s.nextCad.latchLap = s.cad.lap.setWidth 32 := by
  by_cases h : s.cad.syncArmed = true ∧ s.cad.syncMode = 1
  · rw [nextCad_set s h]
    exact ⟨rfl, rfl, rfl, rfl⟩
  · rw [nextCad_counted s h]
    exact ⟨rfl, rfl, rfl, rfl⟩

/-- The state in the first tick of the new lap, before its mark is judged. -/
def lapBegun (m : LapMeasure) (s : State) : State :=
  newLap { closedLap m s with cad := { (closedLap m s).cad with latchLap := s.cad.lap.setWidth 32 } }

theorem lapBegun_frame (m : LapMeasure) (s : State) : ∃ p t o h d u,
    lapBegun m s = { s with
      cad := s.nextCad, pwr := p, thm := t, acc := { held := s.hold.hold }, mgmt := { s.mgmt with odo := o }, hbms := h, ddrs := d
      upset := u, live := [], latched := (scrubLap s).live } ∧
      (p.leaseLeft = s.pwr.leaseLeft ∧ p.lapsed = s.pwr.lapsed) ∧ t.trip = s.thm.trip ∧
      (o.powered = s.mgmt.odo.powered + 1 ∧ o.activations = s.mgmt.odo.activations) ∧
      (s.ctl = true → p = (calibrate m s).pwr ∧ t = (ceilings s.cad.lap s).thm) := by
  obtain ⟨p, t, o, h, d, u, hclosed, hfacts⟩ := closedLap_frame m s
  refine ⟨p, t, o, h, d, u, ?_, hfacts⟩
  rw [lapBegun, newLap_frame, State.nextCad, hclosed]
  congr 1
  exact newLap_cad_congr rfl

/-! ### The mark of the boundary (R22) -/

/-- Cadence state once the mark of the boundary is judged; clean where the ended lap had no mark error. -/
def markedCad (mark clean : Bool) (c : Cad) : Cad :=
  { c with markErrLap := !mark, markErr := if mark then c.markErr else satAdd c.markErr 1, markFault := !mark || (!clean && c.markFault) }

theorem boundaryMark_frame (mark clean : Bool) (s : State) : ∃ mg o ps es em, boundaryMark mark clean s =
    { s with cad := markedCad mark clean s.cad, mgmt := mg, out := o, ports := ps, evtSeen := es, evtMsg := em } := by
  cases mark with
  | false => exact ⟨_, _, _, _, _, alertEvents_frame _⟩
  | true => cases clean with
    | true => exact ⟨_, _, _, _, _, alertEvents_frame _⟩
    | false => exact ⟨_, _, _, _, _, rfl⟩

theorem boundaryMark_announced (mark clean : Bool) (s : State) : Announced 8 s (boundaryMark mark clean s) := by
  cases mark with
  | false => exact (Announced.of_eq rfl rfl 0).trans (alertEvents_announced _)
  | true => cases clean with
    | true => exact (Announced.of_eq rfl rfl 0).trans (alertEvents_announced _)
    | false => exact Announced.of_eq rfl rfl 8

/-! ### Roles taken back (R375) -/

/-- The unit of gatehouse 0 takes a role back from gatehouse 1. -/
def takeBackRole (s : State) (r : Nat) : State :=
  if s.active r && (s.unit (unitIx r false)).inStep then
    queueEvent 0x0004 0 ((pairDetail r (s.unit (unitIx r false)).src false).setWidth 32) 0 (setActive r false s)
  else s

theorem takeBack_eq (s : State) : takeBack s = if s.ctl then takeBackRole (takeBackRole s 0) 1 else s := rfl

theorem setActive_frame (r : Nat) (s : State) : ∃ l, setActive r false s = { s with lodge := l } ∧ l.units = s.lodge.units ∧
    l.pairLost = s.lodge.pairLost := by
  unfold setActive
  split <;> exact ⟨_, rfl, rfl, rfl⟩

theorem takeBackRole_frame (s : State) (r : Nat) : ∃ l mg o, takeBackRole s r = { s with lodge := l, mgmt := mg, out := o } ∧
    l.units = s.lodge.units ∧ l.pairLost = s.lodge.pairLost := by
  obtain ⟨l, hset, hu, hl⟩ := setActive_frame r s
  unfold takeBackRole
  split
  · rw [queueEvent_frame, hset]
    exact ⟨_, _, _, rfl, hu, hl⟩
  · exact ⟨_, _, _, rfl, rfl, rfl⟩

theorem takeBackRole_announced (s : State) (r : Nat) : Announced 1 s (takeBackRole s r) := by
  obtain ⟨l, hset, -⟩ := setActive_frame r s
  unfold takeBackRole
  split
  · exact (Announced.of_eq (by rw [hset]) (by rw [hset]) 0).trans (queueEvent_announced _ _ _ _ _)
  · exact Announced.of_eq rfl rfl 1

theorem setActive_active (r q : Nat) (g : Bool) (s : State) (hr : r ≤ 1) (hq : q ≤ 1) :
    (setActive r g s).active q = if q = r then g else s.active q := by
  interval_cases r <;> interval_cases q <;> rfl

/-- A role is active in gatehouse 1 afterwards only where the unit of gatehouse 0 is out of step. -/
theorem takeBackRole_active (s : State) (r q : Nat) (hr : r ≤ 1) (hq : q ≤ 1) : (takeBackRole s r).active q =
    if q = r then s.active q && !(s.unit (unitIx q false)).inStep else s.active q := by
  unfold takeBackRole
  by_cases h : (s.active r && (s.unit (unitIx r false)).inStep) = true
  · have hqueue : ∀ c x (u : State), (queueEvent 0x0004 0 c x u).active q = u.active q := fun c x u => by
      rw [queueEvent_frame]
      rfl
    rw [if_pos h, hqueue, setActive_active r q false s hr hq]
    obtain ⟨-, hstep⟩ := Bool.and_eq_true_iff.mp h
    split
    next heq => rw [heq, hstep, Bool.not_true, Bool.and_false]
    next => rfl
  · rw [if_neg h]
    split
    next heq =>
      subst heq
      cases ha : s.active q <;> simp_all
    next => rfl

theorem takeBack_frame (s : State) : ∃ l mg o, takeBack s = { s with lodge := l, mgmt := mg, out := o } ∧
    l.units = s.lodge.units ∧ l.pairLost = s.lodge.pairLost := by
  rw [takeBack_eq]
  split
  · obtain ⟨l, mg, o, h0, hu, hp⟩ := takeBackRole_frame s 0
    obtain ⟨l', mg', o', h1, hu', hp'⟩ := takeBackRole_frame (takeBackRole s 0) 1
    rw [h1]
    rw [h0] at hu' hp' ⊢
    exact ⟨l', mg', o', rfl, hu'.trans hu, hp'.trans hp⟩
  · exact ⟨_, _, _, rfl, rfl, rfl⟩

theorem takeBack_announced (s : State) : Announced 2 s (takeBack s) := by
  rw [takeBack_eq]
  split
  · exact (takeBackRole_announced s 0).trans (takeBackRole_announced _ 1)
  · exact Announced.of_eq rfl rfl 2

theorem takeBack_active (s : State) (q : Nat) (hq : q ≤ 1) (hc : s.ctl = true) :
    (takeBack s).active q = (s.active q && !(s.unit (unitIx q false)).inStep) := by
  obtain ⟨l, mg, o, h0, hu, -⟩ := takeBackRole_frame s 0
  have hunit : ∀ i, (takeBackRole s 0).unit i = s.unit i := fun i => by
    rw [State.unit, h0]
    exact congrArg (sget {} · i) hu
  rw [takeBack_eq, if_pos hc, takeBackRole_active _ 1 q le_rfl hq, takeBackRole_active s 0 q (Nat.zero_le 1) hq, hunit]
  interval_cases q <;> rfl

/-! ### The lease and the permitted gear (R276, R279) -/

/-- The lease's count at the edge of a lap (R276). -/
theorem leaseStep_frame (s : State) : ∃ mg o, leaseStep s = { s with
    pwr := { s.pwr with
      leaseLeft := if s.pwr.leaseLeft = 0 then 0 else s.pwr.leaseLeft - 1, lapsed := s.pwr.lapsed || decide (s.pwr.leaseLeft = 1) }
    mgmt := mg, out := o } := by
  unfold leaseStep
  by_cases h0 : s.pwr.leaseLeft = 0
  · simp only [h0, if_true, show ¬(0 : BitVec 16) = 1 by decide, decide_false, Bool.or_false]
    refine ⟨s.mgmt, s.out, ?_⟩
    rw [← h0]
  · by_cases h1 : s.pwr.leaseLeft = 1
    · rw [if_neg h0, if_neg h0, if_pos h1, queueEvent_frame, h1]
      simp only [decide_true, Bool.or_true]
      exact ⟨_, _, rfl⟩
    · rw [if_neg h0, if_neg h0, if_neg h1, decide_eq_false h1, Bool.or_false]
      exact ⟨_, _, rfl⟩

theorem leaseStep_announced (s : State) : Announced 1 s (leaseStep s) := by
  unfold leaseStep
  split_ifs
  · exact Announced.of_eq rfl rfl 1
  · exact (Announced.of_eq rfl rfl 0).trans (queueEvent_announced _ _ _ _ _)
  · exact Announced.of_eq rfl rfl 1

/-- A lease that lapses is an event of the tick, where the queue has room (R276). -/
theorem leaseStep_event (s : State) (h : s.pwr.leaseLeft = 1) (hz : s.mgmt.lostRun = 0) (hn : s.mgmt.events.length < 256) :
    ∃ e ∈ (leaseStep s).mgmt.events, e.type = 0x0006 ∧ e.stamp = s.now := by
  unfold leaseStep
  rw [if_neg (by rw [h]; decide), if_pos h, queueEvent_room]
  · exact ⟨_, List.mem_append_right _ (List.mem_singleton_self _), rfl, rfl⟩
  · exact hz
  · exact hn

/-- A recompute finds the permitted gear from the state that it leaves (R279). -/
theorem recompute_served (s : State) (hc : s.ctl = true) : ∃ mg o ps es em, recompute s = { s with
    pwr := { s.pwr with
      permitted := BitVec.ofNat 3 (permittedOf s.offered s.ceiling s.gear.gear.toNat (effCap s.pwr) s.pwr.basis)
      capUnmet := !fits (predict s.pwr.basis 1 14) (effCap s.pwr) 1, brakeDue := true }
    mgmt := mg, out := o, ports := ps, evtSeen := es, evtMsg := em } := by
  unfold recompute
  rw [if_pos hc]
  exact ⟨_, _, _, _, _, alertEvents_frame _⟩

/-- What the edge of tick 00000 leaves of the power state where the control units act: the lease counted, and the gear permitted. -/
def State.edgePwr (s : State) : Pwr :=
  let p : Pwr := { s.pwr with
    leaseLeft := if s.pwr.leaseLeft = 0 then 0 else s.pwr.leaseLeft - 1, lapsed := s.pwr.lapsed || decide (s.pwr.leaseLeft = 1) }
  { p with
    permitted := BitVec.ofNat 3 (permittedOf s.offered s.ceiling s.gear.gear.toNat (effCap p) p.basis)
    capUnmet := !fits (predict p.basis 1 14) (effCap p) 1, brakeDue := true }

theorem sameEdge_frame (s : State) : ∃ p mg o ps es em, sameEdge s =
    { s with pwr := p, mgmt := mg, out := o, ports := ps, evtSeen := es, evtMsg := em } ∧
    (s.timed = true → s.ctl = true → p = s.edgePwr) := by
  unfold sameEdge
  by_cases ht : s.timed = true
  · rw [if_pos ht]
    by_cases hc : s.ctl = true
    · rw [if_pos hc]
      obtain ⟨_, _, hlease⟩ := leaseStep_frame s
      have hctl : (alertEvents (leaseStep s)).ctl = true := by
        rw [alertEvents_frame, hlease]
        exact hc
      obtain ⟨_, _, _, _, _, hserved⟩ := recompute_served _ hctl
      rw [hserved, alertEvents_frame, hlease]
      exact ⟨_, _, _, _, _, _, rfl, fun _ _ => rfl⟩
    · rw [if_neg hc, recompute_frame]
      exact ⟨_, _, _, _, _, _, rfl, fun _ h => absurd h hc⟩
  · rw [if_neg ht]
    exact ⟨_, _, _, _, _, _, rfl, fun h => absurd h ht⟩

theorem sameEdge_announced (s : State) : Announced 17 s (sameEdge s) := by
  unfold sameEdge
  split_ifs
  · exact ((leaseStep_announced s).trans (alertEvents_announced _)).trans (recompute_announced _)
  · exact (Announced.of_eq rfl rfl 9).trans (recompute_announced s)
  · exact Announced.of_eq rfl rfl 17

theorem sameEdge_event (s : State) (ht : s.timed = true) (hc : s.ctl = true) (h : s.pwr.leaseLeft = 1)
    (hz : s.mgmt.lostRun = 0) (hn : s.mgmt.events.length < 256) :
    ∃ e ∈ (sameEdge s).mgmt.events, e.type = 0x0006 ∧ e.stamp = s.now := by
  obtain ⟨e, he, htype, hstamp⟩ := leaseStep_event s h hz hn
  obtain ⟨-, -, hkept, -⟩ := (alertEvents_announced (leaseStep s)).trans (recompute_announced _)
  unfold sameEdge
  rw [if_pos ht, if_pos hc]
  exact ⟨e, hkept e he, htype, hstamp⟩

/-! ### The edge -/

/-- The state once the mark of the boundary is judged. -/
def lapMarked (mark : Bool) (m : LapMeasure) (s : State) : State := boundaryMark mark (!s.cad.markErrLap) (lapBegun m s)

/-- The state once the roles are taken back. -/
def rolesBack (mark : Bool) (m : LapMeasure) (s : State) : State := takeBack (lapMarked mark m s)

/-- The state in tick 00000 of the new lap in which an activation is evaluated. -/
def lapEdge (mark : Bool) (m : LapMeasure) (s : State) : State := sameEdge (rolesBack mark m s)

section
variable (mark : Bool) (m : LapMeasure) (s : State)

theorem lapMarked_frame : ∃ p t mg o ps es em h d u,
    lapMarked mark m s = { s with
      cad := markedCad mark (!s.cad.markErrLap) s.nextCad, pwr := p, thm := t, acc := { held := s.hold.hold }
      mgmt := mg, out := o, ports := ps, evtSeen := es, evtMsg := em, hbms := h, ddrs := d, upset := u, live := []
      latched := (scrubLap s).live } ∧
      p.leaseLeft = s.pwr.leaseLeft ∧ t.trip = s.thm.trip ∧
      (s.ctl = true → p = (calibrate m s).pwr ∧ t = (ceilings s.cad.lap s).thm) := by
  obtain ⟨p, t, o, h, d, u, hbegun, ⟨hleft, -⟩, htrip, -, hctl⟩ := lapBegun_frame m s
  obtain ⟨_, _, _, _, _, hmark⟩ := boundaryMark_frame mark (!s.cad.markErrLap) (lapBegun m s)
  have hmarked : lapMarked mark m s = _ := hmark
  rw [hbegun] at hmarked
  dsimp only at hmarked
  exact ⟨p, t, _, _, _, _, _, h, d, u, hmarked, hleft, htrip, hctl⟩

theorem lapMarked_ctl : (lapMarked mark m s).ctl = s.ctl := by
  obtain ⟨_, _, _, _, _, _, _, _, _, _, hmarked, -⟩ := lapMarked_frame mark m s
  rw [hmarked]
  show (decide (s.boot.supply = .on) && !s.nextCad.stopped && s.fwUp && !s.lodge.pairLost) = s.ctl
  rw [nextCad_stopped]
  rfl

theorem rolesBack_frame : ∃ p t l mg o ps es em h d u,
    rolesBack mark m s = { s with
      cad := markedCad mark (!s.cad.markErrLap) s.nextCad, pwr := p, thm := t, acc := { held := s.hold.hold }, lodge := l
      mgmt := mg, out := o, ports := ps, evtSeen := es, evtMsg := em, hbms := h, ddrs := d, upset := u, live := []
      latched := (scrubLap s).live } ∧
      l.pairLost = s.lodge.pairLost ∧ p.leaseLeft = s.pwr.leaseLeft ∧ t.trip = s.thm.trip ∧
      (s.ctl = true → p = (calibrate m s).pwr ∧ t = (ceilings s.cad.lap s).thm) := by
  obtain ⟨p, t, _, _, ps, es, em, h, d, u, hmarked, hfacts⟩ := lapMarked_frame mark m s
  obtain ⟨l, mg, o, hback, -, hlost⟩ := takeBack_frame (lapMarked mark m s)
  have hback : rolesBack mark m s = _ := hback
  rw [hmarked] at hback hlost
  dsimp only at hback
  exact ⟨p, t, l, mg, o, ps, es, em, h, d, u, hback, hlost, hfacts⟩

theorem rolesBack_timed : (rolesBack mark m s).timed = s.timed := by
  obtain ⟨_, _, _, _, _, _, _, _, _, _, _, hback, -⟩ := rolesBack_frame mark m s
  rw [hback]
  show (decide (s.boot.supply = .on) && !s.nextCad.stopped && s.nextCad.aligned) = s.timed
  rw [nextCad_stopped, nextCad_aligned]
  rfl

theorem rolesBack_ctl : (rolesBack mark m s).ctl = s.ctl := by
  obtain ⟨_, _, l, _, _, _, _, _, _, _, _, hback, hlost, -⟩ := rolesBack_frame mark m s
  rw [hback]
  show (decide (s.boot.supply = .on) && !s.nextCad.stopped && s.fwUp && !l.pairLost) = s.ctl
  rw [nextCad_stopped, hlost]
  rfl

/-- All that the edge changes, and what the control units make of the ended lap. -/
theorem lapEdge_frame (ht : s.timed = true) : ∃ p t l mg o ps es em h d u,
    lapEdge mark m s = { s with
      cad := markedCad mark (!s.cad.markErrLap) s.nextCad, pwr := p, thm := t, acc := { held := s.hold.hold }, lodge := l
      mgmt := mg, out := o, ports := ps, evtSeen := es, evtMsg := em, hbms := h, ddrs := d, upset := u, live := []
      latched := (scrubLap s).live } ∧
      l.pairLost = s.lodge.pairLost ∧ t.trip = s.thm.trip ∧
      (s.ctl = true → p = { s with pwr := (calibrate m s).pwr, thm := t : State }.edgePwr ∧ t = (ceilings s.cad.lap s).thm) := by
  obtain ⟨p, t, l, _, _, _, _, _, h, d, u, hback, hlost, -, htrip, hctl⟩ := rolesBack_frame mark m s
  obtain ⟨p', mg, o, ps, es, em, hedge, hpwr⟩ := sameEdge_frame (rolesBack mark m s)
  have hedge : lapEdge mark m s = _ := hedge
  rw [rolesBack_timed, rolesBack_ctl] at hpwr
  rw [hback] at hedge hpwr
  dsimp only at hedge
  refine ⟨p', t, l, mg, o, ps, es, em, h, d, u, hedge, hlost, htrip, fun hc => ?_⟩
  obtain ⟨rfl, rfl⟩ := hctl hc
  exact ⟨hpwr ht hc, rfl⟩

theorem lapEdge_announced : Announced 27 (lapBegun m s) (lapEdge mark m s) :=
  ((boundaryMark_announced mark _ _).trans (takeBack_announced _)).trans (sameEdge_announced _)

/-- The odometer counts the lap, and no activation (R370). -/
theorem lapEdge_odo : (lapEdge mark m s).mgmt.odo.powered = s.mgmt.odo.powered + 1 ∧
    (lapEdge mark m s).mgmt.odo.activations = s.mgmt.odo.activations ∧ (lapEdge mark m s).mgmt.odoRead = s.mgmt.odoRead := by
  obtain ⟨_, _, _, _, _, _, hbegun, -, -, ⟨hpow, hact⟩, -⟩ := lapBegun_frame m s
  obtain ⟨⟨hodo, hread⟩, -⟩ := lapEdge_announced mark m s
  rw [hodo, hread, hbegun]
  exact ⟨hpow, hact, rfl⟩

theorem lapEdge_port (p : Port) :
    (lapEdge mark m s).port p = { s.port p with evtDue := ((lapEdge mark m s).port p).evtDue } := by
  obtain ⟨_, _, _, _, _, _, hbegun, -⟩ := lapBegun_frame m s
  obtain ⟨-, hport, -⟩ := lapEdge_announced mark m s
  have hp := hport p
  rw [hbegun] at hp
  exact hp

/-- The lease that lapses at the edge leaves its event there (R276). -/
theorem lapEdge_event (ht : s.timed = true) (hc : s.ctl = true) (h : s.pwr.leaseLeft = 1) (hz : s.mgmt.lostRun = 0)
    (hn : s.mgmt.events.length ≤ 200) : ∃ e ∈ (lapEdge mark m s).mgmt.events, e.type = 0x0006 ∧ e.stamp = (lapEdge mark m s).now := by
  obtain ⟨_, _, _, _, _, _, hbegun, -⟩ := lapBegun_frame m s
  obtain ⟨_, _, _, _, _, _, _, _, _, _, _, hback, -, hleft, -⟩ := rolesBack_frame mark m s
  obtain ⟨_, _, _, _, _, _, hedge, -⟩ := sameEdge_frame (rolesBack mark m s)
  obtain ⟨-, -, -, hroom⟩ : Announced 10 (lapBegun m s) (rolesBack mark m s) :=
    (boundaryMark_announced mark _ _).trans (takeBack_announced _)
  have hlength : (lapBegun m s).mgmt.events.length = s.mgmt.events.length := by rw [hbegun]
  obtain ⟨hz', hn'⟩ := hroom (by rw [hbegun]; exact hz) (by omega)
  have hnow : (lapEdge mark m s).now = (rolesBack mark m s).now := by
    rw [lapEdge, hedge]
    rfl
  rw [hnow]
  refine sameEdge_event _ ?_ ?_ ?_ hz' (by omega)
  · rw [rolesBack_timed, ht]
  · rw [rolesBack_ctl, hc]
  · rw [hback]
    exact hleft.trans h

/-- A role stays in gatehouse 1 over the edge only where the unit of gatehouse 0 is out of step (R375). -/
theorem lapEdge_active (q : Nat) (hq : q ≤ 1) (hc : s.ctl = true) :
    (lapEdge mark m s).active q = (s.active q && !(s.unit (unitIx q false)).inStep) := by
  obtain ⟨_, _, _, _, _, _, _, _, _, _, hmarked, -⟩ := lapMarked_frame mark m s
  obtain ⟨_, _, _, _, _, _, hedge, -⟩ := sameEdge_frame (rolesBack mark m s)
  have hsame : (lapEdge mark m s).active q = (rolesBack mark m s).active q := by
    rw [lapEdge, hedge]
    rfl
  rw [hsame, rolesBack, takeBack_active _ q hq ((lapMarked_ctl mark m s).trans hc), hmarked]
  rfl

end

end Sys2Proof.Machine
end

section
/-! SUPPORT. The rest of tick 00000: the ports' laps, the hold, the resets of allotments that waited for the boundary, and the end of
draining (02_cadence, 14_firmware). -/

namespace Sys2Proof.Machine

/-! ### Folds over numbered entries -/

/-- Every number of the list reads as what the change makes of it, and it stays so. -/
theorem sget_foldl_smod_mem {α : Type} [DecidableEq α] (d : α) (P : α → Prop) (f : α → α) (hf : ∀ x, P (f x)) (l : List Nat)
    (m : Sparse α) (j : Nat) (h : j ∈ l ∨ P (sget d m j)) : P (sget d (l.foldl (fun m k => smod d m k f) m) j) := by
  induction l generalizing m with
  | nil => exact h.resolve_left (by simp)
  | cons k l ih =>
    refine ih _ ?_
    rw [Laws.sget_smod]
    by_cases hj : j = k
    · exact Or.inr (by rw [if_pos hj]; exact hf _)
    · rw [if_neg hj]
      exact h.imp_left fun hmem => (List.mem_cons.mp hmem).resolve_left hj

/-- What the change keeps holds of every entry afterwards as before. -/
theorem sget_foldl_smod_keeps {α : Type} [DecidableEq α] (d : α) (P : α → Prop) (f : α → α) (hf : ∀ x, P x → P (f x)) (l : List Nat)
    (m : Sparse α) (j : Nat) (h : P (sget d m j)) : P (sget d (l.foldl (fun m k => smod d m k f) m) j) := by
  induction l generalizing m with
  | nil => exact h
  | cons k l ih =>
    refine ih _ ?_
    rw [Laws.sget_smod]
    split
    next hj => exact hf _ (hj ▸ h)
    next => exact h

/-- An entry that is listed, and that the change does not make the default. -/
theorem sget_smapD_of_ne {α : Type} [DecidableEq α] (d : α) (f : α → α) (m : Sparse α) (k : Nat) (v : α) (hv : sfind m k = some v)
    (hf : f v ≠ d) : sget d (smapD d f m) k = f v := by
  suffices h : sfind (smapD d f m) k = some (f v) by rw [sget, h]; rfl
  unfold smapD smap
  induction m with
  | nil => simp [sfind] at hv
  | cons e m ih =>
    obtain ⟨j, w⟩ := e
    rw [List.map_cons, List.filter_cons]
    by_cases hj : j = k
    · have hw : w = v := by simpa [sfind, hj] using hv
      rw [if_pos (by simpa [hw] using hf), sfind, if_pos hj, hw]
    · have hv' : sfind m k = some v := by simpa [sfind, hj] using hv
      split
      · rw [sfind, if_neg hj, ih hv']
      · exact ih hv'

/-- A fold that reaches an entry for which it establishes a fact that every later step keeps. -/
theorem foldl_establishes {α β : Type} (f : α → β → α) (P Q : α → Prop) (n : β) (hQ : ∀ a b, b ≠ n → Q a → Q (f a b))
    (hn : ∀ a, Q a → P (f a n)) (hP : ∀ a b, P a → P (f a b)) (l : List β) (hl : n ∈ l) (a : α) (ha : Q a) : P (l.foldl f a) := by
  have hkeep : ∀ (l : List β) (a : α), P a → P (l.foldl f a) := fun l => by
    induction l with
    | nil => exact fun a h => h
    | cons b l ih => exact fun a h => ih (f a b) (hP a b h)
  induction l generalizing a with
  | nil => simp at hl
  | cons b l ih =>
    by_cases hb : b = n
    · subst hb
      exact hkeep l _ (hn a ha)
    · exact ih ((List.mem_cons.mp hl).resolve_left (Ne.symm hb)) (f a b) (hQ a b hb ha)

theorem mem_setBits {w : Nat} (x : BitVec w) (i : Nat) (hi : i < w) (h : x.getLsbD i = true) : i ∈ setBits x :=
  List.mem_filter.mpr ⟨List.mem_range.mpr hi, h⟩

/-! ### Zeroed scratchpads (R99) -/

theorem sget_zeroCells (m : List Host.Cell) (a n x : Nat) : sget 0 (zeroCells m a n) x = if a ≤ x ∧ x < a + n then 0 else sget 0 m x := by
  unfold zeroCells sget
  rw [Laws.sfind_filter (fun k => !(decide (a ≤ k) && decide (k < a + n)))]
  by_cases h : a ≤ x ∧ x < a + n
  · simp [h]
  · rw [if_pos (by simp; omega), if_neg h]

/-- The scratchpads of groups with their bytes zeroed. -/
def zeroGroups (l : List Nat) (m : List Host.Cell) : List Host.Cell := l.foldl (fun m g => zeroCells m (g * 2 ^ 26) (2 ^ 26)) m

theorem zeroGroups_keeps (l : List Nat) (m : List Host.Cell) (x : Nat) (h : sget 0 m x = 0) : sget 0 (zeroGroups l m) x = 0 := by
  unfold zeroGroups
  induction l generalizing m with
  | nil => exact h
  | cons g l ih =>
    refine ih _ ?_
    rw [sget_zeroCells, h, ite_self]

theorem zeroGroups_zero (l : List Nat) (m : List Host.Cell) (g i : Nat) (hg : g ∈ l) (hi : i < 2 ^ 26) :
    sget 0 (zeroGroups l m) (g * 2 ^ 26 + i) = 0 := by
  induction l generalizing m with
  | nil => simp at hg
  | cons k l ih =>
    rcases List.mem_cons.mp hg with rfl | hg
    · refine zeroGroups_keeps l _ _ ?_
      rw [sget_zeroCells, if_pos ⟨Nat.le_add_right _ _, Nat.add_lt_add_left hi _⟩]
    · exact ih _ hg

/-! ### The reset of an allotment at its boundary (R395) -/

/-- A turnstile that is idle: what its owner linked it to stays. -/
def TrnSt.idle (x : TrnSt) : TrnSt := { owner := x.owner, link := x.link, plan := x.plan, seg := x.seg }

/-- A turnstile after the reset of an allotment's turnstiles. -/
def TrnSt.resetFor (n : Nat) (x : TrnSt) : TrnSt := if x.owner = some (BitVec.ofNat 4 n) then x.idle else x

/-- An allotment whose reset has reached the boundary. -/
def AllotSt.restarted (lap : BitVec 40) (a : AllotSt) : AllotSt :=
  { a with shadow := none, stopped := false, faulted := false, plans := [], tiles := [], restLap := some lap, reset := .zeroing }

def MoverSt.restarted (x : MoverSt) : MoverSt := { x with stopped := false }

/-- An array with its slots and lane registers zeroed, and then with nothing to issue. -/
def ArrSt.zeroed (a : ArrSt) : ArrSt := { a with lanes := [], full0 := false, full1 := false }
def ArrSt.emptied (a : ArrSt) : ArrSt := { a with issues := [], flights := [], usesLeft := 0, released := false }

/-- An array that issues nothing and has nothing on its way. -/
def ArrSt.quiet (a : ArrSt) : Prop := a.flights = [] ∧ a.issues = []

theorem foldl_zeroGroup (l : List Nat) (s : State) : ∃ u, l.foldl (fun s g => zeroGroup g s) s =
    { s with scr := zeroGroups l s.scr, upset := u } := by
  induction l generalizing s with
  | nil => exact ⟨_, rfl⟩
  | cons g l ih =>
    obtain ⟨u, h⟩ := ih (zeroGroup g s)
    exact ⟨u, h⟩

theorem foldl_zeroArray (l : List Nat) (s : State) : ∃ u w, l.foldl (fun s x => zeroArray x s) s =
    { s with upset := u, wslots := w, arrays := l.foldl (fun m x => smod {} m x ArrSt.zeroed) s.arrays } := by
  induction l generalizing s with
  | nil => exact ⟨_, _, rfl⟩
  | cons x l ih =>
    obtain ⟨u, w, h⟩ := ih (zeroArray x s)
    exact ⟨u, w, h⟩

theorem foldl_zeroStage (l : List StagingBuf) (s : State) : ∃ u g,
    l.foldl (fun s b => zeroStage b.pool.toNat b.addr.toNat b.bytes s) s = { s with upset := u, stage := g } := by
  induction l generalizing s with
  | nil => exact ⟨_, _, rfl⟩
  | cons b l ih =>
    obtain ⟨u, g, h⟩ := ih (zeroStage b.pool.toNat b.addr.toNat b.bytes s)
    exact ⟨u, g, h⟩

theorem foldl_modMover (f : MoverSt → MoverSt) (l : List Nat) (s : State) :
    l.foldl (fun s m => s.modMover m f) s = { s with movers := l.foldl (fun m k => smod {} m k f) s.movers } := by
  induction l generalizing s with
  | nil => rfl
  | cons m l ih => exact ih (s.modMover m f)

theorem foldl_modArr (f : ArrSt → ArrSt) (l : List Nat) (s : State) :
    l.foldl (fun s x => s.modArr x f) s = { s with arrays := l.foldl (fun m k => smod {} m k f) s.arrays } := by
  induction l generalizing s with
  | nil => rfl
  | cons x l ih => exact ih (s.modArr x f)

theorem zeroAllot_frame (a : AllotSt) (s : State) : ∃ u w g, zeroAllot a s = { s with
    scr := zeroGroups (setBits a.groups) s.scr, upset := u, wslots := w, stage := g
    arrays := a.arrayIxs.foldl (fun m x => smod {} m x ArrSt.zeroed) s.arrays
    zeroing := s.zeroing ++ a.banks.filter (fun b => !s.zeroing.contains b) } := by
  obtain ⟨_, hgroups⟩ := foldl_zeroGroup (setBits a.groups) s
  obtain ⟨_, _, harrays⟩ := foldl_zeroArray a.arrayIxs ((setBits a.groups).foldl (fun s g => zeroGroup g s) s)
  obtain ⟨_, _, hstage⟩ := foldl_zeroStage (State.pools (a.arrayIxs.foldl (fun s x => zeroArray x s)
    ((setBits a.groups).foldl (fun s g => zeroGroup g s) s)) a)
    (a.arrayIxs.foldl (fun s x => zeroArray x s) ((setBits a.groups).foldl (fun s g => zeroGroup g s) s))
  dsimp only [zeroAllot]
  rw [hstage, harrays, hgroups]
  exact ⟨_, _, _, rfl⟩

theorem allotBoundary_due (n : Nat) (s : State) (a : AllotSt) (h : s.allot n = some a) (hr : a.reset = .boundary) : ∃ u w g c,
    allotBoundary n s = { s with
      scr := zeroGroups (setBits a.groups) s.scr, upset := u, wslots := w, stage := g, chunkCrcs := c
      arrays := a.arrayIxs.foldl (fun m x => smod {} m x ArrSt.emptied)
        (a.arrayIxs.foldl (fun m x => smod {} m x ArrSt.zeroed) s.arrays)
      zeroing := s.zeroing ++ a.banks.filter (fun b => !s.zeroing.contains b)
      trns := smapD {} (TrnSt.resetFor n) s.trns
      movers := a.movers.foldl (fun m k => smod {} m k MoverSt.restarted) s.movers
      allots := sadj s.allots n (AllotSt.restarted s.cad.lap) } := by
  obtain ⟨_, _, _, hzero⟩ := zeroAllot_frame a s
  unfold allotBoundary
  rw [h]
  dsimp only
  rw [if_pos hr, foldl_modMover, foldl_modArr, hzero]
  exact ⟨_, _, _, _, rfl⟩

theorem allotBoundary_still (n : Nat) (s : State) (h : ∀ a, s.allot n = some a → a.reset ≠ .boundary) : allotBoundary n s = s := by
  unfold allotBoundary
  split
  next => rfl
  next a ha => exact if_neg (h a ha)

theorem allotBoundary_cases (b : Nat) (s : State) : allotBoundary b s = s ∨ ∃ a, s.allot b = some a ∧ a.reset = .boundary := by
  by_cases h : ∀ a, s.allot b = some a → a.reset ≠ .boundary
  · exact Or.inl (allotBoundary_still b s h)
  · exact Or.inr (by simpa using h)

/-- The reset of allotment n waits for the boundary; its turnstiles are as they were or idle already. -/
structure RestartDue (n : Nat) (a : AllotSt) (lap : BitVec 40) (trns : Nat → TrnSt) (s : State) : Prop where
  lap : s.cad.lap = lap
  allot : s.allot n = some a
  trns : ∀ k, (trns k).owner = some (BitVec.ofNat 4 n) → s.trn k = trns k ∨ s.trn k = (trns k).idle

/-- Allotment n is restarted: its scratchpads hold zeros, its banks report it, its movers, arrays and turnstiles are idle. -/
structure Restarted (n : Nat) (a : AllotSt) (lap : BitVec 40) (trns : Nat → TrnSt) (s : State) : Prop where
  allot : s.allot n = some (a.restarted lap)
  zero : ∀ g i : Nat, g ∈ setBits a.groups → i < 2 ^ 26 → s.byte 1 (g * 2 ^ 26 + i) = 0
  banks : ∀ b ∈ a.banks, b ∈ s.zeroing
  movers : ∀ m ∈ a.movers, (s.mover m).stopped = false
  arrays : ∀ x ∈ a.arrayIxs, (s.arr x).quiet
  trns : ∀ k, (trns k).owner = some (BitVec.ofNat 4 n) → s.trn k = (trns k).idle

theorem resetFor_trn (n k : Nat) (s : State) (h : (s.trn k).owner ≠ none) :
    sget {} (smapD {} (TrnSt.resetFor n) s.trns) k = (s.trn k).resetFor n := by
  have howner : (TrnSt.resetFor n (s.trn k)).owner = (s.trn k).owner := by
    unfold TrnSt.resetFor
    split <;> rfl
  unfold State.trn sget at *
  cases hv : sfind s.trns k with
  | none =>
    rw [hv] at h
    exact absurd rfl h
  | some v =>
    rw [hv] at h howner
    refine sget_smapD_of_ne {} _ _ k v hv fun hd => h ?_
    rw [← howner, Option.getD_some, hd]

theorem TrnSt.resetFor_idle (n : Nat) (x : TrnSt) : x.idle.resetFor n = x.idle := ite_self _

/-- A turnstile that has an owner is as it was or idle after a boundary. -/
theorem allotBoundary_trn (b k : Nat) (s : State) (v : TrnSt) (hv : v.owner ≠ none) (h : s.trn k = v ∨ s.trn k = v.idle) :
    (allotBoundary b s).trn k = v ∨ (allotBoundary b s).trn k = v.idle := by
  rcases allotBoundary_cases b s with hb | ⟨a, ha, hr⟩
  · rw [hb]
    exact h
  · obtain ⟨_, _, _, _, hframe⟩ := allotBoundary_due b s a ha hr
    have hread : (allotBoundary b s).trn k = (s.trn k).resetFor b := by
      rw [hframe]
      exact resetFor_trn b k s (by rcases h with h | h <;> rw [h] <;> exact hv)
    rw [hread]
    rcases h with h | h
    · rw [h]
      unfold TrnSt.resetFor
      split
      · exact Or.inr rfl
      · exact Or.inl rfl
    · rw [h, TrnSt.resetFor_idle]
      exact Or.inr rfl

theorem allotBoundary_allot (b n : Nat) (s : State) (h : n ≠ b) : (allotBoundary b s).allot n = s.allot n := by
  rcases allotBoundary_cases b s with hb | ⟨a, ha, hr⟩
  · rw [hb]
  · obtain ⟨_, _, _, _, hframe⟩ := allotBoundary_due b s a ha hr
    rw [hframe]
    exact (Laws.sfind_sadj s.allots b n _).trans (if_neg h)

theorem allotBoundary_lap (b : Nat) (s : State) : (allotBoundary b s).cad = s.cad := by
  rcases allotBoundary_cases b s with hb | ⟨a, ha, hr⟩
  · rw [hb]
  · obtain ⟨_, _, _, _, hframe⟩ := allotBoundary_due b s a ha hr
    rw [hframe]

section
variable {n : Nat} {a : AllotSt} {lap : BitVec 40} {trns : Nat → TrnSt} {s : State}

theorem RestartDue.keep (b : Nat) (hb : b ≠ n) (h : RestartDue n a lap trns s) : RestartDue n a lap trns (allotBoundary b s) where
  lap := (congrArg Cad.lap (allotBoundary_lap b s)).trans h.lap
  allot := (allotBoundary_allot b n s hb.symm).trans h.allot
  trns := fun k hk => allotBoundary_trn b k s (trns k) (by rw [hk]; simp) (h.trns k hk)

theorem RestartDue.restart (hr : a.reset = .boundary) (h : RestartDue n a lap trns s) :
    Restarted n a lap trns (allotBoundary n s) := by
  obtain ⟨_, _, _, _, hframe⟩ := allotBoundary_due n s a h.allot hr
  rw [hframe]
  refine ⟨?_, fun g i hg hi => zeroGroups_zero _ _ g i hg hi, fun b hb => ?_, fun m hm => ?_, fun x hx => ?_, fun k hk => ?_⟩
  · refine (Laws.sfind_sadj s.allots n n _).trans ?_
    rw [if_pos rfl, h.lap]
    exact congrArg (Option.map _) h.allot
  · rw [List.mem_append, List.mem_filter]
    by_cases hz : b ∈ s.zeroing
    · exact Or.inl hz
    · exact Or.inr ⟨hb, by simpa using hz⟩
  · exact sget_foldl_smod_mem {} (fun x => x.stopped = false) MoverSt.restarted (fun _ => rfl) _ _ m (Or.inl hm)
  · exact sget_foldl_smod_mem {} ArrSt.quiet ArrSt.emptied (fun _ => ⟨rfl, rfl⟩) _ _ x (Or.inl hx)
  · have howner : (s.trn k).owner = some (BitVec.ofNat 4 n) := by
      rcases h.trns k hk with h | h <;> (rw [h]; exact hk)
    refine (resetFor_trn n k s (by rw [howner]; simp)).trans ((if_pos howner).trans ?_)
    rcases h.trns k hk with h | h
    · rw [h]
    · rw [h]
      rfl

theorem Restarted.keep (b : Nat) (h : Restarted n a lap trns s) : Restarted n a lap trns (allotBoundary b s) := by
  rcases allotBoundary_cases b s with hb | ⟨a', ha, hr⟩
  · rw [hb]
    exact h
  · have hbn : n ≠ b := by
      rintro rfl
      rw [h.allot] at ha
      cases ha
      cases hr
    have hallot := allotBoundary_allot b n s hbn
    obtain ⟨_, _, _, _, hframe⟩ := allotBoundary_due b s a' ha hr
    rw [hframe] at hallot ⊢
    refine ⟨hallot.trans h.allot, fun g i hg hi => zeroGroups_keeps _ _ _ (h.zero g i hg hi),
      fun c hc => List.mem_append_left _ (h.banks c hc), fun m hm => ?_, fun x hx => ?_, fun k hk => ?_⟩
    · exact sget_foldl_smod_keeps {} (fun x => x.stopped = false) MoverSt.restarted (fun _ _ => rfl) _ _ m (h.movers m hm)
    · exact sget_foldl_smod_keeps {} ArrSt.quiet ArrSt.emptied (fun _ _ => ⟨rfl, rfl⟩) _ _ x
        (sget_foldl_smod_keeps ({} : ArrSt) ArrSt.quiet ArrSt.zeroed (fun _ h => h) _ _ x (h.arrays x hx))
    · have htrn := h.trns k hk
      refine (resetFor_trn b k s (by rw [htrn]; exact fun h => by simp [TrnSt.idle, hk] at h)).trans ?_
      rw [htrn, TrnSt.resetFor_idle]

end

/-- What the boundary does for every allotment that waits for it. -/
def restartAll (s : State) : State := s.allotNums.foldl (fun s n => allotBoundary n s) s

theorem mem_allotNums (s : State) (n : Nat) (a : AllotSt) (h : s.allot n = some a) : n ∈ s.allotNums :=
  List.mem_map.mpr ⟨_, Laws.mem_of_sfind s.allots n a h, rfl⟩

theorem restartAll_due (s : State) (n : Nat) (a : AllotSt) (h : s.allot n = some a) (hr : a.reset = .boundary) :
    Restarted n a s.cad.lap s.trn (restartAll s) :=
  foldl_establishes _ (Restarted n a s.cad.lap s.trn) (RestartDue n a s.cad.lap s.trn) n (fun _ b hb hq => hq.keep b hb)
    (fun _ hq => hq.restart hr) (fun _ b hp => hp.keep b) _ (mem_allotNums s n a h) s ⟨rfl, h, fun _ _ => Or.inl rfl⟩

/-- An allotment whose reset does not wait for the boundary is as it was. -/
theorem restartAll_still (s : State) (n : Nat) (a : AllotSt) (h : s.allot n = some a) (hr : a.reset ≠ .boundary) :
    (restartAll s).allot n = some a := by
  unfold restartAll
  refine List.foldlRecOn (motive := fun t : State => t.allot n = some a) s.allotNums _ h fun t ht b _ => ?_
  by_cases hb : n = b
  · subst hb
    rw [allotBoundary_still n t fun a' ha => by rw [ht] at ha; cases ha; exact hr]
    exact ht
  · exact (allotBoundary_allot b n t hb).trans ht

theorem restartAll_frame (s : State) : ∃ c u w g k r z t m al, restartAll s =
    { s with scr := c, upset := u, wslots := w, stage := g, chunkCrcs := k, arrays := r, zeroing := z, trns := t, movers := m
             allots := al } := by
  unfold restartAll
  refine List.foldlRecOn (motive := fun v : State => ∃ c u w g k r z t m al, v =
    { s with scr := c, upset := u, wslots := w, stage := g, chunkCrcs := k, arrays := r, zeroing := z, trns := t, movers := m
             allots := al }) s.allotNums _ ⟨_, _, _, _, _, _, _, _, _, _, rfl⟩ fun v hv b _ => ?_
  rcases allotBoundary_cases b v with hb | ⟨a, ha, hr⟩
  · rw [hb]
    exact hv
  · obtain ⟨_, _, _, _, hframe⟩ := allotBoundary_due b v a ha hr
    obtain ⟨_, _, _, _, _, _, _, _, _, _, rfl⟩ := hv
    rw [hframe]
    exact ⟨_, _, _, _, _, _, _, _, _, _, rfl⟩

/-! ### The rest of tick 00000 -/

/-- The ports' laps, the spokes' failed laps and the end of a hold, before the allotments' resets. -/
def lapOpened (s : State) : State :=
  holdStep { ((s.modPort 0 downStep).modPort 1 downStep) with spokes := smapD {} (fun x => { x with authLap := 0 }) s.spokes }

theorem holdStep_frame (s : State) : holdStep s = { s with
    hold := { s.hold with h := if s.hold.hold = false ∧ s.hold.lapEnd.toNat ≤ s.now.toNat then 0 else s.hold.h } } := by
  unfold holdStep
  by_cases h : s.hold.hold = false ∧ s.hold.lapEnd.toNat ≤ s.now.toNat
  · rw [if_pos (by simpa using h), if_pos h]
  · rw [if_neg (by simpa using h), if_neg h]

theorem lapOpened_frame (s : State) : lapOpened s = { ((s.modPort 0 downStep).modPort 1 downStep) with
    spokes := smapD {} (fun x => { x with authLap := 0 }) s.spokes
    hold := { s.hold with h := if s.hold.hold = false ∧ s.hold.lapEnd.toNat ≤ s.now.toNat then 0 else s.hold.h } } :=
  holdStep_frame _

theorem drainEnd_eq (s : State) : drainEnd s = { s with rte := { s.rte with draining := false } } := by
  unfold drainEnd
  by_cases h : s.rte.draining = true
  · rw [if_pos h]
  · rw [if_neg h, ← (Bool.eq_false_iff.mpr h : s.rte.draining = false)]

/-- A new lap that no strobe is due in opens with the ports, the hold, the allotments and the end of draining. -/
theorem openLap_notDue (s : State) (h : ∀ g : Sgrp, (s.strobe g.val).due = false) :
    openLap s = { restartAll (lapOpened s) with rte := { s.rte with draining := false } } := by
  obtain ⟨_, _, _, _, _, _, _, _, _, _, hall⟩ := restartAll_frame (lapOpened s)
  have hopen : openLap s = beginCycle (drainEnd (restartAll (lapOpened s))) := rfl
  rw [hopen, beginCycle_notDue, drainEnd_eq, hall, lapOpened_frame]
  · rfl
  · intro g
    rw [drainEnd_eq, hall, lapOpened_frame]
    exact h g

end Sys2Proof.Machine
end

section
/-! SUPPORT. What the control units make of an ended lap: the calibration, the diodes, the ceilings and the thresholds
(10_power_and_cooling). -/

namespace Sys2Proof.Machine

/-! ### Calibration (R288, R278) -/

/-- The power state after the calibration of a lap with power samples. -/
theorem calibrate_sampled (m : LapMeasure) (s : State) (h : s.acc.n ≠ 0) :
    let meas : Rat := meanOf s.acc.sVI s.acc.n / 1000000
    let raw : Rat := (m.eRaw : Rat) / 1000
    let near : Bool := decide (|s.pwr.k * raw - meas| ≤ 15 / 100 * meas)
    let pGov : Rat := if near then meas else max meas (s.pwr.k * raw)
    let p := (calibrate m s).pwr
    (p.powerL = meas ∧ p.estL = s.pwr.k * raw) ∧
      p.k = (if near then s.pwr.k + ((if m.eRaw = 0 then Config.ratioOpen meas else meas / raw) - s.pwr.k) / 8 else s.pwr.k) ∧
      p.calFlag = (!near || decide (102 / 100 * meas < meanOf s.acc.sRails s.acc.n / 1000000)) ∧
      p.history = (pGov :: s.pwr.history).take 64 ∧
      p.basis = if s.acc.held || s.acc.shifted then s.pwr.basis
        else ⟨pGov, (m.sH : Rat) / 1000, if s.gear.gear = 0 then s.pwr.basis.gear else s.gear.gear,
          ((s.acc.lvlSum + s.pwr.brake * (65536 - s.acc.lvlFrom) : Nat) : Rat) / 65536⟩ := by
  have hcal : calibrate m s = _ := if_neg h
  rw [hcal]
  exact ⟨⟨rfl, rfl⟩, rfl, rfl, rfl, rfl⟩

/-! ### Diodes (R291) -/

/-- A diode reads implausible in the lap. -/
def badDiode (a : LapAcc) (t : Thm) (i : Nat) : Bool :=
  implausible (t.failed.getD (i / 16) 0) ((a.sDiode.drop (16 * (i / 16))).take 16) a.sIn a.n (i % 16)

/-- A diode has failed. -/
def Thm.diodeFailed (t : Thm) (i : Nat) : Bool := (t.failed.getD (i / 16) 0).getLsbD (i % 16)

/-- One diode's step of the check, with the thermal state before the check and the one so far. -/
def diodeStep (a : LapAcc) (t u : Thm) (i : Nat) : Thm :=
  if t.diodeFailed i then u
  else if badDiode a t i then
    if 8 ≤ sget 0 t.badLaps i + 1 then
      { u with failed := u.failed.set (i / 16) (u.failed.getD (i / 16) 0 ||| BitVec.twoPow 16 (i % 16)), badLaps := sput 0 u.badLaps i 0 }
    else { u with badLaps := sput 0 u.badLaps i (sget 0 t.badLaps i + 1) }
  else { u with badLaps := sput 0 u.badLaps i 0 }

theorem diodeCheck_eq (a : LapAcc) (t : Thm) (h : a.n ≠ 0) : diodeCheck a t = (List.range 64).foldl (diodeStep a t) t := if_neg h

/-- A failed diode joins the mask of its pavilion, and no other diode is touched. -/
theorem diodeFailed_set (u : Thm) (i j : Nat) (hi : i < 64) (hlen : u.failed.length = 4) (b : Sparse Nat) :
    Thm.diodeFailed { u with
      failed := u.failed.set (j / 16) (u.failed.getD (j / 16) 0 ||| BitVec.twoPow 16 (j % 16)), badLaps := b } i =
      (u.diodeFailed i || decide (i = j)) := by
  unfold Thm.diodeFailed
  by_cases hp : i / 16 = j / 16
  · have hset : (u.failed.set (j / 16) (u.failed.getD (j / 16) 0 ||| BitVec.twoPow 16 (j % 16))).getD (j / 16) 0 =
        u.failed.getD (j / 16) 0 ||| BitVec.twoPow 16 (j % 16) := by
      rw [List.getD_eq_getElem _ _ (by rw [List.length_set]; omega), List.getElem_set_self]
    dsimp only
    rw [hp, hset, BitVec.getLsbD_or, BitVec.getLsbD_twoPow]
    congr 1
    rw [decide_eq_true (Nat.mod_lt j (by decide : 16 > 0)), Bool.true_and, decide_eq_decide]
    omega
  · have hset : (u.failed.set (j / 16) (u.failed.getD (j / 16) 0 ||| BitVec.twoPow 16 (j % 16))).getD (i / 16) 0 =
        u.failed.getD (i / 16) 0 := by
      simp only [List.getD_eq_getElem?_getD, List.getElem?_set_ne (Ne.symm hp)]
    have hne : i ≠ j := fun h => hp (by rw [h])
    dsimp only
    rw [hset, decide_eq_false hne, Bool.or_false]

/-- The step of diode j leaves every other diode as it was. -/
theorem diodeStep_of_ne (a : LapAcc) (t u : Thm) (i j : Nat) (hi : i < 64) (hlen : u.failed.length = 4) (h : j ≠ i) :
    (diodeStep a t u j).failed.length = 4 ∧ (diodeStep a t u j).diodeFailed i = u.diodeFailed i ∧
      sget 0 (diodeStep a t u j).badLaps i = sget 0 u.badLaps i := by
  unfold diodeStep
  split_ifs
  · exact ⟨hlen, rfl, rfl⟩
  · exact ⟨(List.length_set ..).trans hlen, by rw [diodeFailed_set u i j hi hlen, decide_eq_false h.symm, Bool.or_false],
      by rw [Laws.sget_sput, if_neg h.symm]⟩
  · exact ⟨hlen, rfl, by rw [Laws.sget_sput, if_neg h.symm]⟩
  · exact ⟨hlen, rfl, by rw [Laws.sget_sput, if_neg h.symm]⟩

/-- What the check makes of diode i: failed after 8 implausible laps in a row. -/
def DiodeChecked (a : LapAcc) (t : Thm) (i : Nat) (u : Thm) : Prop :=
  u.failed.length = 4 ∧ u.diodeFailed i = (t.diodeFailed i || badDiode a t i && decide (7 ≤ sget 0 t.badLaps i)) ∧
    sget 0 u.badLaps i = if t.diodeFailed i then sget 0 t.badLaps i
      else if badDiode a t i ∧ sget 0 t.badLaps i < 7 then sget 0 t.badLaps i + 1 else 0

/-- A state of the check that has not set diode i without reason, and keeps it where it had failed. -/
def DiodeOpen (a : LapAcc) (t : Thm) (i : Nat) (u : Thm) : Prop :=
  u.failed.length = 4 ∧ (u.diodeFailed i = true → t.diodeFailed i = true ∨ badDiode a t i = true ∧ 7 ≤ sget 0 t.badLaps i) ∧
    (t.diodeFailed i = true → u.diodeFailed i = true ∧ sget 0 u.badLaps i = sget 0 t.badLaps i)

theorem DiodeChecked.open_ {a : LapAcc} {t u : Thm} {i : Nat} (h : DiodeChecked a t i u) : DiodeOpen a t i u := by
  obtain ⟨hlen, hfail, hlaps⟩ := h
  refine ⟨hlen, fun hu => ?_, fun ht => ⟨?_, ?_⟩⟩
  · simpa [hfail] using hu
  · rw [hfail, ht, Bool.true_or]
  · rw [hlaps, if_pos ht]

/-- The step of diode i decides it, whatever came before. -/
theorem DiodeOpen.checked {a : LapAcc} {t u : Thm} {i : Nat} (hi : i < 64) (h : DiodeOpen a t i u) :
    DiodeChecked a t i (diodeStep a t u i) := by
  obtain ⟨hlen, hfail, hkept⟩ := h
  unfold diodeStep DiodeChecked
  by_cases hf : t.diodeFailed i = true
  · obtain ⟨hu, hlaps⟩ := hkept hf
    rw [if_pos hf, if_pos hf, hf, Bool.true_or]
    exact ⟨hlen, hu, hlaps⟩
  · have hf' : t.diodeFailed i = false := Bool.eq_false_iff.mpr hf
    rw [if_neg hf, if_neg hf, hf', Bool.false_or]
    by_cases hbad : badDiode a t i = true
    · rw [if_pos hbad, hbad, Bool.true_and]
      by_cases hlaps : 8 ≤ sget 0 t.badLaps i + 1
      · rw [if_pos hlaps, if_neg (by omega), decide_eq_true (by omega)]
        exact ⟨(List.length_set ..).trans hlen, by rw [diodeFailed_set u i i hi hlen, decide_eq_true rfl, Bool.or_true],
          by rw [Laws.sget_sput, if_pos rfl]⟩
      · rw [if_neg hlaps, if_pos ⟨rfl, by omega⟩, decide_eq_false (by omega)]
        refine ⟨hlen, Bool.eq_false_iff.mpr fun hu => ?_, by rw [Laws.sget_sput, if_pos rfl]⟩
        rcases hfail hu with h | ⟨-, h⟩
        · exact hf h
        · omega
    · rw [if_neg hbad, if_neg fun h => hbad h.1, Bool.eq_false_iff.mpr hbad, Bool.false_and]
      refine ⟨hlen, Bool.eq_false_iff.mpr fun hu => ?_, by rw [Laws.sget_sput, if_pos rfl]⟩
      rcases hfail hu with h | ⟨h, -⟩
      · exact hf h
      · exact hbad h

theorem DiodeOpen.keep {a : LapAcc} {t u : Thm} {i : Nat} (hi : i < 64) (j : Nat) (hj : j ≠ i) (h : DiodeOpen a t i u) :
    DiodeOpen a t i (diodeStep a t u j) := by
  obtain ⟨hlen, hfail, hkept⟩ := h
  obtain ⟨hlen', hfail', hlaps'⟩ := diodeStep_of_ne a t u i j hi hlen hj
  exact ⟨hlen', by rwa [hfail'], by rwa [hfail', hlaps']⟩

theorem DiodeChecked.keep {a : LapAcc} {t u : Thm} {i : Nat} (hi : i < 64) (j : Nat) (h : DiodeChecked a t i u) :
    DiodeChecked a t i (diodeStep a t u j) := by
  by_cases hj : j = i
  · rw [hj]
    exact h.open_.checked hi
  · obtain ⟨hlen, hfail, hlaps⟩ := h
    obtain ⟨hlen', hfail', hlaps'⟩ := diodeStep_of_ne a t u i j hi hlen hj
    exact ⟨hlen', hfail'.trans hfail, hlaps'.trans hlaps⟩

/-- The check of a lap decides every diode (R291). -/
theorem diodeCheck_checked (a : LapAcc) (t : Thm) (h : a.n ≠ 0) (hlen : t.failed.length = 4) (i : Nat) (hi : i < 64) :
    DiodeChecked a t i (diodeCheck a t) := by
  rw [diodeCheck_eq a t h]
  exact foldl_establishes (diodeStep a t) (DiodeChecked a t i) (DiodeOpen a t i) i (fun _ j hj hu => hu.keep hi j hj)
    (fun _ hu => hu.checked hi) (fun _ j hu => hu.keep hi j) _ (List.mem_range.mpr hi) t ⟨hlen, Or.inl, fun hf => ⟨hf, rfl⟩⟩

/-! ### Ceilings and thresholds (R277, R294) -/

/-- The thermal state after a lap with samples: the diodes, the two ceilings, the four thresholds and the leak. -/
theorem ceilings_sampled (lap : BitVec 40) (s : State) (h : s.acc.n ≠ 0) :
    let t := (ceilings lap s).thm
    (t.failed = (diodeCheck s.acc s.thm).failed ∧ t.badLaps = (diodeCheck s.acc s.thm).badLaps) ∧
      t.pavCeil = ceilStep s.offered s.gear.gear.toNat lap (s.acc.tpMax.any (fun x => decide (100000 ≤ x)))
        (s.acc.tpMax.all (fun x => decide (x ≤ 92000))) s.thm.pavCeil ∧
      t.hbmCeil = ceilStep s.offered s.gear.gear.toNat lap (s.acc.stkMax.any (fun x => decide (95000 ≤ x)))
        (s.acc.stkMax.all (fun x => decide (x ≤ 88000))) s.thm.hbmCeil ∧
      t.flow60 = bandStep (decide (meanOf s.acc.sFlow s.acc.n < 600)) s.thm.flow60 ∧
      t.flow45 = bandStep (decide (meanOf s.acc.sFlow s.acc.n < 450)) s.thm.flow45 ∧
      t.inlet40 = bandStep (decide (40000 < meanOf s.acc.sIn s.acc.n)) s.thm.inlet40 ∧
      t.inlet45 = bandStep (decide (45000 < meanOf s.acc.sIn s.acc.n)) s.thm.inlet45 ∧
      t.leak = if s.acc.open_ then true else if s.acc.closed then false else s.thm.leak := by
  have hceil : ceilings lap s = _ := if_neg h
  obtain ⟨_, _, hdiodes⟩ := diodeCheck_frame s.acc s.thm
  rw [hceil]
  dsimp only
  rw [hdiodes]
  exact ⟨⟨rfl, rfl⟩, rfl, rfl, rfl, rfl, rfl, rfl, rfl⟩

/-- A temperature ceiling's step (R277): down where the lap was hot and the last step is 4 laps back, up after 256 cool laps. -/
theorem ceilStep_spec (off : List Nat) (g : Nat) (lap : BitVec 40) (hot cool : Bool) (c : TempCeil) :
    let may := ∀ l ∈ c.setAt, l.toNat + 4 ≤ lap.toNat
    let c' := ceilStep off g lap hot cool c
    (hot = true → may → c' = ⟨BitVec.ofNat 3 (min c.gear.toNat (nextBelow off g)), some lap, 0⟩) ∧
      (hot = false → cool = true → c.gear ≠ 5 → 255 ≤ c.okLaps → c' = { c with
        gear := if nextAbove off c.gear.toNat = c.gear.toNat then 5 else BitVec.ofNat 3 (nextAbove off c.gear.toNat), okLaps := 0 }) ∧
      (hot = false → cool = true → c.gear ≠ 5 → c.okLaps < 255 → c' = { c with okLaps := c.okLaps + 1 }) ∧
      ((hot = true ∧ ¬may) ∨ (hot = false ∧ (cool = false ∨ c.gear = 5)) → c' = { c with okLaps := 0 }) := by
  obtain ⟨gear, setAt, ok⟩ := c
  unfold ceilStep
  dsimp only
  refine ⟨fun hh hm => ?_, fun hh hc hg ho => ?_, fun hh hc hg ho => ?_, fun h => ?_⟩
  · rw [if_pos hh]
    cases setAt with
    | none => exact if_pos rfl
    | some l => exact if_pos (decide_eq_true (hm l rfl))
  · rw [if_neg (by rw [hh]; decide), if_pos (by rw [hc, decide_eq_true hg]; rfl), if_pos ho]
  · rw [if_neg (by rw [hh]; decide), if_pos (by rw [hc, decide_eq_true hg]; rfl), if_neg (Nat.not_le.mpr ho)]
  · rcases h with ⟨hh, hm⟩ | ⟨hh, hcg⟩
    · rw [if_pos hh]
      cases setAt with
      | none => exact absurd (fun l hl => by cases hl) hm
      | some l => exact if_neg fun hl => hm fun l' hl' => by cases hl'; exact of_decide_eq_true hl
    · rw [if_neg (by rw [hh]; decide), if_neg]
      rcases hcg with hc | hg
      · rw [hc, Bool.false_and]
        decide
      · rw [hg]
        simp

/-- A threshold's step (R277): on beyond it, off after 256 laps within it. -/
theorem bandStep_spec (beyond : Bool) (b : Band) :
    (beyond = true → bandStep beyond b = ⟨true, 0⟩) ∧
      (beyond = false → b.on = true → 255 ≤ b.okLaps → bandStep beyond b = ⟨false, 0⟩) ∧
      (beyond = false → b.on = true → b.okLaps < 255 → bandStep beyond b = ⟨true, b.okLaps + 1⟩) ∧
      (beyond = false → b.on = false → bandStep beyond b = b) := by
  unfold bandStep
  refine ⟨fun h => if_pos h, fun h hon hok => ?_, fun h hon hok => ?_, fun h hon => ?_⟩
  · rw [if_neg (by rw [h]; decide), if_pos hon, if_pos hok]
  · rw [if_neg (by rw [h]; decide), if_pos hon, if_neg (Nat.not_le.mpr hok)]
  · rw [if_neg (by rw [h]; decide), if_neg (by rw [hon]; decide)]

end Sys2Proof.Machine
end

section
/-! SUPPORT. LAP_BOUNDARY as a whole (02_cadence). -/

namespace Sys2Proof.Machine

/-! ### The command -/

/-- What follows the evaluation of the activation: a module reset, or the rest of tick 00000. -/
def afterActivation (r : State × Bool) : State := if r.2 || !r.1.timed then r.1 else openLap r.1

theorem supply_of_timed (s : State) (h : s.timed = true) : s.boot.supply = .on := by
  rw [State.timed, Bool.and_eq_true, Bool.and_eq_true] at h
  obtain ⟨⟨hon, -⟩, -⟩ := h
  exact of_decide_eq_true hon

theorem counting_of_timed (s : State) (h : s.timed = true) : s.counting = true := by
  rw [State.timed, Bool.and_eq_true, Bool.and_eq_true] at h
  obtain ⟨⟨hon, hrunning⟩, haligned⟩ := h
  rw [State.counting, hon, hrunning, haligned]
  rfl

theorem exec_lapBoundary (mark : Bool) (m : LapMeasure) (s : State) (ht : s.timed = true) (h : s.cad.tick = 65535) :
    exec (.lapBoundary mark m) s = .next (afterActivation (activation (lapEdge mark m s))) := by
  have hcount : (s.counting && decide (s.cad.tick.toNat = 65535)) = true := by
    rw [h, counting_of_timed s ht]
    rfl
  refine congrArg Host.Outcome.next ((if_pos hcount).trans ?_)
  simp only [if_pos ht]
  rfl

theorem lapEdge_timed (mark : Bool) (m : LapMeasure) (s : State) (ht : s.timed = true) : (lapEdge mark m s).timed = true := by
  obtain ⟨_, _, _, _, _, _, _, _, _, _, _, hedge, -⟩ := lapEdge_frame mark m s ht
  rw [hedge]
  show (decide (s.boot.supply = .on) && !s.nextCad.stopped && s.nextCad.aligned) = true
  rw [nextCad_stopped, nextCad_aligned]
  exact ht

theorem lapEdge_strobes (mark : Bool) (m : LapMeasure) (s : State) (ht : s.timed = true) :
    (lapEdge mark m s).strobes = s.strobes := by
  obtain ⟨_, _, _, _, _, _, _, _, _, _, _, hedge, -⟩ := lapEdge_frame mark m s ht
  rw [hedge]

/-- All that the rest of tick 00000 changes. -/
theorem openLap_frame (s : State) (h : ∀ g : Sgrp, (s.strobe g.val).due = false) : ∃ c u w g k r z t mv al sp,
    openLap s = { s with
      ports := ((s.modPort 0 downStep).modPort 1 downStep).ports, spokes := sp
      hold := { s.hold with h := if s.hold.hold = false ∧ s.hold.lapEnd.toNat ≤ s.now.toNat then 0 else s.hold.h }
      rte := { s.rte with draining := false }, scr := c, upset := u, wslots := w, stage := g, chunkCrcs := k, arrays := r
      zeroing := z, trns := t, movers := mv, allots := al } := by
  obtain ⟨_, _, _, _, _, _, _, _, _, _, hall⟩ := restartAll_frame (lapOpened s)
  rw [openLap_notDue s h, hall, lapOpened_frame]
  exact ⟨_, _, _, _, _, _, _, _, _, _, _, rfl⟩

/-! ### The new lap where no activation is armed -/

/-- The state after a boundary with no activation armed. -/
def lapNext (mark : Bool) (m : LapMeasure) (s : State) : State := openLap (lapEdge mark m s)

section
variable (mark : Bool) (m : LapMeasure) (s : State) (ht : s.timed = true) (hdue : ∀ g : Sgrp, (s.strobe g.val).due = false)
include ht

theorem exec_lapBoundary_unarmed (h : s.cad.tick = 65535) (harm : s.upd.armed = none) :
    exec (.lapBoundary mark m) s = .next (lapNext mark m s) := by
  obtain ⟨_, _, _, _, _, _, _, _, _, _, _, hedge, -⟩ := lapEdge_frame mark m s ht
  have harm' : (lapEdge mark m s).upd.armed = none := by rw [hedge]; exact harm
  have hact : activation (lapEdge mark m s) = (lapEdge mark m s, false) := if_neg (by rw [harm']; simp)
  rw [exec_lapBoundary mark m s ht h, hact, afterActivation, lapEdge_timed mark m s ht]
  rfl

include hdue

theorem lapEdge_notDue (g : Sgrp) : ((lapEdge mark m s).strobe g.val).due = false := by
  rw [State.strobe, lapEdge_strobes mark m s ht]
  exact hdue g

/-- All that a boundary changes where no activation is armed, and what the control units make of the ended lap. -/
theorem lapNext_frame : ∃ p t l mg o ps es em h d c u w g k r z tr mv al sp,
    lapNext mark m s = { s with
      cad := markedCad mark (!s.cad.markErrLap) s.nextCad, pwr := p, thm := t, acc := { held := s.hold.hold }, lodge := l
      mgmt := mg, out := o, ports := ps, evtSeen := es, evtMsg := em, hbms := h, ddrs := d, live := []
      latched := (scrubLap s).live, spokes := sp
      hold := { s.hold with h := if s.hold.hold = false ∧ s.hold.lapEnd.toNat ≤ (lapEdge mark m s).now.toNat then 0 else s.hold.h }
      rte := { s.rte with draining := false }, scr := c, upset := u, wslots := w, stage := g, chunkCrcs := k, arrays := r
      zeroing := z, trns := tr, movers := mv, allots := al } ∧
      (l = (lapEdge mark m s).lodge ∧ mg = (lapEdge mark m s).mgmt) ∧
      (s.ctl = true → p = { s with pwr := (calibrate m s).pwr, thm := t : State }.edgePwr ∧ t = (ceilings s.cad.lap s).thm) := by
  obtain ⟨p, t, l, mg, o, _, es, em, h, d, _, hedge, -, -, hctl⟩ := lapEdge_frame mark m s ht
  obtain ⟨c, u, w, g, k, r, z, tr, mv, al, sp, hopen⟩ := openLap_frame _ (lapEdge_notDue mark m s ht hdue)
  have hnext : lapNext mark m s = _ := hopen
  generalize hnow : (lapEdge mark m s).now = now at hnext ⊢
  generalize hports : (((lapEdge mark m s).modPort 0 downStep).modPort 1 downStep).ports = ps at hnext
  rw [hedge] at hnext ⊢
  dsimp only at hnext
  exact ⟨p, t, l, mg, o, ps, es, em, h, d, c, u, w, g, k, r, z, tr, mv, al, sp, hnext, ⟨rfl, rfl⟩, hctl⟩

theorem lapNext_now : (lapNext mark m s).now = (lapEdge mark m s).now := by
  obtain ⟨_, _, _, _, _, _, _, _, _, _, _, hedge, -⟩ := lapEdge_frame mark m s ht
  obtain ⟨_, _, _, _, _, _, _, _, _, _, _, _, _, _, _, _, _, _, _, _, _, hnext, -⟩ := lapNext_frame mark m s ht hdue
  rw [hnext, hedge]
  rfl

theorem lapNext_mgmt : (lapNext mark m s).mgmt = (lapEdge mark m s).mgmt := by
  obtain ⟨_, _, _, _, _, _, _, _, _, _, _, _, _, _, _, _, _, _, _, _, _, hnext, ⟨-, hmgmt⟩, -⟩ := lapNext_frame mark m s ht hdue
  rw [hnext]
  exact hmgmt

theorem lapNext_active (q : Nat) : (lapNext mark m s).active q = (lapEdge mark m s).active q := by
  obtain ⟨_, _, _, _, _, _, _, _, _, _, _, _, _, _, _, _, _, _, _, _, _, hnext, ⟨hlodge, -⟩, -⟩ := lapNext_frame mark m s ht hdue
  unfold State.active
  rw [hnext, ← hlodge]

theorem lapNext_port (p : Port) : (lapNext mark m s).port p = { downStep (s.port p) with evtDue := ((lapNext mark m s).port p).evtDue } := by
  obtain ⟨_, _, _, _, _, _, _, _, _, _, _, hopen⟩ := openLap_frame _ (lapEdge_notDue mark m s ht hdue)
  have hport : (lapNext mark m s).port p = downStep ((lapEdge mark m s).port p) := by
    rw [lapNext, hopen]
    exact State.modPorts_port _ _ p
  rw [hport, lapEdge_port]
  rfl

end

/-! ### The allotments of the new lap -/

section
variable (mark : Bool) (m : LapMeasure) (s : State) (ht : s.timed = true) (hdue : ∀ g : Sgrp, (s.strobe g.val).due = false)
  (n : Nat) (a : AllotSt) (h : s.allot n = some a)
include ht h

theorem lapOpened_allot : (lapOpened (lapEdge mark m s)).allot n = some a := by
  obtain ⟨_, _, _, _, _, _, _, _, _, _, _, hedge, -⟩ := lapEdge_frame mark m s ht
  rw [lapOpened_frame, hedge]
  exact h

include hdue

theorem lapNext_allot_still (hr : a.reset ≠ .boundary) : (lapNext mark m s).allot n = some a := by
  rw [lapNext, openLap_notDue _ (lapEdge_notDue mark m s ht hdue)]
  exact restartAll_still _ n a (lapOpened_allot mark m s ht n a h) hr

theorem lapNext_restarted (hr : a.reset = .boundary) : Restarted n a (lapNext mark m s).cad.lap s.trn (lapNext mark m s) := by
  have hrestart := restartAll_due _ n a (lapOpened_allot mark m s ht n a h) hr
  obtain ⟨_, _, _, _, _, _, _, _, _, _, hall⟩ := restartAll_frame (lapOpened (lapEdge mark m s))
  have htrn : (lapOpened (lapEdge mark m s)).trn = s.trn := by
    obtain ⟨_, _, _, _, _, _, _, _, _, _, _, hedge, -⟩ := lapEdge_frame mark m s ht
    rw [lapOpened_frame, hedge]
    rfl
  have hcad : (lapNext mark m s).cad = (lapOpened (lapEdge mark m s)).cad := by
    rw [lapNext, openLap_notDue _ (lapEdge_notDue mark m s ht hdue), hall]
  rw [htrn, ← hcad] at hrestart
  generalize (lapNext mark m s).cad.lap = lap at hrestart ⊢
  obtain ⟨hallot, hzero, hbanks, hmovers, harrays, htrns⟩ := hrestart
  rw [lapNext, openLap_notDue _ (lapEdge_notDue mark m s ht hdue)]
  exact ⟨hallot, hzero, hbanks, hmovers, harrays, htrns⟩

end

end Sys2Proof.Machine
end

section
/-! SUPPORT. The boundary's clauses, each read off the state that it leaves (02_cadence). -/

namespace Sys2Proof.Machine

section
variable (mark : Bool) (m : LapMeasure) (s : State) (ht : s.timed = true) (hdue : ∀ g : Sgrp, (s.strobe g.val).due = false)
include ht hdue

/-- The power state where the control units act: the ended lap's calibration with the lease counted and the gear permitted. -/
theorem lapNext_pwr (hc : s.ctl = true) : (lapNext mark m s).thm = (ceilings s.cad.lap s).thm ∧
    (lapNext mark m s).pwr =
      { s with pwr := (calibrate m s).pwr, thm := (lapNext mark m s).thm : State }.edgePwr := by
  obtain ⟨_, _, _, _, _, _, _, _, _, _, _, _, _, _, _, _, _, _, _, _, _, hnext, -, hctl⟩ := lapNext_frame mark m s ht hdue
  obtain ⟨hp, hthm⟩ := hctl hc
  rw [hnext]
  exact ⟨hthm, hp⟩

theorem lapNext_cad : (lapNext mark m s).cad = markedCad mark (!s.cad.markErrLap) s.nextCad := by
  obtain ⟨_, _, _, _, _, _, _, _, _, _, _, _, _, _, _, _, _, _, _, _, _, hnext, -⟩ := lapNext_frame mark m s ht hdue
  rw [hnext]

/-- The lease's count and what the recompute finds, in the state that the boundary leaves (R276, R279). -/
theorem lapNext_lease (hc : s.ctl = true) :
    let t := lapNext mark m s
    t.pwr.leaseLeft = (if s.pwr.leaseLeft = 0 then 0 else s.pwr.leaseLeft - 1) ∧
      (t.pwr.lapsed = true ↔ s.pwr.lapsed = true ∨ s.pwr.leaseLeft = 1) ∧
      (s.pwr.leaseLeft = 1 → s.mgmt.lostRun = 0 → s.mgmt.events.length ≤ 200 →
        ∃ e ∈ t.mgmt.events, e.type = 0x0006 ∧ e.stamp = t.now) ∧
      t.pwr.permitted = BitVec.ofNat 3 (permittedOf t.offered t.ceiling t.gear.gear.toNat (effCap t.pwr) t.pwr.basis) ∧
      t.pwr.capUnmet = !fits (predict t.pwr.basis 1 14) (effCap t.pwr) 1 := by
  obtain ⟨_, hcal, hleft, hlapsed⟩ := calibrate_frame m s
  obtain ⟨-, hpwr⟩ := lapNext_pwr mark m s ht hdue hc
  rw [hcal] at hpwr
  refine ⟨?_, ?_, fun h hz hn => ?_, ?_, ?_⟩
  · rw [hpwr]
    dsimp only [State.edgePwr]
    rw [hleft]
  · rw [hpwr]
    dsimp only [State.edgePwr]
    rw [hleft, hlapsed, Bool.or_eq_true, decide_eq_true_iff]
  · rw [lapNext_mgmt mark m s ht hdue, lapNext_now mark m s ht hdue]
    exact lapEdge_event mark m s ht hc h hz hn
  · obtain ⟨_, _, _, _, _, _, _, _, _, _, _, _, _, _, _, _, _, _, _, _, _, hnext, -⟩ := lapNext_frame mark m s ht hdue
    unfold State.offered State.ceiling
    rw [hpwr]
    rw [hnext]
    rfl
  · rw [hpwr]
    rfl

/-- What the control units make of an ended lap with power samples (R277, R278, R288, R291, R294). -/
theorem lapNext_calibrated (hc : s.ctl = true) (hn : s.acc.n ≠ 0) :
    let t := lapNext mark m s
    let meas : Rat := meanOf s.acc.sVI s.acc.n / 1000000
    let raw : Rat := (m.eRaw : Rat) / 1000
    let near : Bool := decide (|s.pwr.k * raw - meas| ≤ 15 / 100 * meas)
    t.pwr.powerL = meas ∧ t.pwr.estL = s.pwr.k * raw ∧
      (near = true → m.eRaw ≠ 0 → t.pwr.k = s.pwr.k + (meas / raw - s.pwr.k) / 8) ∧ (near = false → t.pwr.k = s.pwr.k) ∧
      (t.pwr.calFlag = true ↔ near = false ∨ 102 / 100 * meas < meanOf s.acc.sRails s.acc.n / 1000000) ∧
      (∃ pGov : Rat, pGov = (if near = true then meas else max meas (s.pwr.k * raw)) ∧
        t.pwr.history = (pGov :: s.pwr.history).take 64 ∧
        (s.acc.held = false → s.acc.shifted = false →
          t.pwr.basis.pGov = pGov ∧ t.pwr.basis.sH = (m.sH : Rat) / 1000 ∧ (s.gear.gear ≠ 0 → t.pwr.basis.gear = s.gear.gear) ∧
          t.pwr.basis.level = ((s.acc.lvlSum + s.pwr.brake * (65536 - s.acc.lvlFrom) : Nat) : Rat) / 65536)) ∧
      (s.acc.held = true ∨ s.acc.shifted = true → t.pwr.basis = s.pwr.basis) := by
  obtain ⟨-, hpwr⟩ := lapNext_pwr mark m s ht hdue hc
  obtain ⟨⟨hmeas, hest⟩, hk, hflag, hhistory, hbasis⟩ := calibrate_sampled m s hn
  have hbasis' : (lapNext mark m s).pwr.basis = (calibrate m s).pwr.basis := by rw [hpwr]; rfl
  have hk' : (lapNext mark m s).pwr.k = (calibrate m s).pwr.k := by rw [hpwr]; rfl
  refine ⟨by rw [hpwr]; exact hmeas, by rw [hpwr]; exact hest, fun hnear hraw => ?_, fun hnear => ?_, ?_,
    ⟨_, rfl, by rw [hpwr]; exact hhistory, fun hh hs => ?_⟩, fun hhs => ?_⟩
  · rw [hk', hk, if_pos hnear, if_neg hraw]
  · rw [hk', hk, if_neg (by rw [hnear]; decide)]
  · have hflag' : (lapNext mark m s).pwr.calFlag = (calibrate m s).pwr.calFlag := by rw [hpwr]; rfl
    rw [hflag', hflag, Bool.or_eq_true, Bool.not_eq_true', decide_eq_true_iff (p := 102 / 100 * _ < _)]
  · rw [hbasis', hbasis, hh, hs]
    exact ⟨rfl, rfl, fun hg => if_neg hg, rfl⟩
  · rw [hbasis', hbasis, if_pos (by simpa using hhs)]

/-- The diodes after a lap with samples (R291). -/
theorem lapNext_diodes (hc : s.ctl = true) (hn : s.acc.n ≠ 0) (i : Nat) (hi : i < 64) (hlen : s.thm.failed.length = 4) :
    DiodeChecked s.acc s.thm i (lapNext mark m s).thm := by
  obtain ⟨hthm, -⟩ := lapNext_pwr mark m s ht hdue hc
  obtain ⟨⟨hfailed, hlaps⟩, -⟩ := ceilings_sampled s.cad.lap s hn
  have hchecked := diodeCheck_checked s.acc s.thm hn hlen i hi
  unfold DiodeChecked Thm.diodeFailed at *
  rw [hthm, hfailed, hlaps]
  exact hchecked

end

end Sys2Proof.Machine
end

section
/-! SUPPORT. The activation of firmware at a lap boundary (13_management, R407). -/

namespace Sys2Proof.Machine

/-! ### A refused activation -/

theorem activationRefused_frame (r : BitVec 4) (s : State) : ∃ mg o, activationRefused r s =
    { s with upd := { s.upd with armed := none, result := r }, mgmt := mg, out := o } :=
  ⟨_, _, queueEvent_frame _ _ _ _ _⟩

/-- What stands against an activation of a session that is ready (R407). -/
def State.activationBlocked (s : State) : Bool := !s.allots.isEmpty || s.frc.saved || s.lodge.pairLost || s.thm.trip

theorem activation_notReady (s : State) (h : s.upd.armed = some s.cad.lap) (hs : s.upd.state ≠ 3) :
    activation s = (activationRefused 0xC s, false) := (if_pos h).trans (if_pos hs)

theorem activation_blocked (s : State) (h : s.upd.armed = some s.cad.lap) (hs : s.upd.state = 3) (hb : s.activationBlocked = true) :
    activation s = (activationRefused 0xD s, false) := (if_pos h).trans ((if_neg (not_not_intro hs)).trans (if_pos hb))

theorem activation_done (s : State) (h : s.upd.armed = some s.cad.lap) (hs : s.upd.state = 3) (hb : s.activationBlocked = false) :
    activation s = (activate s, true) :=
  (if_pos h).trans ((if_neg (not_not_intro hs)).trans (if_neg (Bool.eq_false_iff.mp hb)))

/-! ### The activation itself -/

theorem writeOdo_active (prk : List Byte) (o : Odo) (f : Flash) : (f.writeOdo prk o).active = f.active := by
  unfold Flash.writeOdo
  split <;> rfl

theorem readOdo_frame (s : State) : ∃ mg, readOdo s = { s with mgmt := mg } ∧ (s.mgmt.odoRead = true → mg = s.mgmt) := by
  unfold readOdo
  split
  next => exact ⟨s.mgmt, rfl, fun _ => rfl⟩
  next h => exact ⟨_, rfl, fun h' => absurd h' h⟩

/-- An activation while time is counted: the bank of the session is active, the odometer counts it where it has been read, and the
module has reset. -/
theorem activate_spec (s : State) (h : s.boot.supply = .on) :
    (activate s).pending = s.pending ∧ (activate s).flash.active = s.upd.bank ∧ (activate s).upd.armed = none ∧
      (activate s).boot = { supply := .railOff, slot := s.boot.slot } ∧ (activate s).cad = {} ∧ (activate s).allots = [] ∧
      (s.mgmt.odoRead = true → (activate s).mgmt.odo.activations = s.mgmt.odo.activations + 1 ∧
        (activate s).mgmt.inv = (activate s).mgmt.odo) := by
  obtain ⟨mg, hread, hmgmt⟩ := readOdo_frame s
  unfold activate
  rw [hread]
  dsimp only [moduleReset, updateOdo, resetMgmt, dropPiece]
  rw [h]
  refine ⟨rfl, ?_, rfl, rfl, rfl, rfl, fun hr => ?_⟩
  · exact writeOdo_active _ _ _
  · rw [hmgmt hr]
    exact ⟨rfl, rfl⟩

/-! ### The boundary for which an activation is armed -/

section
variable (mark : Bool) (m : LapMeasure) (s : State) (ht : s.timed = true)
include ht

/-- What the edge leaves of all that an activation looks at. -/
theorem lapEdge_activation : (lapEdge mark m s).upd = s.upd ∧ (lapEdge mark m s).boot = s.boot ∧
    (lapEdge mark m s).pending = s.pending ∧ (lapEdge mark m s).cad.lap = s.nextCad.lap ∧
    (lapEdge mark m s).activationBlocked = s.activationBlocked := by
  obtain ⟨_, _, _, _, _, _, _, _, _, _, _, hedge, hlost, htrip, -⟩ := lapEdge_frame mark m s ht
  unfold State.activationBlocked
  rw [hedge, ← hlost, ← htrip]
  exact ⟨rfl, rfl, rfl, rfl, rfl⟩

/-- A boundary at which the activation is refused goes on with the new lap. -/
theorem afterActivation_refused (hdue : ∀ g : Sgrp, (s.strobe g.val).due = false) (r : BitVec 4) :
    let t := afterActivation (activationRefused r (lapEdge mark m s), false)
    t.pending = s.pending ∧ t.upd = { s.upd with armed := none, result := r } ∧ t.boot = s.boot := by
  obtain ⟨_, _, hrefused⟩ := activationRefused_frame r (lapEdge mark m s)
  obtain ⟨hupd, hboot, hpending, -⟩ := lapEdge_activation mark m s ht
  have htimed : (activationRefused r (lapEdge mark m s)).timed = true := by
    rw [hrefused]
    exact lapEdge_timed mark m s ht
  have hnotDue : ∀ g : Sgrp, ((activationRefused r (lapEdge mark m s)).strobe g.val).due = false := by
    rw [hrefused]
    exact lapEdge_notDue mark m s ht hdue
  obtain ⟨_, _, _, _, _, _, _, _, _, _, _, hopen⟩ := openLap_frame _ hnotDue
  dsimp only [afterActivation]
  rw [htimed, if_neg (by decide), hopen, hrefused, ← hupd, ← hboot, ← hpending]
  exact ⟨rfl, rfl, rfl⟩

end

end Sys2Proof.Machine

namespace Sys2Proof.Proofs

open Sys2Proof Sys2Proof.Machine

/-- Settles O4: the edge of tick 00000 (the closed lap, the mark, the roles, the lease), then the activation, then the rest of the new
lap; each clause is read off the state that its part leaves. -/
theorem lapBoundaryLatches : Obligations.LapBoundaryLatches := by
  unfold Obligations.LapBoundaryLatches
  refine ⟨fun s mark m ht h harm hdue => ?_, fun s mark m l ht h hsync harm hl hdue => ?_⟩
  · have hcad := lapNext_cad mark m s ht hdue
    obtain ⟨hmarkErr, hmarkFault, htick, hlatchLap⟩ := nextCad_frame s
    obtain ⟨_, _, _, _, _, _, _, _, _, _, _, _, _, _, _, _, _, _, _, _, _, hnext, -⟩ := lapNext_frame mark m s ht hdue
    refine ⟨_, exec_lapBoundary_unarmed mark m s ht h harm, by rw [hnext], scrubLap_live_nothingLeft s, by rw [hnext],
      by rw [hcad]; exact htick, by rw [hcad]; exact hlatchLap, by rw [hcad]; exact nextCad_lap s,
      by rw [hcad]; exact nextCad_synced s, by rw [hcad]; exact nextCad_syncArmed s, by rw [hcad]; rfl, ?_, ?_, by rw [hnext],
      by rw [hnext], by rw [hnext], by rw [hnext], lapNext_lease mark m s ht hdue, fun hc hn => ?_, fun hc r hr => ?_,
      lapNext_allot_still mark m s ht hdue, fun n a ha hreset => ?_, by rw [hnext], ?_, fun p => ?_, ?_⟩
    · rw [hcad, ← hmarkErr]
      rfl
    · rw [hcad, ← hmarkFault]
      show (!mark || (!(!s.cad.markErrLap) && s.nextCad.markFault)) = true ↔ _
      simp
    · obtain ⟨hmeas, hest, hnear, hfar, hflag, hgov, hbasis⟩ := lapNext_calibrated mark m s ht hdue hc hn
      obtain ⟨hthm, -⟩ := lapNext_pwr mark m s ht hdue hc
      obtain ⟨-, hpav, hhbm, h60, h45, h40, hin45, hleak⟩ := ceilings_sampled s.cad.lap s hn
      rw [← hthm] at hpav hhbm h60 h45 h40 hin45 hleak
      refine ⟨hmeas, hest, hnear, hfar, hflag, hgov, hbasis, fun i hi hlen => ?_, ?_, ?_, ?_⟩
      · obtain ⟨-, hfailed, hlaps⟩ := lapNext_diodes mark m s ht hdue hc hn i hi hlen
        refine ⟨?_, hlaps⟩
        unfold Thm.diodeFailed badDiode at hfailed
        rw [hfailed, Bool.or_eq_true, Bool.and_eq_true, decide_eq_true_iff]
      · rw [hpav, hhbm]
        simp only [List.forall_mem_cons, List.not_mem_nil, false_implies, implies_true, and_true]
        exact ⟨ceilStep_spec _ _ _ _ _ _, ceilStep_spec _ _ _ _ _ _⟩
      · rw [h60, h45, h40, hin45]
        simp only [List.forall_mem_cons, List.not_mem_nil, false_implies, implies_true, and_true]
        exact ⟨bandStep_spec _ _, bandStep_spec _ _, bandStep_spec _ _, bandStep_spec _ _⟩
      · rw [hleak]
        cases s.acc.open_ <;> cases s.acc.closed <;> simp
    · have hr' : r ≤ 1 := by
        rcases List.mem_cons.mp hr with rfl | hr
        · exact Nat.zero_le 1
        · exact (List.mem_singleton.mp hr).le
      rw [lapNext_active mark m s ht hdue, lapEdge_active mark m s r hr' hc, Bool.and_eq_true, Bool.not_eq_true']
    · obtain ⟨hallot, hzero, hbanks, hmovers, harrays, htrns⟩ := lapNext_restarted mark m s ht hdue n a ha hreset
      exact ⟨hallot, fun g hg i hi => hzero g.val i (mem_setBits a.groups g.val g.isLt hg) hi, hbanks, hmovers, harrays, htrns⟩
    · rw [lapNext_now mark m s ht hdue, hnext]
    · refine (lapNext_port mark m s ht hdue p).trans ?_
      rw [downStep_eq]
    · rw [lapNext_mgmt mark m s ht hdue]
      exact (lapEdge_odo mark m s).1
  · obtain ⟨hupd, hboot, hpending, hlap, hblocked⟩ := lapEdge_activation mark m s ht
    have harmed : (lapEdge mark m s).upd.armed = some (lapEdge mark m s).cad.lap := by
      rw [hupd, hlap, nextCad_lap, if_neg (by rw [hsync]; simp), harm, hl]
    have hstate : (lapEdge mark m s).upd.state = s.upd.state := by rw [hupd]
    refine ⟨_, exec_lapBoundary mark m s ht h, ?_⟩
    by_cases hs : s.upd.state = 3
    · cases hb : s.activationBlocked with
      | true =>
        rw [activation_blocked _ harmed (hstate.trans hs) (hblocked.trans hb)]
        obtain ⟨hpend, hrefused⟩ := afterActivation_refused mark m s ht hdue 0xD
        refine ⟨hpend, fun hn => absurd hs hn, fun _ _ => hrefused, fun _ ha hf hp htr => ?_⟩
        simp [State.activationBlocked, ha, hf, hp, htr] at hb
      | false =>
        rw [activation_done _ harmed (hstate.trans hs) (hblocked.trans hb)]
        have hon : (lapEdge mark m s).boot.supply = .on := by
          rw [hboot]
          exact supply_of_timed s ht
        obtain ⟨hpend, hactive, hnone, hboot', hcad, hallots, hodo⟩ := activate_spec _ hon
        obtain ⟨-, hact, hread⟩ := lapEdge_odo mark m s
        refine ⟨hpend.trans hpending, fun hn => absurd hs hn, fun _ hany => ?_, fun _ _ _ _ _ => ⟨hactive.trans (by rw [hupd]), hnone,
          hboot'.trans (by rw [hboot]), hcad, hallots, fun hr => ?_⟩⟩
        · simp [State.activationBlocked] at hb
          simp [hb] at hany
        · rw [← hact]
          exact hodo (hread.trans hr)
    · rw [activation_notReady _ harmed (fun h => hs (hstate.symm.trans h))]
      obtain ⟨hpend, hrefused⟩ := afterActivation_refused mark m s ht hdue 0xC
      exact ⟨hpend, fun _ => hrefused, fun h => absurd h hs, fun h => absurd h hs⟩

end Sys2Proof.Proofs
end

section
/-! SUPPORT. The four stores of a state as one value, and what leaves them as they are: one lemma an operation, in the order of the
model's files. A function that gives more than a state has the lemma about the state that it gives. -/

namespace Sys2Proof.Machine

/-- The four stores of the module: module memory, scratchpads, weight slots and staging memories. -/
structure Stores where
  mem    : List Host.Cell
  scr    : List Host.Cell
  wslots : List Host.Cell
  stage  : List Host.Cell

/-- The canonical form of the four stores. -/
def Stores.wf (x : Stores) : Bool :=
  Memory.wf x.mem && Memory.zeroWf x.scr && Memory.zeroWf x.wslots && Memory.zeroWf x.stage

/-- The stores of a state. -/
def State.stores (s : State) : Stores := ⟨s.mem, s.scr, s.wslots, s.stage⟩

theorem storesWf_eq (s : State) : s.storesWf = s.stores.wf := rfl

@[simp] theorem stores_eta (s : State) : Stores.mk s.mem s.scr s.wslots s.stage = s.stores := by rw [State.stores]

@[simp] theorem stores_mk (cad plls gear pwr ramps rests thm acc hold boot frc steward ports sgrpSel strobes rings allots images nextImage
   load dying zeroing bankWrites bridges arrays movers trns chunkCrcs hbms ddrs capGib self spokes ownMarks stations ringAt rte
   lodge mgmt flash upd mem scr wslots stage upset live latched evtSeen evtMsg out fresh pending) :
   State.stores ⟨cad, plls, gear, pwr, ramps, rests, thm, acc, hold, boot, frc, steward, ports, sgrpSel, strobes, rings, allots, images,
     nextImage, load, dying, zeroing, bankWrites, bridges, arrays, movers, trns, chunkCrcs, hbms, ddrs, capGib, self, spokes, ownMarks,
     stations, ringAt, rte, lodge, mgmt, flash, upd, mem, scr, wslots, stage, upset, live, latched, evtSeen, evtMsg, out, fresh,
     pending⟩ = ⟨mem, scr, wslots, stage⟩ := by rw [State.stores]

/-- Whichever branch is taken. -/
@[simp] theorem stores_ite (c : Prop) [Decidable c] (s t : State) :
    (if c then s else t).stores = if c then s.stores else t.stores := apply_ite State.stores c s t

/-- A fold of steps that leave the stores leaves them. -/
@[simp] theorem stores_foldl {α : Type} (f : State → α → State) (h : ∀ s x, (f s x).stores = s.stores) (l : List α) (s : State) :
    (l.foldl f s).stores = s.stores := by
  induction l generalizing s with
  | nil => rfl
  | cons x l ih => rw [List.foldl_cons, ih, h]

/-- The same of a fold that carries something beside the state. -/
@[simp] theorem stores_foldl_fst {α β : Type} (f : State × β → α → State × β) (h : ∀ r x, (f r x).1.stores = r.1.stores)
    (l : List α) (r : State × β) : (l.foldl f r).1.stores = r.1.stores := by
  induction l generalizing r with
  | nil => rfl
  | cons x l ih => rw [List.foldl_cons, ih, h]

/-- The state that a pair holds, where the pair is known. -/
theorem stores_of_eq {α : Type} {r : State × α} {t : State} {x : α} (h : r = (t, x)) : t.stores = r.1.stores := by rw [h]

/-! ### Ops -/

@[simp] theorem State.modPort_stores (s : State) (p : Port) (f : PortSt → PortSt) : (s.modPort p f).stores = s.stores := by
  simp [State.modPort]

@[simp] theorem countNs_stores (p : Port) (s : State) : (countNs p s).stores = s.stores := by
  simp [countNs]

@[simp] theorem hostWrite_stores (p : Port) (f : State → State) (s : State) (h : ∀ s, (f s).stores = s.stores) :
    (hostWrite p f s).stores = s.stores := by
  simp [hostWrite, h]

@[simp] theorem stewardWrite_stores (p : Port) (f : State → State) (s : State) (h : ∀ s, (f s).stores = s.stores) :
    (stewardWrite p f s).stores = s.stores := by
  simp [stewardWrite, h]

@[simp] theorem State.modRing_stores (s : State) (r : Nat) (f : Ring → Ring) : (s.modRing r f).stores = s.stores := by
  simp [State.modRing]

@[simp] theorem State.modAllot_stores (s : State) (n : Nat) (f : AllotSt → AllotSt) : (s.modAllot n f).stores = s.stores := by
  simp [State.modAllot]

@[simp] theorem State.modArr_stores (s : State) (x : Nat) (f : ArrSt → ArrSt) : (s.modArr x f).stores = s.stores := by
  simp [State.modArr]

@[simp] theorem State.modMover_stores (s : State) (m : Nat) (f : MoverSt → MoverSt) : (s.modMover m f).stores = s.stores := by
  simp [State.modMover]

@[simp] theorem State.modTrn_stores (s : State) (t : Nat) (f : TrnSt → TrnSt) : (s.modTrn t f).stores = s.stores := by
  simp [State.modTrn]

@[simp] theorem State.modHbm_stores (s : State) (i : Nat) (f : Hbm → Hbm) : (s.modHbm i f).stores = s.stores := by
  simp [State.modHbm]

@[simp] theorem State.modDdr_stores (s : State) (i : Nat) (f : Ddr → Ddr) : (s.modDdr i f).stores = s.stores := by
  simp [State.modDdr]

@[simp] theorem State.modSpk_stores (s : State) (k : Nat) (f : SpokeSt → SpokeSt) : (s.modSpk k f).stores = s.stores := by
  simp [State.modSpk]

@[simp] theorem State.modStation_stores (s : State) (i : Nat) (f : Station → Station) :
    (s.modStation i f).stores = s.stores := by
  simp [State.modStation]

@[simp] theorem State.modStrobe_stores (s : State) (g : Nat) (f : Strobe → Strobe) : (s.modStrobe g f).stores = s.stores := by
  simp [State.modStrobe]

@[simp] theorem State.modPll_stores (s : State) (p : Nat) (f : Pll → Pll) : (s.modPll p f).stores = s.stores := by
  simp [State.modPll]

@[simp] theorem State.modRamp_stores (s : State) (g : Nat) (f : Ramp → Ramp) : (s.modRamp g f).stores = s.stores := by
  simp [State.modRamp]

@[simp] theorem State.modUnit_stores (s : State) (i : Nat) (f : UnitSt → UnitSt) : (s.modUnit i f).stores = s.stores := by
  simp [State.modUnit]

@[simp] theorem State.modRest_stores (s : State) (p : Nat) (f : Rb 2 → Rb 2) : (s.modRest p f).stores = s.stores := by
  simp [State.modRest]

@[simp] theorem State.emit_stores (s : State) (o : Out) : (s.emit o).stores = s.stores := by
  simp [State.emit]

@[simp] theorem State.bump_stores (s : State) (k : Nat) (n : Nat) : (s.bump k n).stores = s.stores := by
  simp [State.bump]

@[simp] theorem pushEvent_stores (type : BitVec 16) (flags : Byte) (stamp : Time) (code : Word) (ctx : BitVec 64) (s : State) :
    (pushEvent type flags stamp code ctx s).stores = s.stores := by
  simp [pushEvent]

@[simp] theorem queueEventAt_stores (t : Time) (type : BitVec 16) (flags : Byte) (code : Word) (ctx : BitVec 64) (s : State) :
    (queueEventAt t type flags code ctx s).stores = s.stores := by
  simp [queueEventAt]

@[simp] theorem queueEvent_stores (type : BitVec 16) (flags : Byte) (code : Word) (ctx : BitVec 64) (s : State) :
    (queueEvent type flags code ctx s).stores = s.stores := by
  simp [queueEvent]

@[simp] theorem writeFaultAt_stores (t : Time) (code : Word) (slice : BitVec 12) (die : BitVec 3) (array : Byte)
    (entry : Option (BitVec 24)) (s : State) :
    (writeFaultAt t code slice die array entry s).stores = s.stores := by
  simp [writeFaultAt]

@[simp] theorem writeFault_stores (code : Word) (slice : BitVec 12) (die : BitVec 3) (array : Byte) (entry : Option
    (BitVec 24)) (s : State) :
    (writeFault code slice die array entry s).stores = s.stores := by
  simp [writeFault]

@[simp] theorem stopAllot_stores (n : Nat) (s : State) : (stopAllot n s).stores = s.stores := by
  simp [stopAllot]

@[simp] theorem stopAll_stores  (s : State) : (stopAll s).stores = s.stores := by
  simp [stopAll]

@[simp] theorem allotFault_stores (n : Nat) (code : Word) (die : BitVec 3) (array : Byte) (entry : Option (BitVec 24))
    (s : State) :
    (allotFault n code die array entry s).stores = s.stores := by
  simp [allotFault]

@[simp] theorem complete_stores (r : Nat) (c : Completion) (s : State) : (complete r c s).stores = s.stores := by
  simp [complete]

@[simp] theorem commandDone_stores (p : Port) (tag : Word) (status : Byte) (detail : Word) (head : BitVec 16) (s : State) :
    (commandDone p tag status detail head s).stores = s.stores := by
  simp [commandDone]


/-! ### Counters -/

@[simp] theorem bumpSlice_stores (slice : BitVec 12) (k : Nat) (dir : Nat) (s : State) :
    (bumpSlice slice k dir s).stores = s.stores := by
  simp [bumpSlice]

@[simp] theorem latchCounters_stores  (s : State) : (latchCounters s).stores = s.stores := by
  simp [latchCounters]


/-! ### Flags -/

@[simp] theorem alertEvent_stores (new : BitVec 8) (i : Nat) (s : State) : (alertEvent new i s).stores = s.stores := by
  simp [alertEvent]

@[simp] theorem alertMessages_stores  (s : State) : (alertMessages s).stores = s.stores := by
  simp [alertMessages]

@[simp] theorem alertEvents_stores  (s : State) : (alertEvents s).stores = s.stores := by
  simp [alertEvents]


/-! ### Power -/

@[simp] theorem recompute_stores  (s : State) : (recompute s).stores = s.stores := by
  simp [recompute]

@[simp] theorem setBrake_stores (l : Nat) (s : State) : (setBrake l s).stores = s.stores := by
  simp [setBrake]

@[simp] theorem writeHostCap_stores (gear : BitVec 3) (cap : BitVec 16) (s : State) :
    (writeHostCap gear cap s).stores = s.stores := by
  simp [writeHostCap]

@[simp] theorem renewLease_stores  (s : State) : (renewLease s).stores = s.stores := by
  simp [renewLease]

@[simp] theorem hotStacks_stores (l : List Int) (s : State) : (hotStacks l s).stores = s.stores := by
  simp [hotStacks]

@[simp] theorem takeSample_stores (x : PowerSample) (s : State) : (takeSample x s).stores = s.stores := by
  simp [takeSample]

@[simp] theorem ceilings_stores (lap : BitVec 40) (s : State) : (ceilings lap s).stores = s.stores := by
  simp [ceilings]

@[simp] theorem calibrate_stores (m : LapMeasure) (s : State) : (calibrate m s).stores = s.stores := by
  simp [calibrate]

@[simp] theorem leaseStep_stores  (s : State) : (leaseStep s).stores = s.stores := by
  simp [leaseStep]

@[simp] theorem startRamps_stores (f : State → State) (s : State) (h : ∀ s, (f s).stores = s.stores) :
    (startRamps f s).stores = s.stores := by
  simp [startRamps, h]

@[simp] theorem retarget_stores (groups : BitVec 16) (f : Nat → Nat) (s : State) :
    (retarget groups f s).stores = s.stores := by
  simp [retarget]

@[simp] theorem fallRamps_stores  (s : State) : (fallRamps s).stores = s.stores := by
  simp [fallRamps]

@[simp] theorem moveAll_stores (f : Time → Time) (at_ : Time) (s : State) : (moveAll f at_ s).stores = s.stores := by
  simp [moveAll]

@[simp] theorem beginHold_stores  (s : State) : (beginHold s).stores = s.stores := by
  simp [beginHold]

@[simp] theorem unrelease_stores (r : Resumed) (s : State) : (unrelease r s).stores = s.stores := by
  simp [unrelease]

@[simp] theorem holdStep_stores  (s : State) : (holdStep s).stores = s.stores := by
  simp [holdStep]

@[simp] theorem openCore_stores  (s : State) : (openCore s).stores = s.stores := by
  simp [openCore]


/-! ### Store -/

@[simp] theorem applyNoise_stores (noise : List Noise) (s : State) : (applyNoise noise s).stores = s.stores := by
  simp [applyNoise]

@[simp] theorem noteUe_stores (st : Nat) (w : Nat) (tag : Bool) (s : State) : (noteUe st w tag s).stores = s.stores := by
  simp [noteUe]

@[simp] theorem readWord_stores (st w : Nat) (s : State) : (readWord st w s).1.stores = s.stores := by
  obtain ⟨_, _, _, _, h⟩ := Laws.readWord_frame st w s
  rw [h]; rfl

@[simp] theorem readWords_stores (st : Nat) (ws : List Nat) (s : State) : (readWords st ws s).1.stores = s.stores := by
  refine stores_foldl_fst _ (fun r w => ?_) ws _
  dsimp only
  split
  · rfl
  · split <;> simp

@[simp] theorem portDecode_stores (p : FabricPort) (err : List Byte) (b : List Byte) (s : State) :
    (portDecode p err b s).1.stores = s.stores := by
  unfold portDecode
  split <;> simp

@[simp] theorem carry_stores (dies : List Nat) (path : List PathNoise) (k : Nat) (b : List Byte) (s : State) :
    (carry dies path k b s).state.stores = s.stores := by
  obtain ⟨_, _, h⟩ := Laws.carry_frame dies path k b s
  rw [h]; rfl

@[simp] theorem clearUpsets_stores (st : Nat) (a : Nat) (n : Nat) (s : State) : (clearUpsets st a n s).stores = s.stores := by
  simp [clearUpsets]


/-! ### Array -/

@[simp] theorem arrayFault_stores (n : Nat) (x : Nat) (code : Word) (entry : BitVec 24) (s : State) :
    (arrayFault n x code entry s).stores = s.stores := by
  simp [arrayFault]

@[simp] theorem actWord_stores (x : Nat) (a : AllotSt) (i : Issue) (places : List (BitVec 17)) (path : List PathNoise) (k : Nat)
    (s : State) : (actWord x a i places path k s).state.stores = s.stores := by
  unfold actWord
  split
  · rfl
  · dsimp only
    split
    · split <;> rename_i h <;> simp [stores_of_eq h]
    · simp

@[simp] theorem gather_stores (x : Nat) (a : AllotSt) (i : Issue) (places : List (BitVec 17)) (path : List PathNoise) (n : Nat)
    (s : State) : (gather x a i places path n s).state.stores = s.stores := by
  refine List.foldlRecOn (motive := fun c : Carried => c.state.stores = s.stores) _ _ rfl fun c hc k _ => ?_
  split
  · exact hc
  · simp [hc]

@[simp] theorem enter_stores (n x : Nat) (c : ArrCfg) (i : Issue) (v : List Byte) (s : State) :
    (enter n x c i v s).stores = s.stores := by
  unfold enter
  dsimp only
  split <;> simp

@[simp] theorem takeVector_stores (n x : Nat) (al : AllotSt) (c : ArrCfg) (i : Issue) (places : List (BitVec 17))
    (path : List PathNoise) (s : State) : (takeVector n x al c i places path s).stores = s.stores := by
  unfold takeVector
  dsimp only
  split <;> simp

@[simp] theorem edgeRun_stores (n : Nat) (x : Nat) (al : AllotSt) (c : ArrCfg) (p : EdgeProg) (v : Flight)
    (tile : BitVec 32) (s : State) :
    (edgeRun n x al c p v tile s).1.stores = s.stores := by
  simp [edgeRun]


/-! ### Cadence -/

@[simp] theorem markError_stores  (s : State) : (markError s).stores = s.stores := by
  simp [markError]

@[simp] theorem dropMismatch_stores (k : Nat) (s : State) : (dropMismatch k s).stores = s.stores := by
  simp [dropMismatch]

@[simp] theorem syncWrite_stores (mode : BitVec 2) (spoke : BitVec 6) (arm : Bool) (s : State) :
    (syncWrite mode spoke arm s).stores = s.stores := by
  simp [syncWrite]

@[simp] theorem adopt_stores (k : Nat) (lap : BitVec 40) (synced : Bool) (s : State) :
    (adopt k lap synced s).stores = s.stores := by
  simp [adopt]

@[simp] theorem compareBeacon_stores (k : Nat) (lap : BitVec 40) (synced : Bool) (s : State) :
    (compareBeacon k lap synced s).stores = s.stores := by
  simp [compareBeacon]


/-! ### Crypto -/

@[simp] theorem takeRandom_stores  (s : State) : (takeRandom s).1.stores = s.stores := by
  simp [takeRandom]


/-! ### Mailbox -/

@[simp] theorem modMailbox_stores (p : Port) (f : Mailbox → Mailbox) (s : State) : (modMailbox p f s).stores = s.stores := by
  simp [modMailbox]

@[simp] theorem answer_stores (p : Port) (status : BitVec 8) (response : List Byte) (s : State) :
    (answer p status response s).stores = s.stores := by
  simp [answer]

@[simp] theorem popRequest_stores  (s : State) : (popRequest s).stores = s.stores := by
  simp [popRequest]

@[simp] theorem answerOneBad_stores  (s : State) : (answerOneBad s).stores = s.stores := by
  unfold answerOneBad
  split <;> simp

@[simp] theorem answerBad_stores  (s : State) : (answerBad s).stores = s.stores := by
  simp [answerBad]

@[simp] theorem mailboxControl_stores (p : Port) (data : Word) (s : State) : (mailboxControl p data s).stores = s.stores := by
  simp [mailboxControl]


/-! ### Turnstile -/

@[simp] theorem countTrn_stores (t : Nat) (k : Nat) (s : State) : (countTrn t k s).stores = s.stores := by
  simp [countTrn]

@[simp] theorem overcount_stores (t : Nat) (s : State) : (overcount t s).stores = s.stores := by
  unfold overcount
  split <;> simp

@[simp] theorem completionTest_stores (t : Nat) (was : Option Nat) (s : State) :
    (completionTest t was s).stores = s.stores := by
  simp [completionTest]

@[simp] theorem armTrn_stores (t : Nat) (target : Word) (deadline : Time) (entry : BitVec 24) (s : State) :
    (armTrn t target deadline entry s).stores = s.stores := by
  simp [armTrn]

@[simp] theorem addIncrement_stores (t : Nat) (n : Nat) (place : Option Nat) (s : State) :
    (addIncrement t n place s).stores = s.stores := by
  simp [addIncrement]

@[simp] theorem secondInTick_stores (t : Nat) (n : Nat) (s : State) : (secondInTick t n s).stores = s.stores := by
  simp [secondInTick]

@[simp] theorem increment_stores (t n : Nat) (src : BitVec 18) (s : State) : (increment t n src s).stores = s.stores := by
  unfold increment
  dsimp only
  split_ifs
  · rfl
  · simp
  · simp
  · simp
  · split <;> simp

@[simp] theorem missTrn_stores (t : Nat) (s : State) : (missTrn t s).stores = s.stores := by
  simp [missTrn]

@[simp] theorem resetTrns_stores (n : Nat) (s : State) : (resetTrns n s).stores = s.stores := by
  simp [resetTrns]


/-! ### Fabric -/

@[simp] theorem enterRing_stores (mover : Option Nat) (t : Time) (h : Nat) (station : Nat) (egress : BitVec 6) (p : Packet)
    (s : State) :
    (enterRing mover t h station egress p s).stores = s.stores := by
  simp [enterRing]

@[simp] theorem injectAt_stores (mover : Option Nat) (t : Time) (h station : Nat) (p : Packet) (s : State) :
    (injectAt mover t h station p s).stores = s.stores := by
  unfold injectAt
  split
  · simp
  · split <;> simp

@[simp] theorem inject_stores (mover : Option Nat) (h : Nat) (station : Nat) (p : Packet) (s : State) :
    (inject mover h station p s).stores = s.stores := by
  simp [inject]


/-! ### Timetable -/

@[simp] theorem applyEntryNoise_stores (n : Nat) (t : Nat) (noise : List (Nat × List Byte)) (s : State) :
    (applyEntryNoise n t noise s).stores = s.stores := by
  simp [applyEntryNoise]

@[simp] theorem clearEntries_stores (n : Nat) (s : State) : (clearEntries n s).stores = s.stores := by
  simp [clearEntries]

@[simp] theorem passEntry_stores (n : Nat) (s : State) : (passEntry n s).stores = s.stores := by
  simp [passEntry]

@[simp] theorem readEntry_stores (n : Nat) (d : Due) (s : State) : (readEntry n d s).1.stores = s.stores := by
  unfold readEntry
  split <;> simp

theorem fire_stores (n : Nat) (f : Due → State → Option State) (s : State)
    (h : ∀ d t u, f d t = some u → u.stores = t.stores) : (fire n f s).stores = s.stores := by
  unfold fire
  split
  · rfl
  · split
    · rename_i hr
      split
      · rfl
      · rename_i hf
        simp [h _ _ _ hf, stores_of_eq hr]
    · rename_i hr
      split
      · simp [stores_of_eq hr]
      · rfl

@[simp] theorem shadowWord_stores (a : AllotSt) (path : List PathNoise) (c : CfgSec) (k w : Nat) (s : State) :
    (shadowWord a path c k w s).1.stores = s.stores := by
  unfold shadowWord
  split <;> rename_i h <;> simp [stores_of_eq h]

@[simp] theorem readSecs_stores (a : AllotSt) (path : List PathNoise) (l : List CfgSec) (s : State) :
    (readSecs a path l s).state.stores = s.stores := by
  refine List.foldlRecOn (motive := fun x : ShadowRead => x.state.stores = s.stores) l _ rfl fun x hx c _ => ?_
  split
  · exact hx
  · refine (stores_foldl_fst _ (fun r e => ?_) _ _).trans hx
    dsimp only
    split
    · rfl
    · split <;> rename_i h <;> simp [stores_of_eq h]

@[simp] theorem shadowFault_stores (n : Nat) (a : AllotSt) (entry : Option (BitVec 24)) (bad : CfgSec × Nat × Word)
    (s : State) :
    (shadowFault n a entry bad s).stores = s.stores := by
  simp [shadowFault]

@[simp] theorem startShadow_stores (n phase : Nat) (entry : Option (BitVec 24)) (t : Time) (s : State) :
    (startShadow n phase entry t s).stores = s.stores := by
  unfold startShadow
  split
  · rfl
  · dsimp only
    split <;> simp

@[simp] theorem swapbackLoad_stores (n : Nat) (t : Time) (s : State) : (swapbackLoad n t s).stores = s.stores := by
  unfold swapbackLoad
  split
  · rfl
  · split
    · rfl
    · split <;> simp

@[simp] theorem rearm_stores (a : AllotSt) (s : State) : (rearm a s).stores = s.stores := by
  unfold rearm
  split <;> simp

@[simp] theorem swapPlanes_stores (n : Nat) (new : Plane) (s : State) : (swapPlanes n new s).stores = s.stores := by
  unfold swapPlanes
  dsimp only
  split <;> simp

@[simp] theorem planeLate_stores (n : Nat) (al : AllotSt) (phase : BitVec 3) (s : State) :
    (planeLate n al phase s).stores = s.stores := by
  simp [planeLate]

@[simp] theorem endRun_stores (n : Nat) (r : Run) (p : RunPos) (s : State) : (endRun n r p s).stores = s.stores := by
  simp [endRun]

@[simp] theorem endPhase_stores (n : Nat) (next : Byte) (r : Run) (p : RunPos) (s : State) :
    (endPhase n next r p s).stores = s.stores := by
  simp [endPhase]

@[simp] theorem startAllot_stores (n : Nat) (s : State) : (startAllot n s).stores = s.stores := by
  simp [startAllot]

@[simp] theorem runDone_stores (n : Nat) (r : Run) (status : Byte) (detail : Nat) (s : State) :
    (runDone n r status detail s).stores = s.stores := by
  simp [runDone]

@[simp] theorem startRun_stores (n : Nat) (a : AllotSt) (r : Run) (s : State) : (startRun n a r s).stores = s.stores := by
  simp [startRun]

@[simp] theorem beginRun_stores (n : Nat) (s : State) : (beginRun n s).stores = s.stores := by
  unfold beginRun
  split
  · rfl
  · split
    · rfl
    · split <;> simp

@[simp] theorem startsOf_stores (n : Nat) (s : State) : (startsOf s n).stores = s.stores := by
  unfold startsOf
  split <;> simp

@[simp] theorem takeStarts_stores  (s : State) : (takeStarts s).stores = s.stores := by
  simp [takeStarts]


/-! ### Mover -/

@[simp] theorem moverFault_stores (n : Nat) (m : Nat) (code : Word) (entry : BitVec 24) (s : State) :
    (moverFault n m code entry s).stores = s.stores := by
  simp [moverFault]

@[simp] theorem overrun_stores (n : Nat) (m : Nat) (ix : BitVec 9) (entry : BitVec 24) (s : State) :
    (overrun n m ix entry s).stores = s.stores := by
  simp [overrun]

@[simp] theorem startMover_stores (n : Nat) (m : Nat) (ix : BitVec 9) (entry : BitVec 24) (s : State) :
    (startMover n m ix entry s).stores = s.stores := by
  unfold startMover
  split <;> simp

@[simp] theorem modXfer_stores (m : Nat) (f : Xfer → Xfer) (s : State) : (modXfer m f s).stores = s.stores := by
  simp [modXfer]

@[simp] theorem movedWord_stores (m : Nat) (held : List Byte) (s : State) : (movedWord m held s).stores = s.stores := by
  simp [movedWord]

@[simp] theorem sendWord_stores (x : Transfer) (b : List Byte) (s : State) : (sendWord x b s).stores = s.stores := by
  unfold sendWord
  split <;> simp

/-- The state after the read of a source word. -/
def Got.state : Got → State
  | .word s _ => s
  | .bad s _ => s
@[simp] theorem fetchWord_stores (x : Transfer) (src : Place) (k : Nat) (host : List Byte) (s : State) :
    (fetchWord x src k host s).state.stores = s.stores := by
  unfold fetchWord
  split
  · split
    · dsimp only
      rename_i h
      split <;> simp [Got.state, stores_of_eq h]
    · rename_i h
      simp [Got.state, stores_of_eq h]
  · rfl
  · rfl

@[simp] theorem getWord_stores (x : Transfer) (s : State) : (getWord x s).state.stores = s.stores := by
  unfold getWord
  split
  · rfl
  · simp

@[simp] theorem badChunk_stores (x : Transfer) (s : State) : (badChunk x s).stores = s.stores := by
  simp [badChunk]

@[simp] theorem slotConflict_stores (n : Nat) (m : Nat) (x : Nat) (t : Xfer) (s : State) :
    (slotConflict n m x t s).stores = s.stores := by
  simp [slotConflict]

@[simp] theorem hostAccess_stores (n : Nat) (m : Nat) (t : Xfer) (s : State) : (hostAccess n m t s).stores = s.stores := by
  simp [hostAccess]

@[simp] theorem failHostAccesses_stores (p : Port) (s : State) : (failHostAccesses p s).stores = s.stores := by
  refine stores_foldl _ (fun s m => ?_) _ s
  split <;> simp

@[simp] theorem sourceFault_stores (n : Nat) (src : TransferSource) (code : Word) (s : State) :
    (sourceFault n src code s).stores = s.stores := by
  cases src with
  | mover m =>
    rw [sourceFault]
    split <;> simp
  | array x => simp [sourceFault]

@[simp] theorem promote_stores (m : Nat) (s : State) : (promote m s).stores = s.stores := by
  simp [promote]


/-! ### Collective -/

@[simp] theorem modPlan_stores (n : Nat) (plan : Nat) (f : PlanRun → PlanRun) (s : State) :
    (modPlan n plan f s).stores = s.stores := by
  simp [modPlan]

@[simp] theorem ghWord_stores (gh : Nat) (path : List PathNoise) (k st w : Nat) (s : State) :
    (ghWord gh path k st w s).1.stores = s.stores := by
  unfold ghWord
  split <;> rename_i h <;> simp [stores_of_eq h]

@[simp] theorem readBuf_stores (gh : Nat) (path : List PathNoise) (k : Nat) (a : AllotSt) (id : BitVec 16) (off n : Nat)
    (s : State) : (readBuf gh path k a id off n s).1.stores = s.stores := by
  unfold readBuf
  split
  · rfl
  · refine stores_foldl_fst _ (fun r e => ?_) _ _
    dsimp only
    split
    · rfl
    · split <;> rename_i h <;> simp [stores_of_eq h]

@[simp] theorem planFault_stores (n : Nat) (plan : Nat) (gh : Nat) (entry : BitVec 24) (code : Word) (s : State) :
    (planFault n plan gh entry code s).stores = s.stores := by
  simp [planFault]

@[simp] theorem sendRun_stores (h : Nat) (long : Bool) (slice : BitVec 12) (dst : BitVec 15) (buf : BitVec 16) (off : Nat)
    (trn : BitVec 13) (stop : Nat) (run : List Byte) (s : State) :
    (sendRun h long slice dst buf off trn stop run s).stores = s.stores := by
  simp [sendRun]

@[simp] theorem readSlots_stores (h : Nat) (path : List PathNoise) (a : AllotSt) (i : StageInfo) (seg : Nat) (s : State) :
    (readSlots h path a i seg s).1.stores = s.stores := by
  refine stores_foldl_fst _ (fun r k => ?_) _ _
  dsimp only
  split
  · rfl
  · split <;> rename_i h <;> simp [stores_of_eq h]


/-! ### Gears -/

@[simp] theorem slewTo_stores (p : Nat) (mv : Rat) (t : Time) (s : State) : (slewTo p mv t s).stores = s.stores := by
  simp [slewTo]

@[simp] theorem shiftPoint_stores  (s : State) : (shiftPoint s).stores = s.stores := by
  simp [shiftPoint]

@[simp] theorem fillRestart_stores  (s : State) : (fillRestart s).stores = s.stores := by
  simp [fillRestart]

@[simp] theorem shiftGear_stores  (s : State) : (shiftGear s).stores = s.stores := by
  simp [shiftGear]


/-! ### RollCall -/

@[simp] theorem sendRollCall_stores (p : Peloton) (s : State) : (sendRollCall p s).stores = s.stores := by
  simp [sendRollCall]

@[simp] theorem rollReceive_stores (slice : BitVec 12) (src : BitVec 18) (payload : List Byte) (s : State) :
    (rollReceive slice src payload s).stores = s.stores := by
  simp [rollReceive]

@[simp] theorem programIdle_stores (g : Nat) (s : State) : (programIdle g s).stores = s.stores := by
  simp [programIdle]

@[simp] theorem slewBack_stores  (s : State) : (slewBack s).stores = s.stores := by
  simp [slewBack]

@[simp] theorem takeDecision_stores (lap : BitVec 40) (s : State) : (takeDecision lap s).stores = s.stores := by
  simp [takeDecision]


/-! ### Packets -/

@[simp] theorem giveBack_stores (q : Queued) (s : State) : (giveBack q s).stores = s.stores := by
  unfold giveBack
  split <;> simp

@[simp] theorem dropAt_stores (k : Nat) (q : Queued) (s : State) : (dropAt k q s).stores = s.stores := by
  simp [dropAt]

@[simp] theorem enqueue_stores (k : Nat) (q : Queued) (s : State) : (enqueue k q s).stores = s.stores := by
  simp [enqueue]

@[simp] theorem abandonBook_stores (k : Nat) (s : State) : (abandonBook k s).stores = s.stores := by
  simp [abandonBook]

@[simp] theorem spokeFall_stores (k : Nat) (dest : BitVec 3) (s : State) : (spokeFall k dest s).stores = s.stores := by
  simp [spokeFall]

@[simp] theorem depart_stores (k : Nat) (q : Queued) (s : State) : (depart k q s).stores = s.stores := by
  simp [depart]

@[simp] theorem noteChunk_stores (n : Nat) (a : AllotSt) (p : Packet) (s : State) :
    (noteChunk n a p s).1.stores = s.stores := by
  unfold noteChunk
  split <;> simp

@[simp] theorem packetIncrement_stores (p : Packet) (s : State) : (packetIncrement p s).stores = s.stores := by
  simp [packetIncrement]

@[simp] theorem discard_stores (k : Nat) (p : Packet) (cause : Nat) (headerFailed : Bool) (s : State) :
    (discard k p cause headerFailed s).stores = s.stores := by
  simp [discard]

@[simp] theorem authDiscard_stores (k : Nat) (p : Packet) (s : State) : (authDiscard k p s).stores = s.stores := by
  simp [authDiscard]

@[simp] theorem freeNow_stores (k : Nat) (p : Packet) (s : State) : (freeNow k p s).stores = s.stores := by
  simp [freeNow]

@[simp] theorem intoIngress_stores (k : Nat) (p : Packet) (q : Queued) (s : State) :
    (intoIngress k p q s).stores = s.stores := by
  simp [intoIngress]

@[simp] theorem forward_stores (k : Nat) (p : Packet) (s : State) : (forward k p s).stores = s.stores := by
  unfold forward
  dsimp only
  split <;> simp

@[simp] theorem acceptPacket_stores (k : Nat) (p : Packet) (s : State) : (acceptPacket k p s).stores = s.stores := by
  unfold acceptPacket
  dsimp only
  split
  · simp
  · split
    · simp
    · split
      · simp
      · split
        · split <;> simp
        · simp

@[simp] theorem ringEnter_stores (g j : Nat) (s : State) : (ringEnter g j s).stores = s.stores := by
  unfold ringEnter
  split
  · rfl
  · split
    · rfl
    · split <;> simp

@[simp] theorem drainEnd_stores  (s : State) : (drainEnd s).stores = s.stores := by
  simp [drainEnd]


/-! ### Reset -/

@[simp] theorem requeue_stores (l : List Event) (s : State) : (requeue l s).stores = s.stores := by
  simp [requeue]

@[simp] theorem replayEvents_stores (l : List Event) (code : Word) (s : State) :
    (replayEvents l code s).stores = s.stores := by
  simp [replayEvents]

@[simp] theorem tellSave_stores  (s : State) : (tellSave s).stores = s.stores := by
  unfold tellSave
  split <;> simp

@[simp] theorem restoreFaults_stores  (s : State) : (restoreFaults s).stores = s.stores := by
  unfold restoreFaults
  split <;> simp

@[simp] theorem readOdo_stores  (s : State) : (readOdo s).stores = s.stores := by
  simp [readOdo]

@[simp] theorem enterS0_stores  (s : State) : (enterS0 s).stores = s.stores := by
  simp [enterS0]

@[simp] theorem beginAllotReset_stores (p : Port) (n : Nat) (s : State) : (beginAllotReset p n s).stores = s.stores := by
  unfold beginAllotReset
  split <;> simp

@[simp] theorem dropLinks_stores  (s : State) : (dropLinks s).stores = s.stores := by
  simp [dropLinks]


/-! ### LinkKey -/

@[simp] theorem modKey_stores (k : Nat) (f : LinkKey → LinkKey) (s : State) : (modKey k f s).stores = s.stores := by
  simp [modKey]

@[simp] theorem sendKeyMsg_stores (k : Nat) (msg : Byte) (body : List Byte) (s : State) :
    (sendKeyMsg k msg body s).stores = s.stores := by
  simp [sendKeyMsg]

@[simp] theorem startKeying_stores (k : Nat) (s : State) : (startKeying k s).stores = s.stores := by
  simp [startKeying]

@[simp] theorem endAttempt_stores (k : Nat) (s : State) : (endAttempt k s).stores = s.stores := by
  simp [endAttempt]

@[simp] theorem abortKeying_stores (k : Nat) (s : State) : (abortKeying k s).stores = s.stores := by
  simp [abortKeying]

theorem takeMsg_stores {k : Nat} {msg : Byte} {s t : State} {b : List Byte} (h : takeMsg k msg s = some (b, t)) :
    t.stores = s.stores := by
  unfold takeMsg at h
  split at h
  · cases h
  · split at h <;> cases h
    simp

theorem takeThis_stores {k : Nat} {msg : Byte} {b : List Byte} {s t : State} (h : takeThis k msg b s = some t) :
    t.stores = s.stores := by
  unfold takeThis at h
  split at h
  · cases h
  · split at h <;> cases h
    exact takeMsg_stores ‹_›


/-! ### Spoke -/

@[simp] theorem writeSelf_stores (data : Word) (s : State) : (writeSelf data s).stores = s.stores := by
  simp [writeSelf]

@[simp] theorem startTraining_stores (k : Nat) (s : State) : (startTraining k s).stores = s.stores := by
  simp [startTraining]

@[simp] theorem strobeHold_stores (h : Nat) (t : Time) (s : State) : (strobeHold h t s).stores = s.stores := by
  simp [strobeHold]

@[simp] theorem spokeUp_stores (k : Nat) (s : State) : (spokeUp k s).stores = s.stores := by
  simp [spokeUp]

@[simp] theorem upIfReady_stores (k : Nat) (s : State) : (upIfReady k s).stores = s.stores := by
  simp [upIfReady]

@[simp] theorem recordAcked_stores (k : Nat) (s : State) : (recordAcked k s).stores = s.stores := by
  simp [recordAcked]

@[simp] theorem setOutcome_stores (k : Nat) (o : BitVec 4 × BitVec 6) (s : State) : (setOutcome k o s).stores = s.stores := by
  simp [setOutcome]

@[simp] theorem applyPlan_stores (keep : BitVec 36) (s : State) : (applyPlan keep s).stores = s.stores := by
  simp [applyPlan]

@[simp] theorem writePlanCtl_stores (recheck : Bool) (open_ : Bool) (s : State) :
    (writePlanCtl recheck open_ s).stores = s.stores := by
  simp [writePlanCtl]


/-! ### Boot -/

@[simp] theorem bootFail_stores (code : Word) (die : BitVec 3) (array : Byte) (s : State) :
    (bootFail code die array s).stores = s.stores := by
  simp [bootFail]

@[simp] theorem bootDone_stores  (s : State) : (bootDone s).stores = s.stores := by
  simp [bootDone]

@[simp] theorem stepMs_stores (ms : BitVec 16) (s : State) : (stepMs ms s).stores = s.stores := by
  simp [stepMs]

@[simp] theorem s0Done_stores  (s : State) : (s0Done s).stores = s.stores := by
  simp [s0Done]

@[simp] theorem s1End_stores  (s : State) : (s1End s).stores = s.stores := by
  simp [s1End]

@[simp] theorem cleanSectors_stores (bank : Bool) (s : State) : (cleanSectors bank s).stores = s.stores := by
  simp [cleanSectors]

@[simp] theorem activationAtS2_stores (booted : Bool) (s : State) : (activationAtS2 booted s).stores = s.stores := by
  simp [activationAtS2]

@[simp] theorem loadSettings_stores  (s : State) : (loadSettings s).stores = s.stores := by
  simp [loadSettings]

@[simp] theorem s2Done_stores  (s : State) : (s2Done s).stores = s.stores := by
  simp [s2Done]

@[simp] theorem s3Done_stores (s : State) : (s3Done s).stores = s.stores := by
  unfold s3Done
  dsimp only
  split
  · simp
  · split <;> simp

@[simp] theorem trainStack_stores (i : Nat) (present : Bool) (trained : Bool) (lanes : BitVec 8) (exhausted : Bool)
    (s : State) :
    (trainStack i present trained lanes exhausted s).stores = s.stores := by
  simp [trainStack]

@[simp] theorem bridgesUp_stores  (s : State) : (bridgesUp s).stores = s.stores := by
  simp [bridgesUp]

@[simp] theorem makeCredential_stores  (s : State) : (makeCredential s).stores = s.stores := by
  simp [makeCredential]

@[simp] theorem startArrays_stores  (s : State) : (startArrays s).stores = s.stores := by
  simp [startArrays]

@[simp] theorem katPll_stores (u : KatUnit) (g5 : Bool) (s : State) : (katPll u g5 s).stores = s.stores := by
  unfold katPll
  split <;> simp

@[simp] theorem finishActivation_stores  (s : State) : (finishActivation s).stores = s.stores := by
  simp [finishActivation]

@[simp] theorem endKats_stores  (s : State) : (endKats s).stores = s.stores := by
  simp [endKats]

@[simp] theorem timedOut_stores (ms : BitVec 16) (s : State) : (timedOut ms s).stores = s.stores := by
  simp [timedOut]

@[simp] theorem enterStep_stores (n : Nat) (s : State) : (enterStep n s).stores = s.stores := by
  unfold enterStep
  split <;> simp

@[simp] theorem advance_stores (n : Nat) (s : State) : (advance n s).stores = s.stores := by
  simp [advance]


/-! ### Ports -/

@[simp] theorem sendMsi_stores (p : Port) (vector : BitVec 11) (s : State) : (sendMsi p vector s).stores = s.stores := by
  simp [sendMsi]

@[simp] theorem disableRing_stores (r : Nat) (s : State) : (disableRing r s).stores = s.stores := by
  simp [disableRing]

@[simp] theorem disableRings_stores (p : Port) (s : State) : (disableRings p s).stores = s.stores := by
  simp [disableRings]

@[simp] theorem resetPort_stores (p : Port) (s : State) : (resetPort p s).stores = s.stores := by
  simp [resetPort]

@[simp] theorem tdiError_stores (p : Port) (s : State) : (tdiError p s).stores = s.stores := by
  simp [tdiError]

@[simp] theorem guarded_stores (p : Port) (f : State → State) (s : State) (h : ∀ s, (f s).stores = s.stores) :
    (guarded p f s).stores = s.stores := by
  unfold guarded
  split <;> simp [h]

@[simp] theorem giveSteward_stores (p : Port) (s : State) : (giveSteward p s).stores = s.stores := by
  simp [giveSteward]

@[simp] theorem claimSteward_stores (p : Port) (s : State) : (claimSteward p s).stores = s.stores := by
  simp [claimSteward]

@[simp] theorem strobeSched_stores (t : Time) (s : State) : (strobeSched t s).stores = s.stores := by
  simp [strobeSched]

@[simp] theorem strobeRest_stores (p : Nat) (t : Time) (s : State) : (strobeRest p t s).stores = s.stores := by
  simp [strobeRest]

@[simp] theorem applyStrobe_stores (g : Nat) (t : Time) (s : State) : (applyStrobe g t s).stores = s.stores := by
  simp [applyStrobe]

@[simp] theorem strobeWrite_stores (g : Nat) (f : State → State) (s : State) (h : ∀ s, (f s).stores = s.stores) :
    (strobeWrite g f s).stores = s.stores := by
  simp [strobeWrite, h]

@[simp] theorem owesStrobe_stores (g : Nat) (s : State) : (owesStrobe g s).stores = s.stores := by
  simp [owesStrobe]

@[simp] theorem applyDue_stores (g : Nat) (s : State) : (applyDue s g).stores = s.stores := by
  simp [applyDue]

@[simp] theorem beginCycle_stores  (s : State) : (beginCycle s).stores = s.stores := by
  simp [beginCycle]

@[simp] theorem armStrobe_stores (g : Nat) (s : State) : (armStrobe g s).stores = s.stores := by
  simp [armStrobe]

@[simp] theorem cancelStrobe_stores (g : Nat) (s : State) : (cancelStrobe g s).stores = s.stores := by
  simp [cancelStrobe]


/-! ### Rings -/

@[simp] theorem enableRing_stores (p : Port) (r : Nat) (data : Word) (s : State) :
    (enableRing p r data s).stores = s.stores := by
  simp [enableRing]

@[simp] theorem clearRing_stores (p : Port) (r : Nat) (data : Word) (s : State) :
    (clearRing p r data s).stores = s.stores := by
  simp [clearRing]

@[simp] theorem ringMessage_stores (p : Port) (r : Nat) (s : State) : (ringMessage p r s).stores = s.stores := by
  simp [ringMessage]


/-! ### Load -/

@[simp] theorem refuseLoad_stores (p : Port) (tag : Word) (addr : BitVec 64) (head : BitVec 16) (r : Refuse) (s : State) :
    (refuseLoad p tag addr head r s).stores = s.stores := by
  simp [refuseLoad]

@[simp] theorem actLoad_stores (p : Port) (b : List Byte) (head : BitVec 16) (s : State) :
    (actLoad p b head s).stores = s.stores := by
  unfold actLoad
  split
  · simp
  · dsimp only
    split
    · simp
    · split <;> simp

@[simp] theorem claimRun_stores (g : Img) (n : Nat) (r : Nat × Nat × Nat) (s : State) :
    (claimRun g n r s).stores = s.stores := by
  simp [claimRun]

@[simp] theorem claimStrobes_stores (g : Img) (a : Nat) (n : Nat) (s : State) : (claimStrobes g a n s).stores = s.stores := by
  simp [claimStrobes]

@[simp] theorem commitRoutes_stores (image : Nat) (start : Option (BitVec 40)) (g : Img) (s : State) :
    (commitRoutes image start g s).stores = s.stores := by
  simp [commitRoutes]


/-! ### Commands -/

theorem onAllots_stores (p : Port) (b : List Byte) (head : BitVec 16) (dirt : List (Nat × Nat)) (bad : BitVec 16)
    (f : List Nat → State → State) (s : State) (h : ∀ l, (f l s).stores = s.stores) :
    (onAllots p b head dirt bad f s).stores = s.stores := by
  unfold onAllots
  split
  · simp
  · simp [h]

@[simp] theorem actStart_stores (p : Port) (b : List Byte) (head : BitVec 16) (s : State) :
    (actStart p b head s).stores = s.stores := by
  refine onAllots_stores p b head _ _ _ s fun l => ?_
  dsimp only
  split <;> simp

@[simp] theorem cancelSwitch_stores (image : Nat) (s : State) : (cancelSwitch image s).stores = s.stores := by
  simp [cancelSwitch]

@[simp] theorem dropImage_stores (image : Nat) (s : State) : (dropImage image s).stores = s.stores := by
  simp [dropImage]

@[simp] theorem quietAllot_stores (n : Nat) (s : State) : (quietAllot n s).stores = s.stores := by
  simp [quietAllot]

@[simp] theorem releaseDone_stores (d : Dying) (s : State) : (releaseDone d s).stores = s.stores := by
  simp [releaseDone]

@[simp] theorem moveAllots_stores (to_ : Port) (l : List Nat) (s : State) : (moveAllots to_ l s).stores = s.stores := by
  simp [moveAllots]

@[simp] theorem actGive_stores (p : Port) (b : List Byte) (head : BitVec 16) (s : State) :
    (actGive p b head s).stores = s.stores :=
  onAllots_stores p b head _ _ _ s fun l => by simp

@[simp] theorem actTake_stores (p : Port) (b : List Byte) (head : BitVec 16) (s : State) :
    (actTake p b head s).stores = s.stores :=
  onAllots_stores p b head _ _ _ s fun l => by simp

@[simp] theorem actRun_stores (n : Nat) (b : List Byte) (head : BitVec 16) (s : State) :
    (actRun n b head s).stores = s.stores := by
  unfold actRun
  split
  · rfl
  · dsimp only
    split
    · simp
    · split
      · simp
      · split <;> simp


/-! ### Pair -/

@[simp] theorem setActive_stores (r : Nat) (g : Bool) (s : State) : (setActive r g s).stores = s.stores := by
  unfold setActive
  split <;> simp

@[simp] theorem failUnit_stores (r : Nat) (g : Bool) (src : BitVec 4) (s : State) :
    (failUnit r g src s).stores = s.stores := by
  simp [failUnit]

@[simp] theorem notePair_stores (d : BitVec 16) (s : State) : (notePair d s).stores = s.stores := by
  simp [notePair]

@[simp] theorem failover_stores (r : Nat) (g : Bool) (src : BitVec 4) (s : State) :
    (failover r g src s).stores = s.stores := by
  simp [failover]

@[simp] theorem losePair_stores (r : Nat) (g : Bool) (src : BitVec 4) (s : State) :
    (losePair r g src s).stores = s.stores := by
  simp [losePair]

@[simp] theorem unitError_stores (r : Nat) (g : Bool) (src : BitVec 4) (s : State) :
    (unitError r g src s).stores = s.stores := by
  simp [unitError]

@[simp] theorem takeBack_stores  (s : State) : (takeBack s).stores = s.stores := by
  simp [takeBack]


/-! ### Scrub -/

@[simp] theorem scrub_stores (w : Nat) (s : State) : (scrub w s).stores = s.stores := by
  unfold scrub
  split <;> rename_i h <;> simp [stores_of_eq h]

/-- The length of a channel's walk is taken as any number: the kernel must not multiply it out. -/
@[simp] theorem scrubNext_stores (u : ScrubUnit) (s : State) : (scrubNext u s).stores = s.stores := by
  unfold scrubNext
  obtain ⟨n, hn⟩ : ∃ n, n = s.capGib.toNat * 2 ^ 25 := ⟨_, rfl⟩
  rw [← hn]
  split <;> simp

@[simp] theorem scrubLap_stores (s : State) : (scrubLap s).stores = s.stores := by
  simp only [scrubLap, stores_mk, stores_eta]
  rw [stores_foldl]
  intro t u
  rw [stores_foldl]
  exact fun t _ => scrubNext_stores u t


/-! ### Lap -/

@[simp] theorem updateOdo_stores (prk : List Byte) (s : State) : (updateOdo prk s).stores = s.stores := by
  simp [updateOdo]

@[simp] theorem odoLap_stores  (s : State) : (odoLap s).stores = s.stores := by
  simp [odoLap]

@[simp] theorem boundaryMark_stores (mark : Bool) (clean : Bool) (s : State) :
    (boundaryMark mark clean s).stores = s.stores := by
  simp [boundaryMark]

@[simp] theorem newLap_stores  (s : State) : (newLap s).stores = s.stores := by
  simp [newLap]

@[simp] theorem deferSwitch_stores  (s : State) : (deferSwitch s).stores = s.stores := by
  unfold deferSwitch
  split <;> simp

@[simp] theorem activationRefused_stores (result : BitVec 4) (s : State) :
    (activationRefused result s).stores = s.stores := by
  simp [activationRefused]

@[simp] theorem freshAcc_stores  (s : State) : (freshAcc s).stores = s.stores := by
  simp [freshAcc]

@[simp] theorem closeLap_stores (m : LapMeasure) (s : State) : (closeLap m s).stores = s.stores := by
  simp [closeLap]

@[simp] theorem sameEdge_stores  (s : State) : (sameEdge s).stores = s.stores := by
  simp [sameEdge]

@[simp] theorem endTick_stores  (s : State) : (endTick s).stores = s.stores := by
  simp [endTick]

@[simp] theorem countTick_stores  (s : State) : (countTick s).stores = s.stores := by
  simp [countTick]

@[simp] theorem idleCycle_stores  (s : State) : (idleCycle s).stores = s.stores := by
  simp [idleCycle]


/-! ### Lodge -/

@[simp] theorem serve_stores (p : Port) (op : Nat) (f : List Byte → State → Answer) (s : State)
    (h : ∀ b s, (f b s).2.2.stores = s.stores) : (serve p op f s).stores = s.stores := by
  unfold serve
  dsimp only
  split_ifs <;> simp [h]

@[simp] theorem makeReport_stores (p : Port) (req : List Byte) (s : State) : (makeReport p req s).2.2.stores = s.stores := by
  unfold makeReport
  split_ifs <;> simp

@[simp] theorem openSession_stores (p : Port) (req : List Byte) (s : State) : (openSession p req s).2.2.stores = s.stores := by
  unfold openSession
  dsimp only
  split_ifs
  · rfl
  · rfl
  · rfl
  · split
    · rfl
    · split_ifs <;> simp

@[simp] theorem putSession_stores (x : Session) (s : State) : (putSession x s).stores = s.stores := by
  simp [putSession]

@[simp] theorem sessionMsg_stores (n : Nat) (f : Session → List Byte → State → Answer) (req : List Byte) (s : State)
    (h : ∀ x b s, (f x b s).2.2.stores = s.stores) : (sessionMsg n f req s).2.2.stores = s.stores := by
  unfold sessionMsg
  split_ifs
  · rfl
  · split
    · rfl
    · split
      · rfl
      · exact h _ _ _

@[simp] theorem holdKey_stores (x : Session) (plain : List Byte) (s : State) : (holdKey x plain s).2.2.stores = s.stores := by
  unfold holdKey
  dsimp only
  split_ifs <;> simp

@[simp] theorem sendTelemetry_stores (x : Session) (b : List Byte) (s : State) : (sendTelemetry x b s).2.2.stores = s.stores := by
  simp [sendTelemetry]

@[simp] theorem endSession_stores (x : Session) (b : List Byte) (s : State) : (endSession x b s).2.2.stores = s.stores := by
  simp [endSession]

@[simp] theorem giveCredential_stores (req : List Byte) (s : State) : (giveCredential req s).2.2.stores = s.stores := by
  unfold giveCredential
  split_ifs <;> rfl

@[simp] theorem spdmSend_stores (p : Port) (a : Answered) : (spdmSend p a).stores = a.2.2.stores := rfl

@[simp] theorem spdmError_stores  (s : State) : (spdmError s).2.2.stores = s.stores := by
  simp [spdmError]

@[simp] theorem spdmSigned_stores (code : Byte) (data : List Byte) (s : State) :
    (spdmSigned code data s).2.2.stores = s.stores := by
  simp [spdmSigned]

@[simp] theorem modSpdm_stores (p : Port) (f : Spdm → Spdm) (s : State) : (modSpdm p f s).stores = s.stores := by
  simp [modSpdm]

@[simp] theorem spdmExchange_stores (p : Port) (nonce : List Byte) (point : List Byte) (s : State) :
    (spdmExchange p nonce point s).2.2.stores = s.stores := by
  simp [spdmExchange]

@[simp] theorem spdmFinish_stores (p : Port) (mac : List Byte) (s : State) : (spdmFinish p mac s).2.2.stores = s.stores := by
  unfold spdmFinish
  split
  · simp
  · split <;> simp

@[simp] theorem ideProgram_stores (p : Port) (stream : Fin 2) (key : List Byte) (s : State) :
    (ideProgram p stream key s).2.2.stores = s.stores := by
  unfold ideProgram
  split <;> simp

@[simp] theorem moveTdi_stores (p : Port) (src : Tdi) (dst : Tdi) (code : Byte) (s : State) :
    (moveTdi p src dst code s).2.2.stores = s.stores := by
  unfold moveTdi
  split <;> simp

@[simp] theorem spdmAnswer_stores (p : Port) (inside : Bool) (req : SpdmRequest) (s : State) :
    (spdmAnswer p inside req s).2.2.stores = s.stores := by
  cases req with
  | measurement i nonce =>
    unfold spdmAnswer
    dsimp only
    split <;> simp
  | finish mac => cases inside <;> simp [spdmAnswer]
  | endSession => cases inside <;> simp [spdmAnswer]
  | ideKeys stream key => cases inside <;> simp [spdmAnswer]
  | _ => simp [spdmAnswer]

@[simp] theorem spdmSecured_stores (p : Port) (record : List Byte) (s : State) : (spdmSecured p record s).stores = s.stores := by
  unfold spdmSecured
  dsimp only
  split <;> simp


/-! ### Window -/

@[simp] theorem writeWin_stores (p : Port) (n : Nat) (data : Word) (s : State) : (writeWin p n data s).stores = s.stores := by
  unfold writeWin
  split <;> simp

@[simp] theorem writeSched_stores (p : Port) (n : Nat) (data : Word) (s : State) :
    (writeSched p n data s).stores = s.stores := by
  unfold writeSched
  split <;> simp

@[simp] theorem hostRead_stores (p : Port) (path : List PathNoise) (k w : Nat) (s : State) :
    (hostRead p path k w s).1.stores = s.stores := by
  unfold hostRead
  split <;> rename_i h <;> simp [stores_of_eq h]

@[simp] theorem readSlice_stores (p : Port) (path : List PathNoise) (k : Nat) (e : Nat × Nat) (s : State) :
    (readSlice p path k e s).1.stores = s.stores := by
  unfold readSlice
  split <;> simp


/-! ### Mgmt -/

@[simp] theorem aonCcc_stores (f : State → State) (s : State) (h : ∀ s, (f s).stores = s.stores) :
    (aonCcc f s).stores = s.stores := by
  simp [aonCcc, h]

@[simp] theorem ccc_stores (f : State → State) (s : State) (h : ∀ s, (f s).stores = s.stores) :
    (ccc f s).stores = s.stores := by
  simp [ccc, h]

@[simp] theorem cccData_stores (b : List Byte) (s : State) : (cccData b s).stores = s.stores := by
  simp [cccData]

@[simp] theorem transfer_stores (f : State → State) (s : State) (h : ∀ s, (f s).stores = s.stores) :
    (transfer f s).stores = s.stores := by
  simp [transfer, h]

@[simp] theorem reply_stores (type : Byte) (cmd : Byte) (cc : Byte) (data : List Byte) (s : State) :
    (reply type cmd cc data s).stores = s.stores := by
  simp [reply]

@[simp] theorem pldm_stores (type : Byte) (cmd : Byte) (f : State → State) (s : State) (h : ∀ s, (f s).stores = s.stores) :
    (pldm type cmd f s).stores = s.stores := by
  simp [pldm, h]

@[simp] theorem control_stores (cmd : Byte) (cc : Byte) (data : List Byte) (s : State) :
    (control cmd cc data s).stores = s.stores := by
  simp [control]

@[simp] theorem announce_stores  (s : State) : (announce s).stores = s.stores := by
  simp [announce]

@[simp] theorem dropAddress_stores  (s : State) : (dropAddress s).stores = s.stores := by
  simp [dropAddress]

@[simp] theorem setEffecter_stores (cmd : Byte) (ok : Bool) (f : State → State) (s : State) (h : ∀ s, (f s).stores = s.stores) :
    (setEffecter cmd ok f s).stores = s.stores := by
  simp [setEffecter, h]

@[simp] theorem queueSetting_stores (id : BitVec 8) (v : BitVec 16) (s : State) :
    (queueSetting id v s).stores = s.stores := by
  simp [queueSetting]

@[simp] theorem writeSettings_stores (f : Flash → Flash) (s : State) : (writeSettings f s).stores = s.stores := by
  simp [writeSettings]

@[simp] theorem applySetting_stores (id : BitVec 8) (v : BitVec 16) (s : State) :
    (applySetting id v s).stores = s.stores := by
  simp [applySetting]


/-! ### Update -/

@[simp] theorem modUpd_stores (f : Upd → Upd) (s : State) : (modUpd f s).stores = s.stores := by
  simp [modUpd]

@[simp] theorem updateEvent_stores  (s : State) : (updateEvent s).stores = s.stores := by
  simp [updateEvent]

@[simp] theorem modSpare_stores (f : Bank → Bank) (s : State) : (modSpare f s).stores = s.stores := by
  simp [modSpare]

@[simp] theorem openUpd_stores (tray : Bool) (head : List (List Byte)) (s : State) :
    (openUpd tray head s).stores = s.stores := by
  simp [openUpd]

@[simp] theorem headerCheck_stores (tray : Bool) (s : State) : (headerCheck tray s).stores = s.stores := by
  simp [headerCheck]

@[simp] theorem beginPiece_stores  (s : State) : (beginPiece s).stores = s.stores := by
  unfold beginPiece
  split <;> simp

@[simp] theorem takePiece_stores (tray : Bool) (i : Nat) (b : List Byte) (s : State) :
    (takePiece tray i b s).1.stores = s.stores := by
  unfold takePiece
  dsimp only
  split_ifs <;> simp

@[simp] theorem tableCheck_stores (b : Bundle) (s : State) : (tableCheck b s).stores = s.stores := by
  simp [tableCheck]

@[simp] theorem afterPiece_stores (tray : Bool) (i : Nat) (s : State) : (afterPiece tray i s).stores = s.stores := by
  unfold afterPiece
  split <;> simp

@[simp] theorem reportVerified_stores  (s : State) : (reportVerified s).stores = s.stores := by
  simp [reportVerified]

@[simp] theorem askNext_stores (s : State) : (askNext s).stores = s.stores := by
  unfold askNext
  split
  · split
    · simp
    · dsimp only
      split <;> simp
  · rfl

@[simp] theorem askAfter_stores (hadBundle : Bool) (s : State) : (askAfter hadBundle s).stores = s.stores := by
  simp [askAfter]

@[simp] theorem closeUpd_stores (result : BitVec 4) (s : State) : (closeUpd result s).stores = s.stores := by
  simp [closeUpd]

@[simp] theorem dropSector_stores (i : Nat) (s : State) : (dropSector i s).stores = s.stores := by
  simp [dropSector]

@[simp] theorem submitWindow_stores (piece : BitVec 15) (s : State) : (submitWindow piece s).stores = s.stores := by
  simp [submitWindow]

@[simp] theorem armUpd_stores  (s : State) : (armUpd s).stores = s.stores := by
  simp [armUpd]

@[simp] theorem cancelUpd_stores  (s : State) : (cancelUpd s).stores = s.stores := by
  simp [cancelUpd]

@[simp] theorem agentData_stores (i : Nat) (data : List Byte) (s : State) : (agentData i data s).stores = s.stores := by
  simp [agentData]


/-! ### Registers -/

@[simp] theorem writeMailbox_stores (p : Port) (w : Nat) (v : Word) (s : State) :
    (writeMailbox p w v s).stores = s.stores := by
  simp [writeMailbox]

@[simp] theorem writeSpace_stores (p : Port) (space : Nat) (w : Nat) (v : Word) (s : State) :
    (writeSpace p space w v s).stores = s.stores := by
  unfold writeSpace
  split <;> simp

@[simp] theorem indirect_stores (p : Port) (write : Option Word) (s : State) : (indirect p write s).stores = s.stores := by
  unfold indirect
  split <;> simp

@[simp] theorem writeSteward_stores (p : Port) (data : Word) (s : State) : (writeSteward p data s).stores = s.stores := by
  simp [writeSteward]

@[simp] theorem writeSgrpSel_stores (data : Word) (s : State) : (writeSgrpSel data s).stores = s.stores := by
  simp [writeSgrpSel]

@[simp] theorem writeStrobeCtl_stores (g : Nat) (data : Word) (s : State) : (writeStrobeCtl g data s).stores = s.stores := by
  simp [writeStrobeCtl]

@[simp] theorem writeStrobe_stores (g : Nat) (o : Nat) (data : Word) (s : State) :
    (writeStrobe g o data s).stores = s.stores := by
  unfold writeStrobe
  split <;> simp

@[simp] theorem writeRing_stores (p : Port) (r : Nat) (o : Nat) (data : Word) (s : State) :
    (writeRing p r o data s).stores = s.stores := by
  simp [writeRing]

@[simp] theorem writeEvtEn_stores (p : Port) (data : Word) (s : State) : (writeEvtEn p data s).stores = s.stores := by
  simp [writeEvtEn]

@[simp] theorem releaseMsi_stores (p : Port) (v : Nat) (s : State) : (releaseMsi p v s).stores = s.stores := by
  simp [releaseMsi]

@[simp] theorem writeMsix_stores (p : Port) (o : Nat) (data : Word) (s : State) :
    (writeMsix p o data s).stores = s.stores := by
  simp [writeMsix]

@[simp] theorem writeCad_stores (o : Nat) (data : Word) (s : State) : (writeCad o data s).stores = s.stores := by
  unfold writeCad
  split <;> simp

@[simp] theorem writeSched'_stores (data : Word) (s : State) : (writeSched' data s).stores = s.stores := by
  simp [writeSched']

@[simp] theorem writePwr_stores (o : Nat) (data : Word) (s : State) : (writePwr o data s).stores = s.stores := by
  unfold writePwr
  split <;> simp

@[simp] theorem writeActCtl_stores (data : Word) (s : State) : (writeActCtl data s).stores = s.stores := by
  simp [writeActCtl]

@[simp] theorem writePieceCtl_stores (data : Word) (s : State) : (writePieceCtl data s).stores = s.stores := by
  simp [writePieceCtl]

@[simp] theorem writeUpd_stores (o : Nat) (data : Word) (s : State) : (writeUpd o data s).stores = s.stores := by
  simp [writeUpd]

@[simp] theorem writeHold_stores (h : Nat) (data : Word) (s : State) : (writeHold h data s).stores = s.stores := by
  simp [writeHold]

@[simp] theorem writeRest_stores (p : Nat) (data : Word) (s : State) : (writeRest p data s).stores = s.stores := by
  simp [writeRest]

/-- Where a place has a write, the write leaves the stores. -/
def LeavesStores (x : Option (Word → State → State)) : Prop := ∀ f ∈ x, ∀ v s, (f v s).stores = s.stores

theorem LeavesStores.ite {c : Prop} {_ : Decidable c} {f : Word → State → State} {x : Option (Word → State → State)}
    (hf : ∀ v s, (f v s).stores = s.stores) (hx : LeavesStores x) : LeavesStores (if c then some f else x) := by
  split
  · rintro _ ⟨⟩
    exact hf
  · exact hx
theorem globalWrite_stores (o : Nat) : LeavesStores (globalWrite o) := by
  refine .ite writeSgrpSel_stores <| .ite (writeStrobe_stores _ _) <| .ite (writeCad_stores _) <| .ite (writePwr_stores _) <|
    .ite (fun v s => advance_stores _ s) <| .ite (writeUpd_stores _) <| .ite (writeHold_stores 0) <| .ite (writeHold_stores 1) <|
    .ite (writeRest_stores 0) <| .ite (writeRest_stores 1) <| .ite (writeRest_stores 2) <| .ite (writeRest_stores 3) ?_
  exact fun _ h => nomatch h

@[simp] theorem portWrite_stores (p : Port) (o : Nat) (data : Word) (s : State) :
    (portWrite p o data s).stores = s.stores := by
  simp [portWrite]

@[simp] theorem regWrite_stores (p : Port) (o : Nat) (v : Word) (s : State) : (regWrite p o v s).stores = s.stores := by
  unfold regWrite
  split
  next h => exact stewardWrite_stores p _ s (globalWrite_stores o _ h v)
  next => split <;> simp

end Sys2Proof.Machine
end

section
/-! SUPPORT. The operations that write the stores, zero them or forget what stands in them: each keeps their canonical form. -/

namespace Sys2Proof.Machine

theorem stores_wf_iff (x : Stores) : x.wf = true ↔ Memory.wf x.mem = true ∧ Memory.zeroWf x.scr = true ∧
    Memory.zeroWf x.wslots = true ∧ Memory.zeroWf x.stage = true := by
  simp [Stores.wf, and_assoc]

/-- A state with the stores of reset: module memory as after the reset, the others zero. -/
@[simp] theorem stores_wf_nil : (Stores.mk [] [] [] []).wf = true := by decide

/-! ### Words -/

@[simp] theorem writeWord_wf (st w : Nat) (b : List Byte) (s : State) (h : s.stores.wf = true) :
    (writeWord st w b s).stores.wf = true := Laws.writeWord_storesWf st w b s h

@[simp] theorem bankWrite_wf (rank : Nat) (cycle : BitVec 4) (w : Nat) (b : List Byte) (s : State) (h : s.stores.wf = true) :
    (bankWrite rank cycle w b s).stores.wf = true := Laws.bankWrite_storesWf rank cycle w b s h

@[simp] theorem hubWrite_wf (st w : Nat) (b : List Byte) (s : State) (h : s.stores.wf = true) :
    (hubWrite st w b s).stores.wf = true := Laws.hubWrite_storesWf st w b s h

/-- A fold of steps that keep the canonical form keeps it. -/
theorem stores_foldl_wf {α : Type} (f : State → α → State) (hf : ∀ s x, s.stores.wf = true → (f s x).stores.wf = true) (l : List α)
    (s : State) (h : s.stores.wf = true) : (l.foldl f s).stores.wf = true :=
  List.foldlRecOn (motive := fun s : State => s.stores.wf = true) l f h fun s hs x _ => hf s x hs

/-- The same of a fold that carries something beside the state. -/
theorem stores_foldl_fst_wf {α β : Type} (f : State × β → α → State × β)
    (hf : ∀ r x, r.1.stores.wf = true → (f r x).1.stores.wf = true) (l : List α) (r : State × β) (h : r.1.stores.wf = true) :
    (l.foldl f r).1.stores.wf = true :=
  List.foldlRecOn (motive := fun r : State × β => r.1.stores.wf = true) l f h fun r hr x _ => hf r x hr

/-! ### Zeroing -/

theorem zeroCells_wf (m : List Host.Cell) (a n : Nat) (h : Memory.zeroWf m = true) : Memory.zeroWf (zeroCells m a n) = true :=
  Laws.zeroWf_filter _ m h

@[simp] theorem zeroGroup_wf (g : Nat) (s : State) (h : s.stores.wf = true) : (zeroGroup g s).stores.wf = true := by
  rw [stores_wf_iff] at h ⊢
  obtain ⟨hmem, hscr, hwslots, hstage⟩ := h
  exact ⟨hmem, zeroCells_wf s.scr _ _ hscr, hwslots, hstage⟩

@[simp] theorem zeroArray_wf (x : Nat) (s : State) (h : s.stores.wf = true) : (zeroArray x s).stores.wf = true := by
  rw [stores_wf_iff] at h ⊢
  obtain ⟨hmem, hscr, hwslots, hstage⟩ := h
  exact ⟨hmem, hscr, zeroCells_wf s.wslots _ _ hwslots, hstage⟩

@[simp] theorem zeroStage_wf (g off n : Nat) (s : State) (h : s.stores.wf = true) : (zeroStage g off n s).stores.wf = true := by
  rw [stores_wf_iff] at h ⊢
  obtain ⟨hmem, hscr, hwslots, hstage⟩ := h
  exact ⟨hmem, hscr, hwslots, zeroCells_wf s.stage _ _ hstage⟩

@[simp] theorem zeroAllot_wf (a : AllotSt) (s : State) (h : s.stores.wf = true) : (zeroAllot a s).stores.wf = true := by
  have hg := stores_foldl_wf (fun s g => zeroGroup g s) (fun s g => zeroGroup_wf g s) (setBits a.groups) s h
  have hx := stores_foldl_wf (fun s x => zeroArray x s) (fun s x => zeroArray_wf x s) a.arrayIxs _ hg
  rw [zeroAllot, stores_mk, stores_eta]
  refine stores_foldl_wf _ (fun s b hs => ?_) _ _ hx
  exact zeroStage_wf _ _ _ s hs

@[simp] theorem zeroAll_wf (s : State) (h : s.stores.wf = true) : (zeroAll s).stores.wf = true := by
  rw [stores_wf_iff] at h ⊢
  exact ⟨h.1, rfl, rfl, rfl⟩

@[simp] theorem forgetParts_wf (a : AllotSt) (s : State) (h : s.stores.wf = true) : (forgetParts a s).stores.wf = true := by
  rw [stores_wf_iff] at h ⊢
  exact ⟨Laws.rising_filter _ s.mem h.1, h.2⟩

/-! ### Resets and laps -/

@[simp] theorem reset_stores : State.reset.stores = ⟨[], [], [], []⟩ := rfl

@[simp] theorem moduleReset_stores (s : State) : (moduleReset s).stores = State.reset.stores := by
  rw [moduleReset, stores_mk, stores_eta]

@[simp] theorem activate_stores (s : State) : (activate s).stores = State.reset.stores := by
  rw [activate, moduleReset_stores]

theorem activation_wf (s : State) (h : s.stores.wf = true) : (activation s).1.stores.wf = true := by
  unfold activation
  split_ifs <;> simp [h]

@[simp] theorem allotBoundary_wf (n : Nat) (s : State) (h : s.stores.wf = true) : (allotBoundary n s).stores.wf = true := by
  unfold allotBoundary
  split
  · exact h
  · split <;> simp [h]

@[simp] theorem openLap_wf (s : State) (h : s.stores.wf = true) : (openLap s).stores.wf = true := by
  simp only [openLap, beginCycle_stores, drainEnd_stores]
  exact stores_foldl_wf _ (fun s n => allotBoundary_wf n s) _ _ (by simp [h])

@[simp] theorem s6Done_wf (s : State) (h : s.stores.wf = true) : (s6Done s).stores.wf = true := by
  simp [s6Done, h]

@[simp] theorem endStep_wf (ms : BitVec 16) (s : State) (h : s.stores.wf = true) : (endStep ms s).stores.wf = true := by
  unfold endStep
  dsimp only
  split <;> simp [h, apply_ite Stores.wf]

/-! ### Allotments -/

@[simp] theorem freeAllot_wf (n : Nat) (s : State) (h : s.stores.wf = true) : (freeAllot n s).stores.wf = true := by
  unfold freeAllot
  split
  · exact h
  · simp [h]

@[simp] theorem releaseOne_wf (p : Port) (tag : Word) (head mask : BitVec 16) (s : State) (n : Nat) (h : s.stores.wf = true) :
    (releaseOne p tag head mask s n).stores.wf = true := by
  unfold releaseOne
  split
  · exact h
  · dsimp only
    split <;> simp [h]

theorem onAllots_wf (p : Port) (b : List Byte) (head : BitVec 16) (dirt : List (Nat × Nat)) (bad : BitVec 16)
    (f : List Nat → State → State) (s : State) (h : s.stores.wf = true) (hf : ∀ l, (f l s).stores.wf = true) :
    (onAllots p b head dirt bad f s).stores.wf = true := by
  unfold onAllots
  split
  · simp [h]
  · split
    · simp [h]
    · exact hf _

@[simp] theorem actRelease_wf (p : Port) (b : List Byte) (head : BitVec 16) (s : State) (h : s.stores.wf = true) :
    (actRelease p b head s).stores.wf = true := by
  refine onAllots_wf p b head _ _ _ s h fun l => ?_
  split_ifs
  · simp [h]
  · simp [h]
  · exact stores_foldl_wf _ (fun s n => releaseOne_wf p _ head _ s n) l s h

@[simp] theorem actEntry_wf (r : Nat) (b : List Byte) (head : BitVec 16) (s : State) (h : s.stores.wf = true) :
    (actEntry r b head s).stores.wf = true := by
  unfold actEntry
  split
  · simp [h]
  · dsimp only
    split <;> simp [h]

@[simp] theorem countEntries_wf (r : Nat) (l : List (List Byte)) (s : State) (h : s.stores.wf = true) :
    (countEntries r l s).stores.wf = true := by
  induction l generalizing s with
  | nil => exact h
  | cons b t ih =>
    rw [countEntries]
    split
    · exact ih _ (by simp [h])
    · exact h

@[simp] theorem copySect_wf (s : State) (e : Sect × Nat) (h : s.stores.wf = true) : (copySect s e).stores.wf = true := by
  unfold copySect
  refine stores_foldl_wf _ (fun s x hs => ?_) _ s h
  exact writeWord_wf 0 _ _ s hs

@[simp] theorem commitOne_wf (port : Bool) (image : Nat) (start : Option (BitVec 40)) (x : Option Session) (g : Img) (s : State)
    (e : Nat × Nat × AllotRec) (h : s.stores.wf = true) : (commitOne port image start x g s e).stores.wf = true := by
  simp only [commitOne, startShadow_stores, claimStrobes_stores, clearEntries_stores]
  rw [stores_foldl _ fun s q => claimRun_stores g _ q s]
  exact stores_foldl_wf _ copySect_wf _ _ (by simp [h])

@[simp] theorem commitImage_wf (ld : LoadSt) (g : Img) (s : State) (h : s.stores.wf = true) : (commitImage ld g s).stores.wf = true := by
  simp only [commitImage, commandDone_stores, State.emit_stores, commitRoutes_stores]
  exact stores_foldl_wf _ (fun s e => commitOne_wf _ _ _ _ g s _) _ _ (by simp [h])

@[simp] theorem endLoad_wf (ld : LoadSt) (image : List Byte) (s : State) (h : s.stores.wf = true) :
    (endLoad ld image s).stores.wf = true := by
  unfold endLoad
  split
  · simp [h]
  · split <;> simp [h]

/-! ### The staging window -/

@[simp] theorem hostPut_wf (p : Port) (path : List PathNoise) (k w : Nat) (b : List Byte) (s : State) (h : s.stores.wf = true) :
    (hostPut p path k w b s).stores.wf = true := by
  unfold hostPut
  dsimp only
  split <;> simp [h]

@[simp] theorem hostWord_wf (p : Port) (path : List PathNoise) (a : Nat) (data : List Byte) (s : State) (k w : Nat)
    (h : s.stores.wf = true) : (hostWord p path a data s k w).stores.wf = true := by
  unfold hostWord
  dsimp only
  split
  · simp [h]
  · split <;> rename_i hr <;> simp [stores_of_eq hr, h]

@[simp] theorem writeSlice_wf (p : Port) (path : List PathNoise) (k : Nat) (data : List Byte) (s : State) (offset : Nat)
    (h : s.stores.wf = true) : (writeSlice p path k data s offset).stores.wf = true := by
  unfold writeSlice
  split
  · exact h
  · refine stores_foldl_wf _ (fun s x hs => ?_) _ s h
    exact hostWord_wf p path _ data s _ _ hs

/-! ### The outputs of arrays -/

theorem putOutput_wf (x bank place : Nat) (cycle : BitVec 4) (path : List PathNoise) (out : List Byte) (s : State)
    (h : s.stores.wf = true) : (putOutput x bank place cycle path out s).1.stores.wf = true := by
  refine stores_foldl_fst_wf _ (fun r e hr => ?_) _ _ h
  dsimp only
  split
  · exact hr
  · split <;> simp [hr]

@[simp] theorem putOutputs_wf (n x : Nat) (al : AllotSt) (places : List (BitVec 17)) (cycle : BitVec 4) (path : List PathNoise)
    (entry : BitVec 24) (out : List Byte) (s : State) (h : s.stores.wf = true) :
    (putOutputs n x al places cycle path entry out s).stores.wf = true := by
  unfold putOutputs
  dsimp only
  split <;> [rw [arrayFault_stores]; skip]
  all_goals
    refine stores_foldl_fst_wf _ (fun r e hr => ?_) _ _ h
    split
    · exact hr
    · exact putOutput_wf x _ _ cycle path out r.1 hr

/-! ### The words of a mover -/

/-- The state that a write of a word leaves is in canonical form. -/
def Put.wf : Put → Prop
  | .ok s => s.stores.wf = true
  | .conflict _ => True
  | .fault s _ => s.stores.wf = true

/-- The state that a transferred word leaves is in canonical form. -/
def Step1.wf : Step1 → Prop
  | .ok s => s.stores.wf = true
  | .conflict s _ => s.stores.wf = true
  | .fault s _ => s.stores.wf = true

theorem Put.step_wf (s : State) (p : Put) (f : State → State) (h : s.stores.wf = true) (hp : p.wf)
    (hf : ∀ t, t.stores.wf = true → (f t).stores.wf = true) : (p.step s f).wf := by
  cases p with
  | ok t => exact hf t hp
  | conflict x => exact h
  | fault t code => exact hp

theorem putSlot_wf (x : Transfer) (a : Nat) (slot : Bool) (off : Nat) (b : List Byte) (s : State) (h : s.stores.wf = true) :
    (putSlot x a slot off b s).wf := by
  unfold putSlot
  split
  · trivial
  · dsimp only
    split
    · simp [Put.wf, h]
    · trivial

theorem putWord_wf (x : Transfer) (k addr : Nat) (b : List Byte) (s : State) (h : s.stores.wf = true) : (putWord x k addr b s).wf := by
  unfold putWord
  dsimp only
  split
  · exact h
  · simp [Put.wf, h]
  · simp only [Put.wf]
    split <;> simp [h]
  · exact putSlot_wf x _ _ _ _ _ (by simp [h])
  · simp [Put.wf, h]
  · simp [Put.wf, h]

theorem putWords_wf (x : Transfer) (k : Nat) (l : List (Nat × List Byte)) (s : State) (h : s.stores.wf = true) :
    (putWords x k l s).wf := by
  refine List.foldlRecOn (motive := Put.wf) _ _ h fun r hr e _ => ?_
  cases r with
  | ok t => exact putWord_wf x _ _ _ t hr
  | conflict y => exact hr
  | fault t code => exact hr

/-- The words that a transfer puts, and what it notes after them. -/
theorem putWords_step_wf (x : Transfer) (k : Nat) (l : List (Nat × List Byte)) (f : State → State) (s : State)
    (h : s.stores.wf = true) (hf : ∀ t, (f t).stores = t.stores) : ((putWords x k l s).step s f).wf :=
  Put.step_wf s _ f h (putWords_wf x k l s h) fun t ht => by rw [hf]; exact ht

theorem reduceWord_wf (x : Transfer) (b : List Byte) (s : State) (h : s.stores.wf = true) : (reduceWord x b s).wf := by
  have hf := fetchWord_stores x (x.place (x.dstAddr x.t.moved)) (x.t.desc.total + x.t.moved) (x.host.drop 32) s
  unfold reduceWord
  dsimp only
  split <;> rename_i hr <;> rw [hr] at hf
  · exact (congrArg Stores.wf hf).trans h
  · exact putWords_step_wf x _ _ _ _ ((congrArg Stores.wf hf).trans h) fun t => by simp

theorem decWord_wf (x : Transfer) (b : List Byte) (s : State) (h : s.stores.wf = true) : (decWord x b s).wf := by
  unfold decWord
  dsimp only
  split
  · split
    · exact h
    · exact putWords_step_wf x _ _ _ s h fun t => by simp
  · simp [Step1.wf, h]

theorem crcWord_wf (x : Transfer) (b : List Byte) (s : State) (h : s.stores.wf = true) : (crcWord x b s).wf := by
  unfold crcWord
  dsimp only
  split_ifs <;> exact putWords_step_wf x _ _ _ s h fun t => by simp

theorem sealWord_wf (x : Transfer) (b : List Byte) (s : State) (h : s.stores.wf = true) : (sealWord x b s).wf := by
  unfold sealWord
  dsimp only
  split
  · exact putWords_step_wf x _ _ _ s h fun t => by simp
  · simp [Step1.wf, h]

theorem transferWord_wf (x : Transfer) (s : State) (h : s.stores.wf = true) : (transferWord x s).wf := by
  have hg := getWord_stores x s
  unfold transferWord
  dsimp only
  split
  · exact h
  · split <;> rename_i hr <;> rw [hr] at hg
    · exact (congrArg Stores.wf hg).trans h
    · have ht := (congrArg Stores.wf hg).trans h
      split_ifs
      · exact reduceWord_wf x _ _ ht
      · exact decWord_wf x _ _ ht
      · exact crcWord_wf x _ _ ht
      · exact sealWord_wf x _ _ ht
      · exact putWords_step_wf x _ _ _ _ ht fun t => by simp

/-! ### Collectives and packets -/

theorem writeBuf_wf (gh : Nat) (path : List PathNoise) (k : Nat) (a : AllotSt) (id : BitVec 16) (off : Nat) (l : List Byte)
    (s : State) (h : s.stores.wf = true) : (writeBuf gh path k a id off l s).1.stores.wf = true := by
  unfold writeBuf
  split
  · exact h
  · refine stores_foldl_fst_wf _ (fun r e hr => ?_) _ _ h
    dsimp only
    split
    · exact hr
    · split <;> simp [hr]

theorem SegSend.share_wf (x : SegSend) (g k : Nat) (s : State) (h : s.stores.wf = true) : (x.share g k s).1.stores.wf = true := by
  unfold SegSend.share
  dsimp only
  split
  · have hw := fun b n t => writeBuf_wf g x.path n x.a (x.i.stage.recvBuf + BitVec.ofNat 16 x.own) (x.seg * x.i.slotLen) b t
    split <;> rename_i hr <;> rw [stores_of_eq hr] <;> exact hw _ _ _ (by simp [h])
  · rw [stores_foldl] <;> simp [h]

theorem SegSend.engine_wf (x : SegSend) (s : State) (g : Nat) (h : s.stores.wf = true) : (x.engine s g).stores.wf = true := by
  unfold SegSend.engine
  split <;> rename_i hr <;> [rw [planFault_stores, stores_of_eq hr]; rw [stores_of_eq hr]]
  all_goals
    refine stores_foldl_fst_wf _ (fun r k hr => ?_) _ _ h
    dsimp only
    split
    · exact hr
    · exact SegSend.share_wf x g k r.1 hr

@[simp] theorem sendSegment_wf (x : SegSend) (s : State) (h : s.stores.wf = true) : (sendSegment x s).stores.wf = true :=
  stores_foldl_wf _ (SegSend.engine_wf x) _ s h

@[simp] theorem deliver_wf (g : Nat) (path : List PathNoise) (withheld : Bool) (p : Packet) (s : State) (h : s.stores.wf = true) :
    (deliver g path withheld p s).stores.wf = true := by
  unfold deliver
  split
  · split
    · exact h
    · rename_i n a _
      have hw := writeBuf_wf g path 0 a p.buf p.offset.toNat p.payload s h
      split <;> rename_i hr <;> rw [hr] at hw
      · rw [allotFault_stores]
        exact hw
      · dsimp only
        split_ifs <;> simpa using hw
  · split <;> simp [h]

@[simp] theorem deliverQueued_wf (g : Nat) (path : List PathNoise) (q : Queued) (s : State) (h : s.stores.wf = true) :
    (deliverQueued g path q s).stores.wf = true := by
  unfold deliverQueued
  split
  · split <;> simp [h]
  · split <;> simp [h]

@[simp] theorem deliverOwn_wf (g : Nat) (path : List PathNoise) (p : Packet) (s : State) (h : s.stores.wf = true) :
    (deliverOwn g path p s).stores.wf = true := by
  unfold deliverOwn
  dsimp only
  split_ifs <;> simp [h]

@[simp] theorem leaveRing_wf (g : Nat) (path : List PathNoise) (q : Queued) (s : State) (h : s.stores.wf = true) :
    (leaveRing g path q s).stores.wf = true := by
  unfold leaveRing
  split_ifs <;> simp [h]

theorem ringMove_wf {g j : Nat} {path : List PathNoise} {s t : State} (h : s.stores.wf = true) (ht : ringMove g j path s = some t) :
    t.stores.wf = true := by
  unfold ringMove at ht
  split at ht
  · cases ht
  · dsimp only at ht
    split_ifs at ht <;> cases ht <;> simp [h]

end Sys2Proof.Machine
end

section
/-! PROOF. Every step keeps the stores in canonical form: one lemma a command. -/

namespace Sys2Proof.Machine

/-- Where a command answers a next state, its stores are in canonical form. -/
def NextWf (r : Res) : Prop := ∀ t, r = .next t → t.stores.wf = true

@[simp] theorem nextWf_next (s : State) : NextWf (.next s) ↔ s.stores.wf = true :=
  ⟨fun h => h s rfl, fun h t e => by cases e; exact h⟩

@[simp] theorem nextWf_fault (f : Fault) : NextWf (.fault f) := fun _ e => by cases e

@[simp] theorem nextWf_refused (r : Refusal) : NextWf (.refused r) := fun _ e => by cases e

@[simp] theorem nextWf_ite (c : Prop) [Decidable c] (r q : Res) :
    NextWf (if c then r else q) = if c then NextWf r else NextWf q := apply_ite NextWf c r q

/-! ### Power -/

@[simp] theorem execBrakeLevelEval_wf (s : State) (h : s.stores.wf = true) : NextWf (execBrakeLevelEval s) := by
  simp [execBrakeLevelEval, h]

@[simp] theorem execHostCapWrite_wf (p : Port) (data : Word) (s : State) (h : s.stores.wf = true) :
    NextWf (execHostCapWrite p data s) := by
  simp [execHostCapWrite, h]

@[simp] theorem execLeaseRenew_wf (p : Port) (s : State) (h : s.stores.wf = true) : NextWf (execLeaseRenew p s) := by
  simp [execLeaseRenew, h]

@[simp] theorem execPowerSample_wf (x : PowerSample) (s : State) (h : s.stores.wf = true) : NextWf (execPowerSample x s) := by
  simp [execPowerSample, h]

@[simp] theorem execRampStep_wf (s : State) (h : s.stores.wf = true) : NextWf (execRampStep s) := by
  simp [execRampStep, h]

@[simp] theorem execRecoveryRampStep_wf (s : State) (h : s.stores.wf = true) : NextWf (execRecoveryRampStep s) := by
  simp [execRecoveryRampStep, h]

@[simp] theorem execRestRampStart_wf (a : Allot) (s : State) (h : s.stores.wf = true) : NextWf (execRestRampStart a s) := by
  unfold execRestRampStart
  split <;> simp [h]

@[simp] theorem execRunRampStart_wf (a : Allot) (s : State) (h : s.stores.wf = true) : NextWf (execRunRampStart a s) := by
  unfold execRunRampStart
  split <;> simp [h]

@[simp] theorem execHoldBegin_wf (s : State) (h : s.stores.wf = true) : NextWf (execHoldBegin s) := by
  simp only [execHoldBegin, nextWf_next]
  split_ifs
  · simp [h]
  · exact h
  · split
    · split <;> simp [h]
    · simp [h]
  · exact h

@[simp] theorem execBrakeReleaseSample_wf (s : State) (h : s.stores.wf = true) : NextWf (execBrakeReleaseSample s) := by
  simp [execBrakeReleaseSample, h]

@[simp] theorem execHoldRelease_wf (s : State) (h : s.stores.wf = true) : NextWf (execHoldRelease s) := by
  simp [execHoldRelease, h]

@[simp] theorem execVinLowDetect_wf (s : State) (h : s.stores.wf = true) : NextWf (execVinLowDetect s) := by
  simp [execVinLowDetect, h]

@[simp] theorem execVinLowClear_wf (s : State) (h : s.stores.wf = true) : NextWf (execVinLowClear s) := by
  simp [execVinLowClear, h]

@[simp] theorem execThermalTrip_wf (p : Pav) (diode : Fin 16) (s : State) (h : s.stores.wf = true) :
    NextWf (execThermalTrip p diode s) := by
  simp [execThermalTrip, h]

/-! ### Array -/

@[simp] theorem execVectorAdmit_wf (x : ArrayIx) (places : List (BitVec 17)) (way : Passage) (s : State)
    (h : s.stores.wf = true) : NextWf (execVectorAdmit x places way s) := by
  unfold execVectorAdmit
  split <;> simp [h]

@[simp] theorem execVectorResultReady_wf (r : VectorResult) (s : State) (h : s.stores.wf = true) :
    NextWf (execVectorResultReady r s) := by
  simp only [execVectorResultReady, nextWf_next]
  split
  · split <;> simp [h]
  · exact h

/-! ### Cadence -/

@[simp] theorem execMisplacedLapMark_wf (s : State) (h : s.stores.wf = true) : NextWf (execMisplacedLapMark s) := by
  simp [execMisplacedLapMark, h]

@[simp] theorem execCadrefStop_wf (s : State) (h : s.stores.wf = true) : NextWf (execCadrefStop s) := by
  simp [execCadrefStop, h]

@[simp] theorem execSyncArmSet_wf (p : Port) (spoke : BitVec 6) (s : State) (h : s.stores.wf = true) :
    NextWf (execSyncArmSet p spoke s) := by
  simp [execSyncArmSet, h]

@[simp] theorem execSyncArmAdopt_wf (p : Port) (spoke : BitVec 6) (s : State) (h : s.stores.wf = true) :
    NextWf (execSyncArmAdopt p spoke s) := by
  simp [execSyncArmAdopt, h]

@[simp] theorem execSyncCancel_wf (p : Port) (s : State) (h : s.stores.wf = true) : NextWf (execSyncCancel p s) := by
  simp [execSyncCancel, h]

@[simp] theorem execLapBeaconSend_wf (s : State) (h : s.stores.wf = true) : NextWf (execLapBeaconSend s) := by
  simp [execLapBeaconSend, h]

@[simp] theorem execLapBeaconReceive_wf (k : Spoke) (lap : BitVec 40) (synced : Bool) (s : State) (h : s.stores.wf = true) :
    NextWf (execLapBeaconReceive k lap synced s) := by
  simp [execLapBeaconReceive, h]

/-! ### Turnstile -/

@[simp] theorem execTurnstileDeadline_wf (t : Trn) (s : State) (h : s.stores.wf = true) :
    NextWf (execTurnstileDeadline t s) := by
  unfold execTurnstileDeadline
  split <;> simp [h]

/-! ### Timetable -/

@[simp] theorem execUnitStart_wf (a : Allot) (noise : List (Nat × List Byte)) (s : State) (h : s.stores.wf = true) :
    NextWf (execUnitStart a noise s) := by
  simp only [execUnitStart, nextWf_next]
  split
  · exact h
  · split
    · split
      · exact h
      · split <;> simp [h]
    · exact h

/-- A command of the timetable that leaves the stores. -/
theorem fire_wf (n : Nat) (f : Due → State → Option State) (s : State) (h : s.stores.wf = true)
    (hf : ∀ d t u, f d t = some u → u.stores = t.stores) : NextWf (.next (fire n f s)) := by
  rw [nextWf_next, fire_stores n f s hf]
  exact h

@[simp] theorem execTtIssue_wf (a : Allot) (s : State) (h : s.stores.wf = true) : NextWf (execTtIssue a s) := by
  refine fire_wf _ _ s h fun d t u hu => ?_
  split at hu <;> cases hu
  simp

@[simp] theorem execTtStrobe_wf (a : Allot) (s : State) (h : s.stores.wf = true) : NextWf (execTtStrobe a s) := by
  refine fire_wf _ _ s h fun d t u hu => ?_
  split at hu <;> cases hu
  simp

@[simp] theorem execTtComplete_wf (a : Allot) (s : State) (h : s.stores.wf = true) : NextWf (execTtComplete a s) := by
  refine fire_wf _ _ s h fun d t u hu => ?_
  split at hu <;> cases hu
  simp

@[simp] theorem execTtTrnArm_wf (a : Allot) (s : State) (h : s.stores.wf = true) : NextWf (execTtTrnArm a s) := by
  refine fire_wf _ _ s h fun d t u hu => ?_
  split at hu <;> cases hu
  simp

@[simp] theorem execShadowLoadDone_wf (a : Allot) (way : Passage) (s : State) (h : s.stores.wf = true) :
    NextWf (execShadowLoadDone a way s) := by
  simp only [execShadowLoadDone, nextWf_next]
  split
  · exact h
  · split
    · exact h
    · split
      · split <;> simp [h]
      · exact h

@[simp] theorem execTtShadow_wf (a : Allot) (s : State) (h : s.stores.wf = true) : NextWf (execTtShadow a s) := by
  refine fire_wf _ _ s h fun d t u hu => ?_
  split at hu <;> cases hu
  simp

@[simp] theorem execPlaneSwap_wf (a : Allot) (s : State) (h : s.stores.wf = true) : NextWf (execPlaneSwap a s) := by
  simp only [execPlaneSwap, nextWf_next]
  split
  · exact h
  · split
    · exact h
    · split_ifs
      · simp [h]
      · exact h
      · simp [h]
      · split <;> simp [h]
      · exact h

@[simp] theorem execTtPhaseEnd_wf (a : Allot) (s : State) (h : s.stores.wf = true) : NextWf (execTtPhaseEnd a s) := by
  unfold execTtPhaseEnd
  split
  · simpa using h
  · split
    · split
      · simpa using h
      · split
        · refine fire_wf _ _ s h fun d t u hu => ?_
          split at hu <;> cases hu
          simp
        · simp [h]
    · simpa using h

@[simp] theorem execAllotmentStartLap_wf (a : Allot) (s : State) (h : s.stores.wf = true) :
    NextWf (execAllotmentStartLap a s) := by
  unfold execAllotmentStartLap
  split <;> simp [h]

@[simp] theorem execRunStart_wf (a : Allot) (s : State) (h : s.stores.wf = true) : NextWf (execRunStart a s) := by
  simp only [execRunStart, nextWf_next]
  split
  · exact h
  · split <;> simp [h]

/-! ### Mover -/

@[simp] theorem execTtMove_wf (a : Allot) (s : State) (h : s.stores.wf = true) : NextWf (execTtMove a s) := by
  refine fire_wf _ _ s h fun d t u hu => ?_
  split at hu <;> cases hu
  simp

@[simp] theorem execMoverWordTransfer_wf (m : MoverIx) (host : List Byte) (word : WordPassage) (s : State) (h : s.stores.wf = true) :
    NextWf (execMoverWordTransfer m host word s) := by
  simp only [execMoverWordTransfer, nextWf_next]
  split
  · split
    · exact h
    · rename_i n t _ _ _ a _
      split_ifs
      · simp [h]
      · have ht := transferWord_wf ⟨n, a, m.val, t, host, word.path, word.cycle⟩ (applyNoise word.noise s) (by simp [h])
        split <;> rename_i hr <;> rw [hr] at ht
        · exact ht
        · rw [moverFault_stores]
          exact ht
        · rw [slotConflict_stores]
          exact ht
      · exact h
  · exact h

@[simp] theorem execHostAccessTimeout_wf (m : MoverIx) (s : State) (h : s.stores.wf = true) :
    NextWf (execHostAccessTimeout m s) := by
  unfold execHostAccessTimeout
  split <;> simp [h]

@[simp] theorem execPergolaTransferArrive_wf (at_ : FabricPort) (src : TransferSource) (word : ArrivingWord) (s : State)
    (h : s.stores.wf = true) : NextWf (execPergolaTransferArrive at_ src word s) := by
  simp only [execPergolaTransferArrive, nextWf_next]
  split
  · exact h
  · split_ifs
    · exact h
    · simp [h]
    · split <;> rename_i hr <;> simp [stores_of_eq hr, h]

@[simp] theorem execDescriptorComplete_wf (m : MoverIx) (s : State) (h : s.stores.wf = true) :
    NextWf (execDescriptorComplete m s) := by
  unfold execDescriptorComplete
  split <;> simp [h]

/-! ### Collective -/

@[simp] theorem execTtCollective_wf (a : Allot) (s : State) (h : s.stores.wf = true) : NextWf (execTtCollective a s) := by
  refine fire_wf _ _ s h fun d t u hu => ?_
  split at hu <;> cases hu
  simp

@[simp] theorem execSegmentSendStart_wf (a : Allot) (plan : Fin 256) (stage : Fin 4) (seg : Fin 256) (way : Passage) (s : State)
    (h : s.stores.wf = true) : NextWf (execSegmentSendStart a plan stage seg way s) := by
  simp only [execSegmentSendStart, nextWf_next]
  split
  · exact h
  · split
    · split
      · split <;> simp [h]
      · exact h
    · exact h

@[simp] theorem execSegmentCompletionStep_wf (a : Allot) (plan : Fin 256) (stage : Fin 4) (seg : Fin 256) (way : Passage)
    (s : State) (h : s.stores.wf = true) : NextWf (execSegmentCompletionStep a plan stage seg way s) := by
  simp only [execSegmentCompletionStep, nextWf_next]
  split
  · exact h
  · split
    · split
      · split
        · split <;> rename_i hr <;> simp [stores_of_eq hr, h]
        · simp [h]
      · exact h
    · exact h

@[simp] theorem execSegmentReductionDone_wf (a : Allot) (plan : Fin 256) (stage : Fin 4) (out : SegmentOut) (s : State)
    (h : s.stores.wf = true) : NextWf (execSegmentReductionDone a plan stage out s) := by
  simp only [execSegmentReductionDone, nextWf_next]
  split
  · exact h
  · split
    · split
      · exact h
      · split
        · split <;> rename_i hw
          · simp only [planFault_stores, modPlan_stores, stores_of_eq hw]
            exact writeBuf_wf _ _ _ _ _ _ _ s h
          · simp only [State.bump_stores, modPlan_stores, stores_of_eq hw]
            exact writeBuf_wf _ _ _ _ _ _ _ s h
        · exact h
    · exact h

/-! ### Gears -/

@[simp] theorem execIdlePllLock_wf (p : Pav) (s : State) (h : s.stores.wf = true) : NextWf (execIdlePllLock p s) := by
  simp [execIdlePllLock, h]

@[simp] theorem execPllLockCheck_wf (s : State) (h : s.stores.wf = true) : NextWf (execPllLockCheck s) := by
  simp only [execPllLockCheck, nextWf_next]
  split
  · split <;> simp [h]
  · exact h

@[simp] theorem execGearShift_wf (s : State) (h : s.stores.wf = true) : NextWf (execGearShift s) := by
  simp [execGearShift, h]

/-! ### RollCall -/

@[simp] theorem execRollCallSample_wf (s : State) (h : s.stores.wf = true) : NextWf (execRollCallSample s) := by
  simp [execRollCallSample, h]

@[simp] theorem execRollCallDecision_wf (s : State) (h : s.stores.wf = true) : NextWf (execRollCallDecision s) := by
  simp [execRollCallDecision, h]

/-! ### Packets -/

@[simp] theorem execPacketSend_wf (k : Spoke) (s : State) (h : s.stores.wf = true) : NextWf (execPacketSend k s) := by
  simp only [execPacketSend, nextWf_next]
  split
  · split
    · split <;> simp [h]
    · split
      · simp [h]
      · split <;> simp [h]
    · simp [h]
    · exact h
  · exact h

@[simp] theorem execEgressLate_wf (k : Spoke) (s : State) (h : s.stores.wf = true) : NextWf (execEgressLate k s) := by
  simp only [execEgressLate, nextWf_next]
  split
  · split
    · simp [h]
    · split <;> simp [h]
  · exact h

@[simp] theorem execPacketReceive_wf (k : Spoke) (pkt : Packet) (rx : RxState) (s : State) (h : s.stores.wf = true) :
    NextWf (execPacketReceive k pkt rx s) := by
  simp only [execPacketReceive, nextWf_next]
  split_ifs
  · simp [h]
  · simp [h]
  · simp [h]
  · split <;> simp [h]
  · exact h

@[simp] theorem execTransitRingHop_wf (g : Gh) (hop : RingHop) (s : State) (h : s.stores.wf = true) :
    NextWf (execTransitRingHop g hop s) := by
  simp only [execTransitRingHop, nextWf_next]
  split
  · split
    · exact ringMove_wf h ‹_›
    · simp [h]
  · exact h

@[simp] theorem execRoutingSwitch_wf (s : State) (h : s.stores.wf = true) : NextWf (execRoutingSwitch s) := by
  unfold execRoutingSwitch
  split <;> simp [h]

/-! ### Reset -/

@[simp] theorem execBootReset_wf (p : Port) (key : BitVec 16) (s : State) (h : s.stores.wf = true) :
    NextWf (execBootReset p key s) := by
  simp only [execBootReset, nextWf_next]
  split_ifs <;> simp [h]

@[simp] theorem execRailOffElapsed_wf (hot : Bool) (s : State) (h : s.stores.wf = true) :
    NextWf (execRailOffElapsed hot s) := by
  simp [execRailOffElapsed, h]

@[simp] theorem execTripWaitEnd_wf (s : State) (h : s.stores.wf = true) : NextWf (execTripWaitEnd s) := by
  simp [execTripWaitEnd, h]

@[simp] theorem execAllotReset_wf (p : Port) (mask : BitVec 16) (s : State) (h : s.stores.wf = true) :
    NextWf (execAllotReset p mask s) := by
  simp [execAllotReset, h]

@[simp] theorem execAllotResetQuiesced_wf (a : Allot) (s : State) (h : s.stores.wf = true) :
    NextWf (execAllotResetQuiesced a s) := by
  unfold execAllotResetQuiesced
  split <;> simp [h]

@[simp] theorem execAllotResetDone_wf (a : Allot) (s : State) (h : s.stores.wf = true) : NextWf (execAllotResetDone a s) := by
  unfold execAllotResetDone
  split <;> simp [h]

@[simp] theorem execBankZeroingDone_wf (b : Sys2Proof.Bank) (s : State) (h : s.stores.wf = true) :
    NextWf (execBankZeroingDone b s) := by
  simp [execBankZeroingDone, h]

@[simp] theorem execHoldupSave_wf (vin : BitVec 16) (s : State) (h : s.stores.wf = true) : NextWf (execHoldupSave vin s) := by
  simp [execHoldupSave, h]

@[simp] theorem execSavePageDone_wf (s : State) (h : s.stores.wf = true) : NextWf (execSavePageDone s) := by
  unfold execSavePageDone
  split <;> simp [h]

@[simp] theorem execUndervoltageLockout_wf (s : State) : NextWf (execUndervoltageLockout s) := by
  simp [execUndervoltageLockout]

@[simp] theorem execVauxStart_wf (s : State) (h : s.stores.wf = true) : NextWf (execVauxStart s) := by
  simp [execVauxStart, h]

@[simp] theorem execPowerGood_wf (slot : BitVec 2) (s : State) (h : s.stores.wf = true) : NextWf (execPowerGood slot s) := by
  simp [execPowerGood, h]

/-! ### LinkKey -/

@[simp] theorem execLinkKeyCred_wf (k : Spoke) (cred : List Byte) (s : State) (h : s.stores.wf = true) :
    NextWf (execLinkKeyCred k cred s) := by
  simp only [execLinkKeyCred, nextWf_next]
  split
  · exact h
  · rename_i ht
    simp [takeThis_stores ht, h]

@[simp] theorem execLinkKeyEncap_wf (k : Spoke) (ct : List Byte) (s : State) (h : s.stores.wf = true) :
    NextWf (execLinkKeyEncap k ct s) := by
  simp only [execLinkKeyEncap, nextWf_next]
  split
  · exact h
  · rename_i ht
    simp [takeThis_stores ht, h]

@[simp] theorem execLinkKeyConfirm_wf (k : Spoke) (mac : List Byte) (s : State) (h : s.stores.wf = true) :
    NextWf (execLinkKeyConfirm k mac s) := by
  simp only [execLinkKeyConfirm, nextWf_next]
  split
  · exact h
  · rename_i ht
    simp [takeThis_stores ht, h]

@[simp] theorem execLinkKeyAbort_wf (k : Spoke) (s : State) (h : s.stores.wf = true) : NextWf (execLinkKeyAbort k s) := by
  simp only [execLinkKeyAbort, nextWf_next]
  split
  · exact h
  · rename_i ht
    simp [takeMsg_stores ht, h]

@[simp] theorem execLinkKeyStepTimeout_wf (k : Spoke) (s : State) (h : s.stores.wf = true) :
    NextWf (execLinkKeyStepTimeout k s) := by
  simp [execLinkKeyStepTimeout, h]

@[simp] theorem execLinkKeyRetry_wf (k : Spoke) (s : State) (h : s.stores.wf = true) : NextWf (execLinkKeyRetry k s) := by
  simp [execLinkKeyRetry, h]

@[simp] theorem execLinkEpochAdvance_wf (k : Spoke) (d : Direction) (s : State) (h : s.stores.wf = true) :
    NextWf (execLinkEpochAdvance k d s) := by
  simp only [execLinkEpochAdvance, nextWf_next]
  split
  · cases d <;> simp [h]
  · exact h

/-! ### Spoke -/

@[simp] theorem execSpkSelfWrite_wf (p : Port) (data : Word) (s : State) (h : s.stores.wf = true) :
    NextWf (execSpkSelfWrite p data s) := by
  simp [execSpkSelfWrite, h]

@[simp] theorem execSpokeTrainingStart_wf (k : Spoke) (s : State) (h : s.stores.wf = true) :
    NextWf (execSpokeTrainingStart k s) := by
  simp [execSpokeTrainingStart, h]

@[simp] theorem execFarEndSignal_wf (k : Spoke) (s : State) (h : s.stores.wf = true) : NextWf (execFarEndSignal k s) := by
  simp [execFarEndSignal, h]

@[simp] theorem execEqualisationComplete_wf (k : Spoke) (s : State) (h : s.stores.wf = true) :
    NextWf (execEqualisationComplete k s) := by
  simp [execEqualisationComplete, h]

@[simp] theorem execAlignMeasurementDone_wf (k : Spoke) (good : Bool) (s : State) (h : s.stores.wf = true) :
    NextWf (execAlignMeasurementDone k good s) := by
  simp [execAlignMeasurementDone, h]

@[simp] theorem execTrainingAttemptTimeout_wf (k : Spoke) (s : State) (h : s.stores.wf = true) :
    NextWf (execTrainingAttemptTimeout k s) := by
  simp [execTrainingAttemptTimeout, h]

@[simp] theorem execLossOfSignal_wf (k : Spoke) (s : State) (h : s.stores.wf = true) : NextWf (execLossOfSignal k s) := by
  simp [execLossOfSignal, h]

@[simp] theorem execIdentityRecordSend_wf (k : Spoke) (s : State) (h : s.stores.wf = true) :
    NextWf (execIdentityRecordSend k s) := by
  simp [execIdentityRecordSend, h]

@[simp] theorem execIdentityRecordReceive_wf (k : Spoke) (record : List Byte) (s : State) (h : s.stores.wf = true) :
    NextWf (execIdentityRecordReceive k record s) := by
  simp [execIdentityRecordReceive, h]

@[simp] theorem execIdentityAckReceive_wf (k : Spoke) (s : State) (h : s.stores.wf = true) :
    NextWf (execIdentityAckReceive k s) := by
  simp [execIdentityAckReceive, h]

@[simp] theorem execLinkWordReceive_wf (k : Spoke) (ret0 : BitVec 5) (ret1 : BitVec 5) (ret2 : BitVec 5) (ack : Bool)
    (epoch : Bool) (s : State) (h : s.stores.wf = true) : NextWf (execLinkWordReceive k ret0 ret1 ret2 ack epoch s) := by
  simp [execLinkWordReceive, h]

@[simp] theorem execPlanOpen_wf (p : Port) (s : State) (h : s.stores.wf = true) : NextWf (execPlanOpen p s) := by
  simp [execPlanOpen, h]

@[simp] theorem execPlanClose_wf (p : Port) (s : State) (h : s.stores.wf = true) : NextWf (execPlanClose p s) := by
  simp [execPlanClose, h]

@[simp] theorem execRecheck_wf (p : Port) (s : State) (h : s.stores.wf = true) : NextWf (execRecheck p s) := by
  simp [execRecheck, h]

/-! ### Boot -/

@[simp] theorem execMemoryTrainingDone_wf (r : TrainResult) (s : State) (h : s.stores.wf = true) :
    NextWf (execMemoryTrainingDone r s) := by
  simp only [execMemoryTrainingDone, nextWf_next]
  split
  · cases r <;> simp [h]
  · exact h

@[simp] theorem execKnownAnswerRunDone_wf (u : KatUnit) (g5 : Bool) (crc expected : BitVec 64) (s : State)
    (h : s.stores.wf = true) : NextWf (execKnownAnswerRunDone u g5 crc expected s) := by
  simp only [execKnownAnswerRunDone, nextWf_next]
  cases katArray u <;> simp [h]

@[simp] theorem execBootStepDone_wf (n : BitVec 4) (ms : BitVec 16) (s : State) (h : s.stores.wf = true) :
    NextWf (execBootStepDone n ms s) := by
  simp only [execBootStepDone, nextWf_next]
  split_ifs <;> simp [h]

@[simp] theorem execStepTimeout_wf (ms : BitVec 16) (s : State) (h : s.stores.wf = true) : NextWf (execStepTimeout ms s) := by
  simp [execStepTimeout, h]

@[simp] theorem execBootAdvance_wf (p : Port) (n : BitVec 4) (s : State) (h : s.stores.wf = true) :
    NextWf (execBootAdvance p n s) := by
  simp [execBootAdvance, h]

/-! ### Ports -/

@[simp] theorem execEventMessage_wf (p : Port) (s : State) (h : s.stores.wf = true) : NextWf (execEventMessage p s) := by
  simp [execEventMessage, h]

@[simp] theorem execPortReset_wf (p : Port) (cause : PortResetCause) (s : State) (h : s.stores.wf = true) :
    NextWf (execPortReset p cause s) := by
  simp [execPortReset, h]

@[simp] theorem execPcieLinkUp_wf (p : Port) (width : BitVec 4) (link : LinkTrained) (s : State) (h : s.stores.wf = true) :
    NextWf (execPcieLinkUp p width link s) := by
  simp [execPcieLinkUp, h]

@[simp] theorem execStewardGive_wf (p : Port) (s : State) (h : s.stores.wf = true) : NextWf (execStewardGive p s) := by
  simp [execStewardGive, h]

@[simp] theorem execStewardClaim_wf (p : Port) (s : State) (h : s.stores.wf = true) : NextWf (execStewardClaim p s) := by
  simp [execStewardClaim, h]

@[simp] theorem execStrobeApply_wf (p : Port) (g : Sgrp) (s : State) (h : s.stores.wf = true) :
    NextWf (execStrobeApply p g s) := by
  simp [execStrobeApply, h]

@[simp] theorem execStrobeArm_wf (p : Port) (g : Sgrp) (s : State) (h : s.stores.wf = true) : NextWf (execStrobeArm p g s) := by
  simp [execStrobeArm, h]

@[simp] theorem execStrobeCancel_wf (p : Port) (g : Sgrp) (s : State) (h : s.stores.wf = true) :
    NextWf (execStrobeCancel p g s) := by
  simp [execStrobeCancel, h]

@[simp] theorem execArmedStrobeDue_wf (g : Sgrp) (s : State) (h : s.stores.wf = true) : NextWf (execArmedStrobeDue g s) := by
  unfold execArmedStrobeDue
  split <;> simp [h]

/-! ### Rings -/

@[simp] theorem execRingEnable_wf (p : Port) (r : RingIx) (data : Word) (s : State) (h : s.stores.wf = true) :
    NextWf (execRingEnable p r data s) := by
  simp [execRingEnable, h]

@[simp] theorem execRingDisable_wf (p : Port) (r : RingIx) (data : Word) (s : State) (h : s.stores.wf = true) :
    NextWf (execRingDisable p r data s) := by
  simp [execRingDisable, h]

@[simp] theorem execRingPoll_wf (r : RingIx) (s : State) (h : s.stores.wf = true) : NextWf (execRingPoll r s) := by
  unfold execRingPoll
  split <;> simp [h]

@[simp] theorem execCompletionWrite_wf (r : RingIx) (s : State) (h : s.stores.wf = true) : NextWf (execCompletionWrite r s) := by
  simp only [execCompletionWrite, nextWf_next]
  split
  · split <;> simp [h]
  · exact h

@[simp] theorem execInterruptHoldoffEnd_wf (r : RingIx) (s : State) (h : s.stores.wf = true) :
    NextWf (execInterruptHoldoffEnd r s) := by
  simp only [execInterruptHoldoffEnd, nextWf_next]
  split
  · split <;> simp [h]
  · exact h

/-! ### Load -/

theorem portCommand_wf (p : Port) (opc : Byte) (f : State → State) (entry : List Byte) (s : State) (h : s.stores.wf = true)
    (hf : (f s).stores.wf = true) : NextWf (portCommand p opc f entry s) := by
  unfold portCommand
  split <;> simp [h, hf, apply_ite Stores.wf]

@[simp] theorem execLoadLayout_wf (p : Port) (entry : List Byte) (s : State) (h : s.stores.wf = true) :
    NextWf (execLoadLayout p entry s) :=
  portCommand_wf p _ _ entry s h (by simp [h])

@[simp] theorem execLoadReadDone_wf (image : List Byte) (s : State) (h : s.stores.wf = true) : NextWf (execLoadReadDone image s) := by
  unfold execLoadReadDone
  split
  · simp [h]
  · split_ifs <;> simp [h]

/-! ### Commands -/

@[simp] theorem execStart_wf (p : Port) (entry : List Byte) (s : State) (h : s.stores.wf = true) : NextWf (execStart p entry s) :=
  portCommand_wf p _ _ entry s h (by simp [h])

@[simp] theorem execRelease_wf (p : Port) (entry : List Byte) (s : State) (h : s.stores.wf = true) : NextWf (execRelease p entry s) :=
  portCommand_wf p _ _ entry s h (by simp [h])

@[simp] theorem execReleaseKeyRemoval_wf (a : Allot) (s : State) (h : s.stores.wf = true) : NextWf (execReleaseKeyRemoval a s) := by
  simp only [execReleaseKeyRemoval, nextWf_next]
  split
  · exact h
  · simp [h, apply_ite Stores.wf]

@[simp] theorem execGive_wf (p : Port) (entry : List Byte) (s : State) (h : s.stores.wf = true) : NextWf (execGive p entry s) :=
  portCommand_wf p _ _ entry s h (by simp [h])

@[simp] theorem execTake_wf (p : Port) (entry : List Byte) (s : State) (h : s.stores.wf = true) : NextWf (execTake p entry s) :=
  portCommand_wf p _ _ entry s h (by simp [h])

@[simp] theorem execRun_wf (a : Allot) (entry : List Byte) (s : State) (h : s.stores.wf = true) :
    NextWf (execRun a entry s) := by
  simp [execRun, h]

@[simp] theorem execSubmissionFetch_wf (r : RingIx) (cqHead : BitVec 32) (entries : List (List Byte)) (s : State)
    (h : s.stores.wf = true) : NextWf (execSubmissionFetch r cqHead entries s) := by
  unfold execSubmissionFetch
  split
  · simp
  · rw [nextWf_next]
    split <;> simp [h]

/-! ### Pair -/

@[simp] theorem execUnitErrorSignal_wf (g : Gh) (role : Role) (src : ErrSrc) (s : State) (h : s.stores.wf = true) :
    NextWf (execUnitErrorSignal g role src s) := by
  simp [execUnitErrorSignal, h]

@[simp] theorem execUnitResyncDone_wf (g : Gh) (role : Role) (s : State) (h : s.stores.wf = true) :
    NextWf (execUnitResyncDone g role s) := by
  simp [execUnitResyncDone, h]

/-! ### Scrub -/

@[simp] theorem execScrubWord_wf (u : ScrubUnit) (noise : List Noise) (s : State) (h : s.stores.wf = true) :
    NextWf (execScrubWord u noise s) := by
  simp [execScrubWord, h]

/-! ### Lap -/

theorem afterActivation_wf (r : State × Bool) (h : r.1.stores.wf = true) : (afterActivation r).stores.wf = true := by
  unfold afterActivation
  split <;> simp [h]

@[simp] theorem execLapBoundary_wf (mark : Bool) (m : LapMeasure) (s : State) (h : s.stores.wf = true) :
    NextWf (execLapBoundary mark m s) := by
  rw [execLapBoundary, nextWf_next]
  split
  · exact afterActivation_wf _ (activation_wf _ (by simp [h]))
  · exact h

@[simp] theorem execFirstLapMark_wf (s : State) (h : s.stores.wf = true) : NextWf (execFirstLapMark s) := by
  simp [execFirstLapMark, h]

/-! ### Lodge -/

@[simp] theorem execGetReport_wf (p : Port) (s : State) (h : s.stores.wf = true) : NextWf (execGetReport p s) := by
  simp [execGetReport, h]

@[simp] theorem execOpenSession_wf (p : Port) (s : State) (h : s.stores.wf = true) : NextWf (execOpenSession p s) := by
  simp [execOpenSession, h]

@[simp] theorem execReleaseKey_wf (p : Port) (s : State) (h : s.stores.wf = true) : NextWf (execReleaseKey p s) := by
  simp [execReleaseKey, h]

@[simp] theorem execGetTelemetry_wf (p : Port) (s : State) (h : s.stores.wf = true) : NextWf (execGetTelemetry p s) := by
  simp [execGetTelemetry, h]

@[simp] theorem execCloseSession_wf (p : Port) (s : State) (h : s.stores.wf = true) : NextWf (execCloseSession p s) := by
  simp [execCloseSession, h]

@[simp] theorem execGetCredential_wf (p : Port) (s : State) (h : s.stores.wf = true) : NextWf (execGetCredential p s) := by
  simp [execGetCredential, h]

@[simp] theorem execEntropy_wf (test : BitVec 16) (s : State) (h : s.stores.wf = true) : NextWf (execEntropy test s) := by
  simp [execEntropy, h]

@[simp] theorem execSpdmMessage_wf (p : Port) (req : SpdmRequest) (s : State) (h : s.stores.wf = true) :
    NextWf (execSpdmMessage p req s) := by
  unfold execSpdmMessage
  split <;> simp [h]

@[simp] theorem execStopInterface_wf (p : Port) (s : State) (h : s.stores.wf = true) : NextWf (execStopInterface p s) := by
  simp [execStopInterface, h]

/-! ### Window -/

@[simp] theorem execStagingWindowMap_wf (p : Port) (a : Allot) (data : Word) (s : State) (h : s.stores.wf = true) :
    NextWf (execStagingWindowMap p a data s) := by
  simp [execStagingWindowMap, h]

@[simp] theorem execAllotSchedWrite_wf (p : Port) (a : Allot) (data : Word) (s : State) (h : s.stores.wf = true) :
    NextWf (execAllotSchedWrite p a data s) := by
  simp [execAllotSchedWrite, h]

@[simp] theorem execStagingWindowRead_wf (p : Port) (offset : BitVec 28) (bytes : BitVec 13) (way : Passage) (s : State)
    (h : s.stores.wf = true) : NextWf (execStagingWindowRead p offset bytes way s) := by
  simp only [execStagingWindowRead, nextWf_next]
  split
  · rw [State.emit_stores]
    exact List.foldlRecOn (motive := fun r : State × List Byte × Bool => r.1.stores.wf = true) _ _ (by simp [h])
      fun r hr e _ => by simp [hr]
  · exact h

@[simp] theorem execStagingWindowWrite_wf (p : Port) (offset : BitVec 28) (data : List Byte) (way : Passage) (s : State)
    (h : s.stores.wf = true) : NextWf (execStagingWindowWrite p offset data way s) := by
  simp only [execStagingWindowWrite, nextWf_next]
  split
  · refine stores_foldl_wf _ (fun s e hs => ?_) _ _ (by simp [h])
    exact writeSlice_wf p _ _ _ s _ hs
  · exact h

/-! ### Mgmt -/

@[simp] theorem execOdometerUpdate_wf (s : State) (h : s.stores.wf = true) : NextWf (execOdometerUpdate s) := by
  simp [execOdometerUpdate, h]

@[simp] theorem execIbiRepeat_wf (s : State) (h : s.stores.wf = true) : NextWf (execIbiRepeat s) := by
  simp [execIbiRepeat, h]

@[simp] theorem execI3cTargetReset_wf (s : State) (h : s.stores.wf = true) : NextWf (execI3cTargetReset s) := by
  simp [execI3cTargetReset, h]

@[simp] theorem execRstdaa_wf (s : State) (h : s.stores.wf = true) : NextWf (execRstdaa s) := by
  simp [execRstdaa, h]

@[simp] theorem execEntdaa_wf (addr : BitVec 7) (s : State) (h : s.stores.wf = true) : NextWf (execEntdaa addr s) := by
  simp [execEntdaa, h]

@[simp] theorem execGetpid_wf (s : State) (h : s.stores.wf = true) : NextWf (execGetpid s) := by
  simp [execGetpid, h]

@[simp] theorem execGetbcr_wf (s : State) (h : s.stores.wf = true) : NextWf (execGetbcr s) := by
  simp [execGetbcr, h]

@[simp] theorem execGetdcr_wf (s : State) (h : s.stores.wf = true) : NextWf (execGetdcr s) := by
  simp [execGetdcr, h]

@[simp] theorem execGetstatus_wf (s : State) (h : s.stores.wf = true) : NextWf (execGetstatus s) := by
  simp [execGetstatus, h]

@[simp] theorem execGetmwl_wf (s : State) (h : s.stores.wf = true) : NextWf (execGetmwl s) := by
  simp [execGetmwl, h]

@[simp] theorem execGetmrl_wf (s : State) (h : s.stores.wf = true) : NextWf (execGetmrl s) := by
  simp [execGetmrl, h]

@[simp] theorem execSetmwl_wf (n : BitVec 16) (s : State) (h : s.stores.wf = true) : NextWf (execSetmwl n s) := by
  simp [execSetmwl, h]

@[simp] theorem execSetmrl_wf (n : BitVec 16) (s : State) (h : s.stores.wf = true) : NextWf (execSetmrl n s) := by
  simp [execSetmrl, h]

@[simp] theorem execEnec_wf (s : State) (h : s.stores.wf = true) : NextWf (execEnec s) := by
  simp [execEnec, h]

@[simp] theorem execDisec_wf (s : State) (h : s.stores.wf = true) : NextWf (execDisec s) := by
  simp [execDisec, h]

@[simp] theorem execGetmodstat_wf (s : State) (h : s.stores.wf = true) : NextWf (execGetmodstat s) := by
  simp [execGetmodstat, h]

@[simp] theorem execModreset_wf (data : List Byte) (s : State) (h : s.stores.wf = true) : NextWf (execModreset data s) := by
  simp only [execModreset, aonCcc, nextWf_next]
  split_ifs <;> simp [h]

@[simp] theorem execSetEndpointId_wf (write : List Byte) (s : State) (h : s.stores.wf = true) :
    NextWf (execSetEndpointId write s) := by
  rw [execSetEndpointId, nextWf_next, transfer_stores _ s fun s => by split <;> simp]
  exact h

@[simp] theorem execGetEndpointId_wf (s : State) (h : s.stores.wf = true) : NextWf (execGetEndpointId s) := by
  simp [execGetEndpointId, h]

@[simp] theorem execGetMctpVersionSupport_wf (s : State) (h : s.stores.wf = true) : NextWf (execGetMctpVersionSupport s) := by
  simp [execGetMctpVersionSupport, h]

@[simp] theorem execGetMessageTypeSupport_wf (s : State) (h : s.stores.wf = true) : NextWf (execGetMessageTypeSupport s) := by
  simp [execGetMessageTypeSupport, h]

@[simp] theorem execGetTid_wf (s : State) (h : s.stores.wf = true) : NextWf (execGetTid s) := by
  simp [execGetTid, h]

@[simp] theorem execSetTid_wf (tid : BitVec 8) (s : State) (h : s.stores.wf = true) : NextWf (execSetTid tid s) := by
  simp [execSetTid, h]

@[simp] theorem execGetPldmVersion_wf (query : PldmQuery) (s : State) (h : s.stores.wf = true) :
    NextWf (execGetPldmVersion query s) := by
  unfold execGetPldmVersion
  split <;> simp [h]

@[simp] theorem execGetPldmTypes_wf (s : State) (h : s.stores.wf = true) : NextWf (execGetPldmTypes s) := by
  simp [execGetPldmTypes, h]

@[simp] theorem execGetPldmCommands_wf (type : BitVec 8) (s : State) (h : s.stores.wf = true) :
    NextWf (execGetPldmCommands type s) := by
  unfold execGetPldmCommands
  split <;> simp [h]

@[simp] theorem execGetPdrRepositoryInfo_wf (s : State) (h : s.stores.wf = true) : NextWf (execGetPdrRepositoryInfo s) := by
  simp [execGetPdrRepositoryInfo, h]

@[simp] theorem execGetPdr_wf (handle : BitVec 32) (s : State) (h : s.stores.wf = true) : NextWf (execGetPdr handle s) := by
  simp [execGetPdr, h]

@[simp] theorem execGetSensorReading_wf (id : BitVec 16) (s : State) (h : s.stores.wf = true) :
    NextWf (execGetSensorReading id s) := by
  rw [execGetSensorReading, nextWf_next, pldm_stores _ _ _ s fun s => by split <;> simp]
  exact h

@[simp] theorem execGetStateSensorReadings_wf (id : BitVec 16) (s : State) (h : s.stores.wf = true) :
    NextWf (execGetStateSensorReadings id s) := by
  rw [execGetStateSensorReadings, nextWf_next, pldm_stores _ _ _ s fun s => by split <;> simp]
  exact h

@[simp] theorem execGetNumericEffecterValue_wf (id : BitVec 16) (s : State) (h : s.stores.wf = true) :
    NextWf (execGetNumericEffecterValue id s) := by
  rw [execGetNumericEffecterValue, nextWf_next, pldm_stores _ _ _ s fun s => by split <;> simp]
  exact h

@[simp] theorem execGetStateEffecterStates_wf (id : BitVec 16) (s : State) (h : s.stores.wf = true) :
    NextWf (execGetStateEffecterStates id s) := by
  simp [execGetStateEffecterStates, h]

@[simp] theorem execTrayCap_wf (v : BitVec 16) (s : State) (h : s.stores.wf = true) : NextWf (execTrayCap v s) := by
  simp [execTrayCap, h]

@[simp] theorem execTrayGearMax_wf (v : BitVec 16) (s : State) (h : s.stores.wf = true) : NextWf (execTrayGearMax v s) := by
  simp [execTrayGearMax, h]

@[simp] theorem execLeaseRenewal_wf (st : BitVec 8) (s : State) (h : s.stores.wf = true) : NextWf (execLeaseRenewal st s) := by
  simp [execLeaseRenewal, h]

@[simp] theorem execLeaseLaps_wf (v : BitVec 16) (s : State) (h : s.stores.wf = true) : NextWf (execLeaseLaps v s) := by
  simp [execLeaseLaps, h]

@[simp] theorem execLapseCap_wf (v : BitVec 16) (s : State) (h : s.stores.wf = true) : NextWf (execLapseCap v s) := by
  simp [execLapseCap, h]

@[simp] theorem execConfAlways_wf (v : BitVec 8) (s : State) (h : s.stores.wf = true) : NextWf (execConfAlways v s) := by
  simp [execConfAlways, h]

@[simp] theorem execSettingRecordCommit_wf (s : State) (h : s.stores.wf = true) : NextWf (execSettingRecordCommit s) := by
  unfold execSettingRecordCommit
  split <;> simp [h]

@[simp] theorem execModuleResetEffecter_wf (st : BitVec 8) (s : State) (h : s.stores.wf = true) :
    NextWf (execModuleResetEffecter st s) := by
  simp only [execModuleResetEffecter, setEffecter, pldm, transfer, nextWf_next]
  split_ifs <;> simp [h]

@[simp] theorem execPollForPlatformEventMessage_wf (ack : Option (BitVec 32)) (s : State) (h : s.stores.wf = true) :
    NextWf (execPollForPlatformEventMessage ack s) := by
  rw [execPollForPlatformEventMessage, nextWf_next, pldm_stores _ _ _ s fun s => by dsimp only; split <;> simp]
  exact h

@[simp] theorem execEventMessageBufferSize_wf (n : BitVec 16) (s : State) (h : s.stores.wf = true) :
    NextWf (execEventMessageBufferSize n s) := by
  simp [execEventMessageBufferSize, h]

@[simp] theorem execGetFruRecordTableMetadata_wf (s : State) (h : s.stores.wf = true) :
    NextWf (execGetFruRecordTableMetadata s) := by
  simp [execGetFruRecordTableMetadata, h]

@[simp] theorem execGetFruRecordTable_wf (s : State) (h : s.stores.wf = true) : NextWf (execGetFruRecordTable s) := by
  simp [execGetFruRecordTable, h]

/-! ### Update -/

@[simp] theorem execPieceProgramDone_wf (readBack : Option (List Byte)) (s : State) (h : s.stores.wf = true) :
    NextWf (execPieceProgramDone readBack s) := by
  unfold execPieceProgramDone
  split <;> simp [h]

@[simp] theorem execBundleVerifyDone_wf (changed : List (BitVec 15 × List Byte)) (s : State) (h : s.stores.wf = true) :
    NextWf (execBundleVerifyDone changed s) := by
  unfold execBundleVerifyDone
  split <;> simp [h]

@[simp] theorem execPieceSubmit_wf (p : Port) (piece : BitVec 15) (s : State) (h : s.stores.wf = true) :
    NextWf (execPieceSubmit p piece s) := by
  simp [execPieceSubmit, h]

@[simp] theorem execUpdArm_wf (p : Port) (s : State) (h : s.stores.wf = true) : NextWf (execUpdArm p s) := by
  simp [execUpdArm, h]

@[simp] theorem execUpdCancel_wf (p : Port) (s : State) (h : s.stores.wf = true) : NextWf (execUpdCancel p s) := by
  simp [execUpdCancel, h]

@[simp] theorem execQueryDeviceIdentifiers_wf (s : State) (h : s.stores.wf = true) : NextWf (execQueryDeviceIdentifiers s) := by
  simp [execQueryDeviceIdentifiers, h]

@[simp] theorem execGetFirmwareParameters_wf (s : State) (h : s.stores.wf = true) : NextWf (execGetFirmwareParameters s) := by
  simp [execGetFirmwareParameters, h]

@[simp] theorem execRequestUpdate_wf (maxTransfer : BitVec 32) (s : State) (h : s.stores.wf = true) :
    NextWf (execRequestUpdate maxTransfer s) := by
  simp [execRequestUpdate, h]

@[simp] theorem execPassComponentTable_wf (classification : BitVec 16) (identifier : BitVec 16) (s : State)
    (h : s.stores.wf = true) : NextWf (execPassComponentTable classification identifier s) := by
  simp [execPassComponentTable, h]

@[simp] theorem execUpdateComponent_wf (classification : BitVec 16) (identifier : BitVec 16) (size : BitVec 32) (s : State)
    (h : s.stores.wf = true) : NextWf (execUpdateComponent classification identifier size s) := by
  simp [execUpdateComponent, h]

@[simp] theorem execRequestFirmwareData_wf (offset : BitVec 32) (data : List Byte) (s : State) (h : s.stores.wf = true) :
    NextWf (execRequestFirmwareData offset data s) := by
  simp [execRequestFirmwareData, h]

@[simp] theorem execActivateFirmware_wf (s : State) (h : s.stores.wf = true) : NextWf (execActivateFirmware s) := by
  simp [execActivateFirmware, h]

@[simp] theorem execGetStatus_wf (s : State) (h : s.stores.wf = true) : NextWf (execGetStatus s) := by
  simp [execGetStatus, h]

@[simp] theorem execCancelUpdateComponent_wf (s : State) (h : s.stores.wf = true) : NextWf (execCancelUpdateComponent s) := by
  simp [execCancelUpdateComponent, h]

@[simp] theorem execCancelUpdate_wf (s : State) (h : s.stores.wf = true) : NextWf (execCancelUpdate s) := by
  simp [execCancelUpdate, h]

/-! ### Registers -/

@[simp] theorem execIndirectDataAccess_wf (p : Port) (write : Option Word) (s : State) (h : s.stores.wf = true) :
    NextWf (execIndirectDataAccess p write s) := by
  simp [execIndirectDataAccess, h]

@[simp] theorem execRegisterWrite_wf (p : Port) (offset : BitVec 26) (data : Word) (s : State) (h : s.stores.wf = true) :
    NextWf (execRegisterWrite p offset data s) := by
  unfold execRegisterWrite
  dsimp only
  split <;> simp [h]

/-! ### The step -/

/-- Every command keeps the canonical form: its arm of exec is one call of its meaning, and each meaning has its lemma above. -/
theorem exec_wf (c : Instr) (s : State) (h : s.stores.wf = true) : NextWf (exec c s) := by
  cases c <;> simp [exec, h]

/-- Every step keeps the canonical form: the command at the front runs, or one CADREF cycle passes. -/
theorem step_wf (s : State) (h : s.stores.wf = true) : NextWf (step s) := by
  cases hp : s.pending with
  | nil => simp [step_idle s hp, h]
  | cons c rest =>
    rw [step_command s c rest hp]
    exact exec_wf c _ h

end Sys2Proof.Machine

namespace Sys2Proof.Proofs

open Sys2Proof Sys2Proof.Machine

/-- Settles O58: most operations leave the stores as they are; those that write, zero or forget keep the canonical form. -/
theorem storesStayCanonical : Obligations.StoresStayCanonical := by
  unfold Obligations.StoresStayCanonical
  intro s t h ht
  rw [storesWf_eq] at h ⊢
  exact step_wf s h t ht

end Sys2Proof.Proofs
end

section
/-! SUPPORT. The movers (04_arrays_and_pavilions, R103 to R106, R305): what a start, the end of a descriptor and an access that
nobody answers leave. -/

namespace Sys2Proof.Laws

open Sys2Proof.Machine

variable {α : Type}

/-! ### One number written twice -/

theorem sset_sset (m : Sparse α) (k : Nat) (v w : α) : sset (sset m k v) k w = sset m k w := by
  induction m with
  | nil => simp [sset]
  | cons e t ih =>
    rw [sset.eq_2 k v]
    split_ifs with hlt heq
    · simp [sset, hlt, ih]
    · simp [sset, heq]
    · simp [sset, hlt, heq]

theorem sdel_sset (m : Sparse α) (k : Nat) (v : α) : sdel (sset m k v) k = sdel m k := by
  induction m with
  | nil => simp [sset, sdel]
  | cons e t ih =>
    unfold sset
    split_ifs with hlt heq
    · simp only [sdel, List.filter_cons] at ih ⊢
      rw [ih]
    · simp [sdel, heq]
    · simp [sdel]

/-- Two changes of one number come to the change by both, where the first leaves it listed. -/
theorem smod_smod [DecidableEq α] (d : α) (m : Sparse α) (k : Nat) (f g : α → α) (h : f (sget d m k) ≠ d) :
    smod d (smod d m k f) k g = smod d m k (fun x => g (f x)) := by
  have hget : sget d (sset m k (f (sget d m k))) k = f (sget d m k) := by
    rw [sget, sfind_sset_same, Option.getD_some]
  simp only [smod, sput, if_neg h, hget]
  split_ifs
  · exact sdel_sset m k _
  · exact sset_sset m k _ _

end Sys2Proof.Laws

namespace Sys2Proof.Machine

theorem State.modMover_modMover (s : State) (m : Nat) (f g : MoverSt → MoverSt) (h : f (s.mover m) ≠ {}) :
    (s.modMover m f).modMover m g = s.modMover m (fun x => g (f x)) :=
  congrArg (fun l => { s with movers := l }) (Laws.smod_smod ({} : MoverSt) s.movers m f g h)

/-! ### Entries of a timetable that nothing has spoiled (R152, R183) -/

theorem trellisDecode_fit_nil : trellisDecode (fit 36 []) = .clean := by decide +kernel

theorem readEntry_clean (n : Nat) (d : Due) (s : State) (h : sget [] s.upset (entryKey n d.table d.ix) = []) :
    readEntry n d s = (s, true) := by
  simp [readEntry, h, trellisDecode_fit_nil]

theorem fire_clean (n : Nat) (f : Due → State → Option State) (s t : State) (d : Due) (hd : s.due n = some d)
    (hc : sget [] s.upset (entryKey n d.table d.ix) = []) (hf : f d s = some t) : fire n f s = passEntry n t := by
  simp [fire, hd, readEntry_clean n d s hc, hf]

/-! ### Starts (R104) -/

theorem startMover_stopped (n m : Nat) (ix : BitVec 9) (entry : BitVec 24) (s : State) (h : (s.mover m).stopped = true) :
    startMover n m ix entry s = s := by
  simp [startMover, h]

theorem startMover_noDesc (n m : Nat) (ix : BitVec 9) (entry : BitVec 24) (s : State) (h : (s.mover m).stopped = false)
    (hd : s.frontDesc n m ix.toNat = none) : startMover n m ix entry s = overrun n m ix entry s := by
  simp [startMover, h, hd]

section

variable (n m : Nat) (ix : BitVec 9) (entry : BitVec 24) (s : State) (z : Desc)
  (hs : (s.mover m).stopped = false) (hz : s.frontDesc n m ix.toNat = some z)

include hs hz

theorem startMover_idle (ha : (s.mover m).active = none) : startMover n m ix entry s =
    s.modMover m (fun x => { x with active := some { index := ix, desc := z, entry := entry } }) := by
  simp [startMover, hs, hz, ha]

theorem startMover_behind (ha : (s.mover m).active ≠ none) (hp : (s.mover m).pending = none) : startMover n m ix entry s =
    s.modMover m (fun x => { x with pending := some { index := ix, desc := z, entry := entry } }) := by
  simp [startMover, hs, hz, ha, hp]

theorem startMover_full (ha : (s.mover m).active ≠ none) (hp : (s.mover m).pending ≠ none) :
    startMover n m ix entry s = overrun n m ix entry s := by
  simp [startMover, hs, hz, ha, hp]

end

/-! ### Faults (R106) -/

theorem allotFault_frc (n : Nat) (code : Word) (die : BitVec 3) (a : Byte) (e : Option (BitVec 24)) (s : State) :
    (allotFault n code die a e s).frc = (writeFault code (s.sliceOf n) die a e s).frc := rfl

/-- A fault of an allotment stops its timetable and no other. -/
theorem allotFault_allot (n k : Nat) (code : Word) (die : BitVec 3) (a : Byte) (e : Option (BitVec 24)) (s : State) :
    (allotFault n code die a e s).allot k = if k = n then (s.allot k).map AllotSt.fault else s.allot k := by
  split_ifs with hk
  · rw [hk, allotFault_stops]
  · rw [allotFault, stopAllot, State.modAllot_allot, if_neg hk, State.allot, writeFault_allots, ← State.allot]

/-- What a mover holds once it has stopped: neither descriptor, the pending one lost too. -/
def MoverSt.halted (x : MoverSt) : MoverSt := { x with active := none, pending := none, stopped := true }

theorem moverFault_eq (n m : Nat) (code : Word) (entry : BitVec 24) (s : State) : moverFault n m code entry s =
    allotFault n code (moverDie m) (BitVec.ofNat 8 (moverNum m)) (some entry) (s.modMover m MoverSt.halted) := rfl

theorem moverFault_frc (n m : Nat) (code : Word) (entry : BitVec 24) (s : State) : (moverFault n m code entry s).frc =
    (writeFault code (s.sliceOf n) (moverDie m) (BitVec.ofNat 8 (moverNum m)) (some entry) s).frc := by
  rw [moverFault_eq, allotFault_frc, writeFault_frc, writeFault_frc]
  rfl

theorem moverFault_allot (n m k : Nat) (code : Word) (entry : BitVec 24) (s : State) :
    (moverFault n m code entry s).allot k = if k = n then (s.allot k).map AllotSt.fault else s.allot k :=
  allotFault_allot n k code _ _ _ (s.modMover m MoverSt.halted)

theorem moverFault_mover (n m j : Nat) (code : Word) (entry : BitVec 24) (s : State) :
    (moverFault n m code entry s).mover j = if j = m then (s.mover j).halted else s.mover j := by
  rw [moverFault_eq, State.mover, allotFault_movers, ← State.mover, State.modMover_mover]
  split_ifs with hj
  · rw [hj]
  · rfl

theorem moverFault_frame (n m : Nat) (code : Word) (entry : BitVec 24) (s : State) : moverFault n m code entry s =
    { s with movers := (moverFault n m code entry s).movers, allots := (moverFault n m code entry s).allots,
             frc := (moverFault n m code entry s).frc, mgmt := (moverFault n m code entry s).mgmt,
             out := (moverFault n m code entry s).out } := by
  rw [moverFault_eq, allotFault_frame]
  rfl

/-! ### The end of a descriptor (R105) -/

/-- The mover's state once its descriptor is complete: counted, the last one kept, the pending one active. -/
def ended (m : Nat) (z : Xfer) (s : State) : State :=
  (s.modMover m (fun y => { y with active := y.pending, pending := none, last := z.index })).bump (cMovDone m) 1

/-- The same before the pending descriptor takes the place of the one that is complete. -/
def counted (m : Nat) (z : Xfer) (s : State) : State :=
  (s.modMover m (fun y => { y with last := z.index })).bump (cMovDone m) 1

theorem promote_counted (m : Nat) (z : Xfer) (s : State) (h : (s.mover m).active = some z) :
    promote m (counted m z s) = ended m z s := by
  have hne : (fun y : MoverSt => { y with last := z.index }) (s.mover m) ≠ {} := fun e => by
    have ha : (s.mover m).active = none := congrArg MoverSt.active e
    rw [h] at ha
    cases ha
  exact congrArg (fun t : State => t.bump (cMovDone m) 1)
    (s.modMover_modMover m _ (fun x => { x with active := x.pending, pending := none }) hne)

section

variable (s : State) (m : MoverIx) (n : Nat) (x : AllotSt) (z : Xfer) (hc : s.clocked = true) (ho : s.moverOwner m.val = some n)
  (hx : s.allot n = some x) (hz : (s.mover m.val).active = some z) (hd : z.moved = z.desc.total) (hs : s.sending m.val = false)
  (hp : pavHeld m.val s = false) (hw : swapHeld m.val x s = false)

include hc ho hx hz hd hs hp hw

/-- Without an increment the pending descriptor takes the place of the complete one, and then NEXT starts. -/
theorem exec_descriptorComplete (ht : z.desc.trnEn = false) : exec (.descriptorComplete m) s = .next
    (if z.desc.nextEn && !x.stopped then startMover n m.val z.desc.next z.entry (ended m.val z s) else ended m.val z s) := by
  have hallot : (ended m.val z s).allot n = some x := hx
  have hend := promote_counted m.val z s hz
  rw [counted] at hend
  rw [exec, execDescriptorComplete, ho, hz]
  simp only [hx, hc, hp, hw, hd, hs, ht, hend, hallot, Bool.not_false, Bool.and_self, Bool.false_and, decide_true, if_true,
    Bool.false_eq_true, if_false]

/-- With one the turnstile counts before the pending descriptor takes the place of the complete one. -/
theorem exec_descriptorComplete_increment (ht : z.desc.trnEn = true) (hb : z.bad = false) (hn : z.desc.nextEn = false) :
    exec (.descriptorComplete m) s = .next (promote m.val (increment z.desc.trnIdx.toNat z.desc.trnInc.toNat
      (withDie (modNum s.ownCoord) (moverDie m.val).toNat) (counted m.val z s))) := by
  rw [exec, execDescriptorComplete, ho, hz]
  simp [hx, hc, hp, hw, hd, hs, ht, hb, hn, counted, State.ownCoord]

end

/-- A mover whose packets have not all left stays with its descriptor. -/
theorem exec_descriptorComplete_sending (s : State) (m : MoverIx) (h : s.sending m.val = true) :
    exec (.descriptorComplete m) s = .next s := by
  rw [exec, execDescriptorComplete]
  cases s.moverOwner m.val with
  | none => rfl
  | some n =>
    cases (s.mover m.val).active with
    | none => rfl
    | some z => simp [h]

/-! ### Accesses that nobody answers (R305) -/

theorem Desc.readsHost_iff (d : Desc) : d.readsHost = true ↔
    (d.op ≠ 2 ∧ (d.srcSp = 3 ∨ d.srcSp = 4)) ∨ (d.op = 3 ∧ (d.dstSp = 3 ∨ d.dstSp = 4)) := by
  simp [Desc.readsHost]

theorem exec_hostAccessTimeout (s : State) (m : MoverIx) (n : Nat) (z : Xfer) (hc : s.clocked = true)
    (ho : s.moverOwner m.val = some n) (hz : (s.mover m.val).active = some z) :
    exec (.hostAccessTimeout m) s = .next (if z.desc.readsHost then hostAccess n m.val z s else s) := by
  simp only [exec, execHostAccessTimeout, ho, hz, hc, Bool.true_and]

theorem exec_hostAccessTimeout_idle (s : State) (m : MoverIx) (h : (s.mover m.val).active = none) :
    exec (.hostAccessTimeout m) s = .next s := by
  rw [exec, execHostAccessTimeout, h]
  cases s.moverOwner m.val <;> rfl

/-! ### MOVE (R103, R187) -/

theorem exec_ttMove (s : State) (a : Allot) (d : Due) (mv ds : BitVec 16) (hd : s.due a.val = some d)
    (hc : sget [] s.upset (entryKey a.val d.table d.ix) = []) (hk : d.kind = .move mv ds) :
    exec (.ttMove a) s = .next (passEntry a.val (startMover a.val (moverOf mv) (fld ds 0 9) d.entry s)) := by
  rw [exec, execTtMove]
  exact congrArg Host.Outcome.next (fire_clean a.val _ s _ d hd hc (by simp only [hk]))

/-- A descriptor that finds the pending place taken is lost, and its allotment's timetable stops (R104, R187). -/
theorem startMover_overrun (n m : Nat) (ix : BitVec 9) (entry : BitVec 24) (s : State) (t : State)
    (h : t = overrun n m ix entry s) :
    t.frc = (writeFault (faultCode 0x3 0x002 (moverDetail m ix)) (s.sliceOf n) (moverDie m) (BitVec.ofNat 8 (moverNum m))
      (some entry) s).frc ∧
    (∀ k, t.allot k = if k = n then (s.allot k).map AllotSt.fault else s.allot k) ∧
    t = { s with allots := t.allots, frc := t.frc, mgmt := t.mgmt, out := t.out } := by
  rw [h, overrun]
  exact ⟨allotFault_frc n _ _ _ _ s, fun k => allotFault_allot n k _ _ _ _ s, allotFault_frame n _ _ _ _ s⟩

end Sys2Proof.Machine

namespace Sys2Proof.Proofs

open Sys2Proof Sys2Proof.Machine

/-- Settles O34, by the reasoning rule of each operation of a mover: a start, the end of a descriptor, a fault, an access that
nobody answers. -/
theorem moverCommands : Obligations.MoverCommands := by
  unfold Obligations.MoverCommands
  refine ⟨exec_ttMove, ?start, ?complete, exec_descriptorComplete_sending, ?timeout, exec_hostAccessTimeout_idle, ?fault⟩
  case start =>
    intro s n m ix entry
    refine ⟨startMover_stopped n m ix entry s, startMover_noDesc n m ix entry s, fun z hs hz => ⟨?_, ?_, ?_⟩⟩
    · exact startMover_idle n m ix entry s z hs hz
    · exact startMover_behind n m ix entry s z hs hz
    · intro ha hp
      exact startMover_overrun n m ix entry s _ (startMover_full n m ix entry s z hs hz ha hp)
  case complete =>
    intro s m n x z hc ho hx hz hd hs hp hw
    have hall := exec_descriptorComplete s m n x z hc ho hx hz hd hs hp hw
    refine ⟨fun ht hnext => ?_, fun ht hn hst => ?_, ?_⟩
    · have hno : (z.desc.nextEn && !x.stopped) = false := by
        obtain hn | hst := hnext
        · rw [hn, Bool.false_and]
        · rw [hst, Bool.not_true, Bool.and_false]
      have h := hall ht
      rw [hno, if_neg Bool.false_ne_true] at h
      exact h
    · have h := hall ht
      rw [hn, hst, Bool.not_false, Bool.and_self, if_pos rfl] at h
      exact h
    · exact exec_descriptorComplete_increment s m n x z hc ho hx hz hd hs hp hw
  case timeout =>
    intro s m n z hc ho hz
    rw [exec_hostAccessTimeout s m n z hc ho hz]
    refine ⟨fun hr => ?_, fun hr => ?_⟩
    · rw [if_pos (z.desc.readsHost_iff.2 hr), hostAccess]
    · rw [if_neg (fun h => hr (z.desc.readsHost_iff.1 h))]
  case fault =>
    intro n m code entry s
    exact ⟨moverFault_frc n m code entry s, fun k => moverFault_allot n m k code entry s,
      fun j => moverFault_mover n m j code entry s, moverFault_frame n m code entry s⟩

end Sys2Proof.Proofs
end

section
/-! SUPPORT. Shadow loads (05_layout_image, R140, R141, R189): what their reads may change, what a load of a clean configuration
store has read, and what its start and the swaps leave. -/

namespace Sys2Proof.Machine

/-! ### One allotment changed -/

theorem State.modAllot_congr (s : State) (n : Nat) (x : AllotSt) (f g : AllotSt → AllotSt) (hx : s.allot n = some x) (h : f x = g x) :
    s.modAllot n f = s.modAllot n g := by
  have hx' : sfind s.allots n = some x := hx
  simp only [State.modAllot, sadj, hx', h]

theorem State.modAllot_allot_some (s : State) (n : Nat) (x : AllotSt) (f : AllotSt → AllotSt) (hx : s.allot n = some x) :
    (s.modAllot n f).allot n = some (f x) := by
  rw [State.modAllot_allot_same, hx, Option.map_some]

theorem State.modAllot_allot_of_ne (s : State) (n m : Nat) (f : AllotSt → AllotSt) (h : m ≠ n) :
    (s.modAllot n f).allot m = s.allot m := by
  rw [State.modAllot_allot, if_neg h]

/-! ### Bytes word by word -/

theorem State.bytes_append (s : State) (st a m n : Nat) : s.bytes st a (m + n) = s.bytes st a m ++ s.bytes st (a + m) n := by
  simp [State.bytes, List.range_add, Nat.add_assoc, Function.comp_def]

theorem State.bytes_take (s : State) (st a m n : Nat) (h : m ≤ n) : (s.bytes st a n).take m = s.bytes st a m := by
  rw [State.bytes, ← List.map_take, List.take_range, Nat.min_eq_left h, State.bytes]

/-- Words that follow one another hold the bytes from the first one's on. -/
theorem State.words_bytes (s : State) (st q k : Nat) :
    ((List.range k).map (fun i => q + i)).flatMap (fun w => s.bytes st (32 * w) 32) = s.bytes st (32 * q) (32 * k) := by
  induction k with
  | zero => rfl
  | succ k ih =>
    rw [List.range_succ, List.map_append, List.flatMap_append, ih, Nat.mul_succ, State.bytes_append, ← Nat.mul_add]
    simp

/-- The words that n bytes from address a touch hold those n bytes from the first word's start on. -/
theorem State.wordsOf_bytes (s : State) (st a n : Nat) :
    ((wordsOf a n).flatMap (fun w => s.bytes st (32 * w) 32)).take n = s.bytes st (32 * (a / 32)) n := by
  unfold wordsOf
  split_ifs with hn
  · subst hn
    rfl
  · rw [s.words_bytes, State.bytes_take]
    omega

/-! ### Reads -/

theorem shadowWord_clean (a : AllotSt) (c : CfgSec) (k w : Nat) (s : State) (h : s.clean 0) :
    shadowWord a [] c k w s = (s, .ok (s.bytes 0 (32 * w) 32)) := by
  rw [shadowWord, Laws.readWord_clean 0 w s (h w)]
  rfl

/-- A fold of reads none of which fails gathers what each of them reads. -/
theorem foldl_reads {ε : Type} (s : State) (v : Nat → List Byte)
    (f : State × List Byte × Option ε → Nat × Nat → State × List Byte × Option ε)
    (h : ∀ b e, f (s, b, none) e = (s, b ++ v e.1, none)) (ws : List Nat) (k : Nat) (b : List Byte) :
    (ws.zipIdx k).foldl f (s, b, none) = (s, b ++ ws.flatMap v, none) := by
  induction ws generalizing k b with
  | nil => simp
  | cons w ws ih => rw [List.zipIdx_cons, List.foldl_cons, h, ih, List.flatMap_cons, List.append_assoc]

/-- What a load of sections reads from a clean configuration store. -/
def State.secBytes (s : State) (c : CfgSec) : CfgSec × List Byte :=
  (c, s.bytes 0 (32 * (c.addr.toNat / 32)) (c.count * recBytes c.type.toNat))

/-- The words that a section's bytes touch. -/
def CfgSec.words (c : CfgSec) : List Nat := wordsOf c.addr.toNat (c.count * recBytes c.type.toNat)

theorem readSecs_clean (a : AllotSt) (l : List CfgSec) (s : State) (h : s.clean 0) : readSecs a [] l s =
    { state := s, secs := l.map s.secBytes, words := (l.map (fun c => c.words.length)).sum } := by
  induction l using List.reverseRecOn with
  | nil => rfl
  | append_singleton l c ih =>
    unfold readSecs at ih ⊢
    rw [List.foldl_append, ih, List.foldl_cons, List.foldl_nil]
    dsimp only
    rw [foldl_reads s (fun w => s.bytes 0 (32 * w) 32)]
    · simp [State.secBytes, CfgSec.words, State.wordsOf_bytes]
    · intro b e
      simp only [shadowWord_clean a c _ _ s h]

/-! ### What a shadow load changes -/

/-- What the shadow load of allotment n may change: the allotment's shadow, what its reads count, and the record and event of the
fault that stops it. -/
def Shadowed (n : Nat) (s t : State) : Prop :=
  (∃ al f m h d l o, t = { s with allots := al, frc := f, mgmt := m, hbms := h, ddrs := d, live := l, out := o }) ∧
  (∀ k, k ≠ n → t.allot k = s.allot k) ∧ ∀ x, s.allot n = some x → ∃ h, t.allot n = some { x with shadow := h }

theorem Shadowed.refl (n : Nat) (s : State) : Shadowed n s s := ⟨⟨_, _, _, _, _, _, _, rfl⟩, fun _ _ => rfl, fun x hx => ⟨x.shadow, hx⟩⟩

theorem Shadowed.trans {n : Nat} {s t u : State} (h : Shadowed n s t) (h' : Shadowed n t u) : Shadowed n s u := by
  obtain ⟨⟨_, _, _, _, _, _, _, ht⟩, hother, hsame⟩ := h
  obtain ⟨⟨_, _, _, _, _, _, _, hu⟩, hother', hsame'⟩ := h'
  refine ⟨⟨_, _, _, _, _, _, _, by rw [hu, ht]⟩, fun k hk => (hother' k hk).trans (hother k hk), fun x hx => ?_⟩
  obtain ⟨_, hx'⟩ := hsame x hx
  obtain ⟨z, hz⟩ := hsame' _ hx'
  exact ⟨z, hz⟩

/-- What leaves the allotments as they are and changes only what reads and faults change. -/
theorem Shadowed.of_frame {n : Nat} {s t : State}
    (h : ∃ f m b d l o, t = { s with frc := f, mgmt := m, hbms := b, ddrs := d, live := l, out := o }) : Shadowed n s t := by
  obtain ⟨_, _, _, _, _, _, rfl⟩ := h
  exact ⟨⟨_, _, _, _, _, _, _, rfl⟩, fun _ _ => rfl, fun x hx => ⟨x.shadow, hx⟩⟩

theorem modAllot_shadowed (n : Nat) (f : AllotSt → Option Shadow) (s : State) :
    Shadowed n s (s.modAllot n (fun a => { a with shadow := f a })) :=
  ⟨⟨_, _, _, _, _, _, _, rfl⟩, fun k hk => s.modAllot_allot_of_ne n k _ hk, fun x hx => ⟨f x, s.modAllot_allot_some n x _ hx⟩⟩

theorem shadowWord_shadowed (n : Nat) (a : AllotSt) (path : List PathNoise) (c : CfgSec) (k w : Nat) (s : State) :
    Shadowed n s (shadowWord a path c k w s).1 := by
  obtain ⟨o, h, d, l, hread⟩ := Laws.readWord_frame 0 w s
  refine Shadowed.of_frame ?_
  unfold shadowWord
  rcases hr : readWord 0 w s with ⟨t, r⟩
  rw [hr] at hread
  dsimp only at hread
  cases r with
  | good b =>
    obtain ⟨o', l', hcarry⟩ := Laws.carry_frame [t.dieOf 0 w, (shadowPlace a c w).1.toNat] path k b t
    dsimp only
    rw [hcarry, hread]
    exact ⟨_, _, _, _, _, _, rfl⟩
  | ue => exact ⟨_, _, _, _, _, _, hread⟩
  | tagBad => exact ⟨_, _, _, _, _, _, hread⟩

/-- A fold over pairs of a state and what has been read so far relates the states as each of its steps does. -/
theorem Shadowed.foldl_fst {n : Nat} {β γ : Type} (f : State × β → γ → State × β) (h : ∀ x e, Shadowed n x.1 (f x e).1) (l : List γ)
    (x : State × β) : Shadowed n x.1 (l.foldl f x).1 := by
  induction l generalizing x with
  | nil => exact Shadowed.refl n x.1
  | cons e l ih => exact (h x e).trans (ih (f x e))

theorem readSecs_shadowed (n : Nat) (a : AllotSt) (path : List PathNoise) (l : List CfgSec) (s : State) :
    Shadowed n s (readSecs a path l s).state := by
  refine List.foldlRecOn (motive := fun x : ShadowRead => Shadowed n s x.state) l _ (Shadowed.refl n s) fun x hx c _ => ?_
  split
  · exact hx
  · refine hx.trans (Shadowed.foldl_fst _ (fun r e => ?_) _ _)
    obtain ⟨t, b, bad⟩ := r
    cases bad with
    | some _ => exact Shadowed.refl n t
    | none =>
      have hword := shadowWord_shadowed n a path c (x.words + e.2) e.1 t
      rcases hw : shadowWord a path c (x.words + e.2) e.1 t with ⟨u, v | v⟩ <;> rw [hw] at hword <;> simpa only [hw] using hword

theorem writeFault_shadowed (n : Nat) (code : Word) (sl : BitVec 12) (die : BitVec 3) (a : Byte) (e : Option (BitVec 24)) (s : State) :
    Shadowed n s (writeFault code sl die a e s) :=
  Shadowed.of_frame ⟨_, _, s.hbms, s.ddrs, s.live, _, writeFault_frame code sl die a e s⟩

theorem shadowFault_shadowed (n : Nat) (a : AllotSt) (entry : Option (BitVec 24)) (bad : CfgSec × Nat × Word) (s : State) :
    Shadowed n s (shadowFault n a entry bad s) := by
  rw [shadowFault]
  exact (modAllot_shadowed n _ s).trans (writeFault_shadowed n _ _ _ _ _ _)

theorem startShadow_shadowed (n phase : Nat) (entry : Option (BitVec 24)) (t : Time) (s : State) :
    Shadowed n s (startShadow n phase entry t s) := by
  unfold startShadow
  split
  next => exact Shadowed.refl n s
  next a ha =>
    dsimp only
    have hload := modAllot_shadowed n
      (fun a => some { phase := BitVec.ofNat 3 phase, doneAt := later (shadowTicks a phase - 1) t, byEntry := entry }) s
    split
    next b hb => exact (hload.trans (readSecs_shadowed n a [] _ _)).trans (shadowFault_shadowed n a entry b _)
    next => exact hload

/-- The load of the phase after a SWAPBACK phase, where it starts. -/
theorem swapbackLoad_shadowed (n : Nat) (t : Time) (s : State) : Shadowed n s (swapbackLoad n t s) := by
  unfold swapbackLoad
  split
  next => exact Shadowed.refl n s
  next a ha =>
    split
    next => exact Shadowed.refl n s
    next p hp =>
      split
      next => exact Shadowed.refl n s
      next tb htb =>
        dsimp only
        split_ifs
        · exact startShadow_shadowed n _ _ t s
        · exact Shadowed.refl n s

/-- Where no run runs no phase has a next one to load. -/
theorem swapbackLoad_noRun (n : Nat) (t : Time) (s : State) (x : AllotSt) (hx : s.allot n = some x) (hp : x.pos = none) :
    swapbackLoad n t s = s := by
  simp only [swapbackLoad, hx, hp]

/-- A load of a clean configuration store starts, and nothing stops it. -/
theorem startShadow_clean (n phase : Nat) (entry : Option (BitVec 24)) (t : Time) (s : State) (x : AllotSt) (hx : s.allot n = some x)
    (h : s.clean 0) : startShadow n phase entry t s = s.modAllot n (fun a => { a with
      shadow := some { phase := BitVec.ofNat 3 phase, doneAt := later (shadowTicks x phase - 1) t, byEntry := entry } }) := by
  simp only [startShadow, hx]
  rw [readSecs_clean]
  · exact s.modAllot_congr n x _ _ hx rfl
  · exact h

/-! ### Due entries -/

/-- An entry that is due is the running unit's next one. -/
theorem State.due_running (s : State) (n : Nat) (d : Due) (h : s.due n = some d) :
    s.allot n = some d.al ∧ d.al.pos = some d.pos ∧ d.pos.running = some (d.start, d.gear, d.ix) := by
  have hnext : s.nextEntry n = some d := by
    unfold State.due at h
    grind
  rcases hx : s.allot n with _ | x
  · simp [State.nextEntry, hx] at hnext
  rcases hp : x.pos with _ | p
  · simp [State.nextEntry, hx, hp] at hnext
  rcases hr : p.running with _ | ⟨start, gear, ix⟩
  · simp [State.nextEntry, hx, hp, hr] at hnext
  simp only [State.nextEntry, hx, hp, hr] at hnext
  grind

/-! ### The commands (R140 to R145, R174) -/

theorem passEntry_eq (n : Nat) (s : State) : passEntry n s = s.modAllot n (fun x => { x with pos := x.pos.map (fun p =>
    { p with running := p.running.map (fun (t, g, i) => (t, g, i + 1)) }) }) := rfl

theorem exec_ttShadow (s : State) (a : Allot) (d : Due) (phase : Byte) (hd : s.due a.val = some d)
    (hc : sget [] s.upset (entryKey a.val d.table d.ix) = []) (hk : d.kind = .shadow phase) (h : s.clean 0) :
    exec (.ttShadow a) s = .next (passEntry a.val (s.modAllot a.val (fun x => { x with
      shadow := some { phase := BitVec.ofNat 3 phase.toNat, byEntry := some d.entry
                       doneAt := later (shadowTicks d.al phase.toNat - 1) s.now } }))) := by
  obtain ⟨ha, -, -⟩ := s.due_running a.val d hd
  rw [exec, execTtShadow, ← startShadow_clean a.val _ _ _ s d.al ha h]
  exact congrArg Host.Outcome.next (fire_clean a.val _ s _ d hd hc (by simp only [hk]))

theorem exec_shadowLoadDone (s : State) (a : Allot) (x : AllotSt) (h : Shadow) (ht : s.timed = true) (hx : s.allot a.val = some x)
    (hsh : x.shadow = some h) (hp : h.plane = none) (hst : h.stopped = false) (hnow : s.now = h.doneAt) (hc : s.clean 0) :
    exec (.shadowLoadDone a ⟨[], []⟩) s = .next (s.modAllot a.val (fun y => { y with
      shadow := some { h with plane := some (planeFrom h.phase ((x.phaseSecs h.phase.toNat).map s.secBytes)) } })) := by
  rw [exec, execShadowLoadDone]
  simp only [hx, hsh, ht, hp, hst, hnow, Option.isNone_none, Bool.not_false, Bool.and_self, decide_true, if_true]
  rw [readSecs_clean x _ (applyNoise [] s) hc]
  rfl

theorem exec_shadowLoadDone_none (s : State) (a : Allot) (x : AllotSt) (w : Passage) (hx : s.allot a.val = some x)
    (h : x.shadow = none) : exec (.shadowLoadDone a w) s = .next s := by
  rw [exec, execShadowLoadDone]
  simp only [hx, h]

/-- The fault code of PLANE_LATE names the phase. -/
theorem faultCode_planeLate (ph : BitVec 3) : faultCode 0x4 0x001 (ph.setWidth 16) = 0x40010000#32 + ph.setWidth 32 := by
  revert ph
  decide

/-- A swap in tick 00004 of its lap: it begins where the shadow planes hold the phase and the timetable runs. -/
theorem exec_planeSwap_begin (s : State) (a : Allot) (x : AllotSt) (ph : BitVec 3) (u : Time) (ht : s.timed = true)
    (hcl : s.clear = true) (htick : s.cad.tick = 4) (hx : s.allot a.val = some x) (hd : x.swapDue = some (ph, u))
    (hu : u.toNat ≤ s.cad.lap.toNat * 65536) : exec (.planeSwap a) s = .next (
      if (swapReady x ph).isNone then planeLate a.val x ph s
      else if x.stopped then s
      else s.modAllot a.val (fun x => { x with swapAt := some s.now })) := by
  have hfrom : u.toNat ≤ timeNat s.cad.lap.toNat 0 := by simpa [timeNat] using hu
  rw [exec, execPlaneSwap]
  simp only [hx, hd, ht, hcl, htick, hfrom, Bool.and_self, decide_true, if_true]

/-- A swap in tick 00005 of the lap in which it has begun: the planes exchange. -/
theorem exec_planeSwap_exchange (s : State) (a : Allot) (x : AllotSt) (ph : BitVec 3) (u : Time) (p : Plane) (ht : s.timed = true)
    (htick : s.cad.tick = 5) (hx : s.allot a.val = some x) (hd : x.swapDue = some (ph, u))
    (hat : x.swapAt = some (s.cad.lap ++ (4 : BitVec 16))) (hr : swapReady x ph = some p) :
    exec (.planeSwap a) s = .next (swapPlanes a.val p s) := by
  have h4 : ¬ (5 : BitVec 16) = 4 := by decide
  rw [exec, execPlaneSwap]
  simp only [hx, hd, ht, htick, hat, hr, h4, decide_false, decide_true, Bool.and_false, Bool.false_and, Bool.and_self,
    Bool.false_eq_true, if_false, if_true]

theorem planeLate_eq (n : Nat) (x : AllotSt) (ph : BitVec 3) (s : State) : planeLate n x ph s =
    allotFault n (0x40010000#32 + ph.setWidth 32) (BitVec.ofNat 3 (4 + ghOfPages x)) 0xFF (x.shadow.bind (·.byEntry))
      (s.modAllot n (fun a => { a with swapDue := none })) := by
  rw [planeLate, faultCode_planeLate]
  cases x.shadow <;> rfl

theorem State.sliceOf_some (s : State) (n : Nat) (x : AllotSt) (hx : s.allot n = some x) : s.sliceOf n = x.slice := by
  simp only [State.sliceOf, hx]

theorem planeLate_spec (n : Nat) (x : AllotSt) (ph : BitVec 3) (s : State) (hx : s.allot n = some x) (t : State)
    (h : t = planeLate n x ph s) : t.allot n = some { x with swapDue := none, stopped := true, faulted := true } ∧
      t.frc = (writeFault (0x40010000#32 + ph.setWidth 32) x.slice (BitVec.ofNat 3 (4 + ghOfPages x)) 0xFF
        (x.shadow.bind (·.byEntry)) s).frc ∧
      (∀ m, m ≠ n → t.allot m = s.allot m) ∧ t = { s with allots := t.allots, frc := t.frc, mgmt := t.mgmt, out := t.out } := by
  have hsame := s.modAllot_allot_some n x (fun a => { a with swapDue := none }) hx
  rw [h, planeLate_eq]
  refine ⟨?_, ?_, fun m hm => ?_, ?_⟩
  · rw [allotFault_stops, hsame]
    rfl
  · rw [allotFault_frc, State.sliceOf_some _ n _ hsame, writeFault_frc, writeFault_frc]
    rfl
  · rw [allotFault_allot, if_neg hm, s.modAllot_allot_of_ne n m _ hm]
  · rw [allotFault_frame]
    rfl

/-! ### The exchange of the planes (R143) -/

/-- An allotment once its planes have been exchanged in a tick of cadence time now, with the next phase's first tick. -/
def AllotSt.swapped (p : Plane) (now free : Time) (x : AllotSt) : AllotSt := { x with
  front := some p, planeBit := !x.planeBit, swapDue := none
  shadow := x.front.map (fun q => { phase := q.phase, doneAt := now, plane := some q })
  pos := match x.run with
    | none => none
    | some r => some (phaseHead r ((x.pos.map (·.execs)).getD []) p.phase.toNat free) }

theorem rearm_frame (x : AllotSt) (s : State) : ∃ l, rearm x s = { s with arrays := l } := by
  unfold rearm
  split
  next => exact ⟨_, rfl⟩
  next p _ =>
    refine List.foldlRecOn (motive := fun t : State => ∃ l, t = { s with arrays := l }) p.cfgs _ ⟨_, rfl⟩ fun t ht c _ => ?_
    obtain ⟨l, rfl⟩ := ht
    exact ⟨_, rfl⟩

theorem swapPlanes_eq (n : Nat) (p : Plane) (s : State) (x : AllotSt) (hx : s.allot n = some x) :
    ∃ l, swapPlanes n p s = swapbackLoad n (s.cad.lap ++ (7 : BitVec 16))
      { s.modAllot n (AllotSt.swapped p s.now (s.cad.lap ++ (7 : BitVec 16))) with arrays := l } := by
  have hsame := s.modAllot_allot_some n x (AllotSt.swapped p s.now (s.cad.lap ++ (7 : BitVec 16))) hx
  obtain ⟨l, hl⟩ := rearm_frame (x.swapped p s.now (s.cad.lap ++ (7 : BitVec 16)))
    (s.modAllot n (AllotSt.swapped p s.now (s.cad.lap ++ (7 : BitVec 16))))
  refine ⟨l, ?_⟩
  unfold swapPlanes
  dsimp only
  split
  next hnone => cases hsame.symm.trans hnone
  next y hy =>
    obtain rfl := Option.some.inj (hsame.symm.trans hy)
    exact congrArg (swapbackLoad n _) hl

end Sys2Proof.Machine

namespace Sys2Proof.Proofs

open Sys2Proof Sys2Proof.Machine

/-- Settles O36: a shadow load of a clean store reads its bytes and no fault stops it; a swap that is due begins, waits or is late in
tick 00004, and exchanges the planes in tick 00005, where only a load of the phase after may follow. -/
theorem shadowCommands : Obligations.ShadowCommands := by
  unfold Obligations.ShadowCommands
  refine ⟨?start, ?done, fun s a x => exec_shadowLoadDone_none s a x _, ?begin_, ?exchange⟩
  case start =>
    intro s a d phase hd hc hk h
    obtain ⟨hal, hpos, hrun⟩ := s.due_running a.val d hd
    refine ⟨_, exec_ttShadow s a d phase hd hc hk h, ?_, fun m hm => ?_, rfl⟩
    · rw [passEntry_eq, State.modAllot_allot_same, State.modAllot_allot_same, hal]
      simp only [Option.map_some, hpos, hrun]
    · rw [passEntry_eq, State.modAllot_allot_of_ne _ _ _ _ hm, State.modAllot_allot_of_ne _ _ _ _ hm]
  case done =>
    intro s a x h ht hx hsh hp hst hnow hc
    rw [exec_shadowLoadDone s a x h ht hx hsh hp hst hnow hc]
    exact congrArg Host.Outcome.next (s.modAllot_congr a.val x _ _ hx rfl)
  case begin_ =>
    intro s a x ph u ht hcl htick hx hd hu
    have hswap := exec_planeSwap_begin s a x ph u ht hcl htick hx hd hu
    refine ⟨fun hr hst => ?_, fun hr hst => ?_, fun hr => ⟨_, hswap, planeLate_spec a.val x ph s hx _ ?_⟩⟩
    · rw [hswap]
      simp [hr, hst]
    · rw [hswap]
      simp [hr, hst]
    · simp [hr]
  case exchange =>
    intro s a x ph u p ht htick hx hd hat hr
    obtain ⟨l, hl⟩ := swapPlanes_eq a.val p s x hx
    have hsame : State.allot { s.modAllot a.val (AllotSt.swapped p s.now (s.cad.lap ++ (7 : BitVec 16))) with arrays := l } a.val =
      some (x.swapped p s.now (s.cad.lap ++ (7 : BitVec 16))) := s.modAllot_allot_some a.val x _ hx
    obtain ⟨-, hother, hload⟩ := swapbackLoad_shadowed a.val (s.cad.lap ++ (7 : BitVec 16))
      { s.modAllot a.val (AllotSt.swapped p s.now (s.cad.lap ++ (7 : BitVec 16))) with arrays := l }
    obtain ⟨h, hy⟩ := hload _ hsame
    rw [← hl] at hy hother
    refine ⟨_, _, exec_planeSwap_exchange s a x ph u p ht htick hx hd hat hr, rfl, hy, rfl, rfl, rfl, rfl, fun m hm => ?_, fun hrun => ?_,
      fun r hrun => ?_⟩
    · exact (hother m hm).trans (s.modAllot_allot_of_ne a.val m _ hm)
    · have hpos : (x.swapped p s.now (s.cad.lap ++ (7 : BitVec 16))).pos = none := by simp only [AllotSt.swapped, hrun]
      rw [swapbackLoad_noRun a.val _ _ _ hsame hpos] at hl
      rw [hl, hsame] at hy
      refine ⟨hpos, ?_, ?_⟩
      · exact (congrArg AllotSt.shadow (Option.some.inj hy)).symm
      · rw [hl]
        rfl
    · show (x.swapped p s.now (s.cad.lap ++ (7 : BitVec 16))).pos = _
      simp only [AllotSt.swapped, hrun]
      rfl

end Sys2Proof.Proofs
end

section
/-! SUPPORT. The starts of allotments and runs (06_timetable_and_phases, R138, R159, R160, R170, R248): when they fall due, and what
they leave at the end of their tick. -/

namespace Sys2Proof.Machine

/-! ### Due (R138, R159, R170, R410) -/

theorem exec_allotmentStartLap (s : State) (a : Allot) (x : AllotSt) (hx : s.allot a.val = some x) :
    exec (.allotmentStartLap a) s = .next (if s.startsNow x then s.modAllot a.val (fun x => { x with startDue := true }) else s) := by
  rw [exec, execAllotmentStartLap]
  simp only [hx]

theorem State.startsNow_of (s : State) (x : AllotSt) (l : BitVec 40) (hs : s.timed = true) (hc : s.clear = true) (ht : s.cad.tick = 0)
    (hl : x.startLap = some l) (hx : x.started = false) (hlap : l.toNat ≤ s.cad.lap.toNat)
    (hg : (s.image x.image).gears.getLsbD s.gear.gear.toNat = true) : s.startsNow x = true := by
  simp [State.startsNow, hl, hs, hc, ht, hx, hlap, hg]

/-- Nothing of an allotment starts in a hold (R170). -/
theorem exec_allotmentStartLap_held (s : State) (a : Allot) (h : s.clear = false) : exec (.allotmentStartLap a) s = .next s := by
  cases hx : s.allot a.val with
  | none => rw [exec, execAllotmentStartLap, hx]
  | some x =>
    have hno : s.startsNow x = false := by
      unfold State.startsNow
      split <;> simp [h]
    rw [exec_allotmentStartLap s a x hx, hno, if_neg Bool.false_ne_true]

theorem exec_runStart (s : State) (a : Allot) (x : AllotSt) (r : Run) (hx : s.allot a.val = some x) (hr : x.pendRun = some r) :
    exec (.runStart a) s = .next (if s.timed && s.clear && decide (s.cad.tick = 0) && (x.started || x.startDue) && x.run.isNone
      && decide (r.start.toNat ≤ s.cad.lap.toNat) then s.modAllot a.val (fun x => { x with runDue := true }) else s) := by
  rw [exec, execRunStart]
  simp only [hx, hr]

theorem exec_runStart_held (s : State) (a : Allot) (h : s.clear = false) : exec (.runStart a) s = .next s := by
  cases hx : s.allot a.val with
  | none => rw [exec, execRunStart, hx]
  | some x =>
    cases hr : x.pendRun with
    | none =>
      rw [exec, execRunStart]
      simp only [hx, hr]
    | some r => simp [exec_runStart s a x r hx hr, h]

/-! ### The end of tick 00000 -/

/-- An allotment none of whose starts is due any more. -/
def AllotSt.notDue (x : AllotSt) : AllotSt := { x with startDue := false, runDue := false }

theorem startsOf_eq (s : State) (n : Nat) (x : AllotSt) (hx : s.allot n = some x) : startsOf s n =
    if s.clear then
      let t := if x.startDue && x.startLap.isSome then startAllot n (s.modAllot n AllotSt.notDue) else s.modAllot n AllotSt.notDue
      if x.runDue then beginRun n t else t
    else s.modAllot n AllotSt.notDue := by
  simp only [startsOf, hx]
  rfl

theorem startsOf_waits (s : State) (n : Nat) (x : AllotSt) (hx : s.allot n = some x)
    (h : s.clear = false ∨ (x.startDue = false ∧ x.runDue = false)) : startsOf s n = s.modAllot n AllotSt.notDue := by
  rw [startsOf_eq s n x hx]
  rcases h with h | ⟨hs, hr⟩
  · simp [h]
  · simp [hs, hr]

theorem startsOf_start (s : State) (n : Nat) (x : AllotSt) (hx : s.allot n = some x) (hc : s.clear = true) (hd : x.startDue = true)
    (hl : x.startLap ≠ none) (hr : x.runDue = false) : startsOf s n = startAllot n (s.modAllot n AllotSt.notDue) := by
  simp [startsOf_eq s n x hx, hc, hd, hr, isSome_of_ne hl]

theorem startsOf_run (s : State) (n : Nat) (x : AllotSt) (hx : s.allot n = some x) (hc : s.clear = true) (hd : x.startDue = false)
    (hr : x.runDue = true) : startsOf s n = beginRun n (s.modAllot n AllotSt.notDue) := by
  simp [startsOf_eq s n x hx, hc, hd, hr]

section

variable (s : State) (n : Nat) (x : AllotSt) (r : Run) (hx : s.allot n = some x) (hp : x.pendRun = some r)

include hx hp

/-- A stopped timetable and a trip refuse the run with detail 6. -/
theorem beginRun_refused (h : x.stopped = true ∨ s.thm.trip = true) :
    beginRun n s = runDone n r 0x05 6 (s.modAllot n (fun a => { a with pendRun := none })) := by
  have hd : startDetail s x r = some 6 := by
    rw [startDetail, if_pos (by simpa using h)]
  simp only [beginRun, hx, hp, hd]

/-- A run whose first phase is in front starts without a swap. -/
theorem beginRun_front (f : Plane) (hs : x.stopped = false) (ht : s.thm.trip = false) (hf : x.front = some f)
    (hph : f.phase.toNat = r.firstPhase.toNat) (hw : x.swapDue = none) :
    beginRun n s = swapbackLoad n (s.cad.lap ++ (4 : BitVec 16)) (runDone n r 0x00 0 (resetTrns n (s.modAllot n (fun a => { a with
      run := some r, pendRun := none, variant := r.regroup, restLap := none, tiles := []
      pos := some (phaseHead r [] r.firstPhase.toNat (s.cad.lap ++ (4 : BitVec 16))), swapDue := none })))) := by
  have hd : startDetail s x r = none := by
    simp [startDetail, hs, ht, hf, hph]
  simp only [beginRun, hx, hp, hd]
  simp [startRun, hf, hph, hw]

end

/-! ### Turnstiles (R248) -/

theorem resetTrns_trn (n k : Nat) (s : State) (h : rising s.trns = true) : (resetTrns n s).trn k =
    if (s.trn k).owner = some (BitVec.ofNat 4 n) then
      { owner := (s.trn k).owner, link := (s.trn k).link, plan := (s.trn k).plan, seg := (s.trn k).seg } else s.trn k :=
  Laws.sget_smapD ({} : TrnSt) (TrnSt.resetFor n) s.trns k h rfl

end Sys2Proof.Machine

namespace Sys2Proof.Proofs

open Sys2Proof Sys2Proof.Machine

/-- Settles O24, by what falls due at the boundary and what each start leaves at the end of tick 00000. -/
theorem runStartCommands : Obligations.RunStartCommands := by
  unfold Obligations.RunStartCommands
  refine ⟨?startDue, ?runDue, startsOf_waits, startsOf_start, ?front, ?refused,
    fun s a h => ⟨exec_allotmentStartLap_held s a h, exec_runStart_held s a h⟩,
    fun n s h => ⟨fun k => resetTrns_trn n k s h, rfl⟩⟩
  case startDue =>
    intro s a x l hs hc ht hx hl hno hlap hg
    rw [exec_allotmentStartLap s a x hx, if_pos (s.startsNow_of x l hs hc ht hl hno hlap hg)]
  case runDue =>
    intro s a x r hs hc ht hx hr hst hrun hlap
    have hst' : (x.started || x.startDue) = true := by simpa using hst
    rw [exec_runStart s a x r hx hr]
    simp [hs, hc, ht, hst', hrun, hlap]
  case front =>
    intro s n x r f hx hc hr hd hp hs ht hf hph hw
    rw [startsOf_run s n x hx hc hd hr]
    exact beginRun_front _ n x.notDue r (s.modAllot_allot_some n x _ hx) hp f hs ht hf hph hw
  case refused =>
    intro s n x r hx hc hr hd hp h
    rw [startsOf_run s n x hx hc hd hr]
    exact beginRun_refused _ n x.notDue r (s.modAllot_allot_some n x _ hx) hp h

end Sys2Proof.Proofs
end

section
/-! SUPPORT. Layout loads (05_layout_image, R112, R133 to R138): the request, its refusals, and what the commit of an image leaves. -/

namespace Sys2Proof.Machine

/-! ### Commands of a port ring (Table 11-2) -/

theorem portCommand_on (p : Port) (opc : Byte) (f : State → State) (b : List Byte) (s : State) (ht : s.timed = true)
    (hr : s.ringServed p.val = true) (hl : b.length = 64) (ho : byteAt b 0 = opc) : portCommand p opc f b s = .next (f s) := by
  simp [portCommand, ht, hr, hl, ho]

/-! ### The request (R133, R136) -/

section

variable (s : State) (p : Port) (b : List Byte) (head : BitVec 16)
  (hdirt : entryDirt b [(1, 3), (0x14, 4), (0x1F, 1), (0x28, 0x17)] = none) (hres : (le 64 b 0x20 8).toNat % 64 = 0)

include hdirt hres

theorem actLoad_refused (r : Refuse) (h : requestFailure s = some r) :
    actLoad p b head s = refuseLoad p (entryTag b) (le 64 b 0x20 8) head r s := by
  simp [actLoad, hdirt, hres, h]

theorem actLoad_begun (h : requestFailure s = none) : actLoad p b head s = { s with
    load := some { port := decide (p.val = 1), tag := entryTag b, addr := le 64 b 8 8, length := le 32 b 0x10 4,
                   start := le 64 b 0x18 8, resultAddr := le 64 b 0x20 8, at_ := s.now, sqHead := head }
    out := s.out ++ [.imageRead (decide (p.val = 1)) (le 64 b 8 8) (le 32 b 0x10 4)] } := by
  simp [actLoad, hdirt, hres, h, State.emit]

end

theorem requestFailure_boot (s : State) (h : s.boot.step ≠ 8) :
    requestFailure s = some { code := 0x01, detail := s.boot.step.toNat } := by
  rw [requestFailure, if_pos h]

theorem requestFailure_unsynced (s : State) (h : s.boot.step = 8) (hc : s.cad.synced = false ∨ s.cad.mismatch ≠ 0) :
    requestFailure s = some { code := 0x02, detail := (cadStatus s.cad).toNat } := by
  have hbad : (!s.cad.synced || decide (s.cad.mismatch ≠ 0)) = true := by simpa using hc
  rw [requestFailure, if_neg (not_not.mpr h), if_pos hbad]

theorem requestFailure_none_iff (s : State) (h : s.boot.step = 8) (hs : s.cad.synced = true) (hm : s.cad.mismatch = 0) :
    requestFailure s = none ↔ s.load = none := by
  simp only [requestFailure, h, hs, hm]
  cases s.load <;> simp

/-! ### What the resources of an image's allotments leave -/

/-- What no part of a commit's allotments changes. -/
def State.loadFace (s : State) : Cad × Boot × Pwr × Sparse ImageSt × Nat × Option LoadSt :=
  (s.cad, s.boot, s.pwr, s.images, s.nextImage, s.load)

/-- The same with the allotments themselves. -/
def State.holderFace (s : State) := (s.allots, s.loadFace)

theorem copySect_holderFace (s : State) (e : Sect × Nat) : (copySect s e).holderFace = s.holderFace := by
  refine foldl_keeps State.holderFace _ (fun s x => ?_) _ s
  obtain ⟨w, i⟩ := x
  obtain ⟨_, _, _, _, h⟩ := Laws.writeWord_frame 0 (e.2 / 32 + i) w s
  dsimp only
  rw [h]
  rfl

theorem claimRun_holderFace (g : Img) (n : Nat) (r : Nat × Nat × Nat) (s : State) : (claimRun g n r s).holderFace = s.holderFace := by
  refine foldl_keeps State.holderFace _ (fun s j => ?_) _ s
  rfl

theorem claimStrobes_holderFace (g : Img) (a n : Nat) (s : State) : (claimStrobes g a n s).holderFace = s.holderFace := by
  refine foldl_keeps State.holderFace _ (fun s x => ?_) _ s
  refine foldl_keeps State.holderFace _ (fun s k => ?_) _ s
  rfl

theorem Shadowed.loadFace {n : Nat} {s t : State} (h : Shadowed n s t) : t.loadFace = s.loadFace := by
  obtain ⟨⟨_, _, _, _, _, _, _, rfl⟩, -, -⟩ := h
  rfl

/-! ### One allotment of an image (R117, R138, R240, R314, R336) -/

/-- An allotment as the commit of an image makes it in the state that it commits in. -/
def AllotSt.CommittedIn (port : Bool) (image : Nat) (start : Option (BitVec 40)) (s : State) (y : AllotSt) : Prop :=
  y.image = image ∧ y.port = port ∧ y.started = false ∧ y.restLap = some s.cad.lap ∧ y.commitAt = s.now ∧ y.startLap = start

theorem commitAllot_committed (port : Bool) (image : Nat) (start : Option (BitVec 40)) (x : Option Session) (g : Img) (k : Nat)
    (s : State) (a : AllotSt) (ha : a.started = false) : (commitAllot port image start x g k s a).CommittedIn port image start s := by
  cases x <;> exact ⟨rfl, rfl, ha, rfl, rfl, rfl⟩

theorem State.loadFace_cad {s t : State} (h : t.loadFace = s.loadFace) : t.cad = s.cad := congrArg (·.1) h

theorem AllotSt.CommittedIn.congr {port : Bool} {image : Nat} {start : Option (BitVec 40)} {s t : State} {y : AllotSt}
    (h : y.CommittedIn port image start t) (hf : t.loadFace = s.loadFace) : y.CommittedIn port image start s := by
  simpa only [AllotSt.CommittedIn, State.now, State.loadFace_cad hf] using h

/-- A shadow load changes nothing of what the commit has set. -/
theorem AllotSt.CommittedIn.withShadow {port : Bool} {image : Nat} {start : Option (BitVec 40)} {s : State} {y : AllotSt}
    (h : y.CommittedIn port image start s) (z : Option Shadow) : ({ y with shadow := z }).CommittedIn port image start s := h

section

variable (port : Bool) (image : Nat) (start : Option (BitVec 40)) (x : Option Session) (g : Img)

/-- The state in which a committed allotment's shadow load of phase 0 starts. -/
def commitBase (s : State) (e : Nat × Nat × AllotRec) : State :=
  let t := { (takeRandom s).1 with
    allots := sset s.allots e.1 (commitAllot port image start x g (takeRandom s).2 (takeRandom s).1 (g.allot e.2.1 e.2.2))
    rings := sdel s.rings (2 + e.1) }
  claimStrobes g e.2.1 e.1 (clearEntries e.1 ((g.runs.filter (fun q => decide (q.2.2 = e.2.1))).foldl (fun s q => claimRun g e.1 q s)
    ((placeSects (g.cfgBase e.2.2) (g.storeSects e.2.1)).foldl copySect t)))

theorem commitOne_eq (s : State) (e : Nat × Nat × AllotRec) :
    ∃ t, commitOne port image start x g s e = startShadow e.1 0 none t (commitBase port image start x g s e) := by
  obtain ⟨n, a, r⟩ := e
  simp only [commitOne, commitBase]
  exact ⟨_, rfl⟩

/-- A commit's load of phase 0 is all that comes after the allotment's resources are filled. -/
theorem commitOne_shadowed (s : State) (e : Nat × Nat × AllotRec) :
    Shadowed e.1 (commitBase port image start x g s e) (commitOne port image start x g s e) := by
  obtain ⟨t, ht⟩ := commitOne_eq port image start x g s e
  rw [ht]
  exact startShadow_shadowed e.1 0 none t _

theorem commitBase_holderFace (s : State) (e : Nat × Nat × AllotRec) : (commitBase port image start x g s e).holderFace =
    (sset s.allots e.1 (commitAllot port image start x g (takeRandom s).2 (takeRandom s).1 (g.allot e.2.1 e.2.2)), s.loadFace) := by
  rw [commitBase, claimStrobes_holderFace]
  exact (foldl_keeps State.holderFace _ (fun s q => claimRun_holderFace g e.1 q s) _ _).trans
    (foldl_keeps State.holderFace _ copySect_holderFace _ _)

theorem commitOne_loadFace (s : State) (e : Nat × Nat × AllotRec) : (commitOne port image start x g s e).loadFace = s.loadFace :=
  (commitOne_shadowed port image start x g s e).loadFace.trans (congrArg (·.2) (commitBase_holderFace port image start x g s e))

theorem commitBase_allot (s : State) (e : Nat × Nat × AllotRec) (k : Nat) : (commitBase port image start x g s e).allot k =
    if k = e.1 then some (commitAllot port image start x g (takeRandom s).2 (takeRandom s).1 (g.allot e.2.1 e.2.2)) else s.allot k :=
  (congrArg (fun l : Sparse AllotSt × _ => sfind l.1 k) (commitBase_holderFace port image start x g s e)).trans (Laws.sfind_sset _ _ _ _)

/-- No other allotment changes. -/
theorem commitOne_other (s : State) (e : Nat × Nat × AllotRec) (k : Nat) (hk : k ≠ e.1) :
    (commitOne port image start x g s e).allot k = s.allot k := by
  obtain ⟨-, hother, -⟩ := commitOne_shadowed port image start x g s e
  rw [hother k hk, commitBase_allot, if_neg hk]

theorem commitOne_made (s : State) (e : Nat × Nat × AllotRec) :
    ∃ y, (commitOne port image start x g s e).allot e.1 = some y ∧ y.CommittedIn port image start s := by
  obtain ⟨-, -, hload⟩ := commitOne_shadowed port image start x g s e
  have hbase := commitBase_allot port image start x g s e e.1
  rw [if_pos rfl] at hbase
  obtain ⟨h, hy⟩ := hload _ hbase
  have hmade := commitAllot_committed port image start x g (takeRandom s).2 (takeRandom s).1 (g.allot e.2.1 e.2.2) rfl
  exact ⟨_, hy, (hmade.congr rfl).withShadow h⟩

/-! ### All of them -/

theorem commitAll_loadFace (l : List (Nat × Nat × AllotRec)) (s : State) :
    (l.foldl (commitOne port image start x g) s).loadFace = s.loadFace :=
  foldl_keeps State.loadFace _ (commitOne_loadFace port image start x g) l s

theorem commitAll_other (l : List (Nat × Nat × AllotRec)) (s : State) (k : Nat) (hk : k ∉ l.map Prod.fst) :
    (l.foldl (commitOne port image start x g) s).allot k = s.allot k := by
  induction l generalizing s with
  | nil => rfl
  | cons e l ih =>
    rw [List.map_cons, List.mem_cons, not_or] at hk
    exact (ih _ hk.2).trans (commitOne_other port image start x g s e k hk.1)

theorem commitAll_made (l : List (Nat × Nat × AllotRec)) (s : State) (k : Nat) (hk : k ∈ l.map Prod.fst) :
    ∃ y, (l.foldl (commitOne port image start x g) s).allot k = some y ∧ y.CommittedIn port image start s := by
  induction l using List.reverseRecOn with
  | nil => simp at hk
  | append_singleton l e ih =>
    rw [List.foldl_append, List.foldl_cons, List.foldl_nil]
    by_cases he : k = e.1
    · rw [he]
      obtain ⟨y, hy, hmade⟩ := commitOne_made port image start x g (l.foldl (commitOne port image start x g) s) e
      exact ⟨y, hy, hmade.congr (commitAll_loadFace port image start x g l s)⟩
    · rw [commitOne_other _ _ _ _ _ _ e k he]
      exact ih (by simpa [he] using hk)

end

/-! ### The commit of an image -/

/-- The lap that a load names for its allotments. -/
def LoadSt.startLap (ld : LoadSt) : Option (BitVec 40) :=
  if ld.start = 0 then none else some (BitVec.ofNat 40 (ld.start.toNat / 65536))

/-- The state in which the allotments of an image are made: the image stands, and the load is over. -/
def imageStands (ld : LoadSt) (g : Img) (s : State) : State :=
  { s with images := sset s.images s.nextImage (g.share ld.port), nextImage := s.nextImage + 1, load := none }

/-- The numbers that the allotments of an image take: the lowest free ones, in order. -/
def State.numbersFor (s : State) (g : Img) : List (Nat × Nat × AllotRec) :=
  (s.freeNumbers.take g.allots.length).zip (g.allots.zipIdx.map (fun (r, a) => (a, r)))

theorem numbersFor_fst (s : State) (g : Img) : (s.numbersFor g).map Prod.fst = s.freeNumbers.take g.allots.length :=
  List.map_fst_zip (by simp)

/-- The state once the allotments of an image are made. -/
def allotsMade (ld : LoadSt) (g : Img) (s : State) : State :=
  (s.numbersFor g).foldl (commitOne ld.port s.nextImage ld.startLap (if g.conf then g.session (imageStands ld g s) else none) g)
    (imageStands ld g s)

theorem commitImage_frame (ld : LoadSt) (g : Img) (s : State) :
    ∃ r o, commitImage ld g s = { commitRoutes s.nextImage ld.startLap g (allotsMade ld g s) with rings := r, out := o } := by
  unfold commitImage
  dsimp only
  rw [List.foldl_ext _ (commitOne ld.port s.nextImage ld.startLap (if g.conf then g.session (imageStands ld g s) else none) g) _
    (fun t e _ => by obtain ⟨n, a, r⟩ := e; rfl)]
  exact ⟨_, _, rfl⟩

theorem commitRoutes_frame (image : Nat) (start : Option (BitVec 40)) (g : Img) (s : State) :
    ∃ r, commitRoutes image start g s = { s with rte := r } := by
  unfold commitRoutes
  split_ifs
  · exact ⟨_, rfl⟩
  · exact ⟨_, rfl⟩

/-- The result, the completion and the routes of a commit touch neither the allotments nor what they leave as it is. -/
theorem commitImage_holderFace (ld : LoadSt) (g : Img) (s : State) :
    (commitImage ld g s).holderFace = (allotsMade ld g s).holderFace := by
  obtain ⟨_, _, h⟩ := commitImage_frame ld g s
  obtain ⟨_, hr⟩ := commitRoutes_frame s.nextImage ld.startLap g (allotsMade ld g s)
  rw [h, hr]
  rfl

theorem commitImage_loadFace (ld : LoadSt) (g : Img) (s : State) : (commitImage ld g s).loadFace = (imageStands ld g s).loadFace :=
  (congrArg (·.2) (commitImage_holderFace ld g s)).trans (commitAll_loadFace _ _ _ _ _ _ _)

theorem commitImage_allot (ld : LoadSt) (g : Img) (s : State) (k : Nat) : (commitImage ld g s).allot k = (allotsMade ld g s).allot k :=
  congrArg (fun l : Sparse AllotSt × _ => sfind l.1 k) (commitImage_holderFace ld g s)

theorem commitImage_made (ld : LoadSt) (g : Img) (s : State) (k : Nat) (hk : k ∈ s.freeNumbers.take g.allots.length) :
    ∃ y, (commitImage ld g s).allot k = some y ∧ y.CommittedIn ld.port s.nextImage ld.startLap s := by
  rw [commitImage_allot]
  exact commitAll_made _ _ _ _ _ _ _ k (by rwa [numbersFor_fst])

theorem commitImage_other (ld : LoadSt) (g : Img) (s : State) (k : Nat) (hk : k ∉ s.freeNumbers.take g.allots.length) :
    (commitImage ld g s).allot k = s.allot k := by
  rw [commitImage_allot]
  exact commitAll_other _ _ _ _ _ _ _ k (by rwa [numbersFor_fst])

/-! ### The end of the read (R134, R136) -/

theorem exec_loadReadDone (s : State) (ld : LoadSt) (image : List Byte) (hld : s.load = some ld) (ht : s.timed = true)
    (hh : s.hears (portOf ld.port) = true) (hl : image.length = ld.length.toNat) :
    exec (.loadReadDone image) s = .next (endLoad ld image s) := by
  rw [exec, execLoadReadDone]
  simp [hld, ht, hh, hl]

theorem endLoad_refused (ld : LoadSt) (image : List Byte) (s : State) (r : Refuse) (h : imageFailure ld image s = some r) :
    endLoad ld image s = refuseLoad (portOf ld.port) ld.tag ld.resultAddr ld.sqHead r { s with load := none } := by
  simp only [endLoad, h]

theorem endLoad_commit (ld : LoadSt) (image : List Byte) (s : State) (h : imageFailure ld image s = none)
    (he : s.lodge.entropyDead = false) : endLoad ld image s = commitImage ld (parseImg image) s := by
  simp [endLoad, h, he]

end Sys2Proof.Machine

namespace Sys2Proof.Proofs

open Sys2Proof Sys2Proof.Machine

/-- Settles O25, by the request's refusals and by what the commit makes of an image's allotments, one after another. -/
theorem loadCommands : Obligations.LoadCommands := by
  unfold Obligations.LoadCommands
  refine ⟨?request, fun s => ⟨requestFailure_boot s, requestFailure_unsynced s, requestFailure_none_iff s⟩,
    fun p tag addr head r s => rfl, ?done⟩
  case request =>
    intro s p b ht hr hl ho hdirt hres
    rw [exec, execLoadLayout, portCommand_on p 0x10 _ b s ht hr hl ho]
    cases h : requestFailure s with
    | some r => rw [actLoad_refused s p b _ hdirt hres r h]
    | none => rw [actLoad_begun s p b _ hdirt hres h]
  case done =>
    intro s ld image hld ht hh hl he
    refine ⟨_, exec_loadReadDone s ld image hld ht hh hl, ?_⟩
    cases h : imageFailure ld image s with
    | some r =>
      rw [endLoad_refused ld image s r h]
      exact ⟨rfl, rfl⟩
    | none =>
      rw [endLoad_commit ld image s h he]
      have hface := commitImage_loadFace ld (parseImg image) s
      simp only [State.loadFace, imageStands, Prod.mk.injEq] at hface
      obtain ⟨hcad, hboot, hpwr, himages, hnext, hload⟩ := hface
      refine ⟨hload, rfl, ?_, hnext, fun _ n hn => commitImage_made ld _ s n hn, commitImage_other ld _ s, hcad, hboot, hpwr⟩
      rw [himages, Laws.sfind_sset_same]

end Sys2Proof.Proofs
end

section
/-! SUPPORT. RELEASE (05_layout_image, R147, R195, R323, R348): what freeing an allotment leaves, the allotments of a mask freed one
after another, and the removal of their keys. -/

namespace Sys2Proof.Machine

/-! ### Masks -/

theorem mem_setBits_iff {w : Nat} (m : BitVec w) (n : Nat) : n ∈ setBits m ↔ m.getLsbD n = true :=
  ⟨fun h => (List.mem_filter.mp h).2, fun h => mem_setBits m n (BitVec.lt_of_getLsbD h) h⟩

theorem setBits_ne_nil {w : Nat} (m : BitVec w) (h : m ≠ 0) : setBits m ≠ [] := fun hnil =>
  h (BitVec.eq_of_getLsbD_eq fun i _ => by
    have hi : i ∉ setBits m := by simp [hnil]
    simpa [mem_setBits_iff] using hi)

theorem getLsbD_maskOf (w : Nat) (l : List Nat) (i : Nat) : (maskOf w l).getLsbD i = (decide (i < w) && decide (i ∈ l)) := by
  unfold maskOf
  induction l using List.reverseRecOn with
  | nil => simp
  | append_singleton l k ih =>
    rw [List.foldl_append, List.foldl_cons, List.foldl_nil, BitVec.getLsbD_or, ih, BitVec.getLsbD_twoPow]
    by_cases hi : i = k
    · simp [hi]
      exact fun h _ => h
    · simp [hi, Ne.symm hi]

/-! ### Named allotments -/

theorem loaded_allot (s : State) (n : Nat) (x : AllotSt) (h : s.loaded n = some x) : s.allot n = some x := by
  unfold State.loaded at h
  split at h
  · cases h
  · exact h

/-- Where no named allotment is refused, each exists. -/
theorem exists_of_notOwned (s : State) (p : Port) (m : BitVec 16) (h : s.notOwned p m = 0) (n : Nat) (hn : m.getLsbD n = true) :
    ∃ x, s.allot n = some x := by
  have hzero : (s.notOwned p m).getLsbD n = false := by rw [h]; simp
  cases hl : s.loaded n with
  | some x => exact ⟨x, loaded_allot s n x hl⟩
  | none =>
    have hmem : n ∈ setBits m := (mem_setBits_iff m n).mpr hn
    rw [State.notOwned, getLsbD_maskOf] at hzero
    simp [hl, hmem, BitVec.lt_of_getLsbD hn] at hzero

theorem onAllots_named (p : Port) (b : List Byte) (head : BitVec 16) (dirt : List (Nat × Nat)) (bad : BitVec 16)
    (f : List Nat → State → State) (s : State) (hd : entryDirt b dirt = none) (hb : bad = 0) :
    onAllots p b head dirt bad f s = f (setBits (entryAllots b)) s := by
  simp [onAllots, hd, hb]

/-! ### The resources of one allotment (R195, R227, R314) -/

/-- What freeing an allotment leaves as it is, or changes for that allotment alone. -/
def State.releaseFace (s : State) := (s.allots, s.movers, s.dying, s.cad, s.boot, s.flash)

theorem cancelSwitch_releaseFace (image : Nat) (s : State) : (cancelSwitch image s).releaseFace = s.releaseFace := by
  unfold cancelSwitch
  split_ifs <;> rfl

theorem dropImage_releaseFace (image : Nat) (s : State) : (dropImage image s).releaseFace = s.releaseFace := by
  unfold dropImage
  have hswitch := cancelSwitch_releaseFace image { s with images := sdel s.images image }
  dsimp only
  split_ifs
  · exact hswitch
  · exact hswitch
  · rfl

theorem startRamps_frame (f : State → Sparse Ramp) (s : State) :
    ∃ r g, startRamps (fun s => { s with ramps := f s }) s = { s with ramps := r, gear := g } := by
  unfold startRamps
  dsimp only
  split_ifs <;> exact ⟨_, _, rfl⟩

/-- Of allotments and movers freeing an allotment takes away its own alone. -/
theorem freeAllot_releaseFace (n : Nat) (s : State) (x : AllotSt) (hx : s.allot n = some x) : (freeAllot n s).releaseFace =
    (sdel s.allots n, x.movers.foldl sdel s.movers, s.dying, s.cad, s.boot, s.flash) := by
  obtain ⟨_, _, _, hzero⟩ := zeroAllot_frame x s
  obtain ⟨_, _, hramps⟩ := startRamps_frame
    (fun s => (setBits x.groups).foldl (fun m g => smod {} m g (fun r => { r with target := 0 })) s.ramps) (forgetParts x (zeroAllot x s))
  simp only [freeAllot, hx]
  rw [dropImage_releaseFace, hramps, hzero]
  rfl

theorem freeAllot_allot (n k : Nat) (s : State) (x : AllotSt) (hx : s.allot n = some x) :
    (freeAllot n s).allot k = if k = n then none else s.allot k :=
  (congrArg (fun l : Sparse AllotSt × _ => sfind l.1 k) (freeAllot_releaseFace n s x hx)).trans (Laws.sfind_sdel _ _ _)

theorem mover_foldl_sdel (l : List Nat) (ms : Sparse MoverSt) (k : Nat) :
    sget {} (l.foldl sdel ms) k = {} ∨ sget {} (l.foldl sdel ms) k = sget {} ms k := by
  induction l generalizing ms with
  | nil => exact Or.inr rfl
  | cons m l ih =>
    rcases ih (sdel ms m) with h | h
    · exact Or.inl h
    · rw [List.foldl_cons, h, sget, Laws.sfind_sdel]
      split_ifs
      · exact Or.inl rfl
      · exact Or.inr rfl

/-- Movers that return to no owner are idle. -/
theorem freeAllot_mover (n k : Nat) (s : State) (x : AllotSt) (hx : s.allot n = some x) :
    (freeAllot n s).mover k = {} ∨ (freeAllot n s).mover k = s.mover k := by
  have hm : (freeAllot n s).mover k = sget {} (x.movers.foldl sdel s.movers) k :=
    congrArg (fun l : Sparse AllotSt × Sparse MoverSt × _ => sget ({} : MoverSt) l.2.1 k) (freeAllot_releaseFace n s x hx)
  rw [hm]
  exact mover_foldl_sdel x.movers s.movers k

theorem moversIdle_of_mover (s t : State) (x : AllotSt) (h : ∀ m, t.mover m = {} ∨ t.mover m = s.mover m)
    (hs : s.moversIdle x = true) : t.moversIdle x = true := by
  unfold State.moversIdle at hs ⊢
  rw [List.all_eq_true] at hs ⊢
  intro m hm
  rcases h m with h | h
  · rw [h]
    rfl
  · rw [h]
    exact hs m hm

/-! ### The allotments of a mask, one after another (R147) -/

theorem portOf_decide (p : Port) : portOf (decide (p.val = 1)) = p := by
  fin_cases p <;> rfl

section

variable (p : Port) (tag : Word) (head mask : BitVec 16)

/-- The release of an allotment whose movers are idle. -/
def freedBy (x : AllotSt) : Dying :=
  { port := decide (p.val = 1), tag := tag, sqHead := head, mask := mask, freed := true, keyId := x.keyId }

theorem releaseOne_none (s : State) (n : Nat) (h : s.allot n = none) : releaseOne p tag head mask s n = s := by
  simp only [releaseOne, h]

theorem releaseOne_idle (s : State) (n : Nat) (x : AllotSt) (hx : s.allot n = some x) (hi : s.moversIdle x = true) :
    releaseOne p tag head mask s n = freeAllot n { s with dying := sset s.dying n (freedBy p tag head mask x) } := by
  simp only [releaseOne, hx, hi, if_true, freedBy]

/-- What the release of the allotments of a list has made of a state: they are gone and their keys wait for removal, and no other
allotment or release has changed. -/
structure Released (s : State) (l : List Nat) (t : State) : Prop where
  gone : ∀ n ∈ l, t.allot n = none ∧ ∃ x, sfind t.dying n = some (freedBy p tag head mask x)
  others : ∀ n, n ∉ l → t.allot n = s.allot n ∧ sfind t.dying n = sfind s.dying n
  movers : ∀ m, t.mover m = {} ∨ t.mover m = s.mover m
  rest : t.cad = s.cad ∧ t.boot = s.boot ∧ t.flash = s.flash

theorem Released.nil (s : State) : Released p tag head mask s [] s :=
  ⟨fun _ h => absurd h (by simp), fun _ _ => ⟨rfl, rfl⟩, fun _ => Or.inr rfl, rfl, rfl, rfl⟩

variable {p tag head mask}

/-- One more allotment whose movers are idle. -/
theorem Released.concat {s t : State} {l : List Nat} (h : Released p tag head mask s l t) (n : Nat) (x : AllotSt)
    (hx : t.allot n = some x) (hi : t.moversIdle x = true) :
    Released p tag head mask s (l ++ [n]) (releaseOne p tag head mask t n) := by
  rw [releaseOne_idle p tag head mask t n x hx hi]
  have hx' : State.allot { t with dying := sset t.dying n (freedBy p tag head mask x) } n = some x := hx
  have hallot := fun k => freeAllot_allot n k _ x hx'
  have hmover := fun k => freeAllot_mover n k _ x hx'
  have hface := freeAllot_releaseFace n _ x hx'
  simp only [State.releaseFace, Prod.mk.injEq] at hface
  obtain ⟨-, -, hdying, hcad, hboot, hflash⟩ := hface
  obtain ⟨hcad', hboot', hflash'⟩ := h.rest
  refine ⟨fun k hk => ?_, fun k hk => ?_, fun m => ?_, hcad.trans hcad', hboot.trans hboot', hflash.trans hflash'⟩
  · rw [hallot, hdying, Laws.sfind_sset]
    by_cases hkn : k = n
    · simp only [hkn, if_true]
      exact ⟨trivial, x, rfl⟩
    · rw [if_neg hkn, if_neg hkn]
      exact h.gone k (by simpa [hkn] using hk)
  · have hkn : k ≠ n := fun e => hk (by simp [e])
    rw [hallot, hdying, Laws.sfind_sset, if_neg hkn, if_neg hkn]
    exact h.others k fun hl => hk (by simp [hl])
  · rcases hmover m with hm | hm
    · exact Or.inl hm
    · rw [hm]
      exact h.movers m

/-- An allotment that the list has named before. -/
theorem Released.again {s t : State} {l : List Nat} (h : Released p tag head mask s l t) (n : Nat) (hn : n ∈ l) :
    Released p tag head mask s (l ++ [n]) (releaseOne p tag head mask t n) := by
  rw [releaseOne_none p tag head mask t n (h.gone n hn).1]
  exact ⟨fun k hk => h.gone k (by grind), fun k hk => h.others k (by grind), h.movers, h.rest⟩

variable (p tag head mask)

theorem releaseAll_released (s : State) (l : List Nat) (h : ∀ n ∈ l, ∃ x, s.allot n = some x ∧ s.moversIdle x = true) :
    Released p tag head mask s l (l.foldl (releaseOne p tag head mask) s) := by
  induction l using List.reverseRecOn with
  | nil => exact Released.nil p tag head mask s
  | append_singleton l n ih =>
    have hl := ih fun k hk => h k (by simp [hk])
    rw [List.foldl_append, List.foldl_cons, List.foldl_nil]
    by_cases hn : n ∈ l
    · exact hl.again n hn
    · obtain ⟨x, hx, hi⟩ := h n (by simp)
      exact hl.concat n x ((hl.others n hn).1.trans hx) (moversIdle_of_mover s _ x hl.movers hi)

end

/-! ### The commands -/

section

variable (s : State) (p : Port) (b : List Byte) (head : BitVec 16)
  (hdirt : entryDirt b [(1, 3), (0x0A, 6), (0x10, 0x2F)] = none) (hown : s.notOwned p (entryAllots b) = 0)

include hdirt hown

theorem actRelease_busy (h : s.busyRuns (setBits (entryAllots b)) ≠ 0) : actRelease p b head s =
    commandDone p (entryTag b) 0x02 ((s.busyRuns (setBits (entryAllots b))).setWidth 32) head s := by
  rw [actRelease, onAllots_named p b head _ _ _ s hdirt hown, if_pos h]

theorem actRelease_taken (h : s.busyRuns (setBits (entryAllots b)) = 0) (hm : entryAllots b ≠ 0) : actRelease p b head s =
    (setBits (entryAllots b)).foldl (releaseOne p (entryTag b) head (entryAllots b)) s := by
  have hne : (setBits (entryAllots b)).isEmpty = false := by simpa using setBits_ne_nil _ hm
  rw [actRelease, onAllots_named p b head _ _ _ s hdirt hown, if_neg (not_not.mpr h), hne, if_neg Bool.false_ne_true]

end

/-- The keys of a freed allotment are gone, and its RELEASE completes with the last of its allotments (R195, R348). -/
theorem exec_releaseKeyRemoval_freed (s : State) (a : Allot) (d : Dying) (hc : s.clocked = true) (hd : sfind s.dying a.val = some d)
    (hf : d.freed = true) : exec (.releaseKeyRemoval a) s = .next (releaseDone d { s with dying := sdel s.dying a.val }) := by
  rw [exec, execReleaseKeyRemoval]
  simp [hd, hc, hf]

theorem exec_releaseKeyRemoval_busy (s : State) (a : Allot) (d : Dying) (x : AllotSt) (hd : sfind s.dying a.val = some d)
    (hf : d.freed = false) (hx : s.allot a.val = some x) (hi : s.moversIdle x = false) : exec (.releaseKeyRemoval a) s = .next s := by
  rw [exec, execReleaseKeyRemoval]
  simp [hd, hf, hx, hi]

end Sys2Proof.Machine

namespace Sys2Proof.Proofs

open Sys2Proof Sys2Proof.Machine

/-- Settles O27, by freeing the named allotments one after another: the movers of those still to come stay idle. -/
theorem releaseCommands : Obligations.ReleaseCommands := by
  unfold Obligations.ReleaseCommands
  refine ⟨?taken, exec_releaseKeyRemoval_freed, exec_releaseKeyRemoval_busy, ?busy⟩
  case taken =>
    intro s p b ht hr hl ho hdirt hown hbusy hm hidle
    have hfreed := releaseAll_released p (entryTag b) (s.ring p.val).sqHead (entryAllots b) s (setBits (entryAllots b)) fun n hn => by
      obtain ⟨x, hx⟩ := exists_of_notOwned s p _ hown n ((mem_setBits_iff _ n).mp hn)
      exact ⟨x, hx, hidle n x ((mem_setBits_iff _ n).mp hn) hx⟩
    refine ⟨_, ?_, rfl, fun n hn => ?_, fun n hn => ?_, hfreed.rest⟩
    · rw [exec, execRelease, portCommand_on p 0x12 _ b s ht hr hl ho, actRelease_taken s p b _ hdirt hown hbusy hm]
    · obtain ⟨hnone, x, hx⟩ := hfreed.gone n ((mem_setBits_iff _ n).mpr hn)
      exact ⟨hnone, _, hx, rfl, rfl, rfl, rfl, portOf_decide p⟩
    · exact hfreed.others n (by simp [mem_setBits_iff, hn])
  case busy =>
    intro s p b ht hr hl ho hdirt hown hbusy
    rw [exec, execRelease, portCommand_on p 0x12 _ b s ht hr hl ho, actRelease_busy s p b _ hdirt hown hbusy]
    rfl

end Sys2Proof.Proofs
end

section
/-! SUPPORT. The entries of a timetable that the unit's own machinery owns (06_timetable_and_phases, R149 to R161, R187, R188): the start
of a unit, what the pass of a fired entry leaves, and the ends of phases and runs. -/

namespace Sys2Proof.Machine

/-! ### The pass of a fired entry (R152) -/

theorem passEntry_allot_of_ne (n m : Nat) (s : State) (h : m ≠ n) : (passEntry n s).allot m = s.allot m :=
  s.modAllot_allot_of_ne n m _ h

theorem passEntry_frame (n : Nat) (s : State) : passEntry n s = { s with allots := (passEntry n s).allots } := rfl

theorem passEntry_allot_of_pos (n : Nat) (s : State) (x : AllotSt) (p : RunPos) (t : Time) (g : BitVec 3) (i : Nat)
    (hx : s.allot n = some x) (hp : x.pos = some p) (hr : p.running = some (t, g, i)) :
    (passEntry n s).allot n = some { x with pos := some { p with running := some (t, g, i + 1) } } := by
  rw [passEntry_eq, s.modAllot_allot_some n x _ hx, hp, Option.map_some, hr, Option.map_some]

/-- Where what a due entry does has left the run's place, its timetable stands at the entry that follows. -/
theorem passEntry_due (s t : State) (n : Nat) (d : Due) (x : AllotSt) (hd : s.due n = some d) (ht : t.allot n = some x)
    (hp : x.pos = d.al.pos) :
    (passEntry n t).allot n = some { x with pos := some { d.pos with running := some (d.start, d.gear, d.ix + 1) } } := by
  obtain ⟨-, hpos, hrun⟩ := s.due_running n d hd
  exact passEntry_allot_of_pos n t x d.pos d.start d.gear d.ix ht (hp.trans hpos) hrun

/-- Where the run has ended there is no entry that follows. -/
theorem passEntry_allot_of_noPos (n : Nat) (s : State) (x : AllotSt) (hx : s.allot n = some x) (hp : x.pos = none) :
    (passEntry n s).allot n = some x := by
  rw [passEntry_eq, s.modAllot_allot_some n x _ hx, hp, Option.map_none, ← hp]

/-! ### Entries that cannot be read (R187) -/

/-- A word that no decoder could correct, counted in the odometer (Table 13-5). -/
def countUe (s : State) : State := { s with mgmt := { s.mgmt with odo := { s.mgmt.odo with ueWords := s.mgmt.odo.ueWords + 1 } } }

theorem readEntry_bad (n : Nat) (d : Due) (s : State)
    (h : trellisDecode (fit 36 (sget [] s.upset (entryKey n d.table d.ix))) = .uncorrectable) :
    readEntry n d s = (allotFault n (memFault false (8, ghOfPages d.al)) (BitVec.ofNat 3 (4 + ghOfPages d.al)) 0xFF (some d.entry)
      (countUe s), false) := by
  simp only [readEntry, h]
  rfl

theorem fire_bad (n : Nat) (f : Due → State → Option State) (s : State) (d : Due) (hd : s.due n = some d)
    (h : trellisDecode (fit 36 (sget [] s.upset (entryKey n d.table d.ix))) = .uncorrectable) (hf : (f d s).isSome = true) :
    fire n f s = (readEntry n d s).1 := by
  have hread := readEntry_bad n d s h
  simp only [fire, hd, hread, hf, if_true]

theorem fire_none (n : Nat) (f : Due → State → Option State) (s : State) (h : s.due n = none) : fire n f s = s := by
  simp only [fire, h]

theorem memFault_entry (a : AllotSt) :
    memFault false (8, ghOfPages a) = 0x50018000#32 + BitVec.ofNat 32 (ghOfPages a) := by
  unfold ghOfPages
  split_ifs <;> decide

/-! ### The start of a unit (R149, R161, R166, R188) -/

theorem exec_unitStart (s : State) (a : Allot) (x : AllotSt) (r : Run) (p : RunPos) (tb : Timetable) (u loops : Nat)
    (noise : List (Nat × List Byte)) (hx : s.allot a.val = some x) (hr : x.run = some r) (hp : x.pos = some p)
    (htb : x.table p.phase.toNat s.gear.gear.toNat x.variant.toNat = some tb) (hn : nextUnit tb p = some (u, loops))
    (ht : s.timed = true) (hh : s.hold.hold = false) (hs : x.stopped = false) (hsh : s.shiftNow = false) (hth : s.thm.trip = false)
    (he : p.ended = none) (hd : unitDue (tb.units.getD u ⟨0, 0, 1⟩).length p s = true) :
    exec (.unitStart a noise) s = .next (applyEntryNoise a.val (x.tableIx tb) noise
      (s.modAllot a.val (fun x => { x with pos := some (beginUnit u loops tb r s p) }))) := by
  rw [exec, execUnitStart]
  simp only [hx, hr, hp, htb, hn, ht, hh, hs, hsh, hth, he, hd, Option.isNone_none, Bool.not_false, Bool.and_self, if_true]

theorem applyEntryNoise_frame (n t : Nat) (noise : List (Nat × List Byte)) (s : State) :
    applyEntryNoise n t noise s = { s with upset := (applyEntryNoise n t noise s).upset } := by
  refine List.foldlRecOn (motive := fun u : State => u = { s with upset := u.upset }) noise _ rfl fun u hu e _ => ?_
  rw [hu]

/-- What happens to an entry that nothing has spoiled is what its store then holds. -/
theorem applyEntryNoise_upset (n t ix : Nat) (e : List Byte) (s : State) (hl : e.length = 36)
    (hc : sget [] s.upset (entryKey n t ix) = []) (he : e.any (fun b => b != 0) = true) (k : Nat) :
    sget [] (applyEntryNoise n t [(ix, e)] s).upset k = if k = entryKey n t ix then e else sget [] s.upset k := by
  have hxor : (xorPattern [] e).take 36 = e := by
    refine List.ext_getElem (by simp [xorPattern, hl]) fun i h1 h2 => ?_
    simp [xorPattern, byteAt, h2]
  have hall : e.all (· == 0) = false := by
    rw [← Bool.not_eq_true, List.all_eq_true]
    obtain ⟨b, hb, hne⟩ := List.any_eq_true.mp he
    exact fun h => absurd (h b hb) (by simpa using hne)
  simp only [applyEntryNoise, List.foldl_cons, List.foldl_nil, hc, Laws.fit_length 36 e hl, hxor, hall, Bool.false_eq_true, if_false,
    Laws.sget_sput]

/-! ### COMPLETE and STROBE (R155, R157, R316) -/

theorem exec_ttComplete (s : State) (a : Allot) (d : Due) (tag : Word) (hd : s.due a.val = some d)
    (hc : sget [] s.upset (entryKey a.val d.table d.ix) = []) (hk : d.kind = .complete tag) :
    exec (.ttComplete a) s = .next (passEntry a.val
      (complete (2 + a.val) ⟨0x01, 0x00, 0, tag, s.now, d.pos.step, 0, BitVec.ofNat 8 a.val⟩ s)) := by
  rw [exec, execTtComplete]
  exact congrArg Host.Outcome.next (fire_clean a.val _ s _ d hd hc (by simp only [hk]))

theorem exec_ttComplete_bad (s : State) (a : Allot) (d : Due) (tag : Word) (hd : s.due a.val = some d) (hk : d.kind = .complete tag)
    (h : trellisDecode (fit 36 (sget [] s.upset (entryKey a.val d.table d.ix))) = .uncorrectable) :
    exec (.ttComplete a) s = .next (readEntry a.val d s).1 := by
  rw [exec, execTtComplete]
  exact congrArg Host.Outcome.next (fire_bad a.val _ s d hd h (by simp only [hk, Option.isSome_some]))

/-- What STROBE g does to the allotment whose entry it is. -/
def AllotSt.strobed (g : Byte) (now : Time) (x : AllotSt) : AllotSt :=
  if x.sgrp.toNat = g.toNat then { x with poll := x.poll.strobe now } else x

theorem exec_ttStrobe (s : State) (a : Allot) (d : Due) (g : Byte) (hd : s.due a.val = some d)
    (hc : sget [] s.upset (entryKey a.val d.table d.ix) = []) (hk : d.kind = .strobe g) :
    exec (.ttStrobe a) s = .next (passEntry a.val (s.modAllot a.val (AllotSt.strobed g s.now))) := by
  rw [exec, execTtStrobe]
  exact congrArg Host.Outcome.next (fire_clean a.val _ s _ d hd hc (by simp only [hk]; rfl))

/-! ### PHASE_END (R157, R160) -/

theorem exec_ttPhaseEnd (s : State) (a : Allot) (d : Due) (r : Run) (tb : Timetable) (next : Byte) (hd : s.due a.val = some d)
    (hc : sget [] s.upset (entryKey a.val d.table d.ix) = []) (hk : d.kind = .phaseEnd next) (hr : d.al.run = some r)
    (htb : d.al.anyTable d.pos.phase.toNat d.al.variant.toNat = some tb) :
    exec (.ttPhaseEnd a) s = .next (passEntry a.val (if (nextUnit tb d.pos).isNone then endPhase a.val next r d.pos s else s)) := by
  obtain ⟨hal, hpos, -⟩ := s.due_running a.val d hd
  rw [exec, execTtPhaseEnd]
  simp only [hal, hr, hpos, htb]
  obtain ⟨al, pos, start, gear, table, ix, kind⟩ := d
  obtain rfl : kind = _ := hk
  simp only [hd]
  exact congrArg Host.Outcome.next (fire_clean a.val _ s _ _ hd hc rfl)

theorem endRun_allot (n : Nat) (r : Run) (p : RunPos) (s : State) (x : AllotSt) (hx : s.allot n = some x) :
    (endRun n r p s).allot n = some { x with run := none, pos := none, restLap := some (s.cad.lap + 16) } :=
  s.modAllot_allot_some n x _ hx

/-- The run's allotment once a phase has ended with a NEXT that swaps. -/
def AllotSt.phaseEnded (next : Byte) (p : RunPos) (x : AllotSt) : AllotSt := { x with
  pos := x.pos.map (fun q => { q with ended := some next }), swapDue := some (fld next 0 3, later 1 p.lastTick) }

theorem endPhase_swap (n : Nat) (next : Byte) (r : Run) (p : RunPos) (s : State) (h : next ≠ 0xFF) :
    endPhase n next r p s = s.modAllot n (AllotSt.phaseEnded next p) := by
  rw [endPhase, if_neg h]
  rfl

theorem endPhase_allot_of_ne (n m : Nat) (next : Byte) (r : Run) (p : RunPos) (s : State) (h : m ≠ n) :
    (endPhase n next r p s).allot m = s.allot m := by
  unfold endPhase
  split_ifs <;> exact s.modAllot_allot_of_ne n m _ h

theorem endPhase_frame (n : Nat) (next : Byte) (r : Run) (p : RunPos) (s : State) : endPhase n next r p s =
    { s with rings := (endPhase n next r p s).rings, allots := (endPhase n next r p s).allots } := by
  unfold endPhase
  split_ifs <;> rfl

end Sys2Proof.Machine

namespace Sys2Proof.Proofs

open Sys2Proof Sys2Proof.Machine

/-- Settles O32: each command is what its entry does followed by the pass to the next entry; an entry that cannot be read stops the
timetable before it does anything. -/
theorem timetableCommands : Obligations.TimetableCommands := by
  unfold Obligations.TimetableCommands
  refine ⟨?unit, ?complete, ?strobe, ?phaseEnd, ?idle, ?bad⟩
  case unit =>
    intro s a x r p tb u loops noise hx hr hp htb hn ht hh hs hsh hth he w done hd
    have hex := exec_unitStart s a x r p tb u loops noise hx hr hp htb hn ht hh hs hsh hth he hd
    rw [applyEntryNoise_frame] at hex
    refine ⟨_, hex, rfl, rfl, ?_, ?_⟩
    · rintro rfl
      rfl
    · rintro ix e rfl hl hc hany
      have hup := applyEntryNoise_upset a.val (x.tableIx tb) ix e
        (s.modAllot a.val (fun x => { x with pos := some (beginUnit u loops tb r s p) })) hl hc hany
      exact ⟨(hup _).trans (if_pos rfl), fun k hk => (hup k).trans (if_neg hk)⟩
  case complete =>
    intro s a d tag hd hc hk
    obtain ⟨hal, -, -⟩ := s.due_running a.val d hd
    exact ⟨_, exec_ttComplete s a d tag hd hc hk, rfl, passEntry_due s _ a.val d d.al hd hal rfl,
      fun m hm => passEntry_allot_of_ne a.val m _ hm, rfl⟩
  case strobe =>
    intro s a d g hd hc hk
    obtain ⟨hal, -, -⟩ := s.due_running a.val d hd
    refine ⟨_, exec_ttStrobe s a d g hd hc hk, ?_, fun m hm => ?_, rfl⟩
    · have hpos : (d.al.strobed g s.now).pos = d.al.pos := by
        unfold AllotSt.strobed
        split_ifs <;> rfl
      rw [passEntry_due s _ a.val d _ hd (s.modAllot_allot_some a.val d.al _ hal) hpos]
      unfold AllotSt.strobed
      split_ifs <;> rfl
    · rw [passEntry_allot_of_ne a.val m _ hm, s.modAllot_allot_of_ne a.val m _ hm]
  case phaseEnd =>
    intro s a d r tb next hd hc hk hr htb
    obtain ⟨hal, hpos, hrun⟩ := s.due_running a.val d hd
    have hex := exec_ttPhaseEnd s a d r tb next hd hc hk hr htb
    by_cases hn : nextUnit tb d.pos = none
    · rw [hn, Option.isNone_none, if_pos rfl] at hex
      refine ⟨_, hex, fun h => absurd hn h, fun _ hff => ?_, fun _ hff => ?_, fun m hm => ?_, ?_⟩
      · rw [endPhase, if_pos hff]
        exact ⟨passEntry_allot_of_noPos a.val _ _ (endRun_allot a.val r d.pos s d.al hal) rfl, rfl⟩
      · have hend : (d.al.phaseEnded next d.pos).pos = some { d.pos with ended := some next } := by
          rw [AllotSt.phaseEnded, hpos, Option.map_some]
        rw [endPhase_swap a.val next r d.pos s hff]
        exact ⟨rfl, passEntry_allot_of_pos a.val _ _ _ d.start d.gear d.ix (s.modAllot_allot_some a.val d.al _ hal) hend hrun⟩
      · rw [passEntry_allot_of_ne a.val m _ hm, endPhase_allot_of_ne a.val m next r d.pos s hm]
      · rw [passEntry_frame, endPhase_frame]
    · rw [if_neg (by simpa using hn)] at hex
      exact ⟨_, hex, fun _ => ⟨rfl, passEntry_due s s a.val d d.al hd hal rfl⟩, fun h => absurd h hn, fun h => absurd h hn,
        fun m hm => passEntry_allot_of_ne a.val m s hm, rfl⟩
  case idle =>
    intro s a h
    rw [exec, exec, execTtComplete, execTtStrobe, fire_none a.val _ s h, fire_none a.val _ s h]
    exact ⟨rfl, rfl⟩
  case bad =>
    rintro s a d tag _ hd rfl hk h
    obtain ⟨hal, -, -⟩ := s.due_running a.val d hd
    have hex := exec_ttComplete_bad s a d tag hd hk h
    rw [readEntry_bad a.val d s h, memFault_entry] at hex
    refine ⟨_, hex, ?_, ?_, ?_, fun m hm => ?_, ?_, ?_⟩
    · rw [allotFault_stops]
      exact congrArg (Option.map AllotSt.fault) hal
    · rw [allotFault_frame]
      rfl
    · rw [allotFault_frc, State.sliceOf_some (countUe s) a.val d.al hal, writeFault_frc, writeFault_frc]
      rfl
    · rw [allotFault_allot, if_neg hm]
      rfl
    · rw [allotFault_frame]
      rfl
    · rw [allotFault_frame]
      rfl

end Sys2Proof.Proofs
end

section
/-! SUPPORT. The turnstiles' timetable side (06_timetable_and_phases, 09_pelotons_and_collectives, R156, R242 to R247): what an arm loads,
the completion test that follows it, and what a missed deadline leaves. -/

namespace Sys2Proof.Machine

/-! ### The fault record of a tick that is over -/

theorem writeFaultAt_frc (t : Time) (code : Word) (sl : BitVec 12) (die : BitVec 3) (a : Byte) (e : Option (BitVec 24)) (s : State) :
    (writeFaultAt t code sl die a e s).frc =
      { s.frc with seq := s.frc.seq + 1, tickAt := t, inTick := s.ofTick t + 1,
                   recs := settle ⟨s.frc.seq + 1, code, faultCtx sl die a e (tickOf t), if s.s1Done then t else 0⟩
                     s.frc.recs (s.frc.seq + 1) (s.ofTick t) } := by
  unfold writeFaultAt
  rw [queueEventAt_frc]

/-- Two states with the same fault store and boot step record a fault alike. -/
theorem writeFaultAt_frc_congr (t : Time) (code : Word) (sl : BitVec 12) (die : BitVec 3) (a : Byte) (e : Option (BitVec 24))
    (s u : State) (hf : u.frc = s.frc) (hb : u.boot = s.boot) :
    (writeFaultAt t code sl die a e u).frc = (writeFaultAt t code sl die a e s).frc := by
  rw [writeFaultAt_frc, writeFaultAt_frc]
  unfold State.ofTick State.s1Done
  rw [hf, hb]

/-! ### The completion test (R243, R246) -/

/-- A turnstile is counted at a place that its owner, the allotments and the images name (R264). -/
theorem State.trnPlace_congr (s u : State) (k c : Nat) (ho : (u.trn k).owner = (s.trn k).owner) (ha : u.allots = s.allots)
    (hi : u.images = s.images) : u.trnPlace k c = s.trnPlace k c := by
  unfold State.trnPlace State.trnCounter State.isConf State.sliceOf State.allot State.image
  rw [ho, ha, hi]

/-- A turnstile completes: it is DONE, and counted at its place. -/
def completeTrn (k : Nat) (s : State) : State := (s.modTrn k (TrnSt.completed s.now)).bump (s.trnPlace k 0) 1

theorem completeTrn_allot (k n : Nat) (s : State) : (completeTrn k s).allot n = s.allot n := rfl

theorem completeTrn_trn (k j : Nat) (s : State) :
    (completeTrn k s).trn j = if j = k then (s.trn k).completed s.now else s.trn j :=
  s.modTrn_trn k j _

theorem completionTest_below (k : Nat) (was : Option Nat) (s : State) (hl : (s.trn k).count.toNat < (s.trn k).target.toNat) :
    completionTest k was s = s := by
  have hne : (s.trn k).count ≠ (s.trn k).target := fun h => by rw [h] at hl; omega
  simp [completionTest, hne, Nat.not_le.mpr hl, Nat.not_lt.mpr hl.le]

theorem completionTest_equal (k : Nat) (was : Option Nat) (s : State) (hst : (s.trn k).st = 1)
    (h : (s.trn k).count = (s.trn k).target) :
    completionTest k was s = completeTrn k s := by
  have hplace : (s.modTrn k (TrnSt.completed s.now)).trnPlace k 0 = s.trnPlace k 0 :=
    State.trnPlace_congr s _ k 0 (by rw [State.modTrn_trn_same]; rfl) rfl rfl
  simp only [completionTest, hst, h, true_or, if_true, countTrn, hplace]
  rfl

theorem completionTest_above (k : Nat) (s : State) (hst : (s.trn k).st = 1) (hlink : (s.trn k).link = none)
    (hl : (s.trn k).target.toNat < (s.trn k).count.toNat) : completionTest k none s = overcount k s := by
  have hne : (s.trn k).count ≠ (s.trn k).target := fun h => by rw [h] at hl; omega
  simp [completionTest, hst, hlink, hne, hl]

theorem overcount_owned (k : Nat) (n : BitVec 4) (s : State) (h : (s.trn k).owner = some n) : overcount k s =
    allotFault n.toNat (faultCode 0x6 0x002 (BitVec.ofNat 16 k)) (trnDie k) 0xFF (some (s.trn k).entry) s := by
  simp only [overcount, h]

/-! ### TRN_ARM (R156, R242) -/

/-- The early increments of a turnstile that came in tick now. -/
def TrnSt.earlyIn (now : Time) (x : TrnSt) : Nat := match x.earlyAt with
  | some (w, n) => if w = now then n else 0
  | none => 0

/-- A turnstile right after TARGET and DEADLINE are loaded. -/
def TrnSt.armed (target : Word) (deadline : Time) (entry : BitVec 24) (x : TrnSt) : TrnSt :=
  { x with target := target, deadline := deadline, entry := entry, st := 1, doneAt := none, earlyAt := none }

/-- The increments of the tick that came before the arm are no early ones. -/
def uncountEarly (k : Nat) (s : State) : State :=
  { s with live := smod 0 s.live (s.trnPlace k 2) (fun v => v - BitVec.ofNat 32 ((s.trn k).earlyIn s.now)) }

/-- What an arm loads, before the completion test. -/
def loadTrn (k : Nat) (target : Word) (deadline : Time) (entry : BitVec 24) (s : State) : State :=
  (uncountEarly k s).modTrn k (TrnSt.armed target deadline entry)

theorem armTrn_eq (k : Nat) (target : Word) (deadline : Time) (entry : BitVec 24) (s : State) :
    armTrn k target deadline entry s = completionTest k none (loadTrn k target deadline entry s) := rfl

@[simp] theorem loadTrn_trn_same (k : Nat) (target : Word) (deadline : Time) (entry : BitVec 24) (s : State) :
    (loadTrn k target deadline entry s).trn k = (s.trn k).armed target deadline entry :=
  (uncountEarly k s).modTrn_trn_same k _

theorem loadTrn_trn_of_ne (k j : Nat) (target : Word) (deadline : Time) (entry : BitVec 24) (s : State) (h : j ≠ k) :
    (loadTrn k target deadline entry s).trn j = s.trn j := by
  rw [loadTrn, State.modTrn_trn, if_neg h]
  rfl

theorem loadTrn_trnPlace (k c : Nat) (target : Word) (deadline : Time) (entry : BitVec 24) (s : State) :
    (loadTrn k target deadline entry s).trnPlace k c = s.trnPlace k c :=
  State.trnPlace_congr s _ k c (by rw [loadTrn_trn_same]; rfl) rfl rfl

/-- A completion right after a change of the turnstile changes the turnstiles and the counter of its place. -/
theorem completeTrn_modTrn_frame (k : Nat) (f : TrnSt → TrnSt) (s : State) : completeTrn k (s.modTrn k f) =
    { s.bump ((s.modTrn k f).trnPlace k 0) 1 with trns := (completeTrn k (s.modTrn k f)).trns } := rfl

theorem passEntry_trns_frame (n : Nat) (s : State) (l : Sparse TrnSt) : passEntry n { s with trns := l } =
    { s with trns := (passEntry n { s with trns := l }).trns, allots := (passEntry n { s with trns := l }).allots } := rfl

/-- An arm that completes at once changes, beside the turnstiles and the entry that follows, the counters alone. -/
theorem completed_frame (n k : Nat) (target : Word) (deadline : Time) (entry : BitVec 24) (s t : State)
    (h : t = passEntry n (completeTrn k (loadTrn k target deadline entry s))) :
    t = { (uncountEarly k s).bump (s.trnPlace k 0) 1 with trns := t.trns, allots := t.allots } := by
  rw [loadTrn, completeTrn_modTrn_frame, ← loadTrn, loadTrn_trnPlace] at h
  rw [h]
  exact passEntry_trns_frame n _ _

/-- A fault of the allotment right after a change of a turnstile. -/
theorem faulted_frame (n k : Nat) (f : TrnSt → TrnSt) (code : Word) (die : BitVec 3) (a : Byte) (e : Option (BitVec 24)) (s t : State)
    (h : t = passEntry n (allotFault n code die a e (s.modTrn k f))) :
    t = { s with trns := t.trns, allots := t.allots, frc := t.frc, mgmt := t.mgmt, out := t.out } := by
  rw [allotFault_frame] at h
  rw [h]
  rfl

theorem faulted_trn (n k : Nat) (code : Word) (die : BitVec 3) (a : Byte) (e : Option (BitVec 24)) (s : State) :
    (passEntry n (allotFault n code die a e s)).trn k = s.trn k := by
  rw [State.trn, passEntry_frame, allotFault_trns, ← State.trn]

theorem exec_ttTrnArm (s : State) (a : Allot) (d : Due) (ti dl : BitVec 16) (tg : Word) (hd : s.due a.val = some d)
    (hc : sget [] s.upset (entryKey a.val d.table d.ix) = []) (hk : d.kind = .trnArm ti dl tg) : exec (.ttTrnArm a) s =
      .next (passEntry a.val (completionTest ti.toNat none (loadTrn ti.toNat tg (later dl.toNat d.start) d.entry s))) := by
  rw [exec, execTtTrnArm, ← armTrn_eq]
  exact congrArg Host.Outcome.next (fire_clean a.val _ s _ d hd hc (by simp only [hk]))

theorem faultCode_overcount (ti : BitVec 16) :
    faultCode 0x6 0x002 (BitVec.ofNat 16 ti.toNat) = 0x60020000#32 + BitVec.ofNat 32 ti.toNat := by
  rw [BitVec.ofNat_toNat, BitVec.ofNat_toNat, BitVec.setWidth_eq]
  refine BitVec.eq_of_toNat_eq ?_
  have hcause : ((0x6 : BitVec 4) ++ (0x002 : BitVec 12)).toNat = 0x6002 := rfl
  rw [faultCode, BitVec.toNat_append, hcause, ← Nat.shiftLeft_add_eq_or_of_lt ti.isLt, Nat.shiftLeft_eq]
  bv_omega

/-- An overcount right after an arm: the record names the turnstile and the entry, and the owner's timetable stops. -/
theorem overcount_loaded (ti : BitVec 16) (target : Word) (deadline : Time) (entry : BitVec 24) (s : State) (a : Allot)
    (h : (s.trn ti.toNat).owner = some (BitVec.ofNat 4 a.val)) :
    overcount ti.toNat (loadTrn ti.toNat target deadline entry s) = allotFault a.val (0x60020000#32 + BitVec.ofNat 32 ti.toNat)
      (trnDie ti.toNat) 0xFF (some entry) (loadTrn ti.toNat target deadline entry s) := by
  have hn : (BitVec.ofNat 4 a.val).toNat = a.val := Nat.mod_eq_of_lt a.isLt
  have hload := loadTrn_trn_same ti.toNat target deadline entry s
  rw [overcount_owned ti.toNat (BitVec.ofNat 4 a.val) _ (by rw [hload]; exact h), hload, hn, faultCode_overcount]
  rfl

/-! ### TURNSTILE_DEADLINE (R242, R247) -/

/-- The turnstiles at their deadline test are those of the owner that are ARMED with that deadline. -/
theorem State.mem_missing (s : State) (n : Nat) (dl : Time) (j : Nat) (hr : rising s.trns = true) : j ∈ s.missing n dl ↔
    (s.trn j).owner = some (BitVec.ofNat 4 n) ∧ (s.trn j).st = 1 ∧ (s.trn j).deadline = dl := by
  have htrn : ∀ x, (j, x) ∈ s.trns → s.trn j = x := fun x hx => by
    rw [State.trn, sget, Laws.sfind_of_mem s.trns hr j x hx, Option.getD_some]
  simp only [State.missing, List.mem_map, List.mem_filter, Bool.and_eq_true, decide_eq_true_eq]
  constructor
  · rintro ⟨⟨i, x⟩, ⟨hmem, ⟨ho, hst⟩, hdl⟩, rfl⟩
    rw [htrn x hmem]
    exact ⟨ho, hst, hdl⟩
  · rintro ⟨ho, hst, hdl⟩
    cases hf : sfind s.trns j with
    | none =>
      rw [State.trn, sget, hf] at ho
      cases ho
    | some x =>
      have hmem := Laws.mem_of_sfind s.trns j x hf
      rw [htrn x hmem] at ho hst hdl
      exact ⟨(j, x), ⟨hmem, ⟨ho, hst⟩, hdl⟩, rfl⟩

/-- They are listed in rising order. -/
theorem State.missing_sorted (s : State) (n : Nat) (dl : Time) (hr : rising s.trns = true) :
    (s.missing n dl).Pairwise (· < ·) :=
  List.pairwise_map.mpr (((Laws.rising_iff s.trns).mp hr).filter _)

/-- The first of a rising list that is not empty is its least. -/
theorem headD_least (l : List Nat) (k : Nat) (hl : l.Pairwise (· < ·)) (hk : k ∈ l) :
    l.headD k ∈ l ∧ ∀ j ∈ l, l.headD k ≤ j := by
  cases l with
  | nil => cases hk
  | cons i l =>
    refine ⟨List.mem_cons_self, fun j hj => ?_⟩
    rcases List.mem_cons.mp hj with rfl | hj
    · exact le_rfl
    · exact ((List.pairwise_cons.mp hl).1 j hj).le

/-- What TRN_MISS shows of a turnstile that is missed (R247). -/
def State.missOf (s : State) (x : TrnSt) : BitVec 5 × BitVec 18 := match shortPos s x with
  | none => (0x1F, 0x3FFFF)
  | some (p, c) => (BitVec.ofNat 5 p, c)

/-- A turnstile once it is missed. -/
def TrnSt.asMissed (m : BitVec 5 × BitVec 18) (x : TrnSt) : TrnSt := { x with st := 3, miss := some m }

theorem missTrn_trn (k j : Nat) (s : State) :
    (missTrn k s).trn j = if j = k then (s.trn j).asMissed (s.missOf (s.trn j)) else s.trn j := by
  have heq : (missTrn k s).trn j = (s.modTrn k (TrnSt.asMissed (s.missOf (s.trn k)))).trn j := rfl
  rw [heq, State.modTrn_trn]
  split_ifs with h
  · rw [h]
  · rfl

/-- Every turnstile of a list is missed: the short positions are those of the state before, for no miss changes what names them. -/
theorem missAll_trn (l : List Nat) (hl : l.Nodup) (s : State) (j : Nat) : (l.foldl (fun s k => missTrn k s) s).trn j =
    if j ∈ l then (s.trn j).asMissed (s.missOf (s.trn j)) else s.trn j := by
  induction l generalizing s with
  | nil => simp
  | cons k l ih =>
    obtain ⟨hk, hl⟩ := List.nodup_cons.mp hl
    have hmiss : ∀ x, (missTrn k s).missOf x = s.missOf x := fun _ => rfl
    rw [List.foldl_cons, ih hl, missTrn_trn, hmiss]
    by_cases hj : j = k
    · simp [hj, hk]
    · simp [hj]

theorem missAll_frame (l : List Nat) (s : State) : l.foldl (fun s k => missTrn k s) s =
    { s with trns := (l.foldl (fun s k => missTrn k s) s).trns, live := (l.foldl (fun s k => missTrn k s) s).live } := by
  refine List.foldlRecOn (motive := fun u : State => u = { s with trns := u.trns, live := u.live }) l _ rfl fun u hu k _ => ?_
  rw [hu]
  rfl

/-- The array that a missed turnstile's record names: the short position. -/
def State.missArray (s : State) (x : TrnSt) : Byte := match shortPos s x with
  | none => 0xFF
  | some (p, _) => BitVec.ofNat 8 p

/-- The turnstiles of allotment n with deadline dl are missed, the lowest is recorded, and the timetable stops. -/
def missDeadline (n : Nat) (dl : Time) (low : Nat) (s : State) : State :=
  stopAllot n (writeFaultAt dl (faultCode 0x6 0x001 (BitVec.ofNat 16 low)) (s.sliceOf n) (trnDie low) (s.missArray (s.trn low))
    (some (s.trn low).entry) ((s.missing n dl).foldl (fun s k => missTrn k s) s))

theorem missAll_sliceOf (l : List Nat) (s : State) (n : Nat) : (l.foldl (fun s k => missTrn k s) s).sliceOf n = s.sliceOf n := by
  rw [missAll_frame]
  rfl

theorem exec_turnstileDeadline (s : State) (k : Trn) (n : BitVec 4) (x : AllotSt) (ht : s.timed = true)
    (ho : (s.trn k.val).owner = some n) (hst : (s.trn k.val).st = 1) (hov : s.over (s.trn k.val).deadline = true)
    (hnow : s.now.toNat = (s.trn k.val).deadline.toNat + 1) (hx : s.allot n.toNat = some x) (hs : x.stopped = false) :
    exec (.turnstileDeadline k) s = .next (missDeadline n.toNat (s.trn k.val).deadline
      ((s.missing n.toNat (s.trn k.val).deadline).headD k.val) s) := by
  rw [exec, execTurnstileDeadline]
  simp only [ho, ht, hst, hov, hnow, hx, hs, Bool.not_false, Bool.and_self, decide_true, if_true, missAll_sliceOf]
  rfl

theorem exec_turnstileDeadline_idle (s : State) (k : Trn) (h : (s.trn k.val).st ≠ 1) : exec (.turnstileDeadline k) s = .next s := by
  rw [exec, execTurnstileDeadline]
  split
  · rfl
  · rw [if_neg]
    simp only [Bool.and_eq_true, decide_eq_true_eq]
    exact fun hall => h hall.1.2

theorem missDeadline_trn (n : Nat) (dl : Time) (low j : Nat) (s : State) (hr : rising s.trns = true) :
    (missDeadline n dl low s).trn j =
      if j ∈ s.missing n dl then (s.trn j).asMissed (s.missOf (s.trn j)) else s.trn j := by
  rw [← missAll_trn (s.missing n dl) ((s.missing_sorted n dl hr).imp (fun h => h.ne)) s j, missDeadline, stopAllot, writeFaultAt_frame]
  rfl

theorem missDeadline_frc (n : Nat) (dl : Time) (low : Nat) (s : State) : (missDeadline n dl low s).frc =
    (writeFaultAt dl (faultCode 0x6 0x001 (BitVec.ofNat 16 low)) (s.sliceOf n) (trnDie low) (s.missArray (s.trn low))
      (some (s.trn low).entry) s).frc := by
  refine writeFaultAt_frc_congr dl _ _ _ _ _ s _ ?_ ?_ <;> rw [missAll_frame]

theorem missDeadline_allot (n : Nat) (dl : Time) (low m : Nat) (s : State) : (missDeadline n dl low s).allot m =
    if m = n then (s.allot m).map AllotSt.fault else s.allot m := by
  rw [missDeadline, stopAllot, State.modAllot_allot, writeFaultAt_frame, missAll_frame]
  split_ifs with h
  · rw [h]
    rfl
  · rfl

theorem missDeadline_live (n : Nat) (dl : Time) (low : Nat) (s : State) : (missDeadline n dl low s).live =
    ((s.missing n dl).foldl (fun s k => missTrn k s) s).live := by
  rw [missDeadline, stopAllot, writeFaultAt_frame]
  rfl

theorem missDeadline_frame (n : Nat) (dl : Time) (low : Nat) (s : State) : missDeadline n dl low s =
    { s with trns := (missDeadline n dl low s).trns, live := (missDeadline n dl low s).live,
             allots := (missDeadline n dl low s).allots, frc := (missDeadline n dl low s).frc,
             mgmt := (missDeadline n dl low s).mgmt, out := (missDeadline n dl low s).out } := by
  rw [missDeadline, stopAllot, writeFaultAt_frame, missAll_frame]
  rfl

end Sys2Proof.Machine

namespace Sys2Proof.Proofs

open Sys2Proof Sys2Proof.Machine

/-- Settles O37: an arm is the load of the turnstile followed by the completion test, which COUNT below, at or above TARGET decides;
a deadline misses every turnstile that shares it, in rising order. -/
theorem turnstileCommands : Obligations.TurnstileCommands := by
  unfold Obligations.TurnstileCommands
  refine ⟨?arm, ?deadline, exec_turnstileDeadline_idle⟩
  case arm =>
    intro s a d ti dl tg hd hc hk k early armed back
    obtain ⟨hal, -, -⟩ := s.due_running a.val d hd
    have hex := exec_ttTrnArm s a d ti dl tg hd hc hk
    have hsame := loadTrn_trn_same k tg (later dl.toNat d.start) d.entry s
    have hother := fun j hj => loadTrn_trn_of_ne k j tg (later dl.toNat d.start) d.entry s hj
    refine ⟨fun hlt => ?_, fun heq => ?_, fun hgt hlink hown => ?_⟩
    · rw [completionTest_below k none _ (by rw [hsame]; exact hlt)] at hex
      exact ⟨_, hex, hsame, hother, passEntry_due s _ a.val d d.al hd hal rfl, rfl⟩
    · rw [completionTest_equal k none _ (by rw [hsame]; rfl) (by rw [hsame]; exact heq)] at hex
      refine ⟨_, hex, ?_, fun j hj => ?_, passEntry_due s _ a.val d d.al hd ((completeTrn_allot k a.val _).trans hal) rfl, ?_⟩
      · exact (completeTrn_trn k k _).trans ((if_pos rfl).trans (congrArg _ hsame))
      · exact (completeTrn_trn k j _).trans ((if_neg hj).trans (hother j hj))
      · exact completed_frame a.val k tg (later dl.toNat d.start) d.entry s _ rfl
    · have habove := completionTest_above k (loadTrn k tg (later dl.toNat d.start) d.entry s) (by rw [hsame]; rfl)
        (by rw [hsame]; exact hlink) (by rw [hsame]; exact hgt)
      rw [habove, overcount_loaded ti tg _ d.entry s a hown] at hex
      refine ⟨_, hex, ?_, fun j hj => ?_, ?_, ?_, ?_⟩
      · exact (faulted_trn a.val k _ _ _ _ _).trans hsame
      · exact (faulted_trn a.val j _ _ _ _ _).trans (hother j hj)
      · rw [passEntry_frame, allotFault_frc,
          State.sliceOf_some (loadTrn k tg (later dl.toNat d.start) d.entry s) a.val d.al hal]
        exact writeFaultAt_frc_congr s.now _ _ _ _ _ s _ rfl rfl
      · rw [passEntry_due s _ a.val d d.al.fault hd _ rfl]
        · rfl
        · rw [allotFault_stops]
          exact congrArg (Option.map AllotSt.fault) hal
      · exact faulted_frame a.val k _ _ _ _ _ (uncountEarly k s) _ rfl
  case deadline =>
    intro s k n x ht ho hst hov hnow hx hs hr misses
    have hmem : ∀ j, j ∈ s.missing n.toNat (s.trn k.val).deadline ↔ misses j := fun j => by
      rw [s.mem_missing n.toNat _ j hr, BitVec.ofNat_toNat, BitVec.setWidth_eq]
    obtain ⟨hlow, hleast⟩ := headD_least _ k.val (s.missing_sorted n.toNat (s.trn k.val).deadline hr)
      ((hmem k.val).mpr ⟨ho, hst, rfl⟩)
    refine ⟨_, _, exec_turnstileDeadline s k n x ht ho hst hov hnow hx hs, (hmem _).mp hlow, fun j hj => hleast j ((hmem j).mpr hj),
      fun j hj => ?_, fun j hj => ?_, ?_, fun m => ?_, missDeadline_live _ _ _ s, missDeadline_frame _ _ _ s⟩
    · rw [missDeadline_trn _ _ _ j s hr, if_pos ((hmem j).mpr hj)]
      rfl
    · rw [missDeadline_trn _ _ _ j s hr, if_neg (mt (hmem j).mp hj)]
    · rw [missDeadline_frc, State.sliceOf_some s _ x hx]
      rfl
    · rw [missDeadline_allot]
      split_ifs with hm
      · rw [hm, hx, Option.map_some]
      · rfl

end Sys2Proof.Proofs
end

section
/-! SUPPORT. Rounding to FP32 (03_number_formats, R58): the code that num / den rounds to depends on its value alone, it decodes to a
nearest value with ties to even, and what lies half a unit beyond the largest finite value is held there. -/

namespace Sys2Proof.Machine

/-! ### Powers of two and logarithms -/

theorem pow2_fst_pos (e : Int) : 0 < (pow2 e).1 := by
  unfold pow2
  split_ifs <;> simp

theorem pow2_snd_pos (e : Int) : 0 < (pow2 e).2 := by
  unfold pow2
  split_ifs <;> simp

theorem pow2_ratio (e : Int) : ((pow2 e).1 : ℚ) / (pow2 e).2 = 2 ^ e := by
  unfold pow2
  split_ifs with h
  · obtain ⟨n, rfl⟩ := Int.eq_ofNat_of_zero_le h
    simp
  · obtain ⟨n, hn⟩ := Int.eq_ofNat_of_zero_le (by omega : 0 ≤ -e)
    obtain rfl : e = -n := by omega
    simp [zpow_neg]

theorem mul_pow2_ratio (n : Nat) (e : Int) : ((n * (pow2 e).1 : Nat) : ℚ) / (pow2 e).2 = n * 2 ^ e := by
  rw [Nat.cast_mul, mul_div_assoc, pow2_ratio]

/-- The floor of the binary logarithm of num / den is that of its value. -/
theorem log2Rat_eq (num den : Nat) (hn : 0 < num) (hd : 0 < den) : log2Rat num den = Int.log 2 ((num : ℚ) / den) := by
  have hnq : (0 : ℚ) < num := by exact_mod_cast hn
  have hdq : (0 : ℚ) < den := by exact_mod_cast hd
  have hv : (0 : ℚ) < num / den := div_pos hnq hdq
  have hn1 : (2 : ℚ) ^ (Nat.log2 num) ≤ num := by exact_mod_cast Nat.log2_self_le hn.ne'
  have hn2 : (num : ℚ) < 2 ^ (Nat.log2 num + 1) := by exact_mod_cast Nat.lt_log2_self
  have hd1 : (2 : ℚ) ^ (Nat.log2 den) ≤ den := by exact_mod_cast Nat.log2_self_le hd.ne'
  have hd2 : (den : ℚ) < 2 ^ (Nat.log2 den + 1) := by exact_mod_cast Nat.lt_log2_self
  set g : Int := (Nat.log2 num : Int) - Nat.log2 den with hg
  have hlo : g - 1 ≤ Int.log 2 ((num : ℚ) / den) := by
    rw [← Int.zpow_le_iff_le_log one_lt_two hv, le_div_iff₀ hdq]
    calc ((2 : Nat) : ℚ) ^ (g - 1) * den ≤ 2 ^ (g - 1) * 2 ^ (Nat.log2 den + 1) := by
          push_cast
          exact mul_le_mul_of_nonneg_left hd2.le (by positivity)
      _ = 2 ^ (Nat.log2 num) := by
          rw [← zpow_natCast, ← zpow_natCast, ← zpow_add₀ two_ne_zero]
          congr 1
          push_cast
          omega
      _ ≤ num := hn1
  have hhi : Int.log 2 ((num : ℚ) / den) < g + 1 := by
    rw [← Int.lt_zpow_iff_log_lt one_lt_two hv, div_lt_iff₀ hdq]
    calc (num : ℚ) < 2 ^ (Nat.log2 num + 1) := hn2
      _ = 2 ^ (g + 1) * 2 ^ (Nat.log2 den) := by
          rw [← zpow_natCast, ← zpow_natCast, ← zpow_add₀ two_ne_zero]
          congr 1
          push_cast
          omega
      _ ≤ ((2 : Nat) : ℚ) ^ (g + 1) * den := by
          push_cast
          exact mul_le_mul_of_nonneg_left hd1 (by positivity)
  have hiff : den * (pow2 g).1 ≤ num * (pow2 g).2 ↔ g ≤ Int.log 2 ((num : ℚ) / den) := by
    have hp : (0 : ℚ) < (pow2 g).2 := by exact_mod_cast pow2_snd_pos g
    rw [← Int.zpow_le_iff_le_log one_lt_two hv, Nat.cast_ofNat, ← pow2_ratio, div_le_div_iff₀ hp hdq, mul_comm ((pow2 g).1 : ℚ)]
    exact_mod_cast Iff.rfl
  have hdef : log2Rat num den = if den * (pow2 g).1 ≤ num * (pow2 g).2 then g else g - 1 := rfl
  rw [hdef]
  split_ifs with h
  · have := hiff.mp h
    omega
  · have := mt hiff.mpr h
    omega

/-! ### Rounding to nearest even -/

/-- The nearest whole number, ties to the even one. -/
def roundEven (x : ℚ) : Nat :=
  if x - ⌊x⌋₊ < 1 / 2 then ⌊x⌋₊ else if 1 / 2 < x - ⌊x⌋₊ then ⌊x⌋₊ + 1 else if ⌊x⌋₊ % 2 = 0 then ⌊x⌋₊ else ⌊x⌋₊ + 1

/-- num / den cut to whole units of 2^q: the whole number, and the rest as a share of the unit. -/
theorem cutAt_spec (num den : Nat) (q : Int) (hd : 0 < den) : (cutAt num den q).1 = ⌊(num : ℚ) / den / 2 ^ q⌋₊ ∧
    0 < (cutAt num den q).2.2 ∧
    ((cutAt num den q).2.1 : ℚ) / (cutAt num den q).2.2 = (num : ℚ) / den / 2 ^ q - ⌊(num : ℚ) / den / 2 ^ q⌋₊ := by
  have hunit : 0 < den * (pow2 q).1 := Nat.mul_pos hd (pow2_fst_pos q)
  have hx : (num : ℚ) / den / 2 ^ q = ((num * (pow2 q).2 : Nat) : ℚ) / (den * (pow2 q).1 : Nat) := by
    have h1 : ((pow2 q).1 : ℚ) ≠ 0 := by exact_mod_cast (pow2_fst_pos q).ne'
    have h2 : ((pow2 q).2 : ℚ) ≠ 0 := by exact_mod_cast (pow2_snd_pos q).ne'
    have h3 : (den : ℚ) ≠ 0 := by exact_mod_cast hd.ne'
    rw [← pow2_ratio]
    push_cast
    field_simp
  have hfloor : ⌊(num : ℚ) / den / 2 ^ q⌋₊ = num * (pow2 q).2 / (den * (pow2 q).1) := by
    rw [hx, Nat.floor_div_eq_div]
  refine ⟨hfloor.symm, hunit, ?_⟩
  have hq : ((den * (pow2 q).1 : Nat) : ℚ) ≠ 0 := by exact_mod_cast hunit.ne'
  have hdiv : ((den * (pow2 q).1 : Nat) : ℚ) * (num * (pow2 q).2 / (den * (pow2 q).1) : Nat) +
      (num * (pow2 q).2 % (den * (pow2 q).1) : Nat) = (num * (pow2 q).2 : Nat) := by
    exact_mod_cast Nat.div_add_mod _ _
  rw [hfloor, hx, eq_sub_iff_add_eq, ← hdiv]
  show ((num * (pow2 q).2 % (den * (pow2 q).1) : Nat) : ℚ) / (den * (pow2 q).1 : Nat) + _ = _
  field_simp
  ring

theorem rne_eq_roundEven (num den : Nat) (q : Int) (hd : 0 < den) :
    rne (cutAt num den q).1 (cutAt num den q).2.1 (cutAt num den q).2.2 = roundEven ((num : ℚ) / den / 2 ^ q) := by
  obtain ⟨hn, hu, hr⟩ := cutAt_spec num den q hd
  have huq : (0 : ℚ) < (cutAt num den q).2.2 := by exact_mod_cast hu
  have hlt : (cutAt num den q).2.1 * 2 < (cutAt num den q).2.2 ↔ (num : ℚ) / den / 2 ^ q - ⌊(num : ℚ) / den / 2 ^ q⌋₊ < 1 / 2 := by
    rw [← hr, div_lt_div_iff₀ huq two_pos, one_mul]
    exact_mod_cast Iff.rfl
  have hgt : (cutAt num den q).2.2 < (cutAt num den q).2.1 * 2 ↔ 1 / 2 < (num : ℚ) / den / 2 ^ q - ⌊(num : ℚ) / den / 2 ^ q⌋₊ := by
    rw [← hr, div_lt_div_iff₀ two_pos huq, one_mul]
    exact_mod_cast Iff.rfl
  rw [rne, roundEven, mul_comm 2, hn]
  simp only [hlt, hgt]

theorem roundEven_cases (x : ℚ) :
    (roundEven x = ⌊x⌋₊ ∧ x - ⌊x⌋₊ ≤ 1 / 2 ∧ (x - ⌊x⌋₊ = 1 / 2 → roundEven x % 2 = 0)) ∨
    (roundEven x = ⌊x⌋₊ + 1 ∧ 1 / 2 ≤ x - ⌊x⌋₊ ∧ (x - ⌊x⌋₊ = 1 / 2 → roundEven x % 2 = 0)) := by
  unfold roundEven
  split_ifs with hlow hhigh heven
  · exact .inl ⟨rfl, hlow.le, fun h => absurd h hlow.ne⟩
  · exact .inr ⟨rfl, hhigh.le, fun h => absurd h hhigh.ne'⟩
  · exact .inl ⟨rfl, not_lt.mp hhigh, fun _ => heven⟩
  · exact .inr ⟨rfl, not_lt.mp hlow, fun _ => by omega⟩

/-- Of the whole numbers none is nearer, and of two as near the even one is taken. -/
theorem roundEven_nearest (x z : ℚ) (hx : 0 ≤ x) (hz : z ≤ ⌊x⌋₊ ∨ (⌊x⌋₊ : ℚ) + 1 ≤ z) :
    |(roundEven x : ℚ) - x| ≤ |z - x| ∧ (|(roundEven x : ℚ) - x| = |z - x| → (roundEven x : ℚ) ≠ z → roundEven x % 2 = 0) := by
  have hlow : (⌊x⌋₊ : ℚ) ≤ x := Nat.floor_le hx
  have hhigh : x < ⌊x⌋₊ + 1 := Nat.lt_floor_add_one x
  have hdist : (z ≤ ⌊x⌋₊ ∧ |z - x| = x - z) ∨ ((⌊x⌋₊ : ℚ) + 1 ≤ z ∧ |z - x| = z - x) := by
    rcases hz with hz | hz
    · exact .inl ⟨hz, abs_sub_comm z x ▸ abs_of_nonneg (by linarith)⟩
    · exact .inr ⟨hz, abs_of_nonneg (by linarith)⟩
  rcases roundEven_cases x with ⟨hr, hhalf, heven⟩ | ⟨hr, hhalf, heven⟩
  · have habs : |(roundEven x : ℚ) - x| = x - ⌊x⌋₊ := by rw [hr, abs_sub_comm, abs_of_nonneg (by linarith)]
    rw [habs]
    rcases hdist with ⟨hz, hd⟩ | ⟨hz, hd⟩ <;> rw [hd]
    · exact ⟨by linarith, fun h hne => absurd (by rw [hr]; linarith) hne⟩
    · exact ⟨by linarith, fun h _ => heven (by linarith)⟩
  · have habs : |(roundEven x : ℚ) - x| = ⌊x⌋₊ + 1 - x := by
      rw [hr, Nat.cast_succ, abs_of_nonneg (by linarith)]
    rw [habs]
    rcases hdist with ⟨hz, hd⟩ | ⟨hz, hd⟩ <;> rw [hd]
    · exact ⟨by linarith, fun h _ => heven (by linarith)⟩
    · exact ⟨by linarith, fun h hne => absurd (by rw [hr, Nat.cast_succ]; linarith) hne⟩

theorem le_roundEven (x : ℚ) (n : Nat) (h : (n : ℚ) ≤ x) : n ≤ roundEven x := by
  have hfloor : n ≤ ⌊x⌋₊ := Nat.le_floor h
  rcases roundEven_cases x with ⟨hr, -, -⟩ | ⟨hr, -, -⟩ <;> omega

theorem roundEven_le (x : ℚ) (n : Nat) (hx : 0 ≤ x) (h : x < n) : roundEven x ≤ n := by
  have hfloor : ⌊x⌋₊ < n := (Nat.floor_lt hx).mpr h
  rcases roundEven_cases x with ⟨hr, -, -⟩ | ⟨hr, -, -⟩ <;> omega

/-- A value below an even number rounds up to it from half a unit below on. -/
theorem le_roundEven_iff_of_even (x : ℚ) (n : Nat) (hx : 0 ≤ x) (hn : n % 2 = 0) (h : x < n) : n ≤ roundEven x ↔ (n : ℚ) - 1 / 2 ≤ x := by
  have hfloor : ⌊x⌋₊ < n := (Nat.floor_lt hx).mpr h
  have hcast : (⌊x⌋₊ : ℚ) + 1 ≤ n := by exact_mod_cast hfloor
  have hlow : (⌊x⌋₊ : ℚ) ≤ x := Nat.floor_le hx
  rcases roundEven_cases x with ⟨hr, hhalf, heven⟩ | ⟨hr, hhalf, -⟩
  · refine ⟨fun hle => by omega, fun hle => ?_⟩
    have hodd := heven (by linarith)
    have heq : ⌊x⌋₊ + 1 = n := by
      have : (n : ℚ) < (⌊x⌋₊ + 2 : Nat) := by push_cast; linarith
      have : n < ⌊x⌋₊ + 2 := by exact_mod_cast this
      omega
    omega
  · refine ⟨fun hle => ?_, fun hle => ?_⟩
    · have : (n : ℚ) ≤ (⌊x⌋₊ + 1 : Nat) := by exact_mod_cast (by omega : n ≤ ⌊x⌋₊ + 1)
      push_cast at this
      linarith
    · have : (n : ℚ) < (⌊x⌋₊ + 2 : Nat) := by
        have := Nat.lt_floor_add_one x
        push_cast
        linarith
      have : n < ⌊x⌋₊ + 2 := by exact_mod_cast this
      omega

/-! ### The FP32 codes of a value (R58) -/

/-- The exponent of the last place of the FP32 values next to v. -/
def ulpExp (v : ℚ) : Int := max (Int.log 2 v) (-126) - 23

/-- v in units of its last place. -/
def ulps (v : ℚ) : ℚ := v / 2 ^ ulpExp v

/-- The code without sign of the FP32 value nearest to v, with no upper limit of the exponent. -/
def fpCode (v : ℚ) : Nat := (ulpExp v + 149).toNat * 2 ^ 23 + roundEven (ulps v)

theorem roundCode_eq (num den : Nat) (hn : 0 < num) (hd : 0 < den) : roundCode 23 (-126) num den = fpCode ((num : ℚ) / den) := by
  have hq : lastPlace 23 (-126) num den = ulpExp ((num : ℚ) / den) := by
    rw [lastPlace, log2Rat_eq num den hn hd, ulpExp]
    rfl
  have hround := rne_eq_roundEven num den (ulpExp ((num : ℚ) / den)) hd
  rw [roundCode, if_neg hn.ne']
  dsimp only
  rw [hq, hround]
  rfl

/-- toFp32 depends on the value of its fraction alone. -/
theorem toFp32_eq (neg : Bool) (num den : Nat) (hn : 0 < num) (hd : 0 < den) : toFp32 neg num den =
    if 0x7F800000 ≤ fpCode ((num : ℚ) / den) then (withSign 32 neg 0x7F7FFFFF, true)
    else (withSign 32 neg (fpCode ((num : ℚ) / den)), false) := by
  rw [toFp32, roundCode_eq num den hn hd]

theorem ulpExp_ge (v : ℚ) : -149 ≤ ulpExp v := by
  unfold ulpExp
  omega

theorem ulps_mul (v : ℚ) : ulps v * 2 ^ ulpExp v = v := div_mul_cancel₀ v (by positivity)

theorem ulps_lt (v : ℚ) : ulps v < (2 ^ 24 : Nat) := by
  have hlog : v < ((2 : Nat) : ℚ) ^ (Int.log 2 v + 1) := Int.lt_zpow_succ_log_self one_lt_two v
  rw [ulps, div_lt_iff₀ (by positivity)]
  calc v < ((2 : Nat) : ℚ) ^ (Int.log 2 v + 1) := hlog
    _ ≤ 2 ^ (24 + ulpExp v) := zpow_le_zpow_right₀ (by norm_num) (by unfold ulpExp; omega)
    _ = (2 ^ 24 : Nat) * 2 ^ ulpExp v := by
      rw [zpow_add₀ two_ne_zero]
      norm_num

section

variable (v : ℚ) (hv : 0 < v)

include hv

theorem ulps_pos : 0 < ulps v := div_pos hv (by positivity)

/-- Above the subnormal values a value has 24 places. -/
theorem ulps_ge (h : -149 < ulpExp v) : ((2 ^ 23 : Nat) : ℚ) ≤ ulps v := by
  have hlog : ((2 : Nat) : ℚ) ^ Int.log 2 v ≤ v := Int.zpow_log_le_self one_lt_two hv
  have hexp : Int.log 2 v = 23 + ulpExp v := by
    unfold ulpExp at h ⊢
    omega
  rw [ulps, le_div_iff₀ (by positivity)]
  calc ((2 ^ 23 : Nat) : ℚ) * 2 ^ ulpExp v = 2 ^ (23 + ulpExp v) := by
        rw [zpow_add₀ two_ne_zero]
        norm_num
    _ ≤ v := by rwa [← hexp]

/-- The code has the exponent's field and the rounded places as its parts. -/
theorem fpCode_parts : roundEven (ulps v) ≤ 2 ^ 24 ∧ ((ulpExp v + 149).toNat = 0 ∨ 2 ^ 23 ≤ roundEven (ulps v)) := by
  refine ⟨roundEven_le _ _ (ulps_pos v hv).le (ulps_lt v), ?_⟩
  have hmin := ulpExp_ge v
  rcases eq_or_lt_of_le hmin with h | h
  · exact .inl (by omega)
  · exact .inr (le_roundEven _ _ (ulps_ge v hv h))

/-- Half a unit beyond the largest finite value the codes of the finite values end. -/
theorem fpCode_overflow_iff : 0x7F800000 ≤ fpCode v ↔ ((2 ^ 25 - 1) * 2 ^ 103 : ℚ) ≤ v := by
  obtain ⟨hmax, hmin⟩ := fpCode_parts v hv
  have hmul := ulps_mul v
  have hpos := ulps_pos v hv
  have hlt := ulps_lt v
  unfold fpCode
  rcases lt_trichotomy (ulpExp v) 104 with h | h | h
  · have hexp : (ulpExp v + 149).toNat ≤ 252 := by omega
    refine iff_of_false (by omega) (not_le.mpr ?_)
    calc v = ulps v * 2 ^ ulpExp v := hmul.symm
      _ ≤ (2 ^ 24 : Nat) * 2 ^ (103 : Int) :=
        mul_le_mul hlt.le (zpow_le_zpow_right₀ (by norm_num) (by omega)) (by positivity) (by positivity)
      _ < (2 ^ 25 - 1) * 2 ^ 103 := by norm_num
  · have hexp : (ulpExp v + 149).toNat = 253 := by omega
    have hround := le_roundEven_iff_of_even (ulps v) (2 ^ 24) hpos.le (by norm_num) hlt
    have hcode : 0x7F800000 ≤ (ulpExp v + 149).toNat * 2 ^ 23 + roundEven (ulps v) ↔ 2 ^ 24 ≤ roundEven (ulps v) := by omega
    rw [h] at hmul
    rw [hcode, hround]
    norm_num at hmul ⊢
    constructor <;> intro hle <;> linarith
  · have hexp : 254 ≤ (ulpExp v + 149).toNat := by omega
    have hge := ulps_ge v hv (by omega)
    refine iff_of_true (by omega) ?_
    calc ((2 ^ 25 - 1) * 2 ^ 103 : ℚ) ≤ (2 ^ 23 : Nat) * 2 ^ (105 : Int) := by norm_num
      _ ≤ ulps v * 2 ^ ulpExp v :=
        mul_le_mul hge (zpow_le_zpow_right₀ (by norm_num) (by omega)) (by positivity) hpos.le
      _ = v := hmul

/-- No value of 24 places and a least exponent of -149 lies between the whole units next to v. -/
theorem ulps_gap (k : Nat) (f : Int) (hk : k < 2 ^ 24) (hf : -149 ≤ f) :
    (k : ℚ) * 2 ^ f / 2 ^ ulpExp v ≤ ⌊ulps v⌋₊ ∨ (⌊ulps v⌋₊ : ℚ) + 1 ≤ (k : ℚ) * 2 ^ f / 2 ^ ulpExp v := by
  have hz : (k : ℚ) * 2 ^ f / 2 ^ ulpExp v = k * 2 ^ (f - ulpExp v) := by rw [mul_div_assoc, ← zpow_sub₀ two_ne_zero]
  rw [hz]
  rcases le_or_gt (ulpExp v) f with h | h
  · obtain ⟨n, hn⟩ := Int.eq_ofNat_of_zero_le (by omega : 0 ≤ f - ulpExp v)
    rw [hn]
    rcases le_or_gt (k * 2 ^ n) ⌊ulps v⌋₊ with hle | hgt
    · exact .inl (by exact_mod_cast hle)
    · exact .inr (by exact_mod_cast hgt)
  · refine .inl ?_
    have hfloor : 2 ^ 23 ≤ ⌊ulps v⌋₊ := Nat.le_floor (ulps_ge v hv (by omega))
    calc (k : ℚ) * 2 ^ (f - ulpExp v) ≤ (2 ^ 24 : Nat) * 2 ^ (-1 : Int) :=
          mul_le_mul (by exact_mod_cast hk.le) (zpow_le_zpow_right₀ (by norm_num) (by omega)) (by positivity) (by positivity)
      _ = (2 ^ 23 : Nat) := by norm_num
      _ ≤ ⌊ulps v⌋₊ := by exact_mod_cast hfloor

end

/-! ### Decoding what was rounded (R47) -/

/-- Mantissa and exponent of an FP32 code whose exponent field is x and whose mantissa field is m. -/
def fp32Parts (x m : Nat) : Nat × Int := if x = 0 then (m, -149) else (m + 2 ^ 23, (x : Int) - 150)

theorem fields_fp32 (c : Nat) :
    fields 8 23 127 c = (decide (c / 2 ^ 31 % 2 = 1), fp32Parts (c / 2 ^ 23 % 256) (c % 2 ^ 23)) := by
  have hexp : ((c / 2 ^ 23 % 256 : Nat) : Int) - 127 - (23 : Nat) = (c / 2 ^ 23 % 256 : Nat) - 150 := by omega
  unfold fields fp32Parts
  simp only [Nat.reduceAdd, show 2 ^ 8 = 256 from rfl, hexp]
  split_ifs <;> rfl

theorem decFp32_of_ne (w : Word) (h : w.toNat / 2 ^ 23 % 256 ≠ 255) : decFp32 w =
    .fin (decide (w.toNat / 2 ^ 31 % 2 = 1)) (fp32Parts (w.toNat / 2 ^ 23 % 256) (w.toNat % 2 ^ 23)).1
      (fp32Parts (w.toNat / 2 ^ 23 % 256) (w.toNat % 2 ^ 23)).2 := by
  rw [decFp32, if_neg h, fields_fp32]

theorem decFp32_fin_bounds (y : Word) (n : Bool) (k : Nat) (f : Int) (h : decFp32 y = .fin n k f) : k < 2 ^ 24 ∧ -149 ≤ f := by
  by_cases h255 : y.toNat / 2 ^ 23 % 256 = 255
  · rw [decFp32, if_pos h255] at h
    split_ifs at h
  · rw [decFp32_of_ne y h255, fp32Parts] at h
    injection h with _ hk hf
    have hman := Nat.mod_lt y.toNat (by norm_num : 0 < 2 ^ 23)
    split_ifs at hk hf <;> dsimp only at hk hf <;> omega

theorem withSign_toNat (neg : Bool) (c : Nat) (h : c < 2 ^ 31) : (withSign 32 neg c).toNat = c + if neg then 2 ^ 31 else 0 := by
  rw [withSign, BitVec.toNat_ofNat, Nat.mod_eq_of_lt]
  split_ifs <;> omega

/-- Below the codes of the infinities and NaNs a code and its sign decode to their fields. -/
theorem decFp32_withSign (neg : Bool) (c : Nat) (h : c < 0x7F800000) : decFp32 (withSign 32 neg c) =
    .fin neg (fp32Parts (c / 2 ^ 23) (c % 2 ^ 23)).1 (fp32Parts (c / 2 ^ 23) (c % 2 ^ 23)).2 := by
  have hw := withSign_toNat neg c (by omega)
  have hexp : (withSign 32 neg c).toNat / 2 ^ 23 % 256 = c / 2 ^ 23 := by
    rw [hw]
    split_ifs <;> omega
  have hman : (withSign 32 neg c).toNat % 2 ^ 23 = c % 2 ^ 23 := by
    rw [hw]
    split_ifs <;> omega
  have hsign : decide ((withSign 32 neg c).toNat / 2 ^ 31 % 2 = 1) = neg := by
    rw [hw]
    cases neg <;> simp <;> omega
  rw [decFp32_of_ne _ (by omega), hexp, hman, hsign]

/-- A code of an exponent field e and r places, a carry out of which raises the exponent, stands for r units of 2^(e - 149). -/
theorem fp32Parts_value (e r : Nat) (hr : r ≤ 2 ^ 24) (he : e = 0 ∨ 2 ^ 23 ≤ r) :
    ((fp32Parts ((e * 2 ^ 23 + r) / 2 ^ 23) ((e * 2 ^ 23 + r) % 2 ^ 23)).1 : ℚ) *
      2 ^ (fp32Parts ((e * 2 ^ 23 + r) / 2 ^ 23) ((e * 2 ^ 23 + r) % 2 ^ 23)).2 = r * 2 ^ ((e : Int) - 149) := by
  have hcase : r < 2 ^ 23 ∨ (2 ^ 23 ≤ r ∧ r < 2 ^ 24) ∨ r = 2 ^ 24 := by omega
  rcases hcase with h | ⟨h, h'⟩ | rfl
  · obtain rfl : e = 0 := by omega
    have hq : (0 * 2 ^ 23 + r) / 2 ^ 23 = 0 := by omega
    have hm : (0 * 2 ^ 23 + r) % 2 ^ 23 = r := by omega
    rw [hq, hm]
    rfl
  · have hq : (e * 2 ^ 23 + r) / 2 ^ 23 = e + 1 := by omega
    have hm : (e * 2 ^ 23 + r) % 2 ^ 23 + 2 ^ 23 = r := by omega
    have he1 : ((e + 1 : Nat) : Int) - 150 = e - 149 := by omega
    rw [hq, fp32Parts, if_neg (by omega), hm, he1]
  · have hq : (e * 2 ^ 23 + 2 ^ 24) / 2 ^ 23 = e + 2 := by omega
    have hm : (e * 2 ^ 23 + 2 ^ 24) % 2 ^ 23 = 0 := by omega
    have he2 : ((e + 2 : Nat) : Int) - 150 = 1 + (e - 149) := by omega
    rw [hq, hm, fp32Parts, if_neg (by omega), he2, zpow_add₀ two_ne_zero]
    push_cast
    ring

/-! ### What a fraction rounds to (R58) -/

section

variable (neg : Bool) (num den : Nat) (hn : 0 < num) (hd : 0 < den)

include hn hd

theorem ratio_pos : (0 : ℚ) < (num : ℚ) / den := div_pos (by exact_mod_cast hn) (by exact_mod_cast hd)

theorem toFp32_overflow (h : ((2 ^ 25 - 1) * 2 ^ 103 : ℚ) ≤ (num : ℚ) / den) :
    toFp32 neg num den = (if neg then 0xFF7FFFFF else 0x7F7FFFFF, true) := by
  rw [toFp32_eq neg num den hn hd, if_pos ((fpCode_overflow_iff _ (ratio_pos num den hn hd)).mpr h)]
  cases neg <;> rfl

/-- Below the overflow the result decodes to the rounded units of the last place. -/
theorem toFp32_decodes (h : (num : ℚ) / den < ((2 ^ 25 - 1) * 2 ^ 103 : ℚ)) : ∃ m e,
    decFp32 (toFp32 neg num den).1 = .fin neg m e ∧ (toFp32 neg num den).2 = false ∧
    (m : ℚ) * 2 ^ e = roundEven (ulps ((num : ℚ) / den)) * 2 ^ ulpExp ((num : ℚ) / den) ∧
    ((toFp32 neg num den).1.getLsbD 0 = decide (roundEven (ulps ((num : ℚ) / den)) % 2 = 1)) := by
  have hv := ratio_pos num den hn hd
  rw [toFp32_eq neg num den hn hd]
  generalize (num : ℚ) / den = v at h hv ⊢
  have hcode : ¬ 0x7F800000 ≤ fpCode v := fun hle => absurd ((fpCode_overflow_iff v hv).mp hle) (not_le.mpr h)
  obtain ⟨hmax, hmin⟩ := fpCode_parts v hv
  have hexp : (((ulpExp v + 149).toNat : Nat) : Int) - 149 = ulpExp v := by
    have := ulpExp_ge v
    omega
  rw [if_neg hcode]
  refine ⟨_, _, decFp32_withSign neg (fpCode v) (not_le.mp hcode), rfl, ?_, ?_⟩
  · have hval := fp32Parts_value (ulpExp v + 149).toNat (roundEven (ulps v)) hmax hmin
    rwa [hexp] at hval
  · have hbits := withSign_toNat neg (fpCode v) (by omega)
    have hpar : (withSign 32 neg (fpCode v)).toNat % 2 = roundEven (ulps v) % 2 := by
      rw [hbits, fpCode]
      split_ifs <;> omega
    rw [BitVec.getLsbD, Nat.testBit_zero, hpar]

/-- The result is a nearest finite FP32 value, and of two as near the one whose last bit is 0. -/
theorem toFp32_nearest (h : (num : ℚ) / den < ((2 ^ 25 - 1) * 2 ^ 103 : ℚ)) : ∃ m e,
    decFp32 (toFp32 neg num den).1 = .fin neg m e ∧ (toFp32 neg num den).2 = false ∧
    ∀ (y : Word) (n : Bool) (k : Nat) (f : Int), decFp32 y = .fin n k f →
      |(m : ℚ) * 2 ^ e - num / den| ≤ |(k : ℚ) * 2 ^ f - num / den| ∧
      (|(m : ℚ) * 2 ^ e - num / den| = |(k : ℚ) * 2 ^ f - num / den| → (m : ℚ) * 2 ^ e ≠ (k : ℚ) * 2 ^ f →
        (toFp32 neg num den).1.getLsbD 0 = false) := by
  obtain ⟨m, e, hdec, hsat, hval, hbit⟩ := toFp32_decodes neg num den hn hd h
  refine ⟨m, e, hdec, hsat, fun y n k f hy => ?_⟩
  obtain ⟨hk, hf⟩ := decFp32_fin_bounds y n k f hy
  have hv := ratio_pos num den hn hd
  rw [hval, hbit]
  generalize (num : ℚ) / den = v at hv ⊢
  have hpow : (0 : ℚ) < 2 ^ ulpExp v := by positivity
  have hscale : ∀ z : ℚ, |z * 2 ^ ulpExp v - v| = |z - ulps v| * 2 ^ ulpExp v := fun z => by
    rw [← abs_of_pos hpow, ← abs_mul, abs_of_pos hpow, sub_mul, ulps_mul v]
  have hy : (k : ℚ) * 2 ^ f = (k : ℚ) * 2 ^ f / 2 ^ ulpExp v * 2 ^ ulpExp v := (div_mul_cancel₀ _ hpow.ne').symm
  obtain ⟨hle, htie⟩ := roundEven_nearest (ulps v) _ (ulps_pos v hv).le (ulps_gap v hv k f hk hf)
  rw [hy, hscale, hscale]
  refine ⟨mul_le_mul_of_nonneg_right hle hpow.le, fun heq hne => ?_⟩
  have heven := htie (mul_right_cancel₀ hpow.ne' heq) (fun hz => hne (by rw [hz]))
  simp [heven]

end

/-! ### Exact values (R55 to R59) -/

/-- The value of a finite element. -/
def Num.value : Num → ℚ
  | .fin n m e => (if n then -1 else 1) * (m : ℚ) * 2 ^ e
  | _ => 0

/-- The value of a signed mantissa and exponent. -/
def exactVal (a : Int × Int) : ℚ := a.1 * 2 ^ a.2

theorem signedOf_cast (neg : Bool) (m : Nat) : (signedOf neg m : ℚ) = (if neg then -1 else 1) * m := by
  unfold signedOf
  split_ifs <;> simp

theorem addExact_val (a b : Int × Int) : exactVal (addExact a b) = exactVal a + exactVal b := by
  have hshift : ∀ (m x e : Int), e ≤ x → ((m * 2 ^ (x - e).toNat : Int) : ℚ) * 2 ^ e = m * 2 ^ x := fun m x e he => by
    push_cast
    rw [mul_assoc, ← zpow_natCast, ← zpow_add₀ two_ne_zero, Int.toNat_of_nonneg (by omega), sub_add_cancel]
  show ((a.1 * 2 ^ (a.2 - min a.2 b.2).toNat + b.1 * 2 ^ (b.2 - min a.2 b.2).toNat : Int) : ℚ) * 2 ^ min a.2 b.2 = _
  rw [Int.cast_add, add_mul, hshift _ _ _ (min_le_left a.2 b.2), hshift _ _ _ (min_le_right a.2 b.2)]
  rfl

theorem foldl_addExact_val (l : List (Int × Int)) (a : Int × Int) :
    exactVal (l.foldl addExact a) = exactVal a + (l.map exactVal).sum := by
  induction l generalizing a with
  | nil => simp
  | cons b l ih => rw [List.foldl_cons, ih, addExact_val, List.map_cons, List.sum_cons, add_assoc]

theorem exactVal_eq_zero_iff (a : Int × Int) : exactVal a = 0 ↔ a.1 = 0 := by
  simp [exactVal, zpow_ne_zero]

theorem exactVal_neg_iff (a : Int × Int) : exactVal a < 0 ↔ a.1 < 0 := by
  rw [exactVal, ← not_le, ← not_le, mul_nonneg_iff_of_pos_right (by positivity)]
  exact_mod_cast Iff.rfl

/-- A value rounded once to FP32, with whether it saturates (R58). -/
def roundFp32 (v : ℚ) : Word × Bool := toFp32 (decide (v < 0)) v.num.natAbs v.den

theorem toFp32_congr (neg : Bool) (num den num' den' : Nat) (hn : 0 < num) (hd : 0 < den) (hn' : 0 < num') (hd' : 0 < den')
    (h : (num : ℚ) / den = num' / den') : toFp32 neg num den = toFp32 neg num' den' := by
  rw [toFp32_eq neg num den hn hd, toFp32_eq neg num' den' hn' hd', h]

/-- A signed mantissa and exponent that is not zero rounds as its value. -/
theorem toFp32_exact (a : Int × Int) (h : a.1 ≠ 0) :
    toFp32 (decide (a.1 < 0)) (a.1.natAbs * (pow2 a.2).1) (pow2 a.2).2 = roundFp32 (exactVal a) := by
  have hne : exactVal a ≠ 0 := mt (exactVal_eq_zero_iff a).mp h
  have habs : ((exactVal a).num.natAbs : ℚ) / (exactVal a).den = |exactVal a| := by
    rw [Rat.abs_def, Rat.divInt_eq_div]
    rfl
  rw [roundFp32, decide_eq_decide.mpr (exactVal_neg_iff a)]
  refine toFp32_congr _ _ _ _ _ (Nat.mul_pos (Int.natAbs_pos.mpr h) (pow2_fst_pos _)) (pow2_snd_pos _)
    (Int.natAbs_pos.mpr (Rat.num_ne_zero.mpr hne)) (exactVal a).den_pos ?_
  rw [mul_pow2_ratio, habs, exactVal, abs_mul, abs_of_pos (by positivity : (0 : ℚ) < 2 ^ a.2), Nat.cast_natAbs, Int.cast_abs]

theorem fpAdd_fin (x y : Word) (m k : Nat) (e f : Int) (n n' : Bool) (hx : decFp32 x = .fin n m e) (hy : decFp32 y = .fin n' k f) :
    fpAdd x y = if (decFp32 x).value + (decFp32 y).value = 0 then (if m = 0 ∧ k = 0 ∧ n ∧ n' then 0x80000000 else 0, false)
      else roundFp32 ((decFp32 x).value + (decFp32 y).value) := by
  have hval : exactVal (addExact (signedOf n m, e) (signedOf n' k, f)) = (decFp32 x).value + (decFp32 y).value := by
    rw [addExact_val, exactVal, exactVal, signedOf_cast, signedOf_cast, hx, hy]
    rfl
  have hzero := exactVal_eq_zero_iff (addExact (signedOf n m, e) (signedOf n' k, f))
  rw [hval] at hzero
  have hadd : fpAdd x y = if (addExact (signedOf n m, e) (signedOf n' k, f)).1 = 0
      then (if m = 0 ∧ k = 0 ∧ n ∧ n' then (0x80000000, false) else (0, false))
      else toFp32 (decide ((addExact (signedOf n m, e) (signedOf n' k, f)).1 < 0))
        ((addExact (signedOf n m, e) (signedOf n' k, f)).1.natAbs * (pow2 (addExact (signedOf n m, e) (signedOf n' k, f)).2).1)
        (pow2 (addExact (signedOf n m, e) (signedOf n' k, f)).2).2 := by
    simp only [fpAdd, hx, hy, addWith]
    rfl
  rw [hadd]
  by_cases h : (addExact (signedOf n m, e) (signedOf n' k, f)).1 = 0
  · rw [if_pos h, if_pos (hzero.mpr h)]
    split_ifs <;> rfl
  · rw [if_neg h, if_neg (mt hzero.mp h), toFp32_exact _ h, hval]

end Sys2Proof.Machine
end

section
/-! SUPPORT. Block sums (03_number_formats, R55 to R58): the exact sum of a block pair's products, the window of a windowed pair, and what
a NaN makes of it. -/

namespace Sys2Proof.Machine

/-! ### Products -/

/-- Elements that are neither NaN nor infinite. -/
def Num.isFin (x : Num) : Prop := ∃ n m e, x = .fin n m e

theorem Num.isFin.not_special {x : Num} (h : x.isFin) : (x.isNan || x.isInf) = false := by
  obtain ⟨n, m, e, rfl⟩ := h
  rfl

theorem prodOf_val (x y : Num) (hx : x.isFin) (hy : y.isFin) : exactVal (prodOf x y) = x.value * y.value := by
  obtain ⟨n, m, e, rfl⟩ := hx
  obtain ⟨n', m', e', rfl⟩ := hy
  rw [prodOf, exactVal, signedOf_cast, zpow_add₀ two_ne_zero, Num.value, Num.value]
  cases n <;> cases n' <;> simp <;> ring

theorem prodOf_ne_zero_iff (x y : Num) (hx : x.isFin) (hy : y.isFin) : ((prodOf x y).1 != 0) = decide (x.value * y.value ≠ 0) := by
  rw [← prodOf_val x y hx hy, Bool.eq_iff_iff, decide_eq_true_eq, bne_iff_ne]
  exact not_congr (exactVal_eq_zero_iff _).symm

/-- The window's exponent of a product (R57). -/
def windowExp (fw fa : Nat) (p : Num × Num) : Int := match p.1, p.2 with
  | .fin _ _ e, .fin _ _ f => e + manBits fw + (f + manBits fa)
  | _, _ => 0

theorem windowExp_eq (fw fa : Nat) (p : Num × Num) (hx : p.1.isFin) (hy : p.2.isFin) :
    windowExp fw fa p = (prodOf p.1 p.2).2 + (manBits fw + manBits fa) := by
  obtain ⟨x, y⟩ := p
  obtain ⟨n, m, e, rfl⟩ := hx
  obtain ⟨n', m', e', rfl⟩ := hy
  simp only [windowExp, prodOf]
  ring

/-! ### The window (R57) -/

/-- v cut to whole units of 2^u, towards zero. -/
def cutValue (u : Int) (v : ℚ) : ℚ := (if v < 0 then -1 else 1) * ((⌊|v| / 2 ^ u⌋ : Int) : ℚ) * 2 ^ u

/-- An exact product in whole units of 2^u, and whether a nonzero bit was cut. -/
def cutPart (u : Int) (p : Int × Int) : Int × Bool :=
  (signedOf (decide (p.1 < 0)) (cutAt (p.1.natAbs * (pow2 p.2).1) (pow2 p.2).2 u).1,
    decide ((cutAt (p.1.natAbs * (pow2 p.2).1) (pow2 p.2).2 u).2.1 ≠ 0))

theorem exactVal_abs (p : Int × Int) : ((p.1.natAbs * (pow2 p.2).1 : Nat) : ℚ) / (pow2 p.2).2 = |exactVal p| := by
  rw [mul_pow2_ratio, exactVal, abs_mul, abs_of_pos (by positivity : (0 : ℚ) < 2 ^ p.2), Nat.cast_natAbs, Int.cast_abs]

theorem floor_abs_cast (u : Int) (v : ℚ) : ((⌊|v| / 2 ^ u⌋ : Int) : ℚ) = (⌊|v| / 2 ^ u⌋₊ : Nat) := by
  rw [← Int.natCast_floor_eq_floor (by positivity : (0 : ℚ) ≤ |v| / 2 ^ u)]
  rfl

theorem cutPart_val (u : Int) (p : Int × Int) : ((cutPart u p).1 : ℚ) * 2 ^ u = cutValue u (exactVal p) := by
  obtain ⟨hn, -, -⟩ := cutAt_spec (p.1.natAbs * (pow2 p.2).1) (pow2 p.2).2 u (pow2_snd_pos _)
  rw [exactVal_abs] at hn
  rw [cutPart, signedOf_cast, hn, cutValue, floor_abs_cast]
  simp only [decide_eq_true_eq, exactVal_neg_iff]

theorem cutPart_loss (u : Int) (p : Int × Int) : (cutPart u p).2 = true ↔ cutValue u (exactVal p) ≠ exactVal p := by
  obtain ⟨-, hpos, hr⟩ := cutAt_spec (p.1.natAbs * (pow2 p.2).1) (pow2 p.2).2 u (pow2_snd_pos _)
  have hunit : ((cutAt (p.1.natAbs * (pow2 p.2).1) (pow2 p.2).2 u).2.2 : ℚ) ≠ 0 := by exact_mod_cast hpos.ne'
  rw [exactVal_abs] at hr
  have hrest : (cutAt (p.1.natAbs * (pow2 p.2).1) (pow2 p.2).2 u).2.1 = 0 ↔ (⌊|exactVal p| / 2 ^ u⌋₊ : ℚ) = |exactVal p| / 2 ^ u := by
    rw [← Nat.cast_eq_zero (R := ℚ), ← div_eq_zero_iff.trans (or_iff_left hunit), hr, sub_eq_zero, eq_comm]
  have hval : exactVal p = (if exactVal p < 0 then -1 else 1) * (|exactVal p| / 2 ^ u) * 2 ^ u := by
    rw [mul_assoc, div_mul_cancel₀ _ (by positivity)]
    split_ifs with h
    · rw [abs_of_neg h]
      ring
    · rw [abs_of_nonneg (not_lt.mp h), one_mul]
  have hsign : (if exactVal p < 0 then (-1 : ℚ) else 1) ≠ 0 := by
    split_ifs <;> norm_num
  rw [cutPart, decide_eq_true_eq, Ne, hrest]
  refine not_congr ?_
  conv_rhs => rhs; rw [hval]
  rw [cutValue, mul_left_inj' (by positivity), mul_right_inj' hsign, floor_abs_cast]

/-- The running maximum is one of the values and no value is larger. -/
theorem foldl_max_spec (l : List (Int × Int)) (q : Int) : (l.foldl (fun q p => max q p.2) q = q ∨
    ∃ p ∈ l, l.foldl (fun q p => max q p.2) q = p.2) ∧ q ≤ l.foldl (fun q p => max q p.2) q ∧
    ∀ p ∈ l, p.2 ≤ l.foldl (fun q p => max q p.2) q := by
  induction l generalizing q with
  | nil => simp
  | cons p l ih =>
    obtain ⟨hmem, hle, hall⟩ := ih (max q p.2)
    rw [List.foldl_cons]
    refine ⟨?_, (le_max_left q p.2).trans hle, List.forall_mem_cons.mpr ⟨(le_max_right q p.2).trans hle, hall⟩⟩
    rcases hmem with h | ⟨r, hr, h⟩
    · rcases max_choice q p.2 with hq | hp
      · exact .inl (h.trans hq)
      · exact .inr ⟨p, List.mem_cons_self, h.trans hp⟩
    · exact .inr ⟨r, List.mem_cons_of_mem p hr, h⟩

theorem foldl_max_eq (p0 : Int × Int) (t : List (Int × Int)) (shift q : Int) (hq : q ∈ (p0 :: t).map (fun p => p.2 + shift))
    (hmax : ∀ r ∈ (p0 :: t).map (fun p => p.2 + shift), r ≤ q) : t.foldl (fun q p => max q p.2) p0.2 + shift = q := by
  obtain ⟨hmem, hle, hall⟩ := foldl_max_spec t p0.2
  have hbound : ∀ p ∈ p0 :: t, p.2 + shift ≤ q := fun p hp => hmax _ (List.mem_map.mpr ⟨p, hp, rfl⟩)
  obtain ⟨p, hp, rfl⟩ := List.mem_map.mp hq
  refine le_antisymm ?_ ?_
  · rcases hmem with h | ⟨r, hr, h⟩ <;> rw [h]
    · exact hbound p0 List.mem_cons_self
    · exact hbound r (List.mem_cons_of_mem p0 hr)
  · rcases List.mem_cons.mp hp with rfl | hp
    · exact Int.add_le_add_right hle shift
    · exact Int.add_le_add_right (hall p hp) shift

theorem cutParts_sum (u : Int) (l : List (Int × Int)) : exactVal ((l.map (cutPart u)).foldl (fun s c => s + c.1) 0, u) =
    (l.map (fun p => cutValue u (exactVal p))).sum := by
  have hacc : ∀ a : Int, exactVal ((l.map (cutPart u)).foldl (fun s c => s + c.1) a, u) =
      a * 2 ^ u + (l.map (fun p => cutValue u (exactVal p))).sum := by
    induction l with
    | nil => simp [exactVal]
    | cons p l ih =>
      intro a
      rw [List.map_cons, List.foldl_cons, ih, List.map_cons, List.sum_cons, ← cutPart_val, Int.cast_add]
      ring
  rw [hacc, Int.cast_zero, zero_mul, zero_add]

theorem windowSum_nil (shift : Int) (ps : List (Int × Int)) (h : ps.filter (fun p => p.1 != 0) = []) :
    windowSum shift ps = ((0, 0), false) := by
  simp only [windowSum, h]

/-- The sum of the products that are not zero, each cut to the unit of the largest, and whether any was cut. -/
theorem windowSum_spec (shift q : Int) (ps : List (Int × Int)) (hq : q ∈ (ps.filter (fun p => p.1 != 0)).map (fun p => p.2 + shift))
    (hmax : ∀ r ∈ (ps.filter (fun p => p.1 != 0)).map (fun p => p.2 + shift), r ≤ q) :
    exactVal (windowSum shift ps).1 = ((ps.filter (fun p => p.1 != 0)).map (fun p => cutValue (q - 24) (exactVal p))).sum ∧
    ((windowSum shift ps).2 = true ↔
      ∃ p ∈ ps.filter (fun p => p.1 != 0), cutValue (q - 24) (exactVal p) ≠ exactVal p) := by
  unfold windowSum
  generalize ps.filter (fun p => p.1 != 0) = nz at hq hmax ⊢
  cases nz with
  | nil => cases hq
  | cons p0 t =>
    have hexp := foldl_max_eq p0 t shift q hq hmax
    dsimp only
    rw [hexp]
    refine ⟨cutParts_sum (q - 24) (p0 :: t), ?_⟩
    simp only [← cutPart_loss]
    exact List.any_map.symm ▸ List.any_eq_true

/-! ### The block sum (R55 to R58) -/

/-- The value of a shared scale. -/
def scaleVal (s : Bool × Nat × Int) : ℚ := (if s.1 then -1 else 1) * (s.2.1 : ℚ) * 2 ^ s.2.2

/-- The word of a block sum of value v (R58). -/
def sumBits (v : ℚ) : Word := if v = 0 then 0 else (roundFp32 v).1

/-- The exact products of a block pair. -/
def products (w a : Block) : List (Int × Int) := (w.elems.zip a.elems).map (fun p => prodOf p.1 p.2)

/-- Their sum before the shared scales, and whether the window has cut a nonzero bit. -/
def productSum (fw fa : Nat) (w a : Block) : (Int × Int) × Bool :=
  if windowed fw then windowSum (manBits fw + manBits fa) (products w a) else ((products w a).foldl addExact (0, 0), false)

section

variable (fw fa : Nat) (w a : Block) (hfin : ∀ x ∈ w.elems ++ a.elems, x.isFin)

include hfin

theorem pair_fin (p : Num × Num) (hp : p ∈ w.elems.zip a.elems) : p.1.isFin ∧ p.2.isFin := by
  obtain ⟨h1, h2⟩ := List.of_mem_zip hp
  exact ⟨hfin p.1 (List.mem_append_left _ h1), hfin p.2 (List.mem_append_right _ h2)⟩

/-- Without a window the products are summed exactly. -/
theorem productSum_plain (h : windowed fw = false) : (productSum fw fa w a).2 = false ∧
    exactVal (productSum fw fa w a).1 = ((w.elems.zip a.elems).map (fun p => p.1.value * p.2.value)).sum := by
  rw [productSum, if_neg (by rw [h]; exact Bool.false_ne_true)]
  refine ⟨rfl, ?_⟩
  rw [foldl_addExact_val, products, List.map_map, exactVal, Int.cast_zero, zero_mul, zero_add]
  refine congrArg List.sum (List.map_congr_left fun p hp => ?_)
  obtain ⟨hx, hy⟩ := pair_fin w a hfin p hp
  exact prodOf_val p.1 p.2 hx hy

/-- The pairs whose product is not zero. -/
theorem products_filter : (products w a).filter (fun p => p.1 != 0) =
    ((w.elems.zip a.elems).filter (fun p => decide (p.1.value * p.2.value ≠ 0))).map (fun p => prodOf p.1 p.2) := by
  rw [products, List.filter_map]
  refine congrArg _ (List.filter_congr fun p hp => ?_)
  obtain ⟨hx, hy⟩ := pair_fin w a hfin p hp
  exact prodOf_ne_zero_iff p.1 p.2 hx hy

theorem productSum_zero (h : windowed fw = true)
    (hz : (w.elems.zip a.elems).filter (fun p => decide (p.1.value * p.2.value ≠ 0)) = []) :
    productSum fw fa w a = ((0, 0), false) := by
  rw [productSum, if_pos h, windowSum_nil]
  rw [products_filter w a hfin, hz, List.map_nil]

/-- In a windowed pair each product is cut to the unit of the largest exponent before the sum. -/
theorem productSum_windowed (h : windowed fw = true) (q : Int)
    (hq : q ∈ ((w.elems.zip a.elems).filter (fun p => decide (p.1.value * p.2.value ≠ 0))).map (windowExp fw fa))
    (hmax : ∀ r ∈ ((w.elems.zip a.elems).filter (fun p => decide (p.1.value * p.2.value ≠ 0))).map (windowExp fw fa), r ≤ q) :
    exactVal (productSum fw fa w a).1 = (((w.elems.zip a.elems).filter (fun p => decide (p.1.value * p.2.value ≠ 0))).map
      (fun p => cutValue (q - 24) (p.1.value * p.2.value))).sum ∧
    ((productSum fw fa w a).2 = true ↔ ∃ p ∈ (w.elems.zip a.elems).filter (fun p => decide (p.1.value * p.2.value ≠ 0)),
      cutValue (q - 24) (p.1.value * p.2.value) ≠ p.1.value * p.2.value) := by
  have hnz : ∀ p ∈ (w.elems.zip a.elems).filter (fun p => decide (p.1.value * p.2.value ≠ 0)), p.1.isFin ∧ p.2.isFin :=
    fun p hp => pair_fin w a hfin p (List.mem_filter.mp hp).1
  have hfilter := products_filter w a hfin
  have hexps : ((products w a).filter (fun p => p.1 != 0)).map (fun p => p.2 + (manBits fw + manBits fa)) =
      ((w.elems.zip a.elems).filter (fun p => decide (p.1.value * p.2.value ≠ 0))).map (windowExp fw fa) := by
    rw [hfilter, List.map_map]
    exact List.map_congr_left fun p hp => (windowExp_eq fw fa p (hnz p hp).1 (hnz p hp).2).symm
  obtain ⟨hsum, hloss⟩ := windowSum_spec (manBits fw + manBits fa) q (products w a) (hexps ▸ hq) (hexps ▸ hmax)
  rw [productSum, if_pos h, hsum, hloss, hfilter]
  refine ⟨?_, ?_⟩
  · rw [List.map_map]
    refine congrArg List.sum (List.map_congr_left fun p hp => ?_)
    rw [Function.comp_apply, prodOf_val p.1 p.2 (hnz p hp).1 (hnz p hp).2]
  · constructor
    · rintro ⟨r, hr, hne⟩
      obtain ⟨p, hp, rfl⟩ := List.mem_map.mp hr
      rw [prodOf_val p.1 p.2 (hnz p hp).1 (hnz p hp).2] at hne
      exact ⟨p, hp, hne⟩
    · rintro ⟨p, hp, hne⟩
      rw [← prodOf_val p.1 p.2 (hnz p hp).1 (hnz p hp).2] at hne
      exact ⟨_, List.mem_map.mpr ⟨p, hp, rfl⟩, hne⟩

end

theorem blockSum_noScale (fw fa : Nat) (w a : Block) (h : w.scale = none ∨ a.scale = none) :
    (blockSum fw fa w a).bits = 0x7FC00000 ∧ (blockSum fw fa w a).special = 1 := by
  unfold blockSum
  rcases hw : w.scale with _ | ⟨ns, ms, es⟩
  · exact ⟨rfl, rfl⟩
  · rcases ha : a.scale with _ | ⟨na, ma, ea⟩
    · exact ⟨rfl, rfl⟩
    · rw [hw, ha] at h
      rcases h with h | h <;> cases h

theorem blockSum_nan (fw fa : Nat) (w a : Block) (h : ∃ x ∈ w.elems ++ a.elems, x = Num.nan) :
    (blockSum fw fa w a).bits = 0x7FC00000 ∧ (blockSum fw fa w a).special = 1 := by
  obtain ⟨x, hx, rfl⟩ := h
  have hspecial : (w.elems ++ a.elems).any (fun x => x.isNan || x.isInf) = true := List.any_eq_true.mpr ⟨_, hx, rfl⟩
  have hnan : (w.elems ++ a.elems).any Num.isNan = true := List.any_eq_true.mpr ⟨_, hx, rfl⟩
  by_cases hs : w.scale = none ∨ a.scale = none
  · exact blockSum_noScale fw fa w a hs
  · obtain ⟨hw, ha⟩ := not_or.mp hs
    obtain ⟨⟨ns, ms, es⟩, hw⟩ := Option.ne_none_iff_exists'.mp hw
    obtain ⟨⟨na, ma, ea⟩, ha⟩ := Option.ne_none_iff_exists'.mp ha
    simp only [blockSum, hw, ha, hspecial, hnan, Bool.true_or, if_true, and_self]

/-- The sum of a pair of finite blocks is the sum of its products times the shared scales, rounded once. -/
theorem blockSum_fin (fw fa : Nat) (w a : Block) (sw sa : Bool × Nat × Int) (hw : w.scale = some sw) (ha : a.scale = some sa)
    (hfin : ∀ x ∈ w.elems ++ a.elems, x.isFin) :
    (blockSum fw fa w a).bits = sumBits (exactVal (productSum fw fa w a).1 * (scaleVal sw * scaleVal sa)) ∧
    (blockSum fw fa w a).loss = if (productSum fw fa w a).2 then 1 else 0 := by
  obtain ⟨ns, ms, es⟩ := sw
  obtain ⟨na, ma, ea⟩ := sa
  have hspecial : (w.elems ++ a.elems).any (fun x => x.isNan || x.isInf) = false :=
    List.any_eq_false.mpr fun x hx => by simp [(hfin x hx).not_special]
  let m : Int × Int := ((productSum fw fa w a).1.1 * signedOf (ns != na) (ms * ma), (productSum fw fa w a).1.2 + es + ea)
  have hm : exactVal m = exactVal (productSum fw fa w a).1 * (scaleVal (ns, ms, es) * scaleVal (na, ma, ea)) := by
    have hsign : (signedOf (ns != na) (ms * ma) : ℚ) = (if ns then -1 else 1) * ms * ((if na then -1 else 1) * ma) := by
      rw [signedOf_cast]
      cases ns <;> cases na <;> simp
    rw [exactVal, Int.cast_mul, hsign, zpow_add₀ two_ne_zero, zpow_add₀ two_ne_zero, exactVal, scaleVal, scaleVal]
    ring
  have hsum : (blockSum fw fa w a).bits = (if m.1 = 0 then ((0 : Word), false)
      else toFp32 (decide (m.1 < 0)) (m.1.natAbs * (pow2 m.2).1) (pow2 m.2).2).1 := by
    simp only [blockSum, hw, ha, hspecial, Bool.false_eq_true, if_false]
    rfl
  refine ⟨?_, ?_⟩
  · rw [hsum, ← hm, sumBits]
    by_cases h : m.1 = 0
    · rw [if_pos h, if_pos ((exactVal_eq_zero_iff m).mpr h)]
    · rw [if_neg h, if_neg (mt (exactVal_eq_zero_iff m).mp h), toFp32_exact m h]
  · simp only [blockSum, hw, ha, hspecial, Bool.false_eq_true, if_false]
    rfl

end Sys2Proof.Machine
end

section
/-! SUPPORT. Blocks with a NaN or an infinity (03_number_formats, R65). -/

namespace Sys2Proof.Machine

theorem wordChunks_one (n fuel : Nat) (x : List Word) (hx : x ≠ []) (hn : x.length = n) : wordChunks n (fuel + 2) x = [x] := by
  have hdrop : x.drop n = [] := List.drop_eq_nil_of_le hn.le
  have htake : x.take n = x := List.take_of_length_le hn.le
  have hempty : x.isEmpty = false := by simpa using hx
  simp [wordChunks, hempty, hdrop, htake]

theorem anySpecial_of_mem (x : List Word) (w : Word) (hw : w ∈ x) (h : (decFp32 w).isNan ∨ (decFp32 w).isInf) : anySpecial x = true :=
  List.any_eq_true.mpr ⟨w, hw, by simpa using h⟩

theorem quantMx_special (t : ElemType) (emax : Int) (sr : Option (Nat → Nat)) (x : List Word) (h : anySpecial x = true) :
    quantMx t emax sr x = (0xFF :: List.replicate (4 * t.width) 0, { special := 1 }) := by
  rw [quantMx, if_pos h]

theorem quantHf_special (pan : Bool) (sr : Option (Nat → Nat)) (x : List Word) (h : anySpecial x = true) :
    quantHf pan sr x = (0xFF :: List.replicate (34 + if pan then 4 else 0) 0, { special := 1 }) := by
  rw [quantHf, if_pos h]

theorem quantHt2_special (x : List Word) (h : anySpecial x = true) :
    quantHt2 x = (0x7F :: List.replicate 16 0, { special := 1 }) := by
  rw [quantHt2, if_pos h]

/-- One block with a NaN or an infinity has a NaN scale and zeros, in every output format but BF16. -/
theorem quantLanes_special (f : Nat) (draw : Option (Nat → Nat → Nat)) (b0 : Nat) (x : List Word) (h1 : 1 ≤ f) (h9 : f ≤ 9)
    (hl : x.length = blockElems f) (h : ∃ w ∈ x, (decFp32 w).isNan ∨ (decFp32 w).isInf) : quantLanes f draw b0 x =
      ((if f = 9 then 0x7F else 0xFF) :: List.replicate (blockBytes f - 1) 0, { special := 1 }) := by
  obtain ⟨w, hw, hnan⟩ := h
  have hs := anySpecial_of_mem x w hw hnan
  have hone := wordChunks_one (blockElems f) 126 x (List.ne_nil_of_mem hw) hl
  rw [quantLanes]
  dsimp only
  rw [hone]
  interval_cases f <;> simp [quantMx_special, quantHf_special, quantHt2_special, hs, QCount.add, blockBytes, e4m3, e5m2, e3m2, e2m3,
    int8, e2m1]

/-! ### FP32 addition of NaNs and infinities (R59) -/

theorem fpAdd_nan (x y : Word) (h : decFp32 x = .nan ∨ decFp32 y = .nan) : fpAdd x y = (0x7FC00000, false) := by
  rw [fpAdd]
  rcases h with h | h <;> rw [h]
  · rfl
  · cases decFp32 x <;> rfl

theorem fpAdd_inf_opposite (x y : Word) (n : Bool) (hx : decFp32 x = .inf n) (hy : decFp32 y = .inf (!n)) :
    fpAdd x y = (0x7FC00000, false) := by
  rw [fpAdd, hx, hy]
  cases n <;> rfl

theorem fpAdd_inf_fin (x y : Word) (n b : Bool) (m : Nat) (e : Int) (hx : decFp32 x = .inf n) (hy : decFp32 y = .fin b m e) :
    fpAdd x y = (if n then 0xFF800000 else 0x7F800000, false) := by
  rw [fpAdd, hx, hy]
  cases n <;> rfl

end Sys2Proof.Machine
end

section
/-! SUPPORT. The arrays (04_arrays_and_pavilions, R82 to R93, R153): what an ISSUE entry leaves, the admission of a vector from clean
stores, and what the results of a vector bring. -/

namespace Sys2Proof.Machine

/-! ### ISSUE (R153) -/

/-- An array with one more ISSUE entry at work on it. -/
def ArrSt.withIssue (i : Issue) (x : ArrSt) : ArrSt := { x with issues := x.issues ++ [i] }

/-- An ISSUE entry begins on the arrays of group g that a mask selects. -/
def issueOn (g : Nat) (mask : BitVec 16) (i : Issue) (s : State) : State :=
  (setBits mask).foldl (fun s q => s.modArr (16 * g + q) (ArrSt.withIssue i)) s

theorem foldl_modArr_arr (b : Nat) (f : ArrSt → ArrSt) (l : List Nat) (hl : l.Nodup) (s : State) (x : Nat) :
    (l.foldl (fun s q => s.modArr (b + q) f) s).arr x = if ∃ q ∈ l, x = b + q then f (s.arr x) else s.arr x := by
  induction l generalizing s with
  | nil => simp
  | cons q l ih =>
    obtain ⟨hq, hl⟩ := List.nodup_cons.mp hl
    rw [List.foldl_cons, ih hl, State.modArr_arr]
    by_cases hx : x = b + q
    · have hno : ¬ ∃ r ∈ l, x = b + r := by
        rintro ⟨r, hr, h⟩
        obtain rfl : r = q := by omega
        exact hq hr
      rw [if_neg hno, if_pos hx, if_pos ⟨q, List.mem_cons_self, hx⟩, hx]
    · simp [hx]

theorem foldl_modArr_frame (b : Nat) (f : ArrSt → ArrSt) (l : List Nat) (s : State) :
    l.foldl (fun s q => s.modArr (b + q) f) s = { s with arrays := (l.foldl (fun s q => s.modArr (b + q) f) s).arrays } := by
  refine List.foldlRecOn (motive := fun t : State => t = { s with arrays := t.arrays }) l _ rfl fun t ht q _ => ?_
  rw [ht]
  rfl

theorem setBits_nodup {w : Nat} (m : BitVec w) : (setBits m).Nodup := List.nodup_range.filter _

theorem issueOn_arr_selected (g : Nat) (mask : BitVec 16) (i : Issue) (s : State) (q : Nat) (h : mask.getLsbD q = true) :
    (issueOn g mask i s).arr (16 * g + q) = (s.arr (16 * g + q)).withIssue i := by
  rw [issueOn, foldl_modArr_arr _ _ _ (setBits_nodup mask), if_pos ⟨q, (mem_setBits_iff mask q).mpr h, rfl⟩]

theorem issueOn_arr_other (g : Nat) (mask : BitVec 16) (i : Issue) (s : State) (x : Nat)
    (h : ∀ q, mask.getLsbD q = true → x ≠ 16 * g + q) : (issueOn g mask i s).arr x = s.arr x := by
  rw [issueOn, foldl_modArr_arr _ _ _ (setBits_nodup mask), if_neg]
  rintro ⟨q, hq, hx⟩
  exact h q ((mem_setBits_iff mask q).mp hq) hx

theorem issueOn_frame (g : Nat) (mask : BitVec 16) (i : Issue) (s : State) :
    issueOn g mask i s = { s with arrays := (issueOn g mask i s).arrays } := foldl_modArr_frame _ _ _ s

/-- What an ISSUE entry that is due puts to work. -/
def Due.toIssue (d : Due) (now : Time) (sw co : Bool) (vec slots stride : BitVec 16) : Issue :=
  { entry := d.entry, at_ := now, total := vec.toNat, slotMask := slots, stride := stride.toNat, switch := sw,
    cohort := co, cpt := cptOf d.gear.toNat, step := d.pos.step }

theorem exec_ttIssue (s : State) (a : Allot) (d : Due) (sw co : Bool) (g : Byte) (mask vec slots stride : BitVec 16)
    (hd : s.due a.val = some d) (hc : sget [] s.upset (entryKey a.val d.table d.ix) = [])
    (hk : d.kind = .issue sw co g mask vec slots stride) : exec (.ttIssue a) s =
      .next (passEntry a.val (issueOn g.toNat mask (d.toIssue s.now sw co vec slots stride) s)) := by
  rw [exec, execTtIssue]
  exact congrArg Host.Outcome.next (fire_clean a.val _ s _ d hd hc (by simp only [hk]; rfl))

/-! ### The vector on its way in (R93) -/

/-- Word k of a vector as the joins carry it from clean stores. -/
def inputWord (x : Nat) (al : AllotSt) (i : Issue) (places : List (BitVec 17)) (s : State) (k : Nat) : List Byte :=
  match joinWord (al.inJoins x) k with
  | none => (List.range 32).map (fun b => Config.unjoined x i.entry.toNat i.admitted (32 * k + b))
  | some (j, p, r) => if j.src.toNat / 4096 = 3
    then s.bytes 1 (32 * (bankByte (j.src.toNat % 4096) (32 * (((places.getD p 0).toNat + r) % 131072)) / 32)) 32
    else bytesAt (s.arr (j.src.toNat % 4096)).lastOut (32 * r) 32

theorem actWord_clean (x : Nat) (al : AllotSt) (i : Issue) (places : List (BitVec 17)) (k : Nat) (s : State) (h : s.clean 1) :
    actWord x al i places [] k s = ⟨s, inputWord x al i places s k, none⟩ := by
  unfold actWord inputWord
  rcases joinWord (al.inJoins x) k with _ | ⟨j, p, r⟩
  · rfl
  · dsimp only
    split_ifs
    · rw [Laws.readWord_clean 1 _ s (h _)]
      rfl
    · rfl

theorem gather_clean (x : Nat) (al : AllotSt) (i : Issue) (places : List (BitVec 17)) (n : Nat) (s : State) (h : s.clean 1) :
    gather x al i places [] n s = ⟨s, (List.range n).flatMap (inputWord x al i places s), none⟩ := by
  induction n with
  | zero => rfl
  | succ n ih =>
    unfold gather at ih ⊢
    rw [List.range_succ, List.foldl_append, ih, List.flatMap_append]
    simp [actWord_clean x al i places n s h]

/-- The slots of the arrays do not matter to what the joins carry. -/
theorem inputWord_modArr (x y : Nat) (al : AllotSt) (i : Issue) (places : List (BitVec 17)) (f : ArrSt → ArrSt)
    (hf : ∀ a, (f a).lastOut = a.lastOut) (s : State) : inputWord x al i places (s.modArr y f) = inputWord x al i places s := by
  have hout : ∀ z, ((s.modArr y f).arr z).lastOut = (s.arr z).lastOut := fun z => by
    rw [State.modArr_arr]
    split_ifs with hz
    · rw [hf, hz]
    · rfl
  funext k
  unfold inputWord
  simp only [hout]
  rfl

theorem gather_switch (x : Nat) (al : AllotSt) (i : Issue) (places : List (BitVec 17)) (n u : Nat) (s : State) (h : s.clean 1) :
    (gather x al i places [] n (s.modArr x (ArrSt.switch u))).word = (gather x al i places [] n s).word := by
  rw [gather_clean x al i places n (s.modArr x (ArrSt.switch u)) h, gather_clean x al i places n s h,
    inputWord_modArr x x al i places (ArrSt.switch u) (fun _ => rfl) s]

/-! ### The tile that a vector meets (R82, R83) -/

theorem readWords_clean (st : Nat) (ws : List Nat) (s : State) (h : s.clean st) :
    readWords st ws s = (s, ws.flatMap (fun w => s.bytes st (32 * w) 32), none) := by
  induction ws using List.reverseRecOn with
  | nil => rfl
  | append_singleton ws w ih =>
    unfold readWords at ih ⊢
    rw [List.foldl_append, ih, List.foldl_cons, List.foldl_nil, List.flatMap_append]
    simp [Laws.readWord_clean st w s (h w)]

/-- Whole words hold just the bytes they are read for. -/
theorem State.wordsOf_bytes_whole (s : State) (st a n : Nat) (ha : 32 ∣ a) (hn : 32 ∣ n) :
    (wordsOf a n).flatMap (fun w => s.bytes st (32 * w) 32) = s.bytes st a n := by
  obtain ⟨q, rfl⟩ := ha
  obtain ⟨k, rfl⟩ := hn
  unfold wordsOf
  split_ifs with h
  · rw [h]
    rfl
  · have hcount : (32 * q + 32 * k - 1) / 32 - 32 * q / 32 + 1 = k := by omega
    have hfirst : 32 * q / 32 = q := by omega
    rw [hcount, hfirst, s.words_bytes]

theorem tile_bytes (s : State) (x : Nat) (slot : Bool) (fw : Nat) :
    (wordsOf (slotAddr x slot 0) (tileBytes fw)).flatMap (fun w => s.bytes 2 (32 * w) 32) =
      s.bytes 2 (slotAddr x slot 0) (tileBytes fw) := by
  refine s.wordsOf_bytes_whole 2 _ _ ?_ ?_
  · unfold slotAddr slotBytes
    omega
  · exact ((by decide : 32 ∣ 128).mul_right _).mul_right _

/-! ### Admission (R83 to R86) -/

/-- The vector that enters: its bytes, the tile in a slot and when its results are ready. -/
def vectorFlight (x : Nat) (c : ArrCfg) (i : Issue) (vector : List Byte) (slot : Bool) (s : State) : Flight :=
  { bytes := fit (vectorBytes c.wFmt.toNat c.aFmt.toNat) vector, weights := s.bytes 2 (slotAddr x slot 0) (tileBytes c.wFmt.toNat)
    entry := i.entry, vector := i.admitted, step := i.step, readyAt := issueTick x i (slotCycle i i.admitted + 160) }

/-- An array that a vector has entered. -/
def ArrSt.entered (c : ArrCfg) (i : Issue) (v : Flight) (a : ArrSt) : ArrSt :=
  lastUse c ({ a with flights := a.flights ++ [v] }.admitted i)

/-- The state after a vector has entered: the array with the vector in flight, and one vector more on its counter. -/
def enteredState (x : Nat) (c : ArrCfg) (i : Issue) (v : Flight) (s : State) : State :=
  (s.modArr x (ArrSt.entered c i v)).bump (cArr x 12) 1

theorem enteredState_frame (x : Nat) (c : ArrCfg) (i : Issue) (v : Flight) (s : State) : enteredState x c i v s =
    { s with arrays := (enteredState x c i v s).arrays, live := (s.bump (cArr x 12) 1).live } := rfl

theorem State.modArr_arrays_live (x : Nat) (f : ArrSt → ArrSt) (l : Sparse ArrSt) (k : Sparse Word) (s : State) :
    { s.modArr x f with arrays := l, live := k } = { s with arrays := l, live := k } := rfl

theorem enteredState_arr (x : Nat) (c : ArrCfg) (i : Issue) (v : Flight) (s : State) (y : Nat) :
    (enteredState x c i v s).arr y = if y = x then (s.arr x).entered c i v else s.arr y := s.modArr_arr x y _

theorem enter_clean (n x : Nat) (c : ArrCfg) (i : Issue) (vector : List Byte) (s : State) (h : s.clean 2) : enter n x c i vector s =
    enteredState x c i (vectorFlight x c i vector (s.arr x).slot s) s := by
  unfold enter
  dsimp only
  rw [readWords_clean 2 _ s h, tile_bytes]
  rfl

theorem takeVector_clean (n x : Nat) (al : AllotSt) (c : ArrCfg) (i : Issue) (places : List (BitVec 17)) (s : State) (h1 : s.clean 1)
    (h2 : s.clean 2) : takeVector n x al c i places [] s = enteredState x c i (vectorFlight x c i
      (gather x al i places [] ((vectorBytes c.wFmt.toNat c.aFmt.toNat + 31) / 32) s).word (s.arr x).slot s) s := by
  unfold takeVector
  dsimp only
  rw [gather_clean x al i places _ s h1]
  exact enter_clean n x c i _ s h2

section

variable (s : State) (x : ArrayIx) (places : List (BitVec 17)) (n : Nat) (al : AllotSt) (c : ArrCfg) (e : EdgeProg) (i : Issue)
  (hx : s.arrayOf x.val = some (n, al, c, e)) (hi : (s.arr x.val).nextIssue x.val = some i) (ht : s.timed = true)
  (hh : s.hold.hold = false) (hs : al.stopped = false) (hth : s.thm.trip = false) (hd : s.domainsStopped = false) (hm : c.mode ≠ 0)
  (hnow : s.now = issueTick x.val i (slotCycle i i.admitted))

include hx hi ht hh hs hth hd hm hnow

theorem exec_vectorAdmit : exec (.vectorAdmit x places ⟨[], []⟩) s = .next (
    if mustSwitch c i (s.arr x.val) then
      if (s.arr x.val).full (!(s.arr x.val).slot) then takeVector n x.val al c i places [] (s.modArr x.val (ArrSt.switch c.uses.toNat))
      else arrayFault n x.val (faultCode 0x2 0x001 0) i.entry s
    else takeVector n x.val al c i places [] s) := by
  have hnoise : applyNoise [] s = s := rfl
  rw [exec, execVectorAdmit]
  simp only [hx, hi, ht, hh, hs, hth, hd, hm, hnow, hnoise, ne_eq, not_false_eq_true, decide_true, Bool.not_false, Bool.and_self,
    if_true]

end

/-! ### Faults of an array (R86, R187) -/

/-- An array that issues nothing further. -/
def ArrSt.noIssues (a : ArrSt) : ArrSt := { a with issues := [] }

theorem arrayFault_eq (n x : Nat) (code : Word) (entry : BitVec 24) (s : State) : arrayFault n x code entry s =
    allotFault n code (BitVec.ofNat 3 (x / 64)) (BitVec.ofNat 8 (x % 64)) (some entry) (s.modArr x ArrSt.noIssues) := rfl

theorem arrayFault_frc (n x : Nat) (code : Word) (entry : BitVec 24) (s : State) : (arrayFault n x code entry s).frc =
    (writeFault code (s.sliceOf n) (BitVec.ofNat 3 (x / 64)) (BitVec.ofNat 8 (x % 64)) (some entry) s).frc := by
  rw [arrayFault_eq, allotFault_frc]
  exact writeFaultAt_frc_congr _ _ _ _ _ _ s _ rfl rfl

theorem arrayFault_allot (n x : Nat) (code : Word) (entry : BitVec 24) (s : State) (m : Nat) :
    (arrayFault n x code entry s).allot m = if m = n then (s.allot m).map AllotSt.fault else s.allot m :=
  allotFault_allot n m code _ _ _ (s.modArr x ArrSt.noIssues)

theorem arrayFault_arr (n x : Nat) (code : Word) (entry : BitVec 24) (s : State) (y : Nat) :
    (arrayFault n x code entry s).arr y = if y = x then (s.arr y).noIssues else s.arr y := by
  rw [arrayFault_eq, State.arr, allotFault_arrays, ← State.arr, State.modArr_arr]
  split_ifs with h
  · rw [h]
  · rfl

theorem arrayFault_frame (n x : Nat) (code : Word) (entry : BitVec 24) (s : State) : arrayFault n x code entry s =
    { s with arrays := (arrayFault n x code entry s).arrays, allots := (arrayFault n x code entry s).allots,
             frc := (arrayFault n x code entry s).frc, mgmt := (arrayFault n x code entry s).mgmt,
             out := (arrayFault n x code entry s).out } := by
  rw [arrayFault_eq, allotFault_frame]
  rfl

/-! ### The sums of a vector's columns (R59, R80) -/

theorem accumulate_fst (init : Word) (l : List Word) : (accumulate init l).1 = l.foldl (fun z b => (fpAdd z b).1) init := by
  have hacc : ∀ (z : Word) (n : Nat), (l.foldl (fun (a, n) b => let (c, s) := fpAdd a b; (c, if s then n + 1 else n)) (z, n)).1 =
      l.foldl (fun z b => (fpAdd z b).1) z := by
    induction l with
    | nil => exact fun _ _ => rfl
    | cons b l ih => exact fun z n => ih _ _
  exact hacc init 0

/-- The activation blocks of a vector. -/
def Flight.blocks (c : ArrCfg) (v : Flight) : List Block :=
  (List.range (kOf c.wFmt.toNat / blockElems c.aFmt.toNat)).map (fun j =>
    decBlock c.aFmt.toNat (bytesAt v.bytes (j * blockBytes c.aFmt.toNat) (blockBytes c.aFmt.toNat)))

/-- The block sums of a column, in increasing block index. -/
def Flight.sums (c : ArrCfg) (v : Flight) (lane : Nat) : List Word :=
  (List.range (kOf c.wFmt.toNat / blockElems c.aFmt.toNat)).map (fun j => (blockSum c.wFmt.toNat c.aFmt.toNat
    (decBlock c.wFmt.toNat (bytesAt v.weights ((lane * blocksOf c.wFmt.toNat + j) * blockBytes c.wFmt.toNat) (blockBytes c.wFmt.toNat)))
    (decBlock c.aFmt.toNat (bytesAt v.bytes (j * blockBytes c.aFmt.toNat) (blockBytes c.aFmt.toNat)))).bits)

theorem columnSums_bits (c : ArrCfg) (v : Flight) (lane : Nat) :
    (columnSums c.wFmt.toNat c.aFmt.toNat v (v.blocks c) lane).map (·.bits) = v.sums c lane := by
  refine List.ext_getElem (by simp [columnSums, Flight.blocks, Flight.sums]) fun j h1 h2 => ?_
  simp [columnSums, Flight.blocks, Flight.sums]

/-- What the accumulators begin with. -/
def ArrSt.initial (c : ArrCfg) (a : ArrSt) : List Word := if c.accInit then a.reg c.accReg.toNat else List.replicate 128 0

/-- The accumulators of a vector, with their saturations. -/
def accumulators (c : ArrCfg) (v : Flight) (a : ArrSt) : List (Word × Nat) :=
  (((List.range 128).map (columnSums c.wFmt.toNat c.aFmt.toNat v (v.blocks c))).zip (a.initial c)).map
    (fun e => accumulate e.2 (e.1.map (·.bits)))

theorem ArrSt.initial_eq (c : ArrCfg) (a : ArrSt) : a.initial c =
    (List.range 128).map (fun lane => if c.accInit then sget 0 a.lanes (64 * lane + c.accReg.toNat) else 0) := by
  unfold ArrSt.initial
  split_ifs
  · rfl
  · rw [List.map_const', List.length_range]

theorem accumulators_fst (c : ArrCfg) (v : Flight) (a : ArrSt) : (accumulators c v a).map (·.1) =
    (List.range 128).map (fun lane => (v.sums c lane).foldl (fun z b => (fpAdd z b).1)
      (if c.accInit then sget 0 a.lanes (64 * lane + c.accReg.toNat) else 0)) := by
  rw [accumulators, ArrSt.initial_eq, List.zip_map', List.map_map, List.map_map]
  refine List.map_congr_left fun lane _ => ?_
  simp only [Function.comp_apply, accumulate_fst, columnSums_bits]

/-! ### The edge program (R88 to R91, R123) -/

theorem edgeCycle_idle (c : ArrCfg) (draw : Option (Nat → Nat → Nat)) (b0 : Nat) (p : EdgeProg) (acc : List Word) (t : Nat) (r : EdgeRun)
    (hd : r.due = []) (ho : (p.ops.take c.progLen.toNat).filter (fun o => o.start.toNat == t) = []) :
    edgeCycle c draw b0 p acc t r = r := by
  obtain ⟨arr, due, out, sat, count⟩ := r
  obtain rfl : due = [] := hd
  simp only [edgeCycle, ho]
  rfl

/-- A step that alone changes a value, at one place of a range. -/
theorem foldl_range_once {β : Type} (f : β → Nat → β) (b b' : β) (k n : Nat) (hk : f b k = b') (hb : ∀ t, t ≠ k → f b t = b)
    (hb' : ∀ t, t ≠ k → f b' t = b') : (List.range n).foldl f b = if k < n then b' else b := by
  induction n with
  | zero => rfl
  | succ n ih =>
    rw [List.range_succ, List.foldl_append, ih, List.foldl_cons, List.foldl_nil]
    rcases lt_trichotomy k n with h | rfl | h
    · rw [if_pos h, if_pos (by omega), hb' n h.ne']
    · rw [if_neg (lt_irrefl k), if_pos (by omega), hk]
    · rw [if_neg (by omega), if_neg (by omega), hb n h.ne]

/-- The run of an edge program from an array's state. -/
def edgeProgram (c : ArrCfg) (draw : Option (Nat → Nat → Nat)) (b0 : Nat) (p : EdgeProg) (acc : List Word) (a : ArrSt) : EdgeRun :=
  (List.range 300).foldl (fun r t => edgeCycle c draw b0 p acc t r) ⟨a, [], [], 0, {}⟩

section

variable (c : ArrCfg) (draw : Option (Nat → Nat → Nat)) (b0 : Nat) (p : EdgeProg) (acc : List Word) (a : ArrSt)

/-- An edge program without operations leaves the lanes as they are and writes nothing. -/
theorem edgeProgram_empty (h : c.progLen = 0) : edgeProgram c draw b0 p acc a = ⟨a, [], [], 0, {}⟩ := by
  refine List.foldl_fixed' (fun t => ?_) _
  exact edgeCycle_idle c draw b0 p acc t _ rfl (by simp [h])

/-- An edge program that is one QUANT of the accumulator writes it as output blocks. -/
theorem edgeProgram_quant (o : EdgeOp) (hl : c.progLen = 1) (ho : p.ops.head? = some o) (hopc : o.opc = 10) (hsrc : o.srcA = 64) :
    (edgeProgram c draw b0 p acc a).out = (quantLanes c.outFmt.toNat draw b0 acc).1 := by
  have htake : p.ops.take c.progLen.toNat = [o] := by
    obtain ⟨rest, hops⟩ := List.head?_eq_some_iff.mp ho
    rw [hops, hl]
    rfl
  have hidle : ∀ r : EdgeRun, r.due = [] → ∀ t, t ≠ o.start.toNat → edgeCycle c draw b0 p acc t r = r := fun r hr t ht =>
    edgeCycle_idle c draw b0 p acc t r hr (by simp [htake, ht.symm])
  have hquant : edgeCycle c draw b0 p acc o.start.toNat ⟨a, [], [], 0, {}⟩ =
      ⟨a, [], (quantLanes c.outFmt.toNat draw b0 acc).1, 0, QCount.add {} (quantLanes c.outFmt.toNat draw b0 acc).2⟩ := by
    simp [edgeCycle, htake, hopc, hsrc, edgeSource]
  rw [edgeProgram, foldl_range_once _ _ _ o.start.toNat 300 hquant (hidle _ rfl) (hidle _ rfl), if_pos (by omega)]

end

/-! ### Output tiles (R63) -/

/-- A count is that of an output tile in a step. -/
def TileCount.isOf (u : Word) (w : BitVec 32) (z : BitVec 64) (t : TileCount) : Bool :=
  decide (t.tensor = u) && decide (t.tile = w) && decide (t.step = z)

theorem TileCount.isOf_iff (u : Word) (w : BitVec 32) (z : BitVec 64) (t : TileCount) :
    t.isOf u w z = true ↔ (t.tensor, t.tile, t.step) = (u, w, z) := by
  simp [TileCount.isOf, and_assoc]

theorem AllotSt.emitted_eq (a : AllotSt) (u : Word) (w : BitVec 32) (z : BitVec 64) : a.emitted u w z =
    match a.tiles.find? (TileCount.isOf u w z) with
    | none => 0
    | some t => t.blocks := rfl

theorem AllotSt.emit_eq (a : AllotSt) (tensor : Word) (tile : BitVec 32) (step : BitVec 64) (n : Nat) : a.emit tensor tile step n =
    { a with tiles := a.tiles.filter (fun t => !t.isOf tensor tile step) ++ [⟨tensor, tile, step, a.emitted tensor tile step + n⟩] } :=
  rfl

theorem AllotSt.emit_emitted (a : AllotSt) (tensor : Word) (tile : BitVec 32) (step : BitVec 64) (n : Nat) :
    (a.emit tensor tile step n).emitted tensor tile step = a.emitted tensor tile step + n := by
  have hnone : (a.tiles.filter (fun t => !t.isOf tensor tile step)).find? (TileCount.isOf tensor tile step) = none :=
    List.find?_eq_none.mpr fun t ht => by simpa using (List.mem_filter.mp ht).2
  have hnew : TileCount.isOf tensor tile step ⟨tensor, tile, step, a.emitted tensor tile step + n⟩ = true :=
    (TileCount.isOf_iff _ _ _ _).mpr rfl
  rw [AllotSt.emitted_eq, AllotSt.emit_eq, List.find?_append, hnone, Option.none_or, List.find?_cons_of_pos hnew]

theorem AllotSt.emit_emitted_other (a : AllotSt) (tensor : Word) (tile : BitVec 32) (step : BitVec 64) (n : Nat)
    (u : Word) (w : BitVec 32) (z : BitVec 64) (h : (u, w, z) ≠ (tensor, tile, step)) :
    (a.emit tensor tile step n).emitted u w z = a.emitted u w z := by
  have hdiff : ∀ t : TileCount, t.isOf u w z = true → t.isOf tensor tile step = false := fun t ht => by
    rw [← Bool.not_eq_true, TileCount.isOf_iff, (TileCount.isOf_iff u w z t).mp ht]
    exact h
  have hkeep : (a.tiles.filter (fun t => !t.isOf tensor tile step)).find? (TileCount.isOf u w z) = a.tiles.find? (TileCount.isOf u w z) := by
    rw [List.find?_filter]
    refine congrArg (fun q => a.tiles.find? q) (funext fun t => ?_)
    cases hu : t.isOf u w z
    · simp
    · simp [hdiff t hu]
  have hnew : ¬ TileCount.isOf u w z ⟨tensor, tile, step, a.emitted tensor tile step + n⟩ = true :=
    fun ht => h ((TileCount.isOf_iff u w z _).mp ht).symm
  rw [AllotSt.emitted_eq, AllotSt.emit_eq, List.find?_append, hkeep, List.find?_cons_of_neg hnew, List.find?_nil, Option.or_none]
  rfl

/-! ### Results (R83, R89, R93) -/

/-- The run of the edge program of a vector whose results are ready. -/
def State.resultRun (s : State) (x : Nat) (al : AllotSt) (c : ArrCfg) (p : EdgeProg) (v : Flight) (tile : BitVec 32) : EdgeRun :=
  edgeProgram c (if c.qmode then some (random16 ⟨(s.image al.image).jobSeed, c.tensor, tile, v.step⟩) else none)
    (al.emitted c.tensor tile v.step) p ((accumulators c v (s.arr x)).map (·.1)) (s.arr x)

/-- An array whose first vector in flight has left it with the results of an edge program. -/
def ArrSt.resulted (r : EdgeRun) (v : Flight) (a : ArrSt) : ArrSt :=
  { a with lanes := r.arr.lanes, flights := a.flights.drop 1, lastOut := r.out, outEntry := some v.entry }

/-- Counters of array x raised one after another. -/
def bumpAll (x : Nat) (counts : List (Nat × Nat)) (s : State) : State := counts.foldl (fun s e => s.bump (cArr x e.1) e.2) s

theorem bumpAll_frame (x : Nat) (counts : List (Nat × Nat)) (s : State) :
    bumpAll x counts s = { s with live := (bumpAll x counts s).live } := by
  refine List.foldlRecOn (motive := fun t : State => t = { s with live := t.live }) counts _ rfl fun t ht e _ => ?_
  rw [ht]
  rfl

/-- The results of a vector are the edge program's, some counts, and the tile's blocks. -/
theorem edgeRun_eq (n x : Nat) (al : AllotSt) (c : ArrCfg) (p : EdgeProg) (v : Flight) (tile : BitVec 32) (s : State) :
    ∃ counts, edgeRun n x al c p v tile s =
      ((bumpAll x counts (s.modArr x (ArrSt.resulted (s.resultRun x al c p v tile) v))).modAllot n
        (fun a => a.emit c.tensor tile v.step (128 / blockElems c.outFmt.toNat)), (s.resultRun x al c p v tile).out) :=
  ⟨_, rfl⟩

section

variable (n x : Nat) (al : AllotSt) (c : ArrCfg) (p : EdgeProg) (v : Flight) (tile : BitVec 32) (s : State)

theorem edgeRun_out : (edgeRun n x al c p v tile s).2 = (s.resultRun x al c p v tile).out := by
  obtain ⟨counts, h⟩ := edgeRun_eq n x al c p v tile s
  rw [h]

theorem edgeRun_arr (y : Nat) : (edgeRun n x al c p v tile s).1.arr y =
    if y = x then (s.arr x).resulted (s.resultRun x al c p v tile) v else s.arr y := by
  obtain ⟨counts, h⟩ := edgeRun_eq n x al c p v tile s
  rw [h, bumpAll_frame]
  exact s.modArr_arr x y _

theorem edgeRun_allot (hx : s.allot n = some al) : (edgeRun n x al c p v tile s).1.allot n =
    some (al.emit c.tensor tile v.step (128 / blockElems c.outFmt.toNat)) := by
  obtain ⟨counts, h⟩ := edgeRun_eq n x al c p v tile s
  rw [h, bumpAll_frame]
  exact State.modAllot_allot_some _ n al _ hx

theorem edgeRun_frame : (edgeRun n x al c p v tile s).1 =
    { s with arrays := (edgeRun n x al c p v tile s).1.arrays, live := (edgeRun n x al c p v tile s).1.live,
             allots := (edgeRun n x al c p v tile s).1.allots } := by
  obtain ⟨counts, h⟩ := edgeRun_eq n x al c p v tile s
  rw [h, bumpAll_frame]
  rfl

end

theorem State.arrayOf_allot (s : State) (x n : Nat) (al : AllotSt) (c : ArrCfg) (e : EdgeProg) (h : s.arrayOf x = some (n, al, c, e)) :
    s.allot n = some al := by
  unfold State.arrayOf at h
  rcases hg : s.groupOwner (x / 16) with _ | m
  · simp [hg] at h
  · rcases ha : s.allot m with _ | a
    · simp [hg, ha] at h
    · simp only [hg, ha, Option.map_eq_some_iff, Prod.mk.injEq] at h
      obtain ⟨-, -, rfl, rfl, -⟩ := h
      exact ha

theorem exec_vectorResultReady (s : State) (x : ArrayIx) (tile : BitVec 32) (places : List (BitVec 17)) (cycle : BitVec 4)
    (path : List PathNoise) (n : Nat) (al : AllotSt) (c : ArrCfg) (e : EdgeProg) (v : Flight) (rest : List Flight)
    (hx : s.arrayOf x.val = some (n, al, c, e)) (hf : (s.arr x.val).flights = v :: rest) (ht : s.timed = true)
    (hth : s.thm.trip = false) (hnow : s.now = v.readyAt) : exec (.vectorResultReady ⟨x, tile, places, cycle, path⟩) s =
      .next (putOutputs n x.val al places cycle path v.entry (edgeRun n x.val al c e v tile s).2
        (edgeRun n x.val al c e v tile s).1) := by
  rw [exec, execVectorResultReady]
  simp only [hx, hf, ht, hth, hnow, Bool.not_false, Bool.and_self, decide_true, if_true]

theorem exec_vectorResultReady_none (s : State) (r : VectorResult) (h : (s.arr r.x.val).flights = []) :
    exec (.vectorResultReady r) s = .next s := by
  rw [exec, execVectorResultReady, h]
  split
  next heq => cases heq
  next => rfl

theorem putOutputs_none (n x : Nat) (al : AllotSt) (places : List (BitVec 17)) (cycle : BitVec 4) (path : List PathNoise)
    (entry : BitVec 24) (out : List Byte) (s : State) (h : al.outJoins x = []) :
    putOutputs n x al places cycle path entry out s = s := by
  simp [putOutputs, h]

end Sys2Proof.Machine

namespace Sys2Proof.Proofs

open Sys2Proof Sys2Proof.Machine

/-- Settles O33: an admission from clean stores gathers the joins' words and meets the tile of the slot that the array is on; the results
are those of the edge program; block sums, FP32 sums and their rounding by exact values. -/
theorem arrayCommands : Obligations.ArrayCommands := by
  unfold Obligations.ArrayCommands
  refine ⟨?issue, ?admission, ?gather, ?fault, ?result, ?sum, ?nanSum, ?round, ?add, ?addSpecial, quantLanes_special, ?idle⟩
  case issue =>
    intro s a d sw co g mask vec slots stride hd hc hk i
    obtain ⟨hal, -, -⟩ := s.due_running a.val d hd
    refine ⟨_, exec_ttIssue s a d sw co g mask vec slots stride hd hc hk, fun q hq => issueOn_arr_selected g.toNat mask i s q hq,
      fun x hx => issueOn_arr_other g.toNat mask i s x hx, ?_, fun m hm => ?_, ?_⟩
    · refine passEntry_due s _ a.val d d.al hd ?_ rfl
      rw [issueOn_frame]
      exact hal
    · rw [passEntry_allot_of_ne a.val m _ hm, issueOn_frame]
      rfl
    · rw [passEntry_frame, issueOn_frame]
  case admission =>
    intro s x places n al c e i hx hi ht hh hs hth hd hm hnow a
    have hex := exec_vectorAdmit s x places n al c e i hx hi ht hh hs hth hd hm hnow
    refine ⟨fun hmust hfull h1 h2 => ?_, fun hmust h1 h2 => ?_, fun hmust hfull => ?_⟩
    · have hsame : (s.modArr x.val (ArrSt.switch c.uses.toNat)).arr x.val = a.switch c.uses.toNat := s.modArr_arr_same x.val _
      rw [if_pos hmust, if_pos hfull, takeVector_clean n x.val al c i places (s.modArr x.val (ArrSt.switch c.uses.toNat)) h1 h2,
        gather_switch x.val al i places _ _ s h1, hsame] at hex
      refine ⟨_, hex, ?_, fun y hy => ?_, (enteredState_frame x.val c i _ _).trans (s.modArr_arrays_live x.val _ _ _)⟩
      · rw [enteredState_arr, if_pos rfl, hsame]
        rfl
      · rw [enteredState_arr, if_neg hy, State.modArr_arr, if_neg hy]
    · rw [if_neg (by rw [hmust]; exact Bool.false_ne_true), takeVector_clean n x.val al c i places s h1 h2] at hex
      refine ⟨_, hex, ?_, fun y hy => ?_, enteredState_frame x.val c i _ s⟩
      · rw [enteredState_arr, if_pos rfl]
        rfl
      · rw [enteredState_arr, if_neg hy]
    · rw [if_pos hmust, if_neg (by rw [hfull]; exact Bool.false_ne_true)] at hex
      exact hex
  case gather =>
    exact fun s x al i places n h => gather_clean x al i places n s h
  case fault =>
    intro n x code entry s t
    refine ⟨arrayFault_frc n x code entry s, arrayFault_allot n x code entry s, fun y => ?_, arrayFault_frame n x code entry s⟩
    exact arrayFault_arr n x code entry s y
  case result =>
    intro s x tile places cycle path n al c e v rest hx hf ht hth hnow r
    have hallot := s.arrayOf_allot x.val n al c e hx
    have harr : r.1.arr x.val = (s.arr x.val).resulted (s.resultRun x.val al c e v tile) v :=
      (edgeRun_arr n x.val al c e v tile s x.val).trans (if_pos rfl)
    have hout : r.2 = (s.resultRun x.val al c e v tile).out := edgeRun_out n x.val al c e v tile s
    refine ⟨exec_vectorResultReady s x tile places cycle path n al c e v rest hx hf ht hth hnow,
      putOutputs_none n x.val al places cycle path v.entry r.2 r.1, ?_, ?_, ?_, ?_, ?_, ?_, fun y hy => ?_,
      edgeRun_frame n x.val al c e v tile s⟩
    · rw [harr, ArrSt.resulted, hf]
      rfl
    · rw [harr, hout, ArrSt.resulted]
    · rw [harr, ArrSt.resulted]
    · exact ⟨_, edgeRun_allot n x.val al c e v tile s hallot, al.emit_emitted c.tensor tile v.step _,
        fun u w z h => al.emit_emitted_other c.tensor tile v.step _ u w z h, rfl⟩
    · intro o hl ho hopc hsrc fw fa sums
      rw [hout, State.resultRun, edgeProgram_quant c _ _ e _ _ o hl ho hopc hsrc, accumulators_fst]
      rfl
    · intro hl
      rw [hout, harr, ArrSt.resulted, State.resultRun, edgeProgram_empty c _ _ e _ _ hl]
      exact ⟨rfl, rfl⟩
    · exact (edgeRun_arr n x.val al c e v tile s y).trans (if_neg hy)
  case sum =>
    intro fw fa w a ns na ms ma es ea hw ha hfin val pairs scale rounded
    obtain ⟨hbits, hloss⟩ := blockSum_fin fw fa w a _ _ hw ha hfin
    refine ⟨fun hplain => ?_, fun hwin => ?_⟩
    · obtain ⟨hl, hs⟩ := productSum_plain fw fa w a hfin hplain
      rw [hs] at hbits
      rw [hl] at hloss
      exact ⟨hbits, hloss⟩
    intro exponent nonzero
    refine ⟨fun hz => ?_, fun q hq hmax => ?_⟩
    · rw [productSum_zero fw fa w a hfin hwin hz] at hbits hloss
      refine ⟨hbits.trans ?_, hloss⟩
      rw [exactVal, Int.cast_zero, zero_mul, zero_mul, sumBits, if_pos rfl]
    · intro unit cut
      obtain ⟨hs, hl⟩ := productSum_windowed fw fa w a hfin hwin q hq hmax
      rw [hs] at hbits
      refine ⟨hbits, Iff.trans ?_ hl⟩
      rw [hloss]
      split_ifs with h <;> simp [h]
  case nanSum =>
    intro fw fa w a h
    rcases h with h | h | h
    · exact blockSum_noScale fw fa w a (.inl h)
    · exact blockSum_noScale fw fa w a (.inr h)
    · exact blockSum_nan fw fa w a h
  case round =>
    intro neg num den hn hd v
    exact ⟨toFp32_overflow neg num den hn hd, toFp32_nearest neg num den hn hd⟩
  case add =>
    intro x y m k e f n n' hx hy v
    have hadd := fpAdd_fin x y m k e f n n' hx hy
    rw [hx, hy] at hadd
    exact ⟨fun hv => hadd.trans (if_neg hv), fun hv => hadd.trans (if_pos hv)⟩
  case addSpecial =>
    exact fun x y => ⟨fpAdd_nan x y, fpAdd_inf_opposite x y, fun n m e b => fpAdd_inf_fin x y n b m e⟩
  case idle =>
    exact fun s x tile places cycle path h => exec_vectorResultReady_none s _ h

end Sys2Proof.Proofs
end

section
/-! SUPPORT. Power samples (10_power_and_cooling, R181, R266, R272, R290, R293): the refresh rate of the stacks, and what a sample at a
brake point leaves. -/

namespace Sys2Proof.Machine

/-! ### The refresh rate of the stacks (R181) -/

/-- A trained stack above 85 °C refreshes at twice the rate. -/
def Hbm.refreshed (reading : Int) (h : Hbm) : Hbm := if h.trained then { h with hot := decide (85000 < reading) } else h

/-- The sites below n judged by their readings, one after another. -/
def hotBelow (l : List Int) (n : Nat) (s : State) : State :=
  (List.range n).foldl (fun s i =>
    if (s.hbm i).trained then s.modHbm i (fun h => { h with hot := decide (85000 < l.getD i 0) }) else s) s

theorem hotStacks_eq (l : List Int) (s : State) : hotStacks l s = hotBelow l 12 s := rfl

theorem hotBelow_succ (l : List Int) (n : Nat) (s : State) : hotBelow l (n + 1) s =
    if ((hotBelow l n s).hbm n).trained then (hotBelow l n s).modHbm n (fun h => { h with hot := decide (85000 < l.getD n 0) })
    else hotBelow l n s := by
  rw [hotBelow, List.range_succ, List.foldl_append]
  rfl

theorem hotBelow_frame (l : List Int) (n : Nat) (s : State) : hotBelow l n s = { s with hbms := (hotBelow l n s).hbms } := by
  induction n with
  | zero => rfl
  | succ n ih =>
    rw [hotBelow_succ]
    split
    · rw [State.modHbm, ih]
    · exact ih

theorem hotBelow_succ_hbm (l : List Int) (n : Nat) (s : State) (j : Nat) : (hotBelow l (n + 1) s).hbm j =
    if j = n then ((hotBelow l n s).hbm n).refreshed (l.getD n 0) else (hotBelow l n s).hbm j := by
  rw [hotBelow_succ]
  unfold Hbm.refreshed
  by_cases htrained : ((hotBelow l n s).hbm n).trained = true
  · rw [if_pos htrained, if_pos htrained, State.modHbm_hbm]
  · rw [if_neg htrained, if_neg htrained]
    split
    next hj => rw [hj]
    next => rfl

theorem hotBelow_hbm (l : List Int) (n : Nat) (s : State) (j : Nat) :
    (hotBelow l n s).hbm j = if j < n then (s.hbm j).refreshed (l.getD j 0) else s.hbm j := by
  induction n with
  | zero => rfl
  | succ n ih =>
    rw [hotBelow_succ_hbm]
    by_cases hj : j = n
    · subst hj
      rw [if_pos rfl, if_pos (Nat.lt_succ_self j), ih, if_neg (lt_irrefl j)]
    · rw [if_neg hj, ih]
      exact if_congr (by omega) rfl rfl

/-- A trained stack has its reading of the sample, and one without training is not judged. -/
theorem stackReadings_refreshed (x : PowerSample) (s : State) (i : Nat) (hi : i < 12) :
    (s.hbm i).refreshed ((stackReadings x s).getD i 0) = (s.hbm i).refreshed (x.stackT.getD i 0) := by
  unfold Hbm.refreshed
  split
  next h => simp [stackReadings, hi, h]
  next => rfl

/-! ### What a sample leaves (R266, R272, R290, R293) -/

/-- The governing temperatures that a sample gives (R290). -/
def State.sampleTp (s : State) (x : PowerSample) : List Rat :=
  (List.range 4).map (fun p => governing x (s.thm.failed.getD p 0) p)

/-- The used flow of a sample, and whether its reading is replaced (R293). -/
def State.sampleFlow (s : State) (x : PowerSample) : Rat × Bool := usedFlow (s.pwr.history.headD s.pwr.basis.pGov) x

/-- A governing temperature has come to a bound. -/
def comesTo (bound : Rat) (l : List Rat) : Bool := l.any (fun t => decide (bound ≤ t))

theorem comesTo_iff (bound : Rat) (l : List Rat) : comesTo bound l = true ↔ ∃ y ∈ l, bound ≤ y := by
  simp [comesTo]

/-- The temperature causes that a sample gives. -/
def State.sampleThm (s : State) (x : PowerSample) : Thm := { s.thm with
  tp := s.sampleTp x, thermal := comesTo 105000 (s.sampleTp x), flowSubst := (s.sampleFlow x).2,
  flowLow := decide ((s.sampleFlow x).1 < 300), inletHigh := decide (45000 < x.tIn) }

/-- The state of which a sample's alerts are told. -/
def State.sampled (s : State) (x : PowerSample) : State := { s with
  acc := addSample { x with stackT := stackReadings x s } (s.sampleTp x) (s.sampleFlow x).1 s.acc
  thm := s.sampleThm x
  pwr := { s.pwr with brakeDue := s.pwr.brakeDue || (comesTo 100000 (s.sampleTp x) != comesTo 100000 s.thm.tp) } }

theorem takeSample_eq (x : PowerSample) (s : State) :
    takeSample x s = alertEvents (hotBelow (stackReadings x s) 12 (s.sampled x)) := rfl

theorem takeSample_acc (x : PowerSample) (s : State) : (takeSample x s).acc = (s.sampled x).acc := by
  rw [takeSample_eq, alertEvents_acc, hotBelow_frame]

theorem takeSample_thm (x : PowerSample) (s : State) : (takeSample x s).thm = s.sampleThm x := by
  rw [takeSample_eq, alertEvents_thm, hotBelow_frame]
  rfl

theorem takeSample_pwr (x : PowerSample) (s : State) : (takeSample x s).pwr = (s.sampled x).pwr := by
  rw [takeSample_eq, alertEvents_pwr, hotBelow_frame]

theorem takeSample_hbm (x : PowerSample) (s : State) (i : Nat) (hi : i < 12) :
    (takeSample x s).hbm i = (s.hbm i).refreshed (x.stackT.getD i 0) := by
  rw [takeSample_eq, State.hbm, alertEvents_hbms, ← State.hbm, hotBelow_hbm, if_pos hi]
  exact stackReadings_refreshed x s i hi

theorem takeSample_frame (x : PowerSample) (s : State) :
    takeSample x s = alertEvents { s.sampled x with hbms := (takeSample x s).hbms } := by
  have hhbms : (takeSample x s).hbms = (hotBelow (stackReadings x s) 12 (s.sampled x)).hbms := alertEvents_hbms _
  rw [hhbms]
  exact congrArg alertEvents (hotBelow_frame (stackReadings x s) 12 (s.sampled x))

/-- A crossing of 100 °C, either way, calls for the brake level (R272). -/
theorem sampled_brakeDue (x : PowerSample) (s : State) : (s.sampled x).pwr.brakeDue = true ↔ s.pwr.brakeDue = true ∨
    ¬((∃ y ∈ s.sampleTp x, (100000 : Rat) ≤ y) ↔ ∃ y ∈ s.thm.tp, (100000 : Rat) ≤ y) := by
  rw [← comesTo_iff, ← comesTo_iff, ← Bool.eq_iff_iff]
  exact Bool.or_eq_true_iff.trans (or_congr Iff.rfl bne_iff_ne)

/-! ### The command -/

theorem exec_powerSample (x : PowerSample) (s : State) (h : x.wellFormed = true) :
    exec (.powerSample x) s = .next (if s.ctl && s.brakePoint then takeSample x s else s) :=
  if_pos h

end Sys2Proof.Machine

namespace Sys2Proof.Proofs

open Sys2Proof.Machine

/-- Settles O11: a sample at a brake point is State.sampled, judged stack by stack and told as alerts. -/
theorem powerSampleCommand : Obligations.PowerSampleCommand := by
  unfold Obligations.PowerSampleCommand
  refine ⟨fun s x hx hctl hbrake => ?_, fun s x hx hbrake => ?_⟩
  · refine ⟨takeSample x s, ?_, ?_⟩
    · rw [exec_powerSample x s hx, hctl, hbrake]
      rfl
    · rw [takeSample_acc, takeSample_thm, takeSample_pwr]
      exact ⟨rfl, rfl, rfl, rfl, rfl, rfl, comesTo_iff 105000 _, decide_eq_true_iff, rfl, decide_eq_true_iff, rfl,
        fun i => takeSample_hbm x s i.val i.isLt, sampled_brakeDue x s, takeSample_frame x s⟩
  · rw [exec_powerSample x s hx, hbrake, Bool.and_false]
    rfl

end Sys2Proof.Proofs
end

section
/-! SUPPORT. Memory training and the known-answer runs (14_bringup_and_recovery, R74, R178, R197 to R199, R386, R387): what a training
leaves of its stack or channel, and what a run notes and fails. -/

namespace Sys2Proof.Machine

/-! ### Failed steps (R378) -/

theorem alertLow_of_bootFailed (s : State) (h : s.boot.state = 2) : alertLow s = true := by
  simp [alertLow, h]

theorem bootFail_boot (code : Word) (die : BitVec 3) (array : Byte) (s : State) :
    (bootFail code die array s).boot = { s.boot with state := 2 } := by
  simp [bootFail]

theorem bootFail_alertLow (code : Word) (die : BitVec 3) (array : Byte) (s : State) : alertLow (bootFail code die array s) = true :=
  alertLow_of_bootFailed _ (congrArg Boot.state (bootFail_boot code die array s))

theorem bootFail_hbm (code : Word) (die : BitVec 3) (array : Byte) (s : State) (i : Nat) :
    (bootFail code die array s).hbm i = s.hbm i := by
  simp [bootFail, State.hbm]

theorem bootFail_frc (code : Word) (die : BitVec 3) (array : Byte) (s : State) :
    (bootFail code die array s).frc = (writeFault code 0 die array none s).frc := rfl

/-! ### Logical stacks (R178, Table 7-2) -/

/-- The logical number of a site. -/
def State.logicalOf (s : State) (i : Nat) : Nat := ((popSites s.boot.variant.toNat).findIdx? (fun j => decide (j = i))).getD 0

theorem popSites_length_le (variant : Nat) : (popSites variant).length ≤ 12 := by
  unfold popSites
  split <;> decide

theorem popSites_logicalOf (s : State) (i : Nat) (hi : i ∈ popSites s.boot.variant.toNat) :
    (popSites s.boot.variant.toNat)[s.logicalOf i]? = some i := by
  unfold State.logicalOf
  cases hfind : (popSites s.boot.variant.toNat).findIdx? (fun j => decide (j = i)) with
  | none => exact absurd (List.findIdx?_eq_none_iff.mp hfind i hi) (by simp)
  | some k =>
    obtain ⟨hk, hsite, -⟩ := List.findIdx?_eq_some_iff_getElem.mp hfind
    exact List.getElem?_eq_some_iff.mpr ⟨hk, of_decide_eq_true hsite⟩

theorem logicalOf_lt (s : State) (i : Nat) (hi : i ∈ popSites s.boot.variant.toNat) : s.logicalOf i < 12 := by
  obtain ⟨hlt, -⟩ := List.getElem?_eq_some_iff.mp (popSites_logicalOf s i hi)
  exact hlt.trans_le (popSites_length_le _)

/-! ### Training of a stack (R197, R198) -/

theorem training4_of (s : State) (hc : s.clocked = true) (h4 : s.boot.step = 4) (h1 : s.boot.state ≠ 1) : s.training4 = true := by
  rw [State.training4, hc, decide_eq_true h4, decide_eq_true h1]
  rfl

theorem exec_memoryTrainingDone_stack (s : State) (i : Fin 12) (present trained : Bool) (lanes : BitVec 8) (exhausted : Bool)
    (h : s.training4 = true) (hi : i.val ∈ popSites s.boot.variant.toNat) :
    exec (.memoryTrainingDone (.stack i present trained lanes exhausted)) s =
      .next (trainStack i.val present trained lanes exhausted s) :=
  congrArg Host.Outcome.next ((if_pos h).trans (if_pos (List.contains_iff_mem.mpr hi)))

theorem exec_memoryTrainingDone_unlisted (s : State) (i : Fin 12) (present trained : Bool) (lanes : BitVec 8) (exhausted : Bool)
    (hi : i.val ∉ popSites s.boot.variant.toNat) :
    exec (.memoryTrainingDone (.stack i present trained lanes exhausted)) s = .next s := by
  refine congrArg Host.Outcome.next (ite_eq_right_iff.mpr fun _ => ?_)
  exact if_neg (fun h => hi (List.contains_iff_mem.mp h))

theorem trainStack_trained (s : State) (i : Nat) (lanes : BitVec 8) (exhausted : Bool) :
    trainStack i true true lanes exhausted s = s.modHbm i (fun x =>
      { x with present := true, trained := true, logical := BitVec.ofNat 4 (s.logicalOf i), lanes := lanes, fail := 0 }) := rfl

theorem trainStack_untrained (s : State) (i : Nat) (lanes : BitVec 8) (exhausted : Bool) :
    trainStack i true false lanes exhausted s =
      bootFail (faultCode 0xA 0x004 (BitVec.ofNat 16 (s.logicalOf i))) (BitVec.ofNat 3 (i / 3)) 0xFF (s.modHbm i (fun x =>
        { x with present := true, logical := BitVec.ofNat 4 (s.logicalOf i), lanes := lanes
                 fail := if exhausted then 3 else 2 })) := rfl

theorem trainStack_absent (s : State) (i : Nat) (lanes : BitVec 8) (trained exhausted : Bool) :
    trainStack i false trained lanes exhausted s =
      bootFail (faultCode 0xA 0x004 (BitVec.ofNat 16 (0x100 + i))) (BitVec.ofNat 3 (i / 3)) 0xFF (s.modHbm i (fun x =>
        { x with present := true, logical := BitVec.ofNat 4 (s.logicalOf i), fail := 1 })) := rfl

theorem faultCode_stackAbsent (i : Fin 12) :
    faultCode 0xA 0x004 (BitVec.ofNat 16 (0x100 + i.val)) = 0xA0040100#32 + BitVec.ofNat 32 i.val := by
  revert i
  decide

theorem faultCode_stackUntrained (n : Fin 12) :
    faultCode 0xA 0x004 (BitVec.ofNat 16 n.val) = 0xA0040000#32 + (BitVec.ofNat 4 n.val).setWidth 32 := by
  revert n
  decide

/-- A failed training leaves the boot record, the alert and the fault store of a failed step. -/
theorem failedTraining (s : State) (i : Nat) (f : Hbm → Hbm) (code want : Word) (die : BitVec 3) (hcode : code = want) :
    (bootFail code die 0xFF (s.modHbm i f)).boot = { s.boot with state := 2 } ∧
      alertLow (bootFail code die 0xFF (s.modHbm i f)) = true ∧
      (bootFail code die 0xFF (s.modHbm i f)).frc = (writeFault want 0 die 0xFF none s).frc := by
  refine ⟨bootFail_boot _ _ _ _, bootFail_alertLow _ _ _ _, ?_⟩
  rw [hcode, bootFail_frc, writeFault_frc, writeFault_frc]
  rfl

/-! ### Training of a channel (R199) -/

theorem exec_memoryTrainingDone_channel (s : State) (c : Fin 8) (present ecc speed : Bool) (gib : BitVec 9) (trained : Bool)
    (h : s.training4 = true) : exec (.memoryTrainingDone (.channel c present ecc speed gib trained)) s =
      .next (s.modDdr c.val (fun x => { x with
        present := present, trained := decide (channelFail present ecc speed gib trained = 0)
        gib := if present then gib else 0, fail := channelFail present ecc speed gib trained })) :=
  congrArg Host.Outcome.next (if_pos h)

/-- A channel trains where it has none of the causes. -/
theorem channelFail_eq_zero (present ecc speed : Bool) (gib : BitVec 9) (trained : Bool) :
    decide (channelFail present ecc speed gib trained = 0) =
      (present && ecc && speed && trained && decide (16 ≤ gib.toNat) && decide (gib.toNat ≤ 256)) := by
  unfold channelFail
  by_cases hsize : gib.toNat < 16 ∨ 256 < gib.toNat
  · have hout : ¬(16 ≤ gib.toNat ∧ gib.toNat ≤ 256) := by omega
    rw [Bool.and_assoc, ← Bool.decide_and, decide_eq_false hout, Bool.and_false]
    cases present <;> cases ecc <;> cases speed <;> simp [hsize]
  · have hin : 16 ≤ gib.toNat ∧ gib.toNat ≤ 256 := by omega
    cases present <;> cases ecc <;> cases speed <;> cases trained <;> simp [hsize, hin]

/-! ### Known-answer runs (R74, R386, R387) -/

/-- The runs that have been done, once a unit's run at a gear has. -/
def State.runsWith (s : State) (u : KatUnit) (g5 : Bool) (crc : BitVec 64) : List (KatUnit × Bool × BitVec 64) :=
  s.boot.katRuns.filter (fun e => !(decide (e.1 = u) && (e.2.1 == g5))) ++ [(u, g5, crc)]

theorem mem_runsWith (s : State) (u : KatUnit) (g5 : Bool) (crc : BitVec 64) : (u, g5, crc) ∈ s.runsWith u g5 crc :=
  List.mem_append_right _ (List.mem_singleton.mpr rfl)

/-- What an array's run notes of itself, at its PLL and in BOOT_KAT. -/
def State.arrayRan (s : State) (x : ArrayIx) (g5 bad : Bool) (crc : BitVec 64) : State := { s with
  boot := { s.boot with
    kats := smod {} s.boot.kats (x.val / 64) (Kat.note bad (x.val % 64 / 16) (BitVec.ofNat 8 (x.val % 64)))
    katRuns := s.runsWith (.array x) g5 crc }
  plls := smod {} s.plls (x.val / 64) (fun p => { p with active := g5 }) }

theorem arrayRan_kat (s : State) (x : ArrayIx) (g5 bad : Bool) (crc : BitVec 64) :
    sget {} (s.arrayRan x g5 bad crc).boot.kats (x.val / 64) =
      (sget {} s.boot.kats (x.val / 64)).note bad (x.val % 64 / 16) (BitVec.ofNat 8 (x.val % 64)) :=
  Laws.sget_smod_same {} s.boot.kats (x.val / 64) (Kat.note bad (x.val % 64 / 16) (BitVec.ofNat 8 (x.val % 64)))

theorem arrayRan_pll (s : State) (x : ArrayIx) (g5 bad : Bool) (crc : BitVec 64) :
    (s.arrayRan x g5 bad crc).pll (x.val / 64) = { s.pll (x.val / 64) with active := g5 } :=
  Laws.sget_smod_same {} s.plls (x.val / 64) (fun p => { p with active := g5 })

theorem note_bad_group (k : Kat) (region : Nat) (ix : Byte) (h : region < 4) : (k.note true region ix).groups.getLsbD region = true := by
  simp [Kat.note, h]

theorem katDiffers_array (s : State) (x : ArrayIx) (g5 : Bool) (crc : BitVec 64) : s.katDiffers (.array x) g5 crc = true ↔
    ∃ e ∈ s.boot.katRuns, e.1 = .array x ∧ e.2.1 ≠ g5 ∧ e.2.2 ≠ crc := by
  simp [State.katDiffers, katArray, and_assoc]

theorem katDiffers_none (s : State) (u : KatUnit) (g5 : Bool) (crc : BitVec 64) (hu : katArray u = none) :
    s.katDiffers u g5 crc = false := by
  rw [State.katDiffers, hu]
  rfl

/-- Known-answer runs are taken: in S6, until the step is done, and for units whose pavilion's turn it is. -/
theorem katTaken (s : State) (u : KatUnit) (hc : s.clocked = true) (h6 : s.boot.step = 6) (h1 : s.boot.state ≠ 1)
    (hu : s.katFree u = true) :
    (s.clocked && decide (s.boot.step = 6) && decide (s.boot.state ≠ 1) && s.katFree u) = true := by
  rw [hc, decide_eq_true h6, decide_eq_true h1, hu]
  rfl

theorem exec_knownAnswerRunDone_refused (s : State) (u : KatUnit) (g5 : Bool) (crc want : BitVec 64) (hu : s.katFree u = false) :
    exec (.knownAnswerRunDone u g5 crc want) s = .next s := by
  refine congrArg Host.Outcome.next (if_neg ?_)
  rw [hu, Bool.and_false]
  exact Bool.false_ne_true

theorem exec_knownAnswerRunDone_match (s : State) (u : KatUnit) (g5 : Bool) (crc : BitVec 64) (hc : s.clocked = true)
    (h6 : s.boot.step = 6) (h1 : s.boot.state ≠ 1) (hfree : s.katFree u = true) (hu : katArray u = none) :
    exec (.knownAnswerRunDone u g5 crc crc) s = .next { s with boot := { s.boot with katRuns := s.runsWith u g5 crc } } := by
  refine congrArg Host.Outcome.next ((if_pos (katTaken s u hc h6 h1 hfree)).trans ?_)
  simp only [katDiffers_none s u g5 crc hu, katPll, hu, ne_eq, not_true_eq_false, decide_false,
    Bool.false_and, Bool.false_eq_true, if_false, Bool.or_false]
  rfl

theorem exec_knownAnswerRunDone_array_match (s : State) (x : ArrayIx) (g5 : Bool) (crc : BitVec 64) (hc : s.clocked = true)
    (h6 : s.boot.step = 6) (h1 : s.boot.state ≠ 1) (hfree : s.katFree (.array x) = true)
    (hsame : s.katDiffers (.array x) g5 crc = false) :
    exec (.knownAnswerRunDone (.array x) g5 crc crc) s = .next (s.arrayRan x g5 false crc) := by
  refine congrArg Host.Outcome.next ((if_pos (katTaken s _ hc h6 h1 hfree)).trans ?_)
  simp only [hsame, ne_eq, not_true_eq_false, decide_false, Bool.false_and, Bool.false_eq_true, if_false, Bool.or_false]
  rfl

/-- The first run that does not match fails S6 (R387). -/
theorem exec_knownAnswerRunDone_array_bad (s : State) (x : ArrayIx) (g5 : Bool) (crc want : BitVec 64) (hc : s.clocked = true)
    (h6 : s.boot.step = 6) (h0 : s.boot.state = 0) (hfree : s.katFree (.array x) = true) (hfirst : s.boot.katFailed = false)
    (hbad : crc ≠ want ∨ s.katDiffers (.array x) g5 crc = true) :
    exec (.knownAnswerRunDone (.array x) g5 crc want) s = .next (
      bootFail (faultCode 0xA 0x005 (BitVec.ofNat 16 (0 + if g5 then 16 else 0))) (BitVec.ofNat 3 (x.val / 64))
        (BitVec.ofNat 8 (x.val % 64)) { s.arrayRan x g5 true crc with
          boot := { (s.arrayRan x g5 true crc).boot with katFailed := true } }) := by
  have h1 : s.boot.state ≠ 1 := by rw [h0]; decide
  have hbad' : (decide (crc ≠ want) || s.katDiffers (.array x) g5 crc) = true :=
    Bool.or_eq_true_iff.mpr (hbad.imp_left decide_eq_true)
  refine congrArg Host.Outcome.next ((if_pos (katTaken s _ hc h6 h1 hfree)).trans ?_)
  rw [hbad']
  exact (if_pos (by rw [Bool.true_and]; exact congrArg (!·) hfirst)).trans (if_pos h0)

theorem faultCode_katArray (g5 : Bool) :
    faultCode 0xA 0x005 (BitVec.ofNat 16 (0 + if g5 then 16 else 0)) = 0xA0050000#32 + (if g5 then 16 else 0) := by
  revert g5
  decide

end Sys2Proof.Machine
end

section
/-! SUPPORT. Scrubbing of words without an error (07_memory, R178, R179, R191, R192), and the statement of the memory tests. -/

namespace Sys2Proof.Machine

/-! ### The word (R192) -/

theorem scrubbed_nil : scrubbed [] = [] := rfl

/-- A word without an error reads as it is, and nothing is written back but the empty error pattern. -/
theorem scrub_clean (w : Nat) (s : State) (h : s.clean 0) :
    scrub w s = { s with upset := sput [] s.upset (upsetKey 0 w) [] } := by
  unfold scrub
  rw [Laws.readWord_clean 0 w s (h w), h w]
  dsimp only
  rw [scrubbed_nil]

theorem scrub_clean_upset (w : Nat) (s : State) (h : s.clean 0) (k : Nat) : sget [] (scrub w s).upset k = sget [] s.upset k := by
  rw [scrub_clean w s h]
  refine (Laws.sget_sput [] s.upset (upsetKey 0 w) k []).trans ?_
  split
  next hk => rw [hk, h w]
  next => rfl

/-! ### The walk (R191) -/

/-- A stack whose walk of n words has taken its next word. -/
def Hbm.walked (n : Nat) (h : Hbm) : Hbm :=
  if h.scrub + 1 < n then { h with scrub := h.scrub + 1, scrubbed := h.scrubbed + 1 }
  else { h with scrub := 0, passes := satAdd h.passes 1, scrubbed := h.scrubbed + 1 }

/-- A channel whose walk of n words has taken its next word. -/
def Ddr.walked (n : Nat) (d : Ddr) : Ddr :=
  if d.scrub + 1 < n then { d with scrub := d.scrub + 1, scrubbed := d.scrubbed + 1 }
  else { d with scrub := 0, passes := satAdd d.passes 1, scrubbed := d.scrubbed + 1 }

theorem Hbm.walk_eq (n : Nat) (h : Hbm) : { h with
    scrub := (walk h.scrub n).1, passes := satAdd h.passes (if (walk h.scrub n).2 then 1 else 0)
    scrubbed := h.scrubbed + 1 } = h.walked n := by
  unfold walk Hbm.walked
  split
  · simp only [Bool.false_eq_true, if_false, satAdd_zero]
  · rfl

theorem Ddr.walk_eq (n : Nat) (d : Ddr) : { d with
    scrub := (walk d.scrub n).1, passes := satAdd d.passes (if (walk d.scrub n).2 then 1 else 0)
    scrubbed := d.scrubbed + 1 } = d.walked n := by
  unfold walk Ddr.walked
  split
  · simp only [Bool.false_eq_true, if_false, satAdd_zero]
  · rfl

/-- A scrubbing stack scrubs the word its walk stands at. (Here and for a channel the unit is first any unit and `walk` any function,
so that the kernel evaluates no address.) -/
theorem scrubNext_stack (u : ScrubUnit) (i : Fin 12) (s : State) (hu : u = .stack i) : scrubNext u s =
    (scrub (s.stackWord i.val (s.hbm i.val).scrub / 32) s).modHbm i.val (fun y => { y with
      scrub := (walk (s.hbm i.val).scrub (2 ^ 31)).1
      passes := satAdd y.passes (if (walk (s.hbm i.val).scrub (2 ^ 31)).2 then 1 else 0), scrubbed := y.scrubbed + 1 }) := by
  obtain ⟨step, hstep⟩ : ∃ step, step = walk := ⟨_, rfl⟩
  unfold scrubNext
  rw [← hstep]
  subst hu
  rfl

theorem scrubNext_channel (u : ScrubUnit) (c : Fin 8) (s : State) (hu : u = .channel c) : scrubNext u s =
    (scrub (channelWord c.val (s.ddr c.val).scrub / 32) s).modDdr c.val (fun y => { y with
      scrub := (walk (s.ddr c.val).scrub (s.capGib.toNat * 2 ^ 25)).1
      passes := satAdd y.passes (if (walk (s.ddr c.val).scrub (s.capGib.toNat * 2 ^ 25)).2 then 1 else 0)
      scrubbed := y.scrubbed + 1 }) := by
  obtain ⟨step, hstep⟩ : ∃ step, step = walk := ⟨_, rfl⟩
  unfold scrubNext
  rw [← hstep]
  subst hu
  rfl

/-! ### What a scrub of a clean memory leaves -/

theorem scrubNext_clean_byte (u : ScrubUnit) (s : State) (h : s.clean 0) (b : Nat) : (scrubNext u s).byte 0 b = s.byte 0 b := by
  refine scrubNext_cases (fun t => t.byte 0 b = s.byte 0 b) s (fun w i f => ?_) (fun w i f => ?_) u
  all_goals
    rw [scrub_clean w s h]
    rfl

theorem scrubNext_clean_upset (u : ScrubUnit) (s : State) (h : s.clean 0) (k : Nat) :
    sget [] (scrubNext u s).upset k = sget [] s.upset k :=
  scrubNext_cases (fun t => sget [] t.upset k = sget [] s.upset k) s (fun w _ _ => scrub_clean_upset w s h k)
    (fun w _ _ => scrub_clean_upset w s h k) u

theorem scrubNext_stack_hbm (i : Fin 12) (s : State) (h : s.clean 0) (j : Nat) :
    (scrubNext (.stack i) s).hbm j = if j = i.val then (s.hbm i.val).walked (2 ^ 31) else s.hbm j := by
  rw [scrubNext_stack _ i s rfl, State.modHbm_hbm, scrub_clean _ s h, ← Hbm.walk_eq]
  rfl

theorem scrubNext_channel_ddr (c : Fin 8) (s : State) (h : s.clean 0) (j : Nat) :
    (scrubNext (.channel c) s).ddr j = if j = c.val then (s.ddr c.val).walked (s.capGib.toNat * 2 ^ 25) else s.ddr j := by
  rw [scrubNext_channel _ c s rfl, State.modDdr_ddr, scrub_clean _ s h, ← Ddr.walk_eq]
  rfl

theorem scrubNext_stack_frame (i : Fin 12) (s : State) (h : s.clean 0) : scrubNext (.stack i) s =
    { s with hbms := (scrubNext (.stack i) s).hbms, upset := (scrubNext (.stack i) s).upset } := by
  rw [scrubNext_stack _ i s rfl, scrub_clean _ s h]
  rfl

theorem scrubNext_channel_frame (c : Fin 8) (s : State) (h : s.clean 0) : scrubNext (.channel c) s =
    { s with ddrs := (scrubNext (.channel c) s).ddrs, upset := (scrubNext (.channel c) s).upset } := by
  rw [scrubNext_channel _ c s rfl, scrub_clean _ s h]
  rfl

/-! ### The command -/

theorem exec_scrubWord (u : ScrubUnit) (s : State) (hc : s.clocked = true) (hleft : s.scrubLeft u ≠ 0) :
    exec (.scrubWord u []) s = .next (scrubNext u s) :=
  congrArg Host.Outcome.next (if_pos (by rw [hc, decide_eq_true hleft]; rfl))

theorem exec_scrubWord_idle (u : ScrubUnit) (noise : List Noise) (s : State) (h : s.clocked = false ∨ s.scrubLeft u = 0) :
    exec (.scrubWord u noise) s = .next s := by
  refine congrArg Host.Outcome.next (if_neg ?_)
  rcases h with h | h <;> simp [h]

theorem scrubLeft_stack_ne_zero (s : State) (i : Fin 12) :
    s.scrubLeft (.stack i) ≠ 0 ↔ (s.hbm i.val).trained = true ∧ (s.hbm i.val).scrubbed < 64 := by
  unfold State.scrubLeft
  by_cases ht : (s.hbm i.val).trained = true
  · simp only [ht, if_true, true_and]
    omega
  · simp [ht]

theorem scrubLeft_channel_ne_zero (s : State) (c : Fin 8) :
    s.scrubLeft (.channel c) ≠ 0 ↔ (s.ddr c.val).trained = true ∧ s.capGib ≠ 0 ∧ (s.ddr c.val).scrubbed < 256 := by
  unfold State.scrubLeft
  by_cases ht : (s.ddr c.val).trained = true
  · by_cases hg : s.capGib = 0
    · simp [hg]
    · simp only [ht, hg, ne_eq, not_false_eq_true, decide_true, Bool.and_self, if_true, true_and]
      omega
  · simp [ht]

end Sys2Proof.Machine

namespace Sys2Proof.Proofs

open Sys2Proof.Machine

/-- Settles O18: trainings by what they leave of their stack or channel, runs by whether they match, words by the walk of their unit. -/
theorem memoryTestCommands : Obligations.MemoryTestCommands := by
  unfold Obligations.MemoryTestCommands
  refine ⟨⟨?trained, ?failed, exec_memoryTrainingDone_unlisted, ?channel⟩, ⟨?arrayMatch, ?unitMatch,
    exec_knownAnswerRunDone_refused, ?arrayBad⟩, ⟨?scrubStack, ?scrubChannel, fun s u noise => exec_scrubWord_idle u noise s,
    fun s i c => ⟨scrubLeft_stack_ne_zero s i, scrubLeft_channel_ne_zero s c⟩⟩⟩
  case trained =>
    intro s i lanes ex hc h4 h1 hi
    have hex := exec_memoryTrainingDone_stack s i true true lanes ex (training4_of s hc h4 h1) hi
    rw [trainStack_trained] at hex
    refine ⟨_, hex, ?_, fun j hj => ?_, ?_, rfl⟩
    · rw [State.modHbm_hbm_same]
    · rw [State.modHbm_hbm, if_neg hj]
    · have hlt := logicalOf_lt s i.val hi
      rw [State.modHbm_hbm_same, BitVec.toNat_ofNat, Nat.mod_eq_of_lt (by omega)]
      exact popSites_logicalOf s i.val hi
  case failed =>
    intro s i lanes hc h4 h1 hi
    have h := training4_of s hc h4 h1
    refine ⟨?absent, fun ex => ?_⟩
    case absent =>
      have hex := exec_memoryTrainingDone_stack s i false false lanes false h hi
      rw [trainStack_absent] at hex
      obtain ⟨hboot, halert, hfrc⟩ := failedTraining s i.val _ _ _ (BitVec.ofNat 3 (i.val / 3)) (faultCode_stackAbsent i)
      refine ⟨_, hex, ?_, hboot, halert, hfrc⟩
      rw [bootFail_hbm, State.modHbm_hbm_same]
    have hex := exec_memoryTrainingDone_stack s i true false lanes ex h hi
    rw [trainStack_untrained] at hex
    obtain ⟨hboot, halert, hfrc⟩ := failedTraining s i.val _ _ _ (BitVec.ofNat 3 (i.val / 3))
      (faultCode_stackUntrained ⟨s.logicalOf i.val, logicalOf_lt s i.val hi⟩)
    refine ⟨_, hex, ?_, ?_, hboot, halert, ?_⟩
    · rw [bootFail_hbm, State.modHbm_hbm_same]
    · rw [bootFail_hbm, State.modHbm_hbm_same]
    · rw [bootFail_hbm, State.modHbm_hbm_same]
      exact hfrc
  case channel =>
    intro s c present ecc speed gib trained hc h4 h1
    rw [exec_memoryTrainingDone_channel s c present ecc speed gib trained (training4_of s hc h4 h1), channelFail_eq_zero]
    rfl
  case arrayMatch =>
    intro s x g5 crc hc h6 h1 hfree hsame
    have hagree : s.katDiffers (.array x) g5 crc = false := by
      rw [← Bool.not_eq_true, katDiffers_array]
      exact fun ⟨e, he, hunit, hgear, hcrc⟩ => hcrc (hsame e he hunit hgear)
    refine ⟨_, exec_knownAnswerRunDone_array_match s x g5 crc hc h6 h1 hfree hagree, ?_, ?_, mem_runsWith s (.array x) g5 crc, ?_, rfl⟩
    · rw [arrayRan_kat]; rfl
    · rw [arrayRan_kat]; rfl
    · rw [arrayRan_pll]
  case unitMatch =>
    exact exec_knownAnswerRunDone_match
  case arrayBad =>
    intro s x g5 crc want hc h6 h0 hfree hfirst hbad
    have hex := exec_knownAnswerRunDone_array_bad s x g5 crc want hc h6 h0 hfree hfirst
      (hbad.imp_right (katDiffers_array s x g5 crc).mpr)
    refine ⟨_, hex, ?_, ?_, bootFail_alertLow _ _ _ _, ?_, ?_⟩
    · rw [bootFail_boot]
    · rw [bootFail_boot]
    · rw [bootFail_boot]
      refine (congrArg (fun k : Kat => k.groups.getLsbD (x.val % 64 / 16)) (arrayRan_kat s x g5 true crc)).trans ?_
      exact note_bad_group _ _ _ (by omega)
    · rw [faultCode_katArray, bootFail_frc, writeFault_frc, writeFault_frc]
      rfl
  case scrubStack =>
    intro s i hc hleft h
    refine ⟨_, exec_scrubWord (.stack i) s hc hleft, scrubNext_clean_byte _ s h, scrubNext_clean_upset _ s h, ?_, fun j hj => ?_,
      scrubNext_stack_frame i s h⟩
    · rw [scrubNext_stack_hbm i s h, if_pos rfl, Hbm.walked]
    · rw [scrubNext_stack_hbm i s h, if_neg hj]
  case scrubChannel =>
    intro s c hc hleft h
    refine ⟨_, exec_scrubWord (.channel c) s hc hleft, scrubNext_clean_byte _ s h, scrubNext_clean_upset _ s h, ?_, fun j hj => ?_,
      scrubNext_channel_frame c s h⟩
    · rw [scrubNext_channel_ddr c s h, if_pos rfl, Ddr.walked]
    · rw [scrubNext_channel_ddr c s h, if_neg hj]

end Sys2Proof.Proofs
end

section
/-! SUPPORT. START (05_layout_image, R227, R324): its refusals, and the start lap that the allotments of an image take. -/

namespace Sys2Proof.Machine

theorem onAllots_refused (p : Port) (b : List Byte) (head : BitVec 16) (dirt : List (Nat × Nat)) (bad : BitVec 16)
    (f : List Nat → State → State) (s : State) (hd : entryDirt b dirt = none) (hb : bad ≠ 0) :
    onAllots p b head dirt bad f s = commandDone p (entryTag b) 0x03 (bad.setWidth 32) head s := by
  simp only [onAllots, hd, if_pos hb]

/-! ### The start lap of the named allotments (R324) -/

/-- An allotment with its start lap. -/
def AllotSt.startsAt (lap : BitVec 40) (a : AllotSt) : AllotSt := { a with startLap := some lap }

/-- The allotments of a list take their start lap one after another. -/
def nameStart (lap : BitVec 40) (l : List Nat) (s : State) : State := l.foldl (fun s n => s.modAllot n (·.startsAt lap)) s

theorem nameStart_frame (lap : BitVec 40) (l : List Nat) (s : State) :
    nameStart lap l s = { s with allots := (nameStart lap l s).allots } := by
  unfold nameStart
  induction l generalizing s with
  | nil => rfl
  | cons n l ih => exact ih _

theorem nameStart_allot (lap : BitVec 40) (l : List Nat) (s : State) (n : Nat) : (nameStart lap l s).allot n =
    if n ∈ l then (s.allot n).map (·.startsAt lap) else s.allot n := by
  induction l using List.reverseRecOn with
  | nil => rfl
  | append_singleton l k ih =>
    have hlast : nameStart lap (l ++ [k]) s = (nameStart lap l s).modAllot k (·.startsAt lap) := List.foldl_concat ..
    rw [hlast, State.modAllot_allot]
    by_cases hn : n = k
    · subst hn
      have hmem : n ∈ l ++ [n] := by simp
      rw [if_pos rfl, if_pos hmem, ih]
      split_ifs
      · cases s.allot n <;> rfl
      · rfl
    · rw [if_neg hn, ih]
      simp [hn]

/-! ### The image's routing switch (R227) -/

/-- A pending switch of the image takes place in its start lap. -/
def nameSwitch (image : Nat) (lap : BitVec 40) (s : State) : State :=
  if s.rte.pending = some image then { s with rte := { s.rte with switchLap := some lap } } else s

theorem nameSwitch_frame (image : Nat) (lap : BitVec 40) (s : State) : nameSwitch image lap s = { s with
    rte := if s.rte.pending = some image then { s.rte with switchLap := some lap } else s.rte } := by
  unfold nameSwitch
  split_ifs <;> rfl

/-! ### The command -/

section

variable (s : State) (p : Port) (b : List Byte) (head : BitVec 16)
  (hdirt : entryDirt b [(1, 3), (0x0A, 6), (0x17, 1), (0x18, 0x27)] = none)

include hdirt

theorem actStart_notOwned (h : s.notOwned p (entryAllots b) ≠ 0) : actStart p b head s =
    commandDone p (entryTag b) 0x03 ((s.notOwned p (entryAllots b)).setWidth 32) head s :=
  onAllots_refused p b head _ _ _ s hdirt h

variable (hown : s.notOwned p (entryAllots b) = 0)

include hown

theorem actStart_noImage (h : s.unstarted p (setBits (entryAllots b)) = none ∨ s.phase0Ready (setBits (entryAllots b)) = none) :
    actStart p b head s = commandDone p (entryTag b) 0x07 0xFFFFFFFF head s := by
  rw [actStart, onAllots_named p b head _ _ _ s hdirt hown]
  dsimp only
  split
  next image ready hi hr => simp [hi, hr] at h
  next => rfl

variable (image ready : Nat) (hi : s.unstarted p (setBits (entryAllots b)) = some image)
  (hr : s.phase0Ready (setBits (entryAllots b)) = some ready)

include hi hr

theorem actStart_early (h : leNat (bytesAt b 0x10 8) % 65536 ≠ 0 ∨
      leNat (bytesAt b 0x10 8) / 65536 < earliestStart s.now.toNat ready) : actStart p b head s =
    commandDone p (entryTag b) 0x07 (BitVec.ofNat 32 (earliestStart s.now.toNat ready)) head s := by
  rw [actStart, onAllots_named p b head _ _ _ s hdirt hown]
  simp only [hi, hr, if_pos h]

theorem actStart_taken (h0 : leNat (bytesAt b 0x10 8) % 65536 = 0)
    (h : earliestStart s.now.toNat ready ≤ leNat (bytesAt b 0x10 8) / 65536) : actStart p b head s =
    commandDone p (entryTag b) 0x00 ((BitVec.ofNat 40 (leNat (bytesAt b 0x10 8) / 65536)).setWidth 32) head
      (nameSwitch image (BitVec.ofNat 40 (leNat (bytesAt b 0x10 8) / 65536))
        (nameStart (BitVec.ofNat 40 (leNat (bytesAt b 0x10 8) / 65536)) (setBits (entryAllots b)) s)) := by
  have hlate : ¬(leNat (bytesAt b 0x10 8) % 65536 ≠ 0 ∨ leNat (bytesAt b 0x10 8) / 65536 < earliestStart s.now.toNat ready) := by
    omega
  rw [actStart, onAllots_named p b head _ _ _ s hdirt hown]
  simp only [hi, hr]
  exact if_neg hlate

end

end Sys2Proof.Machine

namespace Sys2Proof.Proofs

open Sys2Proof Sys2Proof.Machine

/-- Settles O26: each answer is one branch of the command, and the start lap reaches exactly the named allotments. -/
theorem startCommand : Obligations.StartCommand := by
  unfold Obligations.StartCommand
  intro s p b ht hr hl ho hdirt
  dsimp only
  have hexec : exec (.start p b) s = .next (actStart p b (s.ring p.val).sqHead s) := portCommand_on p 0x11 _ b s ht hr hl ho
  refine ⟨fun hown => ?_, fun hown hnone => ?_, fun image ready hown hi hready => ⟨fun hearly => ?_, fun h0 hlate => ?_⟩⟩
  · rw [hexec, actStart_notOwned s p b _ hdirt hown]
    rfl
  · rw [hexec, actStart_noImage s p b _ hdirt hown hnone]
    rfl
  · rw [hexec, actStart_early s p b _ hdirt hown image ready hi hready hearly]
    rfl
  · have hallot := nameStart_allot (BitVec.ofNat 40 (leNat (bytesAt b 0x10 8) / 65536)) (setBits (entryAllots b)) s
    simp only [mem_setBits_iff] at hallot
    rw [hexec, actStart_taken s p b _ hdirt hown image ready hi hready h0 hlate, nameSwitch_frame, nameStart_frame]
    refine ⟨_, rfl, fun n x hx => ?_, fun n hn => ?_, rfl⟩
    · refine (hallot n).trans ?_
      rw [hx]
      split_ifs <;> rfl
    · refine (hallot n).trans ?_
      rw [hn]
      split_ifs <;> rfl

end Sys2Proof.Proofs
end

section
/-! SUPPORT. Spokes that come UP or take an outcome (08_spokes_and_routing, R204 to R213, R340): what the beginning of the key exchange
changes, the spoke that is UP, and the outcomes that a check of the rack plan gives. -/

namespace Sys2Proof.Machine

/-! ### The beginning of the key exchange (R340) -/

/-- A key message is cut from the far end's record, the lodge, the coordinate and the time: no other change of a spoke changes it. -/
theorem sendKeyMsg_modSpk_stations (k : Nat) (msg : Byte) (body : List Byte) (f : SpokeSt → SpokeSt) (s : State)
    (hf : (f (s.spk k)).farCoord = (s.spk k).farCoord) :
    (sendKeyMsg k msg body (s.modSpk k f)).stations = (sendKeyMsg k msg body s).stations := by
  unfold sendKeyMsg
  rw [State.modSpk_spk_same, hf]
  rfl

theorem sendKeyMsg_spk (k j : Nat) (msg : Byte) (body : List Byte) (s : State) : (sendKeyMsg k msg body s).spk j = s.spk j := rfl

/-- The spoke is open, and its exchange has not begun. -/
def State.keysNow (s : State) (k : Nat) : Bool := s.spokeOpen k && s.boot.identity && decide ((s.spk k).key.step = .idle)

theorem keysNow_iff (s : State) (k : Nat) : s.keysNow k = true ↔
    (s.spk k).state = 5 ∧ (s.spk k).outcome = 3 ∧ s.boot.identity = true ∧ (s.spk k).key.step = .idle := by
  simp [State.keysNow, State.spokeOpen, and_assoc]

theorem startKeying_eq (k : Nat) (s : State) : startKeying k s = if s.keysNow k then
    sendKeyMsg k 1 s.lodge.cred (modKey k (fun x => { x with step := .cred, since := s.now }) s) else s := rfl

theorem startKeying_frame (k : Nat) (s : State) : startKeying k s =
    { s with spokes := (startKeying k s).spokes, stations := (startKeying k s).stations } := by
  rw [startKeying_eq]
  split_ifs <;> rfl

theorem startKeying_spk (k j : Nat) (s : State) : (startKeying k s).spk j = if j = k ∧ s.keysNow k = true then
    { s.spk k with key := { (s.spk k).key with step := .cred, since := s.now } } else s.spk j := by
  rw [startKeying_eq]
  by_cases h : s.keysNow k = true
  · rw [if_pos h, sendKeyMsg_spk, modKey, State.modSpk_spk]
    exact if_congr (and_iff_left h).symm rfl rfl
  · rw [if_neg h, if_neg (fun hj => h hj.2)]

theorem startKeying_spk_same (k : Nat) (s : State) : (startKeying k s).spk k = { s.spk k with
    key := if s.keysNow k then { (s.spk k).key with step := .cred, since := s.now } else (s.spk k).key } := by
  rw [startKeying_spk]
  by_cases h : s.keysNow k = true
  · rw [if_pos ⟨rfl, h⟩, if_pos h]
  · rw [if_neg (fun hk => h hk.2), if_neg h]

theorem startKeying_spk_other (k j : Nat) (s : State) (h : j ≠ k) : (startKeying k s).spk j = s.spk j := by
  rw [startKeying_spk, if_neg (fun hj => h hj.1)]

/-- A module without an identity keys no spoke (R357). -/
theorem startKeying_noIdentity (k : Nat) (s : State) (h : s.boot.identity = false) : startKeying k s = s := by
  rw [startKeying_eq, if_neg (by simp [State.keysNow, h])]

theorem startKeying_stations (k : Nat) (s : State) : (startKeying k s).stations =
    if s.keysNow k then (sendKeyMsg k 1 s.lodge.cred s).stations else s.stations := by
  rw [startKeying_eq]
  split_ifs
  · exact sendKeyMsg_modSpk_stations k 1 _ _ s rfl
  · rfl

/-! ### UP (R205, R208, R223) -/

/-- A spoke as it comes UP, its outcome kept or not. -/
def SpokeSt.raised (kept : Bool) (x : SpokeSt) : SpokeSt := { x with
  state := 5, cred0 := 16, cred1 := 8, cred2 := 8, ups := satAdd x.ups 1, wasUp := true
  outcome := if kept then x.outcome else 1, pair := if kept then x.pair else 0x3F }

/-- The far end is that of the last check, or no check has been made since the spoke was UP (R208). -/
def State.keepsOutcome (s : State) (k : Nat) : Bool :=
  !((s.spk k).wasUp && s.s7Begun && decide ((s.spk k).checked ≠ some (s.spk k).identity))

/-- A change of the spoke depends on what the spoke is before it alone. -/
theorem modSpk_congr (s : State) (k : Nat) (f g : SpokeSt → SpokeSt) (h : f (s.spk k) = g (s.spk k)) : s.modSpk k f = s.modSpk k g :=
  congrArg (fun v => { s with spokes := sput {} s.spokes k v }) h

theorem spokeUp_eq (k : Nat) (s : State) : spokeUp k s = startKeying k (s.modSpk k (·.raised (s.keepsOutcome k))) := by
  rw [spokeUp]
  refine congrArg (startKeying k) (modSpk_congr s k _ _ ?_)
  unfold SpokeSt.raised State.keepsOutcome
  cases (s.spk k).wasUp && s.s7Begun && decide ((s.spk k).checked ≠ some (s.spk k).identity) <;> rfl

theorem spokeUp_keysNow (k : Nat) (s : State) : (s.modSpk k (·.raised (s.keepsOutcome k))).keysNow k = true ↔
    (if s.keepsOutcome k then (s.spk k).outcome else 1) = 3 ∧ s.boot.identity = true ∧ (s.spk k).key.step = .idle := by
  rw [keysNow_iff, State.modSpk_spk_same]
  exact and_iff_right rfl

theorem spokeUp_spk_same (k : Nat) (s : State) : (spokeUp k s).spk k = { (s.spk k).raised (s.keepsOutcome k) with
    key := if (if s.keepsOutcome k then (s.spk k).outcome else 1) = 3 ∧ s.boot.identity = true ∧ (s.spk k).key.step = .idle then
      { (s.spk k).key with step := .cred, since := s.now } else (s.spk k).key } := by
  rw [spokeUp_eq, startKeying_spk_same, State.modSpk_spk_same]
  simp only [spokeUp_keysNow]
  rfl

theorem spokeUp_spk_other (k j : Nat) (s : State) (h : j ≠ k) : (spokeUp k s).spk j = s.spk j := by
  rw [spokeUp_eq, startKeying_spk_other k j _ h, State.modSpk_spk, if_neg h]

theorem spokeUp_stations (k : Nat) (s : State) : (spokeUp k s).stations =
    if (if s.keepsOutcome k then (s.spk k).outcome else 1) = 3 ∧ s.boot.identity = true ∧ (s.spk k).key.step = .idle then
      (sendKeyMsg k 1 s.lodge.cred s).stations else s.stations := by
  have hmsg := sendKeyMsg_modSpk_stations k 1 s.lodge.cred (·.raised (s.keepsOutcome k)) s rfl
  rw [spokeUp_eq, startKeying_stations, ← hmsg]
  exact if_congr (spokeUp_keysNow k s) rfl rfl

theorem spokeUp_frame (k : Nat) (s : State) : spokeUp k s =
    { s with spokes := (spokeUp k s).spokes, stations := (spokeUp k s).stations } := by
  rw [spokeUp_eq, startKeying_frame]
  rfl

theorem upIfReady_of {k : Nat} {s : State} {c : Bool} (h : ((s.spk k).ownAck && (s.spk k).recIn) = c) :
    upIfReady k s = if c then spokeUp k s else s := by
  rw [upIfReady, h]

/-! ### The records (R205, R207) -/

theorem exec_identityRecordSend_identify (s : State) (k : Spoke) (hc : s.clocked = true) (h : (s.spk k.val).state = 4) :
    exec (.identityRecordSend k) s = .next (if (s.spk k.val).ownAck then s
      else { s with out := s.out ++ [.identity k.val (ownRecord k.val s)] }) := by
  refine congrArg Host.Outcome.next ?_
  rw [hc, h]
  cases (s.spk k.val).ownAck <;> rfl

/-- The far record is stored and acknowledged (R207). -/
def recordHeld (k : Nat) (b : List Byte) (s : State) : State :=
  (s.modSpk k (fun x => { x with far := b, farValid := true, recIn := true })).emit
    (.linkWord k { ack := true, epoch := s.linkEpoch k })

theorem exec_identityRecordReceive_good (s : State) (k : Spoke) (b : List Byte) (hl : b.length = 64) (hc : s.clocked = true)
    (h : (s.spk k.val).state = 4) (hb : recordOk b = true) :
    exec (.identityRecordReceive k b) s = .next (upIfReady k.val (recordHeld k.val b s)) :=
  (if_pos hl).trans (congrArg Host.Outcome.next (if_pos (by rw [hc, h, hb]; rfl)))

theorem exec_identityRecordReceive_bad (s : State) (k : Spoke) (b : List Byte) (hl : b.length = 64) (hb : recordOk b = false) :
    exec (.identityRecordReceive k b) s = .next s :=
  (if_pos hl).trans (congrArg Host.Outcome.next (if_neg (by rw [hb]; simp)))

theorem exec_identityAckReceive_eq (s : State) (k : Spoke) (hc : s.clocked = true) :
    exec (.identityAckReceive k) s = .next (recordAcked k.val s) :=
  congrArg Host.Outcome.next (if_pos hc)

theorem recordAcked_identify (s : State) (k : Nat) (h : (s.spk k).state = 4) :
    recordAcked k s = upIfReady k (s.modSpk k (fun x => { x with ownAck := true })) := if_pos h

theorem recordAcked_still (s : State) (k : Nat) (h : (s.spk k).state ≠ 4) : recordAcked k s = s := if_neg h

/-! ### Outcomes (R210, R213) -/

/-- A spoke as it takes an outcome, in a module with an identity or without one. -/
def SpokeSt.judged (o : BitVec 4 × BitVec 6) (now : Time) (identity : Bool) (x : SpokeSt) : SpokeSt := { x with
  outcome := o.1, pair := o.2, matchAt := if o.1 = 3 ∧ x.outcome ≠ 3 then some now else x.matchAt
  checked := if x.farValid then some x.identity else none
  key := if x.state = 5 ∧ o.1 = 3 ∧ identity ∧ x.key.step = .idle then { x.key with step := .cred, since := now } else x.key }

theorem setOutcome_frame (k : Nat) (o : BitVec 4 × BitVec 6) (s : State) : setOutcome k o s =
    { s with spokes := (setOutcome k o s).spokes, stations := (setOutcome k o s).stations } := by
  unfold setOutcome
  rw [startKeying_frame]
  rfl

theorem setOutcome_spk (k j : Nat) (o : BitVec 4 × BitVec 6) (s : State) : (setOutcome k o s).spk j =
    if j = k then (s.spk k).judged o s.now s.boot.identity else s.spk j := by
  unfold setOutcome
  split_ifs with h
  · rw [h, startKeying_spk_same]
    simp only [keysNow_iff, State.modSpk_spk_same]
    rfl
  · rw [startKeying_spk_other k j _ h, State.modSpk_spk, if_neg h]

/-- A module without an identity sends no key message. -/
theorem setOutcome_stations (k : Nat) (o : BitVec 4 × BitVec 6) (s : State) (h : s.boot.identity = false) :
    (setOutcome k o s).stations = s.stations := by
  unfold setOutcome
  refine (congrArg State.stations (startKeying_noIdentity k _ ?_)).trans rfl
  exact h

/-- One spoke of a check of the plan. -/
def planStep (keep : BitVec 36) (o : Nat → BitVec 4 × BitVec 6) (s : State) (k : Nat) : State :=
  if keep.getLsbD k then s else setOutcome k (o k) s

theorem applyPlan_eq (keep : BitVec 36) (s : State) :
    applyPlan keep s = (List.range 36).foldl (planStep keep (outcomeOf (rackPlan s) s)) s := by
  unfold applyPlan
  rw [List.foldl_map]
  rfl

section

variable (keep : BitVec 36) (o : Nat → BitVec 4 × BitVec 6)

theorem planStep_frame (s : State) (k : Nat) : planStep keep o s k =
    { s with spokes := (planStep keep o s k).spokes, stations := (planStep keep o s k).stations } := by
  unfold planStep
  split_ifs
  · rfl
  · exact setOutcome_frame k _ s

theorem planFold_frame (l : List Nat) (s : State) : l.foldl (planStep keep o) s =
    { s with spokes := (l.foldl (planStep keep o) s).spokes, stations := (l.foldl (planStep keep o) s).stations } := by
  induction l generalizing s with
  | nil => rfl
  | cons k l ih =>
    rw [List.foldl_cons, ih, planStep_frame]

theorem planFold_stations (l : List Nat) (s : State) (h : s.boot.identity = false) :
    (l.foldl (planStep keep o) s).stations = s.stations := by
  induction l using List.reverseRecOn with
  | nil => rfl
  | append_singleton l k ih =>
    rw [List.foldl_concat, planStep]
    split_ifs
    · exact ih
    · rw [setOutcome_stations k _ _ (by rw [planFold_frame]; exact h), ih]

/-- Of spokes that differ each takes its outcome once, as it stood before the check, and a spoke that is kept takes none. -/
theorem planFold_spk (l : List Nat) (hl : l.Nodup) (s : State) (j : Nat) : (l.foldl (planStep keep o) s).spk j =
    if j ∈ l ∧ keep.getLsbD j = false then (s.spk j).judged (o j) s.now s.boot.identity else s.spk j := by
  induction l using List.reverseRecOn with
  | nil => simp
  | append_singleton l k ih =>
    obtain ⟨hk, hl'⟩ := List.nodup_cons.mp (List.nodup_append_comm.mp hl)
    have hnow : (l.foldl (planStep keep o) s).now = s.now ∧ (l.foldl (planStep keep o) s).boot = s.boot := by
      rw [planFold_frame]
      exact ⟨rfl, rfl⟩
    rw [List.foldl_concat, planStep]
    by_cases hkeep : keep.getLsbD k = true
    · rw [if_pos hkeep, ih hl']
      refine if_congr ?_ rfl rfl
      by_cases hj : j = k <;> simp [hj, hkeep]
    · rw [if_neg hkeep, setOutcome_spk, hnow.1, hnow.2]
      by_cases hj : j = k
      · subst hj
        rw [if_pos rfl, ih hl', if_neg (fun h => hk h.1), if_pos ⟨by simp, by simpa using hkeep⟩]
      · rw [if_neg hj, ih hl']
        simp [hj]

end

/-! ### SPK_SELF and SPK_PLAN_CTL (R204, R213) -/

theorem writeSelf_eq (v : Word) (s : State) : writeSelf v s =
    if s.self.training = false ∧ bit v 31 ∧ (fld v 5 5).toNat ≤ 23 then
      { s with self := { s.self with set := true, rack := fld v 10 8, tray := fld v 5 5 } } else s := by
  refine if_congr ?_ rfl rfl
  simp only [Bool.and_eq_true, Bool.not_eq_true', decide_eq_true_eq]
  tauto

theorem writePlanCtl_early (recheck open_ : Bool) (s : State) (h : s.s7Done = false) : writePlanCtl recheck open_ s = s := by
  rw [writePlanCtl, h, if_neg Bool.false_ne_true]

/-- The plan is closed for a check that keeps the spokes of loaded images (R213). -/
def State.recheckBase (s : State) : State :=
  { s with self := { s.self with planOpen := false, kept := BitVec.ofNat 6 (popcount s.spokesInUse) } }

theorem writePlanCtl_recheck (s : State) (h : s.s7Done = true) :
    writePlanCtl true false s = applyPlan s.spokesInUse s.recheckBase := by
  rw [writePlanCtl, if_pos h]
  rfl

end Sys2Proof.Machine

namespace Sys2Proof.Proofs

open Sys2Proof Sys2Proof.Machine

/-- Settles O40: each record and acknowledgement is one change of the spoke, after which the spoke is UP where both are in, and
a spoke that comes UP changes as `SpokeSt.raised` and may begin to key. -/
theorem identityCommands : Obligations.IdentityCommands := by
  unfold Obligations.IdentityCommands
  refine ⟨exec_identityRecordSend_identify, fun s k b hl hc h hb => ?received, exec_identityRecordReceive_bad,
    fun s k hc h => ?acked, fun s k h => ⟨?_, ?_⟩,
    fun s k => ⟨spokeUp_spk_same k s, fun j hj => spokeUp_spk_other k j s hj, spokeUp_stations k s, spokeUp_frame k s⟩⟩
  case received =>
    rw [exec_identityRecordReceive_good s k b hl hc h hb]
    refine congrArg Host.Outcome.next (upIfReady_of ?_)
    have hspk := State.modSpk_spk_same s k.val (fun x => { x with far := b, farValid := true, recIn := true })
    rw [recordHeld, State.spk, State.emit_spokes, ← State.spk, hspk, Bool.and_true]
  case acked =>
    rw [exec_identityAckReceive_eq s k hc, recordAcked_identify s k.val h]
    refine congrArg Host.Outcome.next (upIfReady_of ?_)
    rw [State.modSpk_spk_same, Bool.true_and]
  · exact congrArg Host.Outcome.next (if_neg (by rw [decide_eq_false h]; simp))
  · exact congrArg Host.Outcome.next ((congrArg (ite _ · s) (recordAcked_still s k.val h)).trans (ite_self s))

/-- Settles O41: a recheck is a fold over the spokes in which each that is not kept takes its outcome once. -/
theorem coordinateCommands : Obligations.CoordinateCommands := by
  unfold Obligations.CoordinateCommands
  refine ⟨fun s p v hh hs => ?_, fun s p hh hs h7 => ⟨?_, ?_, ?recheck⟩, fun s p hh hs h7 => ⟨?_, ?_, ?_⟩,
    fun s p v hh hs => ⟨?_, ?_, ?_, ?_⟩⟩
  · exact congrArg Host.Outcome.next ((stewardWrite_on p _ s hh hs).trans (writeSelf_eq v s))
  · exact congrArg Host.Outcome.next ((stewardWrite_on p _ s hh hs).trans (if_pos h7))
  · exact congrArg Host.Outcome.next ((stewardWrite_on p _ s hh hs).trans (if_pos h7))
  case recheck =>
    have hfold := applyPlan_eq s.spokesInUse s.recheckBase
    have hframe := planFold_frame s.spokesInUse (outcomeOf (rackPlan s.recheckBase) s.recheckBase) (List.range 36) s.recheckBase
    have hspk := planFold_spk s.spokesInUse (outcomeOf (rackPlan s.recheckBase) s.recheckBase) (List.range 36) List.nodup_range
      s.recheckBase
    have hstations := planFold_stations s.spokesInUse (outcomeOf (rackPlan s.recheckBase) s.recheckBase) (List.range 36) s.recheckBase
    rw [← hfold] at hframe hspk hstations
    have hself : (applyPlan s.spokesInUse s.recheckBase).self = s.recheckBase.self := by rw [hframe]
    refine ⟨_, congrArg Host.Outcome.next ((stewardWrite_on p _ s hh hs).trans (writePlanCtl_recheck s h7)), ?_, hself,
      fun k hk => ?_, fun k hk => ?_, hstations, ?_⟩
    · rw [hself]
      rfl
    · rw [hspk, if_neg (by simp [hk])]
      rfl
    · rw [hspk, if_pos ⟨List.mem_range.mpr k.isLt, hk⟩]
      rfl
    · rw [hself]
      exact hframe
  · exact congrArg Host.Outcome.next ((stewardWrite_on p _ s hh hs).trans (writePlanCtl_early _ _ s h7))
  · exact congrArg Host.Outcome.next ((stewardWrite_on p _ s hh hs).trans (writePlanCtl_early _ _ s h7))
  · exact congrArg Host.Outcome.next ((stewardWrite_on p _ s hh hs).trans (writePlanCtl_early _ _ s h7))
  all_goals exact congrArg Host.Outcome.next (stewardWrite_other p _ s hh hs)

end Sys2Proof.Proofs
end

section
/-! SUPPORT. The egress of a spoke (08_spokes_and_routing, R202, R211, R222 to R224, R230, R341): which packet is next, what its departure
or its discard leaves, packets that are late, and link words. -/

namespace Sys2Proof.Machine

/-! ### Lists with one entry that is next -/

/-- The first entry that meets a condition, behind those that do not. -/
theorem findIdx?_append_cons {α : Type} (p : α → Bool) (before rest : List α) (q : α) (hb : ∀ c ∈ before, p c = false)
    (hq : p q = true) : (before ++ q :: rest).findIdx? p = some before.length := by
  have hnone : before.findIdx? p = none := List.findIdx?_eq_none_iff.mpr hb
  simp [List.findIdx?_append, hnone, List.findIdx?_cons, hq]

theorem getElem?_append_cons {α : Type} (before rest : List α) (q : α) : (before ++ q :: rest)[before.length]? = some q := by
  simp

theorem eraseIdx_append_cons {α : Type} (before rest : List α) (q : α) :
    (before ++ q :: rest).eraseIdx before.length = before ++ rest := by
  simp [List.eraseIdx_append_of_length_le]

/-! ### Packets counted for their slice (R353) -/

theorem bumpSlice_frame (slice : BitVec 12) (k dir : Nat) (s : State) : bumpSlice slice k dir s =
    { s with live := (bumpSlice slice k dir s).live } := by
  unfold bumpSlice
  split_ifs <;> rfl

/-- What is counted depends on no spoke and on nothing that has gone out. -/
theorem bumpSlice_with (slice : BitVec 12) (k dir : Nat) (s : State) (spokes : Sparse SpokeSt) (out : List Out) :
    bumpSlice slice k dir { s with spokes := spokes, out := out } =
      { bumpSlice slice k dir s with spokes := spokes, out := out } := by
  have hconf : State.confSlice { s with spokes := spokes, out := out } slice = s.confSlice slice := rfl
  unfold bumpSlice
  rw [hconf]
  split_ifs <;> rfl

/-- The counters after it depend on the counters, the allotments and the images. -/
theorem bumpSlice_live_congr (slice : BitVec 12) (k dir : Nat) {s t : State} (hl : t.live = s.live) (ha : t.allots = s.allots)
    (hi : t.images = s.images) : (bumpSlice slice k dir t).live = (bumpSlice slice k dir s).live := by
  have hconf : t.confSlice slice = s.confSlice slice := by
    unfold State.confSlice State.image
    rw [ha, hi]
  unfold bumpSlice
  rw [hconf]
  split_ifs
  · exact congrArg (fun l => smod 0 l (cSlice slice k dir) (fun v => satAdd v 1)) hl
  · exact hl

/-! ### Credits that return (R222) -/

theorem creditOf_congr {s t : State} (q : Queued) (h : t.spokes = s.spokes) : t.creditOf q = s.creditOf q := by
  unfold State.creditOf State.linkEpoch State.spk
  rw [h]

theorem giveBack_of {s : State} {q : Queued} {c : Option Out} (h : s.creditOf q = c) :
    giveBack q s = { s with out := s.out ++ c.toList } := by
  rw [giveBack_eq, h]

/-! ### What a spoke's queues do not change -/

/-- What the sender of a spoke looks at beside its queues: state, outcome, keys and the far end. -/
def SpokeSt.linkFace (x : SpokeSt) := (x.state, x.keyed, x.key, x.far, x.outcome, x.matchAt)

section

variable (s : State) (k : Nat) (f : SpokeSt → SpokeSt) (hf : (f (s.spk k)).linkFace = (s.spk k).linkFace)

include hf

theorem modSpk_linkFace (j : Nat) : ((s.modSpk k f).spk j).linkFace = (s.spk j).linkFace := by
  rw [State.modSpk_spk]
  split_ifs with h
  · rw [hf, h]
  · rfl

theorem modSpk_creditOf (q : Queued) : (s.modSpk k f).creditOf q = s.creditOf q := by
  unfold State.creditOf State.linkEpoch
  cases q.back with
  | none => rfl
  | some b =>
    have hface := modSpk_linkFace s k f hf b.1
    simp only [SpokeSt.linkFace, Prod.mk.injEq] at hface
    obtain ⟨hstate, hkeyed, hkey, -⟩ := hface
    simp only [Option.bind_some, hstate, hkeyed, hkey]

theorem modSpk_usable (p : Packet) : usable k p (s.modSpk k f) = usable k p s := by
  have hface := modSpk_linkFace s k f hf k
  simp only [SpokeSt.linkFace, Prod.mk.injEq] at hface
  obtain ⟨hstate, hkeyed, -, -, houtcome, hmatch⟩ := hface
  unfold usable State.matched
  rw [hstate, hkeyed, houtcome, hmatch]
  rfl

theorem modSpk_sealPacket (p : Packet) : sealPacket k (s.modSpk k f) p = sealPacket k s p := by
  have hface := modSpk_linkFace s k f hf k
  simp only [SpokeSt.linkFace, Prod.mk.injEq] at hface
  obtain ⟨-, hkeyed, hkey, hfar, -⟩ := hface
  have hlo : (s.modSpk k f).isLo k = s.isLo k := by
    unfold State.isLo SpokeSt.farCoord SpokeSt.farSpoke
    rw [hfar]
    rfl
  simp only [sealPacket, State.sendDir, hkeyed, hkey, hlo]

end

/-! ### Departure and discard (R211, R224, R230, R232) -/

/-- What the departure of a packet leaves of its spoke: what left last, the count under the key, and the credit of a control packet. -/
def SpokeSt.departed (q : Queued) (x : SpokeSt) : SpokeSt :=
  let x := { x with lastCtl := decide (q.pkt.cls = 2), key := if x.keyed then { x.key with txCount := x.key.txCount + 1 } else x.key }
  if q.pkt.cls = 2 then x.spend q.pkt else x

theorem spend_eq (x : SpokeSt) (p : Packet) : x.spend p = { x with
    cred0 := if p.hops = 0 then x.cred0 - 1 else x.cred0
    cred1 := if p.hops = 1 then x.cred1 - 1 else x.cred1
    cred2 := if 2 ≤ p.hops.toNat then x.cred2 - 1 else x.cred2 } := by
  simp only [SpokeSt.spend, BitVec.toNat_eq]
  rcases p.hops.toNat with _ | _ | n <;> rfl

theorem departed_data (q : Queued) (x : SpokeSt) (h : q.pkt.cls = 1) : x.departed q = { x with
    lastCtl := false, key := if x.keyed then { x.key with txCount := x.key.txCount + 1 } else x.key } := by
  unfold SpokeSt.departed
  rw [h]
  rfl

theorem departed_ctl (q : Queued) (x : SpokeSt) (h : q.pkt.cls = 2) : x.departed q = { x with
    lastCtl := true, key := if x.keyed then { x.key with txCount := x.key.txCount + 1 } else x.key
    cred0 := if q.pkt.hops = 0 then x.cred0 - 1 else x.cred0
    cred1 := if q.pkt.hops = 1 then x.cred1 - 1 else x.cred1
    cred2 := if 2 ≤ q.pkt.hops.toNat then x.cred2 - 1 else x.cred2 } := by
  unfold SpokeSt.departed
  rw [if_pos h, spend_eq, decide_eq_true h]

/-- The departure changes neither the state nor the key epoch of any spoke. -/
theorem departed_creditOf (k : Nat) (q r : Queued) (s : State) : (s.modSpk k (·.departed q)).creditOf r = s.creditOf r := by
  have hsame : ∀ x : SpokeSt, (x.departed q).state = x.state ∧ (x.departed q).keyed = x.keyed ∧
      (x.departed q).key.txEpoch = x.key.txEpoch := by
    intro x
    unfold SpokeSt.departed
    simp only [spend_eq]
    cases x.keyed <;> split_ifs <;> exact ⟨rfl, rfl, rfl⟩
  unfold State.creditOf State.linkEpoch
  cases r.back with
  | none => rfl
  | some b =>
    obtain ⟨hstate, hkeyed, hepoch⟩ := hsame (s.spk k)
    by_cases hb : b.1 = k <;> simp [State.modSpk_spk, hb, hstate, hkeyed, hepoch]

theorem depart_eq (k : Nat) (q : Queued) (s : State) : depart k q s = { s with
    spokes := (s.modSpk k (·.departed q)).spokes
    live := (bumpSlice q.pkt.slice k 0 (s.bump (cSpk k 7) 1)).live
    out := s.out ++ .packet k (sealPacket k s q.pkt) :: (s.creditOf q).toList } := by
  have hsent : depart k q s = giveBack q (bumpSlice q.pkt.slice k 0 { s.bump (cSpk k 7) 1 with
      spokes := (s.modSpk k (·.departed q)).spokes, out := s.out ++ [.packet k (sealPacket k s q.pkt)] }) := rfl
  rw [hsent, bumpSlice_with]
  refine (giveBack_of (c := s.creditOf q) ?_).trans ?_
  · exact (creditOf_congr q rfl).trans (departed_creditOf k q q s)
  · rw [bumpSlice_frame, List.append_assoc]
    rfl

theorem dropAt_eq (k : Nat) (q : Queued) (s : State) : dropAt k q s =
    { s with live := (s.bump (cSpk k 2) 1).live, out := s.out ++ (s.creditOf q).toList } := by
  rw [dropAt, giveBack_eq]
  rfl

/-- What the sender does with the packet that is next: it leaves, or is discarded. -/
def sendOrDrop (k : Nat) (q : Queued) (s : State) : State := if usable k q.pkt s then depart k q s else dropAt k q s

/-- A packet that has been taken off its queue by f leaves. -/
structure Departs (k : Nat) (q : Queued) (f : SpokeSt → SpokeSt) (s t : State) : Prop where
  out : t.out = s.out ++ .packet k (sealPacket k s q.pkt) :: (s.creditOf q).toList
  spk : t.spk k = (f (s.spk k)).departed q
  live : t.live = (bumpSlice q.pkt.slice k 0 (s.bump (cSpk k 7) 1)).live
  others : ∀ j, j ≠ k → t.spk j = s.spk j
  frame : t = { s with spokes := t.spokes, live := t.live, out := t.out }

/-- A packet that has been taken off its queue by f is discarded. -/
structure Drops (k : Nat) (q : Queued) (f : SpokeSt → SpokeSt) (s t : State) : Prop where
  out : t.out = s.out ++ (s.creditOf q).toList
  spk : t.spk k = f (s.spk k)
  live : t.live = (s.bump (cSpk k 2) 1).live
  others : ∀ j, j ≠ k → t.spk j = s.spk j
  frame : t = { s with spokes := t.spokes, live := t.live, out := t.out }

section

variable (s : State) (k : Nat) (q : Queued) (f : SpokeSt → SpokeSt) (hf : (f (s.spk k)).linkFace = (s.spk k).linkFace)

include hf

theorem sendOrDrop_usable (hu : usable k q.pkt s = true) : Departs k q f s (sendOrDrop k q (s.modSpk k f)) := by
  have hsend : sendOrDrop k q (s.modSpk k f) = { s with
      spokes := ((s.modSpk k f).modSpk k (·.departed q)).spokes
      live := (bumpSlice q.pkt.slice k 0 (s.bump (cSpk k 7) 1)).live
      out := s.out ++ .packet k (sealPacket k s q.pkt) :: (s.creditOf q).toList } := by
    have hlive : (bumpSlice q.pkt.slice k 0 ((s.modSpk k f).bump (cSpk k 7) 1)).live =
        (bumpSlice q.pkt.slice k 0 (s.bump (cSpk k 7) 1)).live := bumpSlice_live_congr _ _ _ rfl rfl rfl
    rw [sendOrDrop, modSpk_usable s k f hf, if_pos hu, depart_eq, modSpk_sealPacket s k f hf, modSpk_creditOf s k f hf, hlive]
    rfl
  have hspk : ∀ j, (sendOrDrop k q (s.modSpk k f)).spk j = ((s.modSpk k f).modSpk k (·.departed q)).spk j := fun j =>
    congrArg (·.spk j) hsend
  refine ⟨congrArg State.out hsend, (hspk k).trans ?_, (congrArg State.live hsend).trans rfl, fun j hj => (hspk j).trans ?_, ?_⟩
  · rw [State.modSpk_spk_same, State.modSpk_spk_same]
  · rw [State.modSpk_spk, if_neg hj, State.modSpk_spk, if_neg hj]
  · rw [hsend]

theorem sendOrDrop_unusable (hu : usable k q.pkt s = false) : Drops k q f s (sendOrDrop k q (s.modSpk k f)) := by
  have hno : ¬usable k q.pkt s = true := by simp [hu]
  have hsend : sendOrDrop k q (s.modSpk k f) = { s with
      spokes := (s.modSpk k f).spokes, live := (s.bump (cSpk k 2) 1).live, out := s.out ++ (s.creditOf q).toList } := by
    rw [sendOrDrop, modSpk_usable s k f hf, if_neg hno, dropAt_eq, modSpk_creditOf s k f hf]
    rfl
  have hspk : ∀ j, (sendOrDrop k q (s.modSpk k f)).spk j = (s.modSpk k f).spk j := fun j => congrArg (·.spk j) hsend
  refine ⟨congrArg State.out hsend, (hspk k).trans ?_, (congrArg State.live hsend).trans rfl, fun j hj => (hspk j).trans ?_, ?_⟩
  · rw [State.modSpk_spk_same]
  · rw [State.modSpk_spk, if_neg hj]
  · rw [hsend]

end

/-! ### The packet that is next (R222, R224) -/

/-- A control packet that may leave and has no credit to leave with. -/
def State.blocked (s : State) (k : Nat) (q : Queued) : Prop := usable k q.pkt s = true ∧ (s.spk k).hasCredit q.pkt = false

theorem nextCtl_none (s : State) (k : Nat) (h : ∀ c ∈ (s.spk k).ctl, s.blocked k c) : nextCtl k s = none := by
  refine List.findIdx?_eq_none_iff.mpr fun c hc => ?_
  obtain ⟨husable, hcredit⟩ := h c hc
  simp [husable, hcredit]

theorem nextCtl_some (s : State) (k : Nat) (q : Queued) (before rest : List Queued) (hctl : (s.spk k).ctl = before ++ q :: rest)
    (hb : ∀ c ∈ before, s.blocked k c) (hq : usable k q.pkt s = true → (s.spk k).hasCredit q.pkt = true) :
    nextCtl k s = some before.length := by
  rw [nextCtl, hctl]
  refine findIdx?_append_cons _ before rest q (fun c hc => ?_) ?_
  · obtain ⟨husable, hcredit⟩ := hb c hc
    simp [husable, hcredit]
  · cases hu : usable k q.pkt s
    · rfl
    · simp [hq hu]

section

variable (s : State) (k : Spoke) (hc : s.clocked = true) (he : epochDue (s.spk k.val) = false)

include hc he

theorem exec_packetSend_data (q : Queued) (rest : List Queued)
    (h : (s.spk k.val).lastCtl = true ∨ ∀ c ∈ (s.spk k.val).ctl, s.blocked k.val c) (hd : (s.spk k.val).data = q :: rest) :
    exec (.packetSend k) s = .next (sendOrDrop k.val q (s.modSpk k.val (fun x => { x with data := rest }))) := by
  rw [exec, execPacketSend]
  simp only [hc, he, hd, Bool.not_false, Bool.and_self, if_true]
  cases hn : nextCtl k.val s with
  | none => rfl
  | some i =>
    have hlast : (s.spk k.val).lastCtl = true := h.resolve_right fun hb => by
      rw [nextCtl_none s k.val hb] at hn
      cases hn
    simp only [hlast, if_true]
    rfl

theorem exec_packetSend_ctl (q : Queued) (before rest : List Queued) (hctl : (s.spk k.val).ctl = before ++ q :: rest)
    (hb : ∀ c ∈ before, s.blocked k.val c) (hq : usable k.val q.pkt s = true → (s.spk k.val).hasCredit q.pkt = true)
    (h : (s.spk k.val).data = [] ∨ (s.spk k.val).lastCtl = false) :
    exec (.packetSend k) s = .next (sendOrDrop k.val q (s.modSpk k.val (fun x => { x with ctl := before ++ rest }))) := by
  have hrest : s.modSpk k.val (fun x => { x with ctl := x.ctl.eraseIdx before.length }) =
      s.modSpk k.val (fun x => { x with ctl := before ++ rest }) :=
    modSpk_congr s k.val _ _ (by rw [hctl, eraseIdx_append_cons])
  rw [exec, execPacketSend, nextCtl_some s k.val q before rest hctl hb hq, ← hrest]
  simp only [hc, he, hctl, Bool.not_false, Bool.and_self, if_true]
  cases hd : (s.spk k.val).data with
  | nil =>
    simp only [getElem?_append_cons]
    rfl
  | cons d t =>
    have hlast : (s.spk k.val).lastCtl = false := h.resolve_left (by simp [hd])
    simp only [hlast, getElem?_append_cons, Bool.false_eq_true, if_false]
    rfl

end

theorem exec_packetSend_still (s : State) (k : Spoke) (h : epochDue (s.spk k.val) = true ∨ ((s.spk k.val).data = [] ∧
    ∀ c ∈ (s.spk k.val).ctl, s.blocked k.val c)) : exec (.packetSend k) s = .next s := by
  rcases h with h | ⟨hd, hb⟩
  · exact congrArg Host.Outcome.next (if_neg (by simp [h]))
  · rw [exec, execPacketSend, nextCtl_none s k.val hb]
    simp only [hd, ite_self]

/-! ### Late packets (R230) -/

theorem markLate_none (now : Time) (l : List Queued) (h : ∀ q ∈ l, q.late = true ∨ now.toNat ≤ q.since.toNat + 64) :
    markLate now l = none := by
  induction l with
  | nil => rfl
  | cons q l ih =>
    have hq : ¬(q.late = false ∧ q.since.toNat + 64 < now.toNat) := by
      rcases h q (by simp) with hlate | hsoon
      · simp [hlate]
      · omega
    rw [markLate, if_neg hq, ih fun r hr => h r (by simp [hr])]
    rfl

theorem markLate_head (now : Time) (q : Queued) (l : List Queued) (hl : q.late = false) (hs : q.since.toNat + 64 < now.toNat) :
    markLate now (q :: l) = some ({ q with late := true } :: l) :=
  if_pos ⟨hl, hs⟩

/-! ### Link words (R202, R222) -/

theorem exec_linkWordReceive_identify (s : State) (k : Spoke) (r0 r1 r2 : BitVec 5) (ep : Bool)
    (h : (s.spk k.val).state = 4) : exec (.linkWordReceive k r0 r1 r2 true ep) s = exec (.identityAckReceive k) s := by
  have hup : (s.spk k.val).state ≠ 5 := by simp [h]
  change execLinkWordReceive k r0 r1 r2 true ep s = execIdentityAckReceive k s
  simp only [execLinkWordReceive, execIdentityAckReceive, if_neg hup, if_true]

theorem exec_linkWordReceive_up (s : State) (k : Spoke) (r0 r1 r2 : BitVec 5) (ack ep : Bool) (hc : s.clocked = true)
    (h : (s.spk k.val).state = 5) : exec (.linkWordReceive k r0 r1 r2 ack ep) s =
      .next (s.modSpk k.val (fun x => { x.credit r0 r1 r2 with farEpoch := ep })) := by
  have hstill : ((s.modSpk k.val (fun x => { x.credit r0 r1 r2 with farEpoch := ep })).spk k.val).state ≠ 4 := by
    rw [State.modSpk_spk_same]
    exact fun h4 => absurd (h.symm.trans h4) (by decide)
  rw [exec, execLinkWordReceive]
  simp only [hc, h, if_true, recordAcked_still _ _ hstill, ite_self]

end Sys2Proof.Machine

namespace Sys2Proof.Proofs

open Sys2Proof Sys2Proof.Machine

/-- Settles O42: the packet that is next is taken off its queue, which changes nothing that its departure or discard looks at. -/
theorem egressCommands : Obligations.EgressCommands := by
  unfold Obligations.EgressCommands
  refine ⟨fun s k q rest hc he h hd hcls => ?data, fun s k q before rest hc he hctl hb h hu hcredit hcls => ?sent,
    fun s k q before rest hc he hctl hb h hu => ?dropped, exec_packetSend_still, fun s k q rest ht hctl hd hl hs => ?late,
    fun s k h => ?onTime, fun s k r0 r1 r2 ep _ h => exec_linkWordReceive_identify s k r0 r1 r2 ep h, exec_linkWordReceive_up⟩
  case data =>
    refine ⟨_, exec_packetSend_data s k hc he q rest h hd, ?_⟩
    cases hu : usable k.val q.pkt s with
    | true =>
      obtain ⟨hout, hspk, hlive, hothers, hframe⟩ := sendOrDrop_usable s k.val q (fun x => { x with data := rest }) rfl hu
      exact ⟨hothers, hframe, hout, hspk.trans (departed_data q _ hcls), hlive⟩
    | false =>
      obtain ⟨hout, hspk, hlive, hothers, hframe⟩ := sendOrDrop_unusable s k.val q (fun x => { x with data := rest }) rfl hu
      exact ⟨hothers, hframe, hout, hspk, hlive⟩
  case sent =>
    obtain ⟨hout, hspk, hlive, hothers, hframe⟩ := sendOrDrop_usable s k.val q (fun x => { x with ctl := before ++ rest }) rfl hu
    exact ⟨_, exec_packetSend_ctl s k hc he q before rest hctl hb (fun _ => hcredit) h, hout,
      hspk.trans (departed_ctl q _ hcls), hlive, hothers, hframe⟩
  case dropped =>
    obtain ⟨hout, hspk, hlive, hothers, hframe⟩ := sendOrDrop_unusable s k.val q (fun x => { x with ctl := before ++ rest }) rfl hu
    exact ⟨_, exec_packetSend_ctl s k hc he q before rest hctl hb (by simp [hu]) h, hout, hspk, hlive, hothers, hframe⟩
  case late =>
    rw [exec, execEgressLate, hctl, hd, markLate_head s.now q rest hl hs]
    simp only [ht, if_true]
    rfl
  case onTime =>
    rw [exec, execEgressLate, markLate_none _ _ fun q hq => h q (by simp [hq]), markLate_none _ _ fun q hq => h q (by simp [hq])]
    exact congrArg Host.Outcome.next (ite_self s)

end Sys2Proof.Proofs
end

section
/-! SUPPORT. Packets that come in by a spoke (08_spokes_and_routing, R225, R228, R229, R232, R233): what a packet may change, the discard
with its cause, the packet that waits in the ingress FIFO, and the packet whose tag fails. -/

namespace Sys2Proof.Machine

/-! ### What a packet may change on its way in -/

/-- What a packet that comes in by spoke k has made of a state: the spoke is x and the live counters are l; nothing else has changed. -/
structure SpokeChange (k : Nat) (s : State) (x : SpokeSt) (l : Sparse Word) (t : State) : Prop where
  spk : t.spk k = x
  live : t.live = l
  others : ∀ j, j ≠ k → t.spk j = s.spk j
  frame : t = { s with spokes := t.spokes, live := t.live }

theorem SpokeChange.parts {k : Nat} {s t : State} {x : SpokeSt} {l : Sparse Word} (h : SpokeChange k s x l t) :
    (∀ j, j ≠ k → t.spk j = s.spk j) ∧ t = { s with spokes := t.spokes, live := t.live } ∧ t.spk k = x ∧ t.live = l :=
  ⟨h.others, h.frame, h.spk, h.live⟩

theorem SpokeChange.refl (k : Nat) (s : State) : SpokeChange k s (s.spk k) s.live s := ⟨rfl, rfl, fun _ _ => rfl, rfl⟩

section

variable {k : Nat} {s t : State} {x : SpokeSt} {l : Sparse Word} (h : SpokeChange k s x l t)

include h

theorem SpokeChange.modSpk (f : SpokeSt → SpokeSt) : SpokeChange k s (f x) l (t.modSpk k f) := by
  obtain ⟨hspk, hlive, hothers, hframe⟩ := h
  refine ⟨?_, hlive, fun j hj => ?_, ?_⟩
  · rw [State.modSpk_spk_same, hspk]
  · rw [State.modSpk_spk, if_neg hj, hothers j hj]
  · exact congrArg (fun u : State => { u with spokes := (t.modSpk k f).spokes }) hframe

theorem SpokeChange.bump (c n : Nat) : SpokeChange k s x ({ s with live := l }.bump c n).live (t.bump c n) := by
  obtain ⟨hspk, hlive, hothers, hframe⟩ := h
  subst hlive
  exact ⟨hspk, rfl, hothers, congrArg (fun u : State => { u with live := (t.bump c n).live }) hframe⟩

theorem SpokeChange.bumpSlice (slice : BitVec 12) (i dir : Nat) :
    SpokeChange k s x (bumpSlice slice i dir { s with live := l }).live (bumpSlice slice i dir t) := by
  obtain ⟨hspk, hlive, hothers, hframe⟩ := h
  have hspokes : (Machine.bumpSlice slice i dir t).spokes = t.spokes := by rw [bumpSlice_frame]
  have hread : ∀ j, (Machine.bumpSlice slice i dir t).spk j = t.spk j := fun j =>
    congrArg (sget ({} : SpokeSt) · j) hspokes
  refine ⟨(hread k).trans hspk, ?_, fun j hj => (hread j).trans (hothers j hj), ?_⟩
  · exact bumpSlice_live_congr slice i dir hlive (by rw [hframe]) (by rw [hframe])
  · rw [hspokes]
    exact (bumpSlice_frame slice i dir t).trans
      (congrArg (fun u : State => { u with live := (Machine.bumpSlice slice i dir t).live }) hframe)

/-! ### What the receive checks look at -/

theorem SpokeChange.cad : t.cad = s.cad := by rw [h.frame]

theorem SpokeChange.now : t.now = s.now := congrArg (fun c : Cad => c.lap ++ c.tick) h.cad

theorem SpokeChange.matched (ho : x.outcome = (s.spk k).outcome) (hm : x.matchAt = (s.spk k).matchAt) :
    t.matched k = s.matched k := by
  unfold State.matched
  rw [h.spk, h.now, ho, hm]

theorem SpokeChange.isHere (p : Packet) : t.isHere p = s.isHere p := by
  have hself : t.self = s.self := by rw [h.frame]
  unfold State.isHere State.ownCoord
  rw [hself]

theorem SpokeChange.deliverCause (p : Packet) : deliverCause t p = deliverCause s p := by
  have hallots : t.allots = s.allots := by rw [h.frame]
  have himages : t.images = s.images := by rw [h.frame]
  have htrns : t.trns = s.trns := by rw [h.frame]
  unfold Machine.deliverCause deliverFails State.sliceAllot State.buffer State.image State.trn
  rw [hallots, himages, htrns]

theorem SpokeChange.route (g : Nat) (v : Bool) (slice : BitVec 12) (dst : BitVec 15) :
    t.route g v slice dst = s.route g v slice dst := by
  have hrte : t.rte = s.rte := by rw [h.frame]
  unfold State.route
  rw [hrte]

end

/-! ### Discards (R228, R229) -/

/-- What a discard leaves of its spoke. -/
def SpokeSt.discarded (tick : BitVec 16) (p : Packet) (cause : Nat) (header : Bool) (x : SpokeSt) : SpokeSt := { x with
  rxCause := BitVec.ofNat 4 cause, rxTick := tick, rxSlice := if header then 0 else p.slice, rxSrc := if header then 0 else p.src
  marks := x.marks.spoil header p }

/-- The counter that a discard raises: SPK_CNT 1 for an error that the decoder cannot correct, and 3 for any other cause. -/
def discardCounter (cause : Nat) : Nat := if cause = 2 then 1 else 3

theorem SpokeChange.discard {k : Nat} {s t : State} {x : SpokeSt} {l : Sparse Word} (h : SpokeChange k s x l t) (p : Packet)
    (cause : Nat) (header : Bool) : SpokeChange k s (x.discarded s.cad.tick p cause header)
      ({ s with live := l }.bump (cSpk k (discardCounter cause)) 1).live (discard k p cause header t) := by
  have hmod := h.modSpk (·.discarded t.cad.tick p cause header)
  rw [h.cad] at hmod
  have hdiscard : Machine.discard k p cause header t =
      (t.modSpk k (·.discarded s.cad.tick p cause header)).bump (cSpk k (discardCounter cause)) 1 := by
    rw [← h.cad]
    unfold Machine.discard discardCounter
    by_cases hc : cause = 2
    · rw [if_pos hc, if_pos hc]
      rfl
    · rw [if_neg hc, if_neg hc]
      rfl
  rw [hdiscard]
  exact hmod.bump _ 1

/-- A data packet occupies no control buffer. -/
theorem freeNow_data (k : Nat) (p : Packet) (s : State) (h : p.cls = 1) : freeNow k p s = s := by
  rw [freeNow, h]
  rfl

theorem deliverFails_ne_two (s : State) (n : Nat) (a : AllotSt) (p : Packet) (c : Nat) (h : c ∈ deliverFails s n a p) : c ≠ 2 := by
  simp only [deliverFails, List.mem_map, List.mem_filter, List.mem_cons, List.not_mem_nil, or_false] at h
  obtain ⟨e, ⟨rfl | rfl | rfl | rfl, -⟩, rfl⟩ := h <;> simp

/-- No check of a delivering module fails with the cause of an uncorrectable packet. -/
theorem deliverCause_ne_two (s : State) (p : Packet) (c : Nat) (h : deliverCause s p = some c) : c ≠ 2 := by
  unfold deliverCause at h
  split at h
  · cases h
  · split at h
    · cases h
      decide
    · exact deliverFails_ne_two s _ _ p c (List.mem_of_mem_head? h)

/-! ### The order of the checks (Table 8-12) -/

/-- What the checks make of a packet that has been counted, opened or not. -/
def receiveOpened (k : Nat) (pkt : Packet) (rx : RxState) (opened : Option Packet) (t : State) : State :=
  if !rx.whole then discard k pkt 1 (!rx.headerWhole || rx.headerUe) t
  else if rx.headerUe || rx.payloadUe then freeNow k pkt (discard k pkt 2 (!rx.headerWhole || rx.headerUe) t)
  else if !t.matched k then freeNow k pkt (discard k pkt 3 false t)
  else match opened with
    | none => authDiscard k pkt (freeNow k pkt t)
    | some p => acceptPacket k p (t.modSpk k (advanceRx pkt))

/-- The packet is counted under its key, and with the words that the decoder has corrected (R232). -/
def countedIn (k : Nat) (p : Packet) (rx : RxState) (s : State) : State := (s.modSpk k (countRx p)).bump (cSpk k 0) rx.corrected

theorem countedIn_change (k : Nat) (p : Packet) (rx : RxState) (s : State) :
    SpokeChange k s (countRx p (s.spk k)) (s.bump (cSpk k 0) rx.corrected).live (countedIn k p rx s) :=
  ((SpokeChange.refl k s).modSpk (countRx p)).bump _ _

theorem exec_packetReceive_up (s : State) (k : Spoke) (p : Packet) (rx : RxState) (hc : s.clocked = true)
    (hup : (s.spk k.val).state = 5) : exec (.packetReceive k p rx) s =
      .next (receiveOpened k.val p rx (openPacket k.val s p) (countedIn k.val p rx s)) :=
  congrArg Host.Outcome.next (if_pos (by rw [hc, hup]; rfl))

/-- The count under the key changes nothing else of a spoke. -/
theorem countRx_eq (p : Packet) (x : SpokeSt) : countRx p x = { x with key := (countRx p x).key } := by
  unfold countRx
  split_ifs <;> rfl

/-! ### The packet that is accepted (R225, R229) -/

/-- The increment of a packet under a spoiled mark is withheld, which clears the mark and is counted. -/
def withhold (k : Nat) (p : Packet) (w : Bool) (t : State) : State :=
  if w then (t.modSpk k (fun x => { x with marks := x.marks.cleared p })).bump (cSpk k 6) 1 else t

section

variable {k : Nat} {s t : State} {x : SpokeSt} {l : Sparse Word} (h : SpokeChange k s x l t) (p : Packet)

include h

theorem SpokeChange.withhold (w : Bool) : SpokeChange k s { x with marks := if w then x.marks.cleared p else x.marks }
    (if w then ({ s with live := l }.bump (cSpk k 6) 1).live else l) (withhold k p w t) := by
  cases w with
  | false => exact h
  | true => exact (h.modSpk (fun x => { x with marks := x.marks.cleared p })).bump (cSpk k 6) 1

theorem SpokeChange.intoIngress (hcls : p.cls = 1) (q : Queued) (hq : q.back = none) :
    SpokeChange k s { x with ingress := x.ingress ++ [q] } l (intoIngress k p q t) := by
  have hback : Machine.intoIngress k p q t = t.modSpk k (fun x => { x with ingress := x.ingress ++ [q] }) := by
    obtain ⟨_, _, _, _, _, _, _, back⟩ := q
    cases hq
    rw [Machine.intoIngress, hcls]
    rfl
  rw [hback]
  exact h.modSpk (fun x => { x with ingress := x.ingress ++ [q] })

end

section

variable {k : Nat} {s t : State} {x : SpokeSt} {l : Sparse Word} (h : SpokeChange k s x l t) (p : Packet) (hcls : p.cls = 1)

include h hcls

theorem acceptPacket_header (hb : headerBad (s.isHere p) p = true) : acceptPacket k p t = discard k p 5 true t := by
  simp only [acceptPacket, h.isHere, hb, if_true, freeNow_data _ _ _ hcls]

variable (hb : headerBad (s.isHere p) p = false)

include hb

theorem acceptPacket_full (hfull : 16 ≤ x.ingress.length) : acceptPacket k p t = discard k p 6 false t := by
  simp only [acceptPacket, h.isHere, hb, h.spk, hfull, if_true, Bool.false_eq_true, if_false, freeNow_data _ _ _ hcls]

variable (hroom : ¬16 ≤ x.ingress.length)

include hroom

theorem acceptPacket_hops (hhere : s.isHere p = false) (hhops : p.hops = 2) : acceptPacket k p t = discard k p 7 false t := by
  rw [hhere] at hb
  simp only [acceptPacket, h.isHere, hb, h.spk, hroom, hhere, hhops, Bool.false_eq_true, if_false, Bool.not_false, decide_true,
    Bool.and_self, if_true, freeNow_data _ _ _ hcls]

theorem acceptPacket_refused (hhere : s.isHere p = true) (c : Nat) (hcause : deliverCause s p = some c) :
    acceptPacket k p t = discard k p c false t := by
  rw [hhere] at hb
  simp only [acceptPacket, h.isHere, hb, h.spk, hroom, hhere, h.deliverCause, hcause, Bool.false_eq_true, if_false, Bool.not_true,
    Bool.false_and, if_true, freeNow_data _ _ _ hcls]

/-- A packet for this module waits with its increment, or with the increment withheld under a spoiled mark. -/
theorem acceptPacket_here (hhere : s.isHere p = true) (hcause : deliverCause s p = none) (w : Bool)
    (hw : (p.trnEn && x.marks.hit p) = w) : SpokeChange k s { x with
      marks := if w then x.marks.cleared p else x.marks
      ingress := x.ingress ++ [{ pkt := p, since := s.now, egress := 62, checked := true, withheld := w }] }
      (let u := bumpSlice p.slice k 1 ({ s with live := l }.bump (cSpk k 8) 1)
        if w then u.bump (cSpk k 6) 1 else u).live (acceptPacket k p t) := by
  have hwithheld := ((h.bump (cSpk k 8) 1).bumpSlice p.slice k 1).withhold p w
  rw [hhere] at hb
  have haccept : acceptPacket k p t = intoIngress k p
      { pkt := p, since := (withhold k p w (bumpSlice p.slice k 1 (t.bump (cSpk k 8) 1))).now, egress := 62, checked := true
        withheld := w } (withhold k p w (bumpSlice p.slice k 1 (t.bump (cSpk k 8) 1))) := by
    simp only [acceptPacket, h.isHere, hb, h.spk, hroom, hhere, h.deliverCause, hcause, hcls, hw, Bool.false_eq_true, if_false,
      Bool.not_true, Bool.false_and, if_true, decide_true, Bool.true_and]
    rfl
  rw [haccept, hwithheld.now]
  have hin := hwithheld.intoIngress p hcls { pkt := p, since := s.now, egress := 62, checked := true, withheld := w } rfl
  cases w <;> exact hin

variable (hhere : s.isHere p = false) (hhops : p.hops ≠ 2)

include hhere hhops

omit hcls in
theorem acceptPacket_elsewhere : acceptPacket k p t = forward k p (bumpSlice p.slice k 1 (t.bump (cSpk k 8) 1)) := by
  rw [hhere] at hb
  simp only [acceptPacket, h.isHere, hb, h.spk, hroom, hhere, hhops, Bool.false_eq_true, if_false, decide_false, Bool.and_false]

theorem acceptPacket_forward (e : BitVec 6) (hroute : s.route (k / 18) p.ver p.slice (modNum p.dst) = some e) : SpokeChange k s
      { x with ingress := x.ingress ++ [{ pkt := { p with hops := p.hops + 1 }, since := s.now, egress := e }] }
      (bumpSlice p.slice k 1 ({ s with live := l }.bump (cSpk k 8) 1)).live (acceptPacket k p t) := by
  have hcounted := (h.bump (cSpk k 8) 1).bumpSlice p.slice k 1
  have hforward : acceptPacket k p t = intoIngress k p
      { pkt := { p with hops := p.hops + 1 }, since := s.now, egress := e } (bumpSlice p.slice k 1 (t.bump (cSpk k 8) 1)) := by
    simp only [acceptPacket_elsewhere h p hb hroom hhere hhops, forward, hcounted.route, hroute, hcounted.now]
  rw [hforward]
  exact hcounted.intoIngress p hcls _ rfl

theorem acceptPacket_miss (hroute : s.route (k / 18) p.ver p.slice (modNum p.dst) = none) : SpokeChange k s x
      ((bumpSlice p.slice k 1 ({ s with live := l }.bump (cSpk k 8) 1)).bump (cMiss (k / 18)) 1).live (acceptPacket k p t) := by
  have hcounted := (h.bump (cSpk k 8) 1).bumpSlice p.slice k 1
  have hmiss : acceptPacket k p t = (bumpSlice p.slice k 1 (t.bump (cSpk k 8) 1)).bump (cMiss (k / 18)) 1 := by
    simp only [acceptPacket_elsewhere h p hb hroom hhere hhops, forward, hcounted.route, hroute, freeNow_data _ _ _ hcls]
  rw [hmiss]
  exact hcounted.bump _ 1

end

/-! ### The checks before it (Table 8-12) -/

section

variable (k : Nat) (p : Packet) (rx : RxState) (o : Option Packet) (t : State)

theorem receiveOpened_lost (hw : rx.whole = false) :
    receiveOpened k p rx o t = discard k p 1 (!rx.headerWhole || rx.headerUe) t := by
  simp only [receiveOpened, hw, Bool.not_false, if_true]

variable (hcls : p.cls = 1) (hw : rx.whole = true)

include hcls hw

theorem receiveOpened_uncorrectable (hue : (rx.headerUe || rx.payloadUe) = true) :
    receiveOpened k p rx o t = discard k p 2 (!rx.headerWhole || rx.headerUe) t := by
  simp only [receiveOpened, hw, hue, Bool.not_true, Bool.false_eq_true, if_false, if_true, freeNow_data _ _ _ hcls]

variable (hue : (rx.headerUe || rx.payloadUe) = false)

include hue

theorem receiveOpened_unmatched (hm : t.matched k = false) : receiveOpened k p rx o t = discard k p 3 false t := by
  simp only [receiveOpened, hw, hue, hm, Bool.not_true, Bool.not_false, Bool.false_eq_true, if_false, if_true,
    freeNow_data _ _ _ hcls]

theorem receiveOpened_none (hm : t.matched k = true) : receiveOpened k p rx none t = authDiscard k p t := by
  simp only [receiveOpened, hw, hue, hm, Bool.not_true, Bool.false_eq_true, if_false, freeNow_data _ _ _ hcls]

omit hcls in
theorem receiveOpened_some (hm : t.matched k = true) (q : Packet) :
    receiveOpened k p rx (some q) t = acceptPacket k q (t.modSpk k (advanceRx p)) := by
  simp only [receiveOpened, hw, hue, hm, Bool.not_true, Bool.false_eq_true, if_false]

end

/-- A spoke without a key counts no packet under one, opens each as it is, and has no epoch to advance. -/
theorem unkeyed_packet (s : State) (k : Nat) (p : Packet) (h : (s.spk k).keyed = false) :
    countRx p (s.spk k) = s.spk k ∧ advanceRx p (s.spk k) = s.spk k ∧ openPacket k s p = some p := by
  simp [countRx, advanceRx, openPacket, h]

/-- A packet whose tag fails is discarded, and the spoke stays UP below the 16th of a lap (R233). -/
theorem SpokeChange.authDiscard {k : Nat} {s t : State} {x : SpokeSt} {l : Sparse Word} (h : SpokeChange k s x l t) (p : Packet)
    (hlap : x.authLap ≠ 15) : SpokeChange k s { x.discarded s.cad.tick p 4 true with authLap := x.authLap + 1 }
      (({ s with live := l }.bump (cSpk k 3) 1).bump (cSpk k 5) 1).live (authDiscard k p t) := by
  have hcounted := (h.discard p 4 true).bump (cSpk k 5) 1
  have hn : (((Machine.discard k p 4 true t).bump (cSpk k 5) 1).spk k).authLap + 1 = x.authLap + 1 := by
    rw [hcounted.spk]
    rfl
  have hdiscard : Machine.authDiscard k p t = ((Machine.discard k p 4 true t).bump (cSpk k 5) 1).modSpk k
      (fun y => { y with authLap := x.authLap + 1 }) := by
    unfold Machine.authDiscard
    dsimp only
    rw [hn, if_neg (by omega)]
  rw [hdiscard]
  exact hcounted.modSpk (fun y => { y with authLap := x.authLap + 1 })

end Sys2Proof.Machine
end

section
/-! SUPPORT. The transit rings and the routing switch (08_spokes_and_routing, R218 to R220, R227), and the statement of the fabric. -/

namespace Sys2Proof.Machine

/-! ### A packet on the ring (R219) -/

theorem exec_transitRingHop_moves (s t : State) (g : Gh) (j : Fin 22) (path : List PathNoise) (hc : s.clocked = true)
    (h : ringMove g.val j.val path s = some t) : exec (.transitRingHop g ⟨j, path⟩) s = .next t := by
  rw [exec, execTransitRingHop, if_pos hc, h]

theorem exec_transitRingHop_enters (s : State) (g : Gh) (j : Fin 22) (path : List PathNoise) (hc : s.clocked = true)
    (h : (s.station (22 * g.val + j.val)).ring = []) :
    exec (.transitRingHop g ⟨j, path⟩) s = .next (ringEnter g.val j.val s) := by
  have hnone : ringMove g.val j.val path s = none := by rw [ringMove, h]
  rw [exec, execTransitRingHop, if_pos hc, hnone]

section

variable (s : State) (g j : Nat) (path : List PathNoise) (q : Queued) (rest : List Queued)
  (hring : (s.station (22 * g + j)).ring = q :: rest)

include hring

theorem ringMove_leaves (he : s.exitStation g q = j) : ringMove g j path s =
    some (leaveRing g path q (s.modStation (22 * g + j) (fun x => { x with ring := rest }))) := by
  simp only [ringMove, hring, he, if_true]

theorem ringMove_on (he : s.exitStation g q ≠ j) (hroom : (s.station (22 * g + (j + 1) % 22)).ring.length < 4) :
    ringMove g j path s = some ((s.modStation (22 * g + j) (fun x => { x with ring := rest })).modStation (22 * g + (j + 1) % 22)
      (fun x => { x with ring := x.ring ++ [q] })) := by
  have hon : s.comesOn g j = true := by simp [State.comesOn, hring, he, hroom]
  simp only [ringMove, hring, if_neg he, hon, if_true]

end

/-! ### A packet that enters (R219, R220) -/

section

variable (s : State) (g j : Nat) (hring : (s.station (22 * g + j)).ring = [])

include hring

/-- At an empty station the first packet that is not queued for the next tick can enter, where none comes around the ring. -/
theorem enterable_empty : s.enterable g j = if s.comesOn g ((j + 21) % 22) then none else
    (s.entries g j).findIdx? (fun q => decide (q.since ≠ later 1 s.now)) := by
  unfold State.enterable
  rw [hring]
  cases s.comesOn g ((j + 21) % 22) <;> rfl

theorem enterable_none (h : s.comesOn g ((j + 21) % 22) = true ∨ ∀ q ∈ s.entries g j, q.since = later 1 s.now) :
    s.enterable g j = none := by
  rw [enterable_empty s g j hring]
  rcases h with h | h
  · rw [if_pos h]
  · split_ifs
    · rfl
    · exact List.findIdx?_eq_none_iff.mpr fun q hq => by simp [h q hq]

theorem enterable_some (early rest : List Queued) (q : Queued) (hon : s.comesOn g ((j + 21) % 22) = false)
    (hmine : s.entries g j = early ++ q :: rest) (he : ∀ e ∈ early, e.since = later 1 s.now) (hq : q.since ≠ later 1 s.now) :
    s.enterable g j = some early.length := by
  rw [enterable_empty s g j hring, hon, hmine]
  exact findIdx?_append_cons _ early rest q (fun e h => by simp [he e h]) (by simp [hq])

end

/-- A lower station that has not been served in the cycle can take a packet in. -/
def State.lowerEnters (s : State) (g j : Nat) : Prop := ∃ k, k < j ∧
  ¬((sget (0, 22) s.ringAt g).1 = s.now ∧ (sget (0, 22) s.ringAt g).2 < j ∧ k ≤ (sget (0, 22) s.ringAt g).2) ∧
  (s.enterable g k).isSome = true

theorem any_before_iff (s : State) (g j : Nat) :
    (s.before g j).any (fun k => (s.enterable g k).isSome) = true ↔ s.lowerEnters g j := by
  simp only [State.before, State.lowerEnters, List.any_eq_true, List.mem_filter, List.mem_range, Bool.not_eq_true',
    Bool.and_eq_false_iff, decide_eq_false_iff_not, not_and_or, and_assoc, or_assoc]

theorem ringEnter_still (s : State) (g j : Nat) (h : s.enterable g j = none ∨ s.lowerEnters g j) : ringEnter g j s = s := by
  unfold ringEnter
  cases he : s.enterable g j with
  | none => rfl
  | some i =>
    have hlower : s.lowerEnters g j := h.resolve_left (by simp [he])
    exact if_pos ((any_before_iff s g j).mpr hlower)

/-- A packet is taken off the ingress FIFO of a spoke, or off a station's own entries. -/
def takeEntry (g j i : Nat) (s : State) : State :=
  if j < 18 then s.modSpk (18 * g + j) (fun x => { x with ingress := x.ingress.eraseIdx i })
  else s.modStation (22 * g + j) (fun x => { x with entry := x.entry.eraseIdx i })

theorem takeEntry_frame (g j i : Nat) (s : State) : takeEntry g j i s =
    { s with stations := (takeEntry g j i s).stations, spokes := (takeEntry g j i s).spokes } := by
  unfold takeEntry
  split_ifs <;> rfl

theorem takeEntry_station (g j i n : Nat) (s : State) : (takeEntry g j i s).station n =
    if ¬j < 18 ∧ n = 22 * g + j then { s.station n with entry := (s.entries g j).eraseIdx i } else s.station n := by
  unfold takeEntry State.entries
  by_cases hj : j < 18
  · rw [if_pos hj, if_neg (fun h => h.1 hj)]
    rfl
  · rw [if_neg hj, if_neg hj, State.modStation_station]
    by_cases hn : n = 22 * g + j
    · rw [if_pos hn, if_pos ⟨hj, hn⟩, hn]
    · rw [if_neg hn, if_neg (fun h => hn h.2)]

theorem takeEntry_spk (g j i k : Nat) (s : State) : (takeEntry g j i s).spk k =
    if j < 18 ∧ k = 18 * g + j then { s.spk k with ingress := (s.entries g j).eraseIdx i } else s.spk k := by
  unfold takeEntry State.entries
  by_cases hj : j < 18
  · rw [if_pos hj, if_pos hj, State.modSpk_spk]
    by_cases hk : k = 18 * g + j
    · rw [if_pos hk, if_pos ⟨hj, hk⟩, hk]
    · rw [if_neg hk, if_neg (fun h => hk h.2)]
  · rw [if_neg hj, if_neg (fun h => hj h.1)]
    rfl

theorem ringEnter_enters (s : State) (g j : Nat) (early rest : List Queued) (q : Queued) (he : s.enterable g j = some early.length)
    (hl : ¬s.lowerEnters g j) (hmine : s.entries g j = early ++ q :: rest) : ringEnter g j s =
      { (takeEntry g j early.length s).modStation (22 * g + j) (fun x => { x with ring := x.ring ++ [q] }) with
        ringAt := sput (0, 22) s.ringAt g (s.now, j) } := by
  have hno := mt (any_before_iff s g j).mp hl
  unfold ringEnter
  simp only [he, hmine, getElem?_append_cons, if_neg hno]
  unfold takeEntry
  split_ifs <;> rfl

/-- What the entry of a packet at an empty station leaves. -/
structure Entered (s : State) (g j : Nat) (q : Queued) (left : List Queued) (t : State) : Prop where
  served : sget (0, 22) t.ringAt g = (s.now, j)
  station : t.station (22 * g + j) = if j < 18 then { s.station (22 * g + j) with ring := [q] } else { ring := [q], entry := left }
  spk : ∀ k, t.spk k = if j < 18 ∧ k = 18 * g + j then { s.spk k with ingress := left } else s.spk k
  others : ∀ i, i ≠ 22 * g + j → t.station i = s.station i
  frame : t = { s with stations := t.stations, spokes := t.spokes, ringAt := t.ringAt }

theorem ringEnter_entered (s : State) (g j : Nat) (early rest : List Queued) (q : Queued)
    (hring : (s.station (22 * g + j)).ring = []) (he : s.enterable g j = some early.length) (hl : ¬s.lowerEnters g j)
    (hmine : s.entries g j = early ++ q :: rest) : Entered s g j q (early ++ rest) (ringEnter g j s) := by
  have henter := ringEnter_enters s g j early rest q he hl hmine
  have hstation : ∀ i, (ringEnter g j s).station i =
      ((takeEntry g j early.length s).modStation (22 * g + j) (fun x => { x with ring := x.ring ++ [q] })).station i := fun i =>
    congrArg (·.station i) henter
  have hspk : ∀ k, (ringEnter g j s).spk k = (takeEntry g j early.length s).spk k := fun k => congrArg (·.spk k) henter
  simp only [State.modStation_station, takeEntry_station] at hstation
  have hserved : sget (0, 22) (sput (0, 22) s.ringAt g (s.now, j)) g = (s.now, j) := by rw [Laws.sget_sput, if_pos rfl]
  have hrest : (s.entries g j).eraseIdx early.length = early ++ rest := by rw [hmine, eraseIdx_append_cons]
  refine ⟨?_, ?_, fun k => ?_, fun i hi => ?_, ?_⟩
  · rw [henter]
    exact hserved
  · rw [hstation, if_pos rfl, ← hrest]
    by_cases hj : j < 18
    · rw [if_neg (fun h => h.1 hj), if_pos hj, hring]
      rfl
    · rw [if_pos ⟨hj, trivial⟩, if_neg hj, hring]
      rfl
  · rw [hspk, takeEntry_spk, hrest]
  · rw [hstation, if_neg hi, if_neg (fun h => hi h.2)]
  · rw [henter, takeEntry_frame]
    rfl

/-! ### The routing switch (R227) -/

theorem exec_routingSwitch_pending (s : State) (i : Nat) (l : BitVec 40) (ht : s.timed = true) (h7 : s.cad.tick = 7)
    (hc : s.clear = true) (hp : s.rte.pending = some i) (hl : s.rte.switchLap = some l) :
    exec .routingSwitch s = .next (if l = s.cad.lap then { s with rte := { s.rte with
      cur := !s.rte.cur, pending := none, draining := true, lastLap := s.cad.lap.setWidth 32, switchLap := none } } else s) := by
  have hnow : s.switchNow = true ↔ l = s.cad.lap := by simp [State.switchNow, State.atTick, ht, h7, hc, hp, hl]
  rw [exec, execRoutingSwitch, hp]
  exact congrArg Host.Outcome.next (if_congr hnow rfl rfl)

theorem exec_routingSwitch_none (s : State) (h : s.rte.pending = none) : exec .routingSwitch s = .next s := by
  rw [exec, execRoutingSwitch, h]

end Sys2Proof.Machine

namespace Sys2Proof.Proofs

open Sys2Proof Sys2Proof.Machine

/-- Settles O43: a packet that comes in changes its spoke and the live counters alone, by the first check of Table 8-12 that fails or by
its acceptance; a ring moves the packet that is on it, and takes one in where none is. -/
theorem fabricCommands : Obligations.FabricCommands := by
  unfold Obligations.FabricCommands
  refine ⟨fun s k p rx hc hup hkey hcls => ?receive, fun s k p rx hc hup hw hhead hue hpue hm hcls hopen hlap => ?tagFails,
    fun s g j path q rest hc hring he hroom => ?moves, fun s g j q rest hc hring he => ?leaves, fun s g j path hc hring => ?enters,
    fun _ _ _ _ _ _ _ _ => rfl, exec_routingSwitch_pending, exec_routingSwitch_none⟩
  case receive =>
    obtain ⟨hcount, hadvance, hopen⟩ := unkeyed_packet s k.val p hkey
    have h := countedIn_change k.val p rx s
    rw [hcount] at h
    have hmatched : (countedIn k.val p rx s).matched k.val = s.matched k.val := h.matched rfl rfl
    have h' := h.modSpk (advanceRx p)
    rw [hadvance] at h'
    have hexec := exec_packetReceive_up s k p rx hc hup
    rw [hopen] at hexec
    refine ⟨_, hexec, ?_⟩
    dsimp only
    by_cases hw : rx.whole = false
    · rw [receiveOpened_lost _ _ _ _ _ hw, if_pos hw]
      exact (h.discard p 1 (!rx.headerWhole || rx.headerUe)).parts
    have hw' : rx.whole = true := by simpa using hw
    by_cases hue : (rx.headerUe || rx.payloadUe) = true
    · rw [receiveOpened_uncorrectable _ _ _ _ _ hcls hw' hue, if_neg hw, if_pos hue]
      exact (h.discard p 2 (!rx.headerWhole || rx.headerUe)).parts
    have hue' : (rx.headerUe || rx.payloadUe) = false := by simpa using hue
    rw [if_neg hw, if_neg hue]
    by_cases hm : s.matched k.val = false
    · rw [receiveOpened_unmatched _ _ _ _ _ hcls hw' hue' (hmatched.trans hm), if_pos hm]
      exact (h.discard p 3 false).parts
    rw [receiveOpened_some _ _ _ _ hw' hue' (hmatched.trans (by simpa using hm)), if_neg hm]
    by_cases hhead : headerBad (s.isHere p) p = true
    · rw [acceptPacket_header h' p hcls hhead, if_pos hhead]
      exact (h'.discard p 5 true).parts
    have hhead' : headerBad (s.isHere p) p = false := by simpa using hhead
    rw [if_neg hhead]
    by_cases hfull : 16 ≤ (s.spk k.val).ingress.length
    · rw [acceptPacket_full h' p hcls hhead' hfull, if_pos hfull]
      exact (h'.discard p 6 false).parts
    rw [if_neg hfull]
    by_cases hhere : s.isHere p = true
    · rw [if_pos hhere]
      cases hcause : deliverCause s p with
      | some c =>
        rw [acceptPacket_refused h' p hcls hhead' hfull hhere c hcause]
        have hbad := h'.discard p c false
        rw [discardCounter, if_neg (deliverCause_ne_two s p c hcause)] at hbad
        exact hbad.parts
      | none => exact (acceptPacket_here h' p hcls hhead' hfull hhere hcause _ rfl).parts
    have hhere' : s.isHere p = false := by simpa using hhere
    rw [if_neg hhere]
    by_cases hhops : p.hops = 2
    · rw [acceptPacket_hops h' p hcls hhead' hfull hhere' hhops, if_pos hhops]
      exact (h'.discard p 7 false).parts
    rw [if_neg hhops]
    cases hroute : s.route (k.val / 18) p.ver p.slice (modNum p.dst) with
    | some e => exact (acceptPacket_forward h' p hcls hhead' hfull hhere' hhops e hroute).parts
    | none => exact (acceptPacket_miss h' p hcls hhead' hfull hhere' hhops hroute).parts
  case tagFails =>
    have h := countedIn_change k.val p rx s
    have hmatched : (countedIn k.val p rx s).matched k.val = true :=
      (h.matched (by rw [countRx_eq]) (by rw [countRx_eq])).trans hm
    have hauth : (countRx p (s.spk k.val)).authLap ≠ 15 := by
      rw [countRx_eq]
      exact hlap
    have hfail := h.authDiscard p hauth
    have hexec := exec_packetReceive_up s k p rx hc hup
    rw [hopen, receiveOpened_none _ _ _ _ hcls hw (by rw [hue, hpue]; rfl) hmatched] at hexec
    exact ⟨_, hexec, hfail.others, hfail.spk, hfail.live, hfail.frame⟩
  case moves =>
    have hne : 22 * g.val + j.val ≠ 22 * g.val + (j.val + 1) % 22 := by omega
    refine ⟨_, exec_transitRingHop_moves s _ g j path hc (ringMove_on s g.val j.val path q rest hring he hroom), ?_, ?_,
      fun i hi hi' => ?_, rfl⟩
    · rw [State.modStation_station, if_neg hne, State.modStation_station_same]
    · rw [State.modStation_station_same, State.modStation_station, if_neg hne.symm]
    · rw [State.modStation_station, if_neg hi', State.modStation_station, if_neg hi]
  case leaves =>
    rw [exec_transitRingHop_moves s _ g j [] hc (ringMove_leaves s g.val j.val [] q rest hring he)]
    refine congrArg Host.Outcome.next (if_congr ?_ rfl (if_congr Iff.rfl rfl rfl))
    exact Eq.congr_left (he : State.exitStation _ g.val q = j.val)
  case enters =>
    rw [exec_transitRingHop_enters s g j path hc hring]
    refine ⟨fun h => congrArg Host.Outcome.next (ringEnter_still s _ _ ?_), fun early rest q hon hl hmine he hq => ?_⟩
    · rcases h with h | h | h
      · exact Or.inl (enterable_none s _ _ hring (Or.inl h))
      · exact Or.inl (enterable_none s _ _ hring (Or.inr h))
      · exact Or.inr h
    · obtain ⟨hserved, hstation, hspk, hothers, hframe⟩ := ringEnter_entered s g.val j.val early rest q hring
        (enterable_some s _ _ hring early rest q hon hmine he hq) hl hmine
      exact ⟨_, rfl, hserved, hstation, hspk, hothers, hframe⟩

end Sys2Proof.Proofs
end

section
/-! SUPPORT. The overcount of an unlinked turnstile (09_pelotons_and_collectives, R246). -/

namespace Sys2Proof.Machine

/-- COUNT has come above TARGET of an unlinked turnstile, at its arm or from a COUNT that was not above it. -/
theorem completionTest_overcount (k : Nat) (was : Option Nat) (s : State) (hst : (s.trn k).st = 1) (hlink : (s.trn k).link = none)
    (hl : (s.trn k).target.toNat < (s.trn k).count.toNat) (hwas : ∀ w, was = some w → w ≤ (s.trn k).target.toNat) :
    completionTest k was s = overcount k s := by
  have hne : (s.trn k).count ≠ (s.trn k).target := fun h => by rw [h] at hl; omega
  cases was with
  | none => exact completionTest_above k s hst hlink hl
  | some w => simp [completionTest, hst, hlink, hne, hl, hwas w rfl]

/-- The record of an overcount names the turnstile and the entry of its last arm. -/
theorem overcount_eq (k : Trn) (n : Nat) (s : State) (hn : n < 16) (ho : (s.trn k.val).owner = some (BitVec.ofNat 4 n)) :
    overcount k.val s =
      allotFault n (0x60020000#32 + BitVec.ofNat 32 k.val) (trnDie k.val) 0xFF (some (s.trn k.val).entry) s := by
  have hk : (BitVec.ofNat 16 k.val).toNat = k.val := Nat.mod_eq_of_lt (by omega)
  have hcode := faultCode_overcount (BitVec.ofNat 16 k.val)
  rw [hk] at hcode
  rw [overcount_owned k.val _ s ho, hcode, BitVec.toNat_ofNat, Nat.mod_eq_of_lt hn]

end Sys2Proof.Machine

namespace Sys2Proof.Proofs

open Sys2Proof Sys2Proof.Machine

/-- Settles O56: above TARGET the completion test is the overcount, which is a fault of the owner's allotment. -/
theorem turnstileOvercount : Obligations.TurnstileOvercount := by
  unfold Obligations.TurnstileOvercount
  intro s k n a was hn hst ho hlink ha hl hwas
  refine ⟨_, (completionTest_overcount k.val was s hst hlink hl hwas).trans (overcount_eq k n s hn ho), fun m => ?_, ?_, ?_⟩
  · rw [allotFault_allot]
    split_ifs with hm
    · rw [hm, ha, Option.map_some]
    · rfl
  · rw [allotFault_frc, State.sliceOf_some s n a ha]
  · rw [allotFault_frame]

end Sys2Proof.Proofs
end

section
/-! SUPPORT. Collective plans (09_pelotons_and_collectives, R249 to R256): staging buffers read and written word by word, what a segment
sends and what its reducer adds. -/

namespace Sys2Proof.Machine

/-! ### Whole words written one after another -/

/-- Pieces of a byte string are written at the words of a store from word w on. -/
def hubWrites (st : Nat) : Nat → List (List Byte) → State → State
  | _, [], s => s
  | w, b :: l, s => hubWrites st (w + 1) l (hubWrite st w (fit 32 b) s)

theorem hubWrite_byte (st w u y : Nat) (b : List Byte) (s : State) (hst : st ≠ 1) (hb : b.length = 32) :
    (hubWrite st w b s).byte u y =
      if min st 3 = min u 3 ∧ 32 * w ≤ y ∧ y < 32 * w + 32 then byteAt b (y - 32 * w) else s.byte u y := by
  rw [hubWrite, if_neg hst, Laws.writeWord_byte st w u y b s hb]

/-- What whole words leave in the stores: their bytes, from the first word's start on. -/
theorem hubWrites_byte (st u y : Nat) (hst : st ≠ 1) (fuel : Nat) : ∀ (w : Nat) (l : List Byte) (s : State), l.length ≤ fuel →
    32 ∣ l.length → (hubWrites st w (chunks 32 fuel l) s).byte u y =
      if min st 3 = min u 3 ∧ 32 * w ≤ y ∧ y < 32 * w + l.length then byteAt l (y - 32 * w) else s.byte u y := by
  induction fuel with
  | zero =>
    intro w l s hl _
    rw [if_neg (by omega)]
    rfl
  | succ fuel ih =>
    intro w l s hl hd
    by_cases he : l = []
    · subst he
      rw [if_neg (by simp only [List.length_nil]; omega)]
      rfl
    have hlen : 32 ≤ l.length := Nat.le_of_dvd (List.length_pos_iff.mpr he) hd
    have hfirst : (l.take 32).length = 32 := by rw [List.length_take]; omega
    have hrest : (l.drop 32).length = l.length - 32 := List.length_drop
    have hstep : hubWrites st w (chunks 32 (fuel + 1) l) s =
        hubWrites st (w + 1) (chunks 32 fuel (l.drop 32)) (hubWrite st w (l.take 32) s) := by
      rw [chunks, if_neg (by simpa using he), hubWrites, Laws.fit_length 32 _ hfirst]
    rw [hstep, ih (w + 1) (l.drop 32) _ (by omega) (by omega), hubWrite_byte st w u y _ s hst hfirst, hrest]
    by_cases hs : min st 3 = min u 3
    · by_cases hlater : 32 * (w + 1) ≤ y ∧ y < 32 * (w + 1) + (l.length - 32)
      · have hix : 32 + (y - 32 * (w + 1)) = y - 32 * w := by omega
        rw [if_pos ⟨hs, hlater⟩, if_pos ⟨hs, by omega⟩, byteAt, byteAt, List.getD_eq_getElem?_getD, List.getElem?_drop, hix,
          List.getD_eq_getElem?_getD]
      · rw [if_neg (fun h => hlater h.2)]
        by_cases hin : 32 * w ≤ y ∧ y < 32 * w + 32
        · rw [if_pos ⟨hs, hin⟩, if_pos ⟨hs, by omega⟩, byteAt, byteAt, List.getD_eq_getElem?_getD, List.getD_eq_getElem?_getD,
            List.getElem?_take_of_lt (by omega)]
        · rw [if_neg (fun h => hin h.2), if_neg (by omega)]
    · rw [if_neg (fun h => hs h.1), if_neg (fun h => hs h.1), if_neg (fun h => hs h.1)]

theorem hubWrites_frame (st : Nat) (l : List (List Byte)) : ∀ (w : Nat) (s : State), ∃ m c g t u k,
    hubWrites st w l s = { s with mem := m, scr := c, wslots := g, stage := t, upset := u, bankWrites := k } := by
  induction l with
  | nil => exact fun _ s => ⟨s.mem, s.scr, s.wslots, s.stage, s.upset, s.bankWrites, rfl⟩
  | cons b l ih =>
    intro w s
    obtain ⟨_, _, _, _, _, _, hfirst⟩ := Laws.hubWrite_frame st w (fit 32 b) s
    obtain ⟨_, _, _, _, _, _, hrest⟩ := ih (w + 1) (hubWrite st w (fit 32 b) s)
    rw [hubWrites, hrest, hfirst]
    exact ⟨_, _, _, _, _, _, rfl⟩

/-! ### Staging buffers (R129, R182) -/

theorem bufPlace_store_lt (b : StagingBuf) : (bufPlace b).1 < 4 := by
  unfold bufPlace
  split <;> simp

/-- Only a buffer of pool 2 lies in the scratchpad. -/
theorem bufPlace_store_ne (b : StagingBuf) (h : b.pool ≠ 2) : (bufPlace b).1 ≠ 1 := by
  unfold bufPlace
  split
  case h_3 hpool => exact absurd (BitVec.eq_of_toNat_eq hpool) h
  all_goals simp

/-- A fold of writes none of which fails writes each piece at the word that follows the last one's. -/
theorem foldl_hubWrites {ε : Type} (st w : Nat) (f : State × Option ε → List Byte × Nat → State × Option ε)
    (h : ∀ s e, f (s, none) e = (hubWrite st (w + e.2) (fit 32 e.1) s, none)) (l : List (List Byte)) : ∀ (i : Nat) (s : State),
    (l.zipIdx i).foldl f (s, none) = (hubWrites st (w + i) l s, none) := by
  induction l with
  | nil => exact fun _ _ => rfl
  | cons b l ih =>
    intro i s
    rw [List.zipIdx_cons, List.foldl_cons, h, ih, hubWrites, Nat.add_assoc]

section

variable (gh k : Nat) (a : AllotSt) (id : BitVec 16) (off : Nat) (l : List Byte) (s : State)

/-- On a path on which nothing happens every word of a write to a buffer arrives. -/
theorem writeBuf_some (b : StagingBuf) (hb : s.buffer a id = some b) : writeBuf gh [] k a id off l s =
    (hubWrites (bufPlace b).1 (((bufPlace b).2 + off) / 32) (chunks 32 l.length l) s, none) := by
  simp only [writeBuf, hb]
  exact foldl_hubWrites _ _ _ (fun _ _ => rfl) _ 0 s

theorem writeBuf_none (hb : s.buffer a id = none) : writeBuf gh [] k a id off l s = (s, none) := by
  simp only [writeBuf, hb]

theorem writeBuf_arrives : writeBuf gh [] k a id off l s = ((writeBuf gh [] k a id off l s).1, none) := by
  cases hb : s.buffer a id with
  | none => rw [writeBuf_none gh k a id off l s hb]
  | some b => rw [writeBuf_some gh k a id off l s b hb]

theorem writeBuf_frame : ∃ m c g t u w, (writeBuf gh [] k a id off l s).1 =
    { s with mem := m, scr := c, wslots := g, stage := t, upset := u, bankWrites := w } := by
  cases hb : s.buffer a id with
  | none => exact ⟨_, _, _, _, _, _, congrArg Prod.fst (writeBuf_none gh k a id off l s hb)⟩
  | some b =>
    rw [writeBuf_some gh k a id off l s b hb]
    exact hubWrites_frame _ _ _ s

/-- Where a reduction is counted does not depend on what it writes. -/
theorem writeBuf_trnCounter (n g c : Nat) : (writeBuf gh [] k a id off l s).1.trnCounter n g c = s.trnCounter n g c := by
  obtain ⟨_, _, _, _, _, _, hw⟩ := writeBuf_frame gh k a id off l s
  rw [hw]
  rfl

/-- Whole words written to a buffer outside the scratchpad: their bytes from byte off of the buffer on, and nothing else. -/
theorem writeBuf_byte (b : StagingBuf) (hb : s.buffer a id = some b) (hpool : b.pool ≠ 2) (hoff : ((bufPlace b).2 + off) % 32 = 0)
    (hl : l.length % 32 = 0) (u y : Nat) : (writeBuf gh [] k a id off l s).1.byte u y =
      if min (bufPlace b).1 3 = min u 3 ∧ (bufPlace b).2 + off ≤ y ∧ y < (bufPlace b).2 + off + l.length
      then byteAt l (y - ((bufPlace b).2 + off)) else s.byte u y := by
  have hstart : 32 * (((bufPlace b).2 + off) / 32) = (bufPlace b).2 + off := Nat.mul_div_cancel' (Nat.dvd_of_mod_eq_zero hoff)
  rw [writeBuf_some gh k a id off l s b hb, hubWrites_byte _ u y (bufPlace_store_ne b hpool) l.length _ l s le_rfl
    (Nat.dvd_of_mod_eq_zero hl), hstart]

end

/-- The bytes of a buffer from the word of byte off on; zeros where the allotment has no such buffer. -/
def State.bufBytes (s : State) (a : AllotSt) (id : BitVec 16) (off n : Nat) : List Byte := match s.buffer a id with
  | none => List.replicate n 0
  | some b => s.bytes (bufPlace b).1 (32 * (((bufPlace b).2 + off) / 32)) n

theorem ghWord_clean (gh k st w : Nat) (s : State) (h : s.clean st) :
    ghWord gh [] k st w s = (s, .ok (s.bytes st (32 * w) 32)) := by
  rw [ghWord, Laws.readWord_clean st w s (h w)]
  rfl

/-- From clean stores a buffer is read as it stands, and nothing is counted. -/
theorem readBuf_clean (gh k : Nat) (a : AllotSt) (id : BitVec 16) (off n : Nat) (s : State) (h : ∀ st, st < 4 → s.clean st) :
    readBuf gh [] k a id off n s = (s, s.bufBytes a id off n, none) := by
  unfold readBuf State.bufBytes
  cases s.buffer a id with
  | none => rfl
  | some b =>
    dsimp only
    rw [foldl_reads s (fun w => s.bytes (bufPlace b).1 (32 * w) 32)]
    · rw [List.nil_append, s.wordsOf_bytes]
    · intro l e
      simp only [ghWord_clean gh _ _ _ s (h _ (bufPlace_store_lt b))]

/-! ### A plan's start (R249) -/

/-- An allotment whose plan has started anew. -/
def AllotSt.planStarted (plan : BitVec 16) (now : Time) (entry : BitVec 24) (x : AllotSt) : AllotSt :=
  { x with plans := x.plans.filter (fun p => decide (p.plan ≠ plan)) ++ [{ plan := plan, at_ := now, entry := entry }] }

theorem exec_ttCollective (s : State) (a : Allot) (d : Due) (plan : BitVec 16) (hd : s.due a.val = some d)
    (hc : sget [] s.upset (entryKey a.val d.table d.ix) = []) (hk : d.kind = .collective plan) : exec (.ttCollective a) s =
      .next (passEntry a.val (s.modAllot a.val (AllotSt.planStarted plan s.now d.entry))) := by
  rw [exec, execTtCollective]
  exact congrArg Host.Outcome.next (fire_clean a.val _ s _ d hd hc (by simp only [hk]; rfl))

/-! ### Sends (R251, R254) -/

/-- The contribution to position k in its slot, as it stands in a clean input. -/
def SegSend.slotFor (x : SegSend) (k : Nat) (s : State) : List Byte := slotBytesOf x.i.stage.check x.own
  (fit x.i.contribution (s.bufBytes x.a x.input (x.seg * x.i.size + shareOff x.i k) x.i.contribution))

/-- The packets that carry a whole slot to the member at position k. -/
def SegSend.sendSlot (x : SegSend) (h k : Nat) (slot : List Byte) (s : State) : State :=
  (sendRuns x.i.stage.check slot).zipIdx.foldl (fun s (run, j) =>
    sendRun h (s.image x.a.image).longMode x.a.slice (modNum (x.i.group.getD k 0)) (x.i.stage.recvBuf + BitVec.ofNat 16 x.own)
      (x.seg * x.i.slotLen + 65536 * j) (fld (x.i.stage.trn + BitVec.ofNat 16 x.seg) 0 13) (slot.length - 65536 * j) run s) s

section

variable (x : SegSend) (h k : Nat) (s : State) (hc : ∀ st, st < 4 → s.clean st) (hp : x.path = [])

include hc hp

theorem SegSend.share_sent (hk : k ≠ x.own) : x.share h k s = (x.sendSlot h k (x.slotFor k s) s, none) := by
  simp only [SegSend.share, hp, readBuf_clean h _ x.a x.input _ _ s hc, if_neg hk, Option.isSome_none, Bool.false_eq_true, if_false]
  rw [SegSend.slotFor]
  rfl

theorem SegSend.share_copied (hk : k = x.own) : x.share h k s = ((writeBuf h [] (x.i.n * (x.i.size / 32)) x.a
    (x.i.stage.recvBuf + BitVec.ofNat 16 x.own) (x.seg * x.i.slotLen) (x.slotFor k s) s).1, none) := by
  simp only [SegSend.share, hp, readBuf_clean h _ x.a x.input _ _ s hc, if_pos hk, Option.isSome_none, Bool.false_eq_true, if_false,
    List.take_length]
  rw [writeBuf_arrives]
  rfl

end

/-! ### Slots (R253, R256) -/

/-- The data that the reducer reads in the slot of position k of a segment. -/
def State.slotAt (s : State) (a : AllotSt) (i : StageInfo) (seg k : Nat) : List Byte :=
  slotData i.stage.check (s.bufBytes a (i.stage.recvBuf + BitVec.ofNat 16 k) (seg * i.slotLen) i.slotLen)

theorem readSlots_clean (h : Nat) (a : AllotSt) (i : StageInfo) (seg : Nat) (s : State) (hc : ∀ st, st < 4 → s.clean st) :
    readSlots h [] a i seg s = (s, (List.range i.n).map (s.slotAt a i seg), none) := by
  unfold readSlots
  generalize List.range i.n = l
  induction l using List.reverseRecOn with
  | nil => rfl
  | append_singleton l k ih =>
    rw [List.foldl_append, ih, List.foldl_cons, List.foldl_nil, List.map_append]
    simp only [readBuf_clean h _ a _ _ _ s hc]
    rfl

/-! ### The segment commands -/

section

variable (s : State) (a : Allot) (pn : Fin 256) (sn : Fin 4) (gn : Fin 256) (x : AllotSt) (r : PlanRun) (i : StageInfo)
  (ht : s.timed = true) (hx : s.allot a.val = some x) (hr : x.planRun pn.val = some r)
  (hi : (s.planInfo x pn.val)[sn.val]? = some i)

include ht hx hr hi

theorem exec_segmentSendStart (pl : Plan) (own : Nat) (hh : s.hold.hold = false)
    (hpl : (s.image x.image).plans[pn.val]? = some pl) (hs : x.stopped = false) (hhalt : r.halted = false)
    (hg : gn.val < pl.segments) (hlevel : i.stage.level ≠ 0) (hnow : s.now = later (i.stage.start + gn.val * i.stage.period) r.at_)
    (hown : posOf i.group i.stage.level.toNat (s.image x.image).coord = some own) :
    exec (.segmentSendStart a pn sn gn ⟨[], []⟩) s = .next (
      modPlan a.val pn.val (fun p => { p with sent := p.sent ++ [(sn.val, gn.val)] })
        (sendSegment ⟨a.val, x, pn.val, i, gn.val, own, inputBuf pl (s.planInfo x pn.val) sn.val, r.entry, []⟩ s)) := by
  rw [exec, execSegmentSendStart]
  simp only [hx, hr, hpl, hi, ht, hh, hs, hhalt, hg, hlevel, ← hnow, hown, ne_eq, not_false_eq_true, decide_true, Bool.not_false,
    Bool.and_self, if_true]
  rfl

theorem exec_segmentCompletionStep (pl : Plan) (hh : s.hold.hold = false) (hpl : (s.image x.image).plans[pn.val]? = some pl)
    (hs : x.stopped = false) (hhalt : r.halted = false) (hg : gn.val < pl.segments) (hdone : (s.trn (segTrn i gn.val)).st = 2)
    (hnow : s.now = later 1 (s.trn (segTrn i gn.val)).deadline) (hc : ∀ st, st < 4 → s.clean st) :
    exec (.segmentCompletionStep a pn sn gn ⟨[], []⟩) s = .next (
      if i.stage.method.toNat < 2 then
        modPlan a.val pn.val (fun p => { p with reduces := p.reduces ++ [(sn.val, gn.val,
            later (reduceTicks s x i gn.val) (s.trn (segTrn i gn.val)).deadline,
            (sumSlots pl.fmt.toNat ((List.range i.n).map (s.slotAt x i gn.val))).1)] })
          (s.bump (s.trnCounter a.val (segGh i gn.val) 7) (sumSlots pl.fmt.toNat ((List.range i.n).map (s.slotAt x i gn.val))).2)
      else modPlan a.val pn.val (fun p => { p with done := p.done ++ [(sn.val, gn.val)] }) s) := by
  have hread : readSlots (segGh i gn.val) [] x i gn.val (applyNoise [] s) = _ := readSlots_clean (segGh i gn.val) x i gn.val s hc
  rw [exec, execSegmentCompletionStep]
  simp only [hx, hr, hpl, hi, ht, hh, hs, hhalt, hg, hdone, ← hnow, decide_true, Bool.not_false, Bool.and_self, Bool.true_or,
    if_true, hread]

theorem exec_segmentReductionDone (e : Time) (sum : List Byte)
    (hf : r.reduces.find? (fun q => decide (q.1 = sn.val) && decide (q.2.1 = gn.val)) = some (sn.val, gn.val, e, sum))
    (hnow : s.now = e) : exec (.segmentReductionDone a pn sn ⟨gn, []⟩) s = .next (
      modPlan a.val pn.val (fun p => { p.reduced sn.val gn.val with done := p.done ++ [(sn.val, gn.val)] })
        ((writeBuf (segGh i gn.val) [] 0 x i.stage.outBuf (gn.val * i.outLen) sum s).1.bump
          (s.trnCounter a.val (segGh i gn.val) 6) 1)) := by
  have hwrite := writeBuf_arrives (segGh i gn.val) 0 x i.stage.outBuf (gn.val * i.outLen) sum s
  rw [exec, execSegmentReductionDone]
  simp only [hx, hr, hi, hf, ht, hnow, decide_true, Bool.and_self, if_true]
  rw [hwrite, ← writeBuf_trnCounter (segGh i gn.val) 0 x i.stage.outBuf (gn.val * i.outLen) sum s a.val (segGh i gn.val) 6]
  rfl

end

/-- A segment of a plan that does not run has nothing to send, to add or to write. -/
theorem exec_segment_noPlan (s : State) (a : Allot) (pn : Fin 256) (sn : Fin 4) (gn : Fin 256) (x : AllotSt)
    (hx : s.allot a.val = some x) (hr : x.planRun pn.val = none) :
    exec (.segmentSendStart a pn sn gn ⟨[], []⟩) s = .next s ∧ exec (.segmentCompletionStep a pn sn gn ⟨[], []⟩) s = .next s ∧
    exec (.segmentReductionDone a pn sn ⟨gn, []⟩) s = .next s := by
  refine ⟨?_, ?_, ?_⟩
  · rw [exec, execSegmentSendStart]
    simp only [hx, hr]
  · rw [exec, execSegmentCompletionStep]
    simp only [hx, hr]
  · rw [exec, execSegmentReductionDone]
    simp only [hx, hr]

end Sys2Proof.Machine

namespace Sys2Proof.Proofs

open Sys2Proof Sys2Proof.Machine

/-- Settles O38: buffers in clean stores are read as they stand, and what is written to one arrives word by word, so that each segment
command is its one branch. -/
theorem collectiveCommands : Obligations.CollectiveCommands := by
  unfold Obligations.CollectiveCommands
  refine ⟨?start, ?send, ?share, ?write, ?completion, ?reduction, exec_segment_noPlan⟩
  case start =>
    intro s a d pl hd hc hk
    obtain ⟨hal, -, -⟩ := s.due_running a.val d hd
    refine ⟨_, exec_ttCollective s a d pl hd hc hk, ?_, fun m hm => ?_, rfl⟩
    · exact passEntry_due s _ a.val d (d.al.planStarted pl s.now d.entry) hd (s.modAllot_allot_some a.val d.al _ hal) rfl
    · rw [passEntry_allot_of_ne a.val m _ hm, s.modAllot_allot_of_ne a.val m _ hm]
  case send =>
    intro s a pn sn gn x r pl i own ht hh hx hr hpl hi hs hhalt hg hlevel hnow hown
    exact exec_segmentSendStart s a pn sn gn x r i ht hx hr hi pl own hh hpl hs hhalt hg hlevel hnow hown
  case share =>
    intro x h k s hc hp
    refine ⟨fun hk => ?_, x.share_copied h k s hc hp⟩
    rw [x.share_sent h k s hc hp hk, SegSend.slotFor, State.bufBytes]
    rfl
  case write =>
    intro gh k off x id l s b hb hpool hoff hl
    have hbyte := writeBuf_byte gh k x id off l s b hb hpool hoff hl
    have hstore := bufPlace_store_lt b
    refine ⟨fun i hi => ?_, fun u y hu hout => ?_⟩
    · rw [hbyte, if_pos ⟨rfl, by omega, by omega⟩, Nat.add_sub_cancel_left]
    · rw [hbyte, if_neg (by omega)]
  case completion =>
    intro s a pn sn gn x r pl i ht hh hx hr hpl hi hs hhalt hg hdone hnow hc
    exact exec_segmentCompletionStep s a pn sn gn x r i ht hx hr hi pl hh hpl hs hhalt hg hdone hnow hc
  case reduction =>
    intro s a pn sn gn x r i e sum ht hx hr hi hf hnow
    exact exec_segmentReductionDone s a pn sn gn x r i ht hx hr hi e sum hf hnow

end Sys2Proof.Proofs
end

section
/-! SUPPORT. The permitted gear (10_power_and_cooling, R275, R279). -/

namespace Sys2Proof.Machine

/-- The gears that a recompute may permit (R279): at or below the ceiling, with a prediction that fits. -/
def gearFits (ceil c : Nat) (cap : Option Nat) (b : Basis) (g : Nat) : Bool :=
  decide (g ≤ ceil) && fits (predict b g 16) cap (if c < g then 97 / 100 else 1)

/-- The gear that a recompute permits. -/
def State.permits (s : State) : Nat := permittedOf s.offered s.ceiling s.gear.gear.toNat (effCap s.pwr) s.pwr.basis

/-- The first entry of a falling list that meets a condition is the highest. -/
theorem le_find?_of_falling {p : Nat → Bool} {l : List Nat} (hl : l.Pairwise (· > ·)) {g : Nat} (hg : g ∈ l) (hp : p g = true)
    (d : Nat) : g ≤ (l.find? p).getD d := by
  induction l with
  | nil => cases hg
  | cons x l ih =>
    obtain ⟨hx, hl⟩ := List.pairwise_cons.mp hl
    cases h : p x with
    | true =>
      rw [List.find?_cons_of_pos h, Option.getD_some]
      rcases List.mem_cons.mp hg with rfl | hg
      · exact le_rfl
      · exact (hx g hg).le
    | false =>
      rw [List.find?_cons_of_neg (by simp [h])]
      refine ih hl ((List.mem_cons.mp hg).resolve_left ?_)
      rintro rfl
      simp [h] at hp

theorem offered_falling (s : State) : s.offered.Pairwise (· > ·) :=
  List.Pairwise.filter _ (by decide)

theorem le_five_of_offered (s : State) (g : Nat) (h : g ∈ s.offered) : g ≤ 5 := by
  have hall : ∀ g ∈ [5, 4, 3, 2, 1], g ≤ 5 := by decide
  exact hall g (List.mem_filter.mp h).1

theorem le_permits (s : State) (g : Nat) (hg : g ∈ s.offered)
    (hp : gearFits s.ceiling s.gear.gear.toNat (effCap s.pwr) s.pwr.basis g = true) : g ≤ s.permits :=
  le_find?_of_falling (offered_falling s) hg hp 1

/-- Where no offered gear fits the permitted gear is G1 (R279). -/
theorem permits_spec (s : State) : s.permits = 1 ∨
    s.permits ∈ s.offered ∧ gearFits s.ceiling s.gear.gear.toNat (effCap s.pwr) s.pwr.basis s.permits = true := by
  have hperm : s.permits = (s.offered.find? (gearFits s.ceiling s.gear.gear.toNat (effCap s.pwr) s.pwr.basis)).getD 1 := rfl
  rw [hperm]
  cases h : s.offered.find? (gearFits s.ceiling s.gear.gear.toNat (effCap s.pwr) s.pwr.basis) with
  | none => exact Or.inl rfl
  | some g => exact Or.inr ⟨List.mem_of_find?_eq_some h, List.find?_some h⟩

theorem permits_le_five (s : State) : s.permits ≤ 5 := by
  rcases permits_spec s with h | ⟨h, -⟩
  · omega
  · exact le_five_of_offered s _ h

/-- A power that does not fit under a whole cap exceeds it. -/
theorem not_fits_whole_iff (x : Rat) (cap : Option Nat) : (!fits x cap 1) = true ↔ ∃ c, cap = some c ∧ (c : Rat) < x := by
  cases cap <;> simp [fits]

/-- What a recompute makes of the power state (R279). -/
theorem recompute_pwr_served (s : State) (hc : s.ctl = true) : (recompute s).pwr = { s.pwr with
    permitted := BitVec.ofNat 3 s.permits, capUnmet := !fits (predict s.pwr.basis 1 14) (effCap s.pwr) 1, brakeDue := true } := by
  obtain ⟨_, _, _, _, _, h⟩ := recompute_served s hc
  rw [h]
  rfl

theorem recompute_permitted (s : State) (hc : s.ctl = true) : (recompute s).pwr.permitted.toNat = s.permits := by
  have hle := permits_le_five s
  rw [recompute_pwr_served s hc, BitVec.toNat_ofNat, Nat.mod_eq_of_lt (by omega)]

/-- The effective cap is made of the caps and the lease alone (R275). -/
theorem recompute_effCap (s : State) : effCap (recompute s).pwr = effCap s.pwr := by
  rw [recompute_pwr]
  rfl

end Sys2Proof.Machine

namespace Sys2Proof.Proofs

open Sys2Proof Sys2Proof.Machine

/-- Settles O9: the offered gears fall from G5 to G1, so the first that fits is the highest. -/
theorem permittedGearRule : Obligations.PermittedGearRule := by
  unfold Obligations.PermittedGearRule
  intro s hc
  rw [recompute_permitted s hc]
  refine ⟨fun g hg hle hfit => le_permits s g hg ?_, ?_, ?_, recompute_effCap s, recompute_gear s⟩
  · rw [gearFits, hfit, decide_eq_true hle]
    rfl
  · refine (permits_spec s).imp_right fun ⟨hoff, hfit⟩ => ?_
    rw [gearFits, Bool.and_eq_true, decide_eq_true_iff] at hfit
    exact ⟨hoff, hfit.1, hfit.2⟩
  · rw [recompute_pwr_served s hc]
    exact not_fits_whole_iff _ _

end Sys2Proof.Proofs
end

section
/-! SUPPORT. Caps, gear limits and the lease (10_power_and_cooling, R275, R276, R301; 13_management, R365). -/

namespace Sys2Proof.Machine

theorem capOk_iff (w : BitVec 16) : capOk w = true ↔ w = 0xFFFF#16 ∨ 420 ≤ w.toNat ∧ w.toNat ≤ 4200 := by
  simp [capOk]

theorem gearOk_iff (w : BitVec 3) : gearOk w = true ↔ 1 ≤ w.toNat ∧ w.toNat ≤ 5 := by
  simp [gearOk]

/-! ### The steward's registers (R276, R301) -/

theorem exec_hostCapWrite_taken (s : State) (p : Port) (d : Word) (hh : s.hears p = true) (hs : s.isSteward p = true)
    (hg : gearOk (fld d 16 3) = true) (hc : capOk (fld d 0 16) = true) : exec (.hostCapWrite p d) s =
      .next (recompute { s with pwr := { s.pwr with hostGear := fld d 16 3, hostCap := fld d 0 16 } }) :=
  congrArg Host.Outcome.next ((stewardWrite_on p _ s hh hs).trans (if_pos (by rw [hg, hc]; rfl)))

/-- A host cap with a value out of range is ignored whole (R301). -/
theorem exec_hostCapWrite_refused (s : State) (p : Port) (d : Word) (hh : s.hears p = true) (hs : s.isSteward p = true)
    (h : ¬(gearOk (fld d 16 3) = true ∧ capOk (fld d 0 16) = true)) : exec (.hostCapWrite p d) s = .next s :=
  congrArg Host.Outcome.next ((stewardWrite_on p _ s hh hs).trans (if_neg (by rwa [Bool.and_eq_true])))

/-! ### The tray's effecters (R365) -/

section
variable (s : State) (hc : s.ctl = true) (ha : s.mgmt.addr ≠ none) (he : s.mgmt.eid ≠ 0)
include hc ha he

/-- SetNumericEffecterValue and SetStateEffecterStates are commands that Table 13-1 lists. -/
theorem setNumeric_served (ok : Bool) (f : State → State) :
    setEffecter 0x31 ok f s = if ok then f s else s.emit (.pldm 2 0x31 0x02 []) := setEffecter_on 0x31 ok f s hc ha he (by decide)

theorem setState_served (ok : Bool) (f : State → State) :
    setEffecter 0x39 ok f s = if ok then f s else s.emit (.pldm 2 0x39 0x02 []) := setEffecter_on 0x39 ok f s hc ha he (by decide)

theorem exec_trayCap (v : BitVec 16) : exec (.trayCap v) s = .next (if capOk v then
    (recompute { s with pwr := { s.pwr with trayCap := v, leaseLeft := s.pwr.leaseLaps, lapsed := false } }).emit (.pldm 2 0x31 0 [])
    else s.emit (.pldm 2 0x31 0x02 [])) :=
  congrArg Host.Outcome.next (setNumeric_served s hc ha he (capOk v) _)

theorem exec_trayGearMax (v : BitVec 16) : exec (.trayGearMax v) s = .next (if 1 ≤ v.toNat ∧ v.toNat ≤ 5 then
    (recompute { s with pwr := { s.pwr with trayGear := v.setWidth 3 } }).emit (.pldm 2 0x31 0 [])
    else s.emit (.pldm 2 0x31 0x02 [])) :=
  congrArg Host.Outcome.next ((setNumeric_served s hc ha he _ _).trans (if_congr (by simp) rfl rfl))

theorem exec_leaseRenewal (v : BitVec 8) : exec (.leaseRenewal v) s = .next (if v = 1 then
    (recompute { s with pwr := { s.pwr with leaseLeft := s.pwr.leaseLaps, lapsed := false } }).emit (.pldm 2 0x39 0 [])
    else s.emit (.pldm 2 0x39 0x02 [])) :=
  congrArg Host.Outcome.next ((setState_served s hc ha he _ _).trans (if_congr (by simp) rfl rfl))

end

/-- A recompute is its figures and the events of a changed CAP_UNMET (R279). -/
theorem recompute_alerts (s : State) (hc : s.ctl = true) : recompute s = alertEvents { s with pwr := (recompute s).pwr } := by
  rw [recompute_pwr_served s hc, recompute, if_pos hc]
  rfl

end Sys2Proof.Machine

namespace Sys2Proof.Proofs

open Sys2Proof Sys2Proof.Machine

/-- Settles O8: each write and each effecter is one branch on its range, and a recompute tells its figures as alerts. -/
theorem capCommands : Obligations.CapCommands := by
  unfold Obligations.CapCommands
  refine ⟨fun s p d hh hs h1 h5 hcap => ?_, fun s p d hh hs hbad => ?_, fun s p d hh hs => ?_, fun s p hh hs => ?_,
    fun s hc ha he => ⟨fun v hv => ?_, fun v hne hv => ?_, fun v h1 h5 => ?_, fun v hv => ?_, ?_, fun v hv => ?_⟩, fun s hc => ?_⟩
  · exact exec_hostCapWrite_taken s p d hh hs ((gearOk_iff _).mpr ⟨h1, h5⟩) ((capOk_iff _).mpr hcap)
  · refine exec_hostCapWrite_refused s p d hh hs ?_
    rw [gearOk_iff, capOk_iff]
    rintro ⟨⟨h1, h5⟩, hcap⟩
    rcases hbad with h | h | ⟨hne, h⟩
    · omega
    · omega
    · rcases hcap with hcap | ⟨h420, h4200⟩
      · exact hne hcap
      · omega
  · exact ⟨congrArg Host.Outcome.next (stewardWrite_other p _ s hh hs), congrArg Host.Outcome.next (stewardWrite_other p _ s hh hs)⟩
  · exact congrArg Host.Outcome.next (stewardWrite_on p renewLease s hh hs)
  · rw [exec_trayCap s hc ha he, if_pos ((capOk_iff v).mpr hv)]
  · rw [exec_trayCap s hc ha he, if_neg (fun h => ((capOk_iff v).mp h).elim hne (by omega))]
  · rw [exec_trayGearMax s hc ha he, if_pos ⟨h1, h5⟩]
  · rw [exec_trayGearMax s hc ha he, if_neg (by omega)]
  · rw [exec_leaseRenewal s hc ha he, if_pos rfl]
  · rw [exec_leaseRenewal s hc ha he, if_neg hv]
  · refine (recompute_alerts s hc).trans ?_
    rw [recompute_pwr_served s hc]

end Sys2Proof.Proofs
end

section
/-! SUPPORT. Ramps of the array groups (10_power_and_cooling, R269, R273, R274). -/

namespace Sys2Proof.Machine

/-! ### Every group one step on -/

theorem smapD_ramps_ramp (f : Ramp → Ramp) (s : State) (g : Nat) (hr : rising s.ramps = true) (hf : f {} = {}) :
    State.ramp { s with ramps := smapD {} f s.ramps } g = f (s.ramp g) := Laws.sget_smapD ({} : Ramp) f s.ramps g hr hf

/-- A group that no ramp moves keeps its entry. -/
theorem rampOne_default (hold : HoldSt) : rampOne (rampGoal hold {}) {} = {} := by
  unfold rampGoal
  split <;> rfl

theorem rampOne_recovering (goal : Nat) (r : Ramp) (h : r.recover = true) : rampOne goal r = r := if_pos h

/-- A step moves the level by 1 toward the goal (R273). -/
theorem rampOne_spec (goal : Nat) (r : Ramp) (h : r.recover = false) : (rampOne goal r).target = r.target ∧
    (rampOne goal r).recover = false ∧ (r.level < goal → (rampOne goal r).level = r.level + 1) ∧
    (goal < r.level → (rampOne goal r).level + 1 = r.level) ∧ (r.level = goal → (rampOne goal r).level = r.level) := by
  unfold rampOne
  rw [if_neg (by rw [h]; decide)]
  by_cases hup : r.level < goal
  · rw [if_pos hup]
    exact ⟨rfl, h, fun _ => rfl, fun hdown => absurd hdown (by omega), fun heq => absurd heq (by omega)⟩
  · rw [if_neg hup]
    by_cases hdown : goal < r.level
    · rw [if_pos hdown]
      exact ⟨rfl, h, fun h => absurd h hup, fun _ => Nat.sub_add_cancel (by omega), fun heq => absurd heq (by omega)⟩
    · rw [if_neg hdown]
      exact ⟨rfl, h, fun h => absurd h hup, fun h => absurd h hdown, fun _ => rfl⟩

/-- One step of the recovery ramp of an upshift (R269). -/
def Ramp.recovered (r : Ramp) : Ramp :=
  if r.recover then { r with level := r.level + 1, recover := decide (r.level + 1 < 16) } else r

theorem exec_rampStep_due (s : State) (hc : s.ctl = true) (ht : s.timed = true) (hr : s.ramping = true) (hn : s.rampTick = true) :
    exec .rampStep s = .next { s with ramps := smapD {} (fun r => rampOne (rampGoal s.hold r) r) s.ramps } :=
  congrArg Host.Outcome.next (if_pos (by rw [hc, ht, hr, hn]; rfl))

theorem exec_recoveryRampStep_due (s : State) (hc : s.ctl = true) (ht : s.timed = true) (h : 260 ≤ s.cad.tick.toNat)
    (hn : (s.cad.tick.toNat - 4) % 256 = 0) :
    exec .recoveryRampStep s = .next { s with ramps := smapD {} Ramp.recovered s.ramps } :=
  congrArg Host.Outcome.next (if_pos (by rw [hc, ht, decide_eq_true h, decide_eq_true hn]; rfl))

/-! ### The start of a ramp (R274) -/

/-- When the next step of the ramps is due once another ramp has begun. -/
def State.nextRamp (s : State) : Time := if s.ramping then s.gear.rampNext else timeOf (s.now.toNat + 15)

theorem startRamps_eq (f : State → State) (s : State) (hg : (f s).gear = s.gear) (hn : (f s).now = s.now) :
    startRamps f s = { f s with gear := { s.gear with rampNext := s.nextRamp } } := by
  unfold startRamps State.nextRamp
  dsimp only
  rw [hn, ← hg]
  split <;> rfl

/-- A group's ramp with a target, which ends a recovery ramp unless it is 16. -/
def Ramp.aimed (target : Nat) (r : Ramp) : Ramp := { r with target := target, recover := r.recover && decide (target = 16) }

theorem foldl_modRamp_frame (f : Nat → Ramp → Ramp) (l : List Nat) (s : State) :
    l.foldl (fun s g => s.modRamp g (f g)) s = { s with ramps := (l.foldl (fun s g => s.modRamp g (f g)) s).ramps } := by
  refine List.foldlRecOn (motive := fun t : State => t = { s with ramps := t.ramps }) l _ rfl fun t ht g _ => ?_
  rw [ht]
  rfl

theorem foldl_modRamp_ramp (f : Nat → Ramp → Ramp) (l : List Nat) (hl : l.Nodup) (s : State) (g : Nat) :
    (l.foldl (fun s g => s.modRamp g (f g)) s).ramp g = if g ∈ l then f g (s.ramp g) else s.ramp g := by
  induction l generalizing s with
  | nil => rfl
  | cons k l ih =>
    obtain ⟨hk, hl⟩ := List.nodup_cons.mp hl
    rw [List.foldl_cons, ih hl, State.modRamp_ramp]
    by_cases hg : g = k
    · subst hg
      rw [if_neg hk, if_pos rfl, if_pos List.mem_cons_self]
    · simp [hg]

theorem retarget_frame (groups : BitVec 16) (f : Nat → Nat) (s : State) :
    retarget groups f s = { s with ramps := (retarget groups f s).ramps } :=
  foldl_modRamp_frame (fun g => Ramp.aimed (f g)) (setBits groups) s

theorem retarget_ramp (groups : BitVec 16) (f : Nat → Nat) (s : State) (g : Nat) :
    (retarget groups f s).ramp g = if g < 16 ∧ groups.getLsbD g then (s.ramp g).aimed (f g) else s.ramp g := by
  have hmem : g ∈ setBits groups ↔ g < 16 ∧ groups.getLsbD g = true := by
    rw [mem_setBits_iff]
    exact ⟨fun h => ⟨BitVec.lt_of_getLsbD h, h⟩, fun h => h.2⟩
  exact (foldl_modRamp_ramp (fun g => Ramp.aimed (f g)) _ (setBits_nodup groups) s g).trans (if_congr hmem rfl rfl)

/-- An allotment's groups begin a ramp, and its wait for the rest ramp is over. -/
def State.rampsTo (s : State) (a : Allot) (groups : BitVec 16) (f : Nat → Nat) : State :=
  startRamps (retarget groups f) (s.modAllot a.val (fun x => { x with restLap := none }))

theorem rampsTo_eq (s : State) (a : Allot) (groups : BitVec 16) (f : Nat → Nat) : s.rampsTo a groups f =
    { s with
      ramps := (retarget groups f (s.modAllot a.val (fun x => { x with restLap := none }))).ramps
      allots := (s.modAllot a.val (fun x => { x with restLap := none })).allots
      gear := { s.gear with rampNext := s.nextRamp } } := by
  rw [State.rampsTo, startRamps_eq _ _ (by rw [retarget_frame]) (by rw [retarget_frame]; rfl), retarget_frame]
  rfl

theorem rampsTo_ramp (s : State) (a : Allot) (groups : BitVec 16) (f : Nat → Nat) (g : Nat) : (s.rampsTo a groups f).ramp g =
    if g < 16 ∧ groups.getLsbD g then (s.ramp g).aimed (f g) else s.ramp g := by
  rw [rampsTo_eq]
  exact retarget_ramp groups f (s.modAllot a.val _) g

theorem rampsTo_allot_same (s : State) (a : Allot) (x : AllotSt) (groups : BitVec 16) (f : Nat → Nat)
    (hx : s.allot a.val = some x) : (s.rampsTo a groups f).allot a.val = some { x with restLap := none } := by
  rw [rampsTo_eq]
  refine (State.modAllot_allot_same s a.val _).trans ?_
  rw [hx]
  rfl

theorem rampsTo_allot_other (s : State) (a : Allot) (groups : BitVec 16) (f : Nat → Nat) (b : Nat) (h : b ≠ a.val) :
    (s.rampsTo a groups f).allot b = s.allot b := by
  rw [rampsTo_eq]
  exact (State.modAllot_allot s a.val b _).trans (if_neg h)

theorem rampsTo_frame (s : State) (a : Allot) (groups : BitVec 16) (f : Nat → Nat) : s.rampsTo a groups f =
    { s with ramps := (s.rampsTo a groups f).ramps, allots := (s.rampsTo a groups f).allots, gear := { s.gear with
      rampNext := if s.ramping then s.gear.rampNext else timeOf (s.now.toNat + 15) } } := by
  rw [rampsTo_eq]
  rfl

/-- The target of a rest ramp is below 16, so that it ends a recovery ramp (R274). -/
theorem aimed_restLevel (s : State) (g : Nat) (r : Ramp) :
    r.aimed (s.restLevel g) = { r with target := s.restLevel g, recover := false } := by
  have hlt : s.restLevel g < 4 := BitVec.isLt _
  rw [Ramp.aimed, decide_eq_false (by omega), Bool.and_false]

theorem aimed_sixteen (r : Ramp) : r.aimed 16 = { r with target := 16 } := by
  simp [Ramp.aimed]

section
variable (s : State) (a : Allot) (x : AllotSt) (hx : s.allot a.val = some x) (hc : s.ctl = true) (ht : s.timed = true)
include hx hc ht

theorem exec_restRampStart_due (hrun : x.run = none) (hpend : x.pendRun = none) (l : BitVec 40) (hl : x.restLap = some l)
    (hlap : l.toNat ≤ s.cad.lap.toNat) : exec (.restRampStart a) s = .next (s.rampsTo a x.groups s.restLevel) := by
  rw [exec, execRestRampStart]
  simp only [hx, hc, ht, hrun, hpend, hl, hlap, Option.isNone_none, decide_true, Bool.and_self, if_true]
  rfl

theorem exec_runRampStart_due (hrun : x.run ≠ none ∨ x.pendRun ≠ none) :
    exec (.runRampStart a) s = .next (s.rampsTo a x.groups (fun _ => 16)) := by
  have hsome : (x.run.isSome || x.pendRun.isSome) = true := by
    rw [Bool.or_eq_true]
    exact hrun.imp isSome_of_ne isSome_of_ne
  rw [exec, execRunRampStart]
  simp only [hx, hc, ht, hsome, Bool.and_self, if_true]
  rfl

end

end Sys2Proof.Machine

namespace Sys2Proof.Proofs

open Sys2Proof Sys2Proof.Machine

/-- Settles O6: a ramp step and a recovery step change every group by its own rule, and a start gives the allotment's groups their
target. -/
theorem rampCommands : Obligations.RampCommands := by
  unfold Obligations.RampCommands
  refine ⟨⟨fun s hc ht hramp hle hmod hr => ?_, fun s h => ?_, fun s hc ht h hn hr => ?_⟩,
    fun s a x l hx hc ht hrun hpend hl hlap => ?_, fun s a x hx hc ht hrun => ?_⟩
  · have hdue : s.rampTick = true := by rw [State.rampTick, decide_eq_true hle, decide_eq_true hmod]; rfl
    have hramp' : ∀ g, State.ramp { s with ramps := smapD {} (fun r => rampOne (rampGoal s.hold r) r) s.ramps } g =
        rampOne (rampGoal s.hold (s.ramp g)) (s.ramp g) := fun g => smapD_ramps_ramp _ s g hr (rampOne_default s.hold)
    refine ⟨_, exec_rampStep_due s hc ht hramp hdue, fun g hg => ?_, fun g hg => ?_, rfl⟩
    · rw [hramp']
      exact rampOne_spec _ _ hg
    · rw [hramp']
      exact rampOne_recovering _ _ hg
  · refine congrArg Host.Outcome.next (if_neg ?_)
    rcases h with h | h | h
    · simp [h]
    · simp [State.rampTick, Nat.not_le.mpr h]
    · simp [State.rampTick, h]
  · have hramp : ∀ g, State.ramp { s with ramps := smapD {} Ramp.recovered s.ramps } g = (s.ramp g).recovered :=
      fun g => smapD_ramps_ramp _ s g hr rfl
    refine ⟨_, exec_recoveryRampStep_due s hc ht h hn, fun g hg => ?_, fun g hg => ?_, rfl⟩
    · rw [hramp]
      exact if_pos hg
    · rw [hramp]
      exact if_neg (by rw [hg]; decide)
  · refine ⟨_, exec_restRampStart_due s a x hx hc ht hrun hpend l hl hlap, fun g => ?_, rampsTo_allot_same s a x _ _ hx,
      rampsTo_allot_other s a _ _, rampsTo_frame s a _ _⟩
    rw [rampsTo_ramp, aimed_restLevel]
  · refine ⟨_, exec_runRampStart_due s a x hx hc ht hrun, fun g => ?_, rampsTo_allot_same s a x _ _ hx,
      rampsTo_allot_other s a _ _, rampsTo_frame s a _ _⟩
    rw [rampsTo_ramp, aimed_sixteen]

end Sys2Proof.Proofs
end

section
/-! SUPPORT. The brake level and the hold (10_power_and_cooling, R272, R280, R285 to R287; 06_timetable_and_phases, R169). -/

namespace Sys2Proof.Machine

/-! ### The brake level (R272, R280) -/

/-- A prediction at a brake level fits under the effective cap in the gear in force. -/
def State.brakeFits (s : State) (level : Nat) : Bool := fits (predict s.pwr.basis s.gear.gear.toNat level) (effCap s.pwr) 1

theorem brakeOf_forced (s : State) (h : s.pwr.capUnmet = true ∨ ∃ x ∈ s.thm.tp, (100000 : Rat) ≤ x) : brakeOf s = 14 :=
  if_pos (by rw [Bool.or_eq_true]; exact h.imp_right (comesTo_iff 100000 s.thm.tp).mpr)

theorem brakeOf_free (s : State) (hu : s.pwr.capUnmet = false) (ht : ∀ x ∈ s.thm.tp, x < (100000 : Rat)) :
    brakeOf s = ([16, 15, 14].find? s.brakeFits).getD 14 := by
  have hcool : ¬ ∃ x ∈ s.thm.tp, (100000 : Rat) ≤ x := fun ⟨x, hx, hhot⟩ => absurd (ht x hx) (not_lt.mpr hhot)
  refine if_neg ?_
  rw [hu, Bool.false_or]
  exact fun h => hcool ((comesTo_iff 100000 s.thm.tp).mp h)

/-- The highest of the three levels of a condition (R272). -/
theorem highest_level (p : Nat → Bool) :
    (p 16 = true → ([16, 15, 14].find? p).getD 14 = 16) ∧
    (p 16 = false → p 15 = true → ([16, 15, 14].find? p).getD 14 = 15) ∧
    (p 16 = false → p 15 = false → ([16, 15, 14].find? p).getD 14 = 14) := by
  refine ⟨fun h16 => ?_, fun h16 h15 => ?_, fun h16 h15 => ?_⟩
  · simp [h16]
  · simp [h16, h15]
  · cases h14 : p 14 <;> simp [h16, h15, h14]

theorem exec_brakeLevelEval_due (s : State) (hc : s.ctl = true) (ht : s.timed = true)
    (hd : s.pwr.brakeDue = true ∨ s.cad.tick = 4) (hn : s.shiftNow = false) (h6 : s.inS6 = false) :
    exec .brakeLevelEval s = .next (setBrake (brakeOf s) s) :=
  congrArg Host.Outcome.next (if_pos (by simpa [hc, ht, hn, h6] using hd))

/-! ### Holds (R286, R287) -/

/-- In a hold whose release is not under way every ramp falls to 0 (R286). -/
theorem rampGoal_held (hold : HoldSt) (r : Ramp) (hh : hold.hold = true) (hr : hold.releaseAt = none) : rampGoal hold r = 0 :=
  if_pos (by rw [hh, hr]; rfl)

theorem startRamps_hold (f : State → State) (s : State) : (startRamps f s).hold = (f s).hold := by
  unfold startRamps
  dsimp only
  split <;> rfl

theorem beginHold_eq (s : State) : beginHold s = { fallRamps { s with
    hold := { s.hold with hold := true, at_ := s.now, releaseAt := none }, acc := { s.acc with held := true } } with
      gear := { s.gear with rampNext := s.nextRamp } } := startRamps_eq _ s rfl rfl

theorem fallRamps_ramp (s : State) (g : Nat) (hr : rising s.ramps = true) :
    (fallRamps s).ramp g = { s.ramp g with recover := false } :=
  smapD_ramps_ramp (fun r => { r with recover := false }) s g hr rfl

section
variable (s : State) (hc : s.ctl = true) (hb : s.brakePoint = true)
include hc hb

theorem exec_holdBegin_begins (hh : s.hold.hold = false) (hr : ∀ r, s.hold.resumed = some r → r.at_ ≠ s.now) :
    exec .holdBegin s = .next (beginHold s) := by
  refine congrArg Host.Outcome.next ((if_pos (by rw [hc, hb]; rfl)).trans ((if_neg (by rw [hh]; decide)).trans ?_))
  cases h : s.hold.resumed with
  | none => rfl
  | some r => exact if_neg (hr r h)

/-- BRAKE sampled high once a release is set cancels it (R287). -/
theorem exec_holdBegin_cancels (hh : s.hold.hold = true) (hr : s.hold.releaseAt ≠ none) : exec .holdBegin s = .next { s with
    hold := { s.hold with releaseAt := none }, gear := { s.gear with rampNext := s.nextRamp } } :=
  congrArg Host.Outcome.next ((if_pos (by rw [hc, hb]; rfl)).trans ((if_pos hh).trans ((if_pos (isSome_of_ne hr)).trans
    (startRamps_eq (fun s => { s with hold := { s.hold with releaseAt := none } }) s rfl rfl))))

theorem exec_holdBegin_still (hh : s.hold.hold = true) (hr : s.hold.releaseAt = none) : exec .holdBegin s = .next s :=
  congrArg Host.Outcome.next ((if_pos (by rw [hc, hb]; rfl)).trans ((if_pos hh).trans (if_neg (by rw [hr]; decide))))

theorem exec_brakeReleaseSample_due (hh : s.hold.hold = true) (hr : s.hold.releaseAt = none) :
    exec .brakeReleaseSample s = .next { s with
      hold := { s.hold with releaseAt := some (timeOf (s.now.toNat + 320)) }, gear := { s.gear with rampNext := s.nextRamp } } :=
  congrArg Host.Outcome.next ((if_pos (by rw [hc, hb, hh, hr]; rfl)).trans
    (startRamps_eq (fun s => { s with hold := { s.hold with releaseAt := some (timeOf (s.now.toNat + 320)) } }) s rfl rfl))

/-- BRAKE sampled high in the tick of a release takes the release back (R287). -/
theorem exec_holdBegin_unreleases (r : Resumed) (hh : s.hold.hold = false) (hr : s.hold.resumed = some r) (hn : r.at_ = s.now) :
    exec .holdBegin s = .next (unrelease r s) := by
  refine congrArg Host.Outcome.next ((if_pos (by rw [hc, hb]; rfl)).trans ((if_neg (by rw [hh]; decide)).trans ?_))
  rw [hr]
  exact if_pos hn

end

theorem unrelease_hold (r : Resumed) (s : State) :
    (unrelease r s).hold = { hold := true, at_ := r.from_, h := r.h, lapEnd := r.lapEnd } := by
  rw [unrelease, startRamps_hold]

/-! ### The release (R169, R287) -/

/-- The hold at its release: H has grown, and where the held lap ends is known. -/
def State.released (s : State) : HoldSt :=
  let h' := s.hold.h + (s.now.toNat - s.hold.at_.toNat)
  let waiting := decide (s.hold.h ≠ 0) && decide (s.hold.lapEnd.toNat ≤ s.hold.at_.toNat)
  { s.hold with
    hold := false, releaseAt := none, h := h'
    lapEnd := if waiting then s.hold.lapEnd else timeOf (((s.hold.at_.toNat - s.hold.h) / 65536 + 1) * 65536 + h')
    resumed := some ⟨s.now, s.hold.at_, s.hold.h, s.hold.lapEnd⟩ }

/-- The timetables resume, later by the ticks that the hold has lasted. -/
def State.resumes (s : State) : State :=
  moveAll (later (s.now.toNat - s.hold.at_.toNat)) s.hold.at_ { s with hold := s.released }

theorem exec_holdRelease_due (s : State) (ht : s.timed = true) (hh : s.hold.hold = true) (hr : s.hold.releaseAt = some s.now) :
    exec .holdRelease s = .next s.resumes :=
  congrArg Host.Outcome.next (if_pos (by rw [ht, hh, decide_eq_true hr]; rfl))

/-- BRAKE sampled high in the tick of the release finds the release in that tick. -/
theorem exec_holdBegin_resumes (s : State) (hc : s.ctl = true) (hb : s.brakePoint = true) : exec .holdBegin s.resumes =
    .next (unrelease ⟨s.now, s.hold.at_, s.hold.h, s.hold.lapEnd⟩ s.resumes) :=
  exec_holdBegin_unreleases s.resumes hc hb _ rfl rfl rfl

/-- Every timetable's position is moved (R169). -/
theorem moveAll_pos (f : Time → Time) (at_ : Time) (s : State) (n : Nat) (a : AllotSt) (h : s.allot n = some a) :
    ((moveAll f at_ s).allot n).map (·.pos) = some (a.pos.map (movePos f)) := by
  rw [moveAll, State.allot, Laws.sfind_smap, ← State.allot, h]
  rfl

end Sys2Proof.Machine

namespace Sys2Proof.Proofs

open Sys2Proof Sys2Proof.Machine

/-- Settles O7: the level is the highest that fits; each sample of BRAKE is one branch of the hold, and the release moves every timetable
by the ticks that the hold has lasted. -/
theorem brakeCommands : Obligations.BrakeCommands := by
  unfold Obligations.BrakeCommands
  refine ⟨⟨fun s hc ht hd hn h6 => ?_, fun s h => ?_⟩, fun s hc hb hh hres hr => ?_, fun s hc hb hh hrel => ?_, fun s hc hb hh hrel => ?_,
    fun s hb => ?_, fun s ht hh hrel => ?_⟩
  · refine ⟨_, exec_brakeLevelEval_due s hc ht hd hn h6, brakeOf_forced s, fun hu htp => ?_, rfl⟩
    have hlevel : (setBrake (brakeOf s) s).pwr.brake = ([16, 15, 14].find? s.brakeFits).getD 14 := brakeOf_free s hu htp
    rw [hlevel]
    exact highest_level s.brakeFits
  · refine congrArg Host.Outcome.next (if_neg ?_)
    rcases h with h | h | ⟨hd, ht⟩
    · simp [h]
    · simp [h]
    · rw [hd, decide_eq_false ht]
      simp
  · refine ⟨_, exec_holdBegin_begins s hc hb hh hres, ?_⟩
    rw [beginHold_eq]
    exact ⟨rfl, rfl, fun g => ⟨fallRamps_ramp _ g hr, rampGoal_held _ _ rfl rfl⟩, rfl⟩
  · exact exec_holdBegin_cancels s hc hb hh hrel
  · exact ⟨exec_holdBegin_still s hc hb hh hrel, exec_brakeReleaseSample_due s hc hb hh hrel⟩
  · exact ⟨congrArg Host.Outcome.next (if_neg (by simp [hb])), congrArg Host.Outcome.next (if_neg (by simp [hb]))⟩
  · refine ⟨_, exec_holdRelease_due s ht hh hrel, rfl, rfl, rfl, fun n a ha => moveAll_pos _ _ _ n a ha, rfl, fun hc hb => ?_⟩
    refine ⟨_, exec_holdBegin_resumes s hc hb, ?_⟩
    rw [unrelease_hold, ← hh]

end Sys2Proof.Proofs
end

section
/-! SUPPORT. VIN_LOW, the thermal trip and the order of the fault store (10_power_and_cooling, R265, R295, R300; 14_bringup_and_recovery,
R388, R389). -/

namespace Sys2Proof.Machine

/-! ### Causes of HST_EVT (R326) -/

/-- VIN_LOW is bit 5 of HST_EVT. -/
theorem evtBits_vinLow (s : State) : bit (evtBits s) 5 = s.pwr.vinLow := by
  simp only [evtBits, bit, BitVec.getLsbD_append]
  cases s.pwr.vinLow <;> rfl

/-- TRIP is bit 0 of HST_EVT. -/
theorem evtBits_trip (s : State) : bit (evtBits s) 0 = s.thm.trip := by
  simp only [evtBits, bit, BitVec.getLsbD_append]
  cases s.thm.trip <;> rfl

/-! ### The trip (R295, R300) -/

/-- VCORE of every pavilion once its regulator is open. -/
def openSlews (now : Time) (m : Sparse Slew) : Sparse Slew :=
  (List.range 4).foldl (fun m p => smod {} m p (fun _ => ⟨0, 0, now⟩)) m

theorem openSlews_slew (now : Time) (m : Sparse Slew) (p : Pav) : sget {} (openSlews now m) p.val = ⟨0, 0, now⟩ :=
  sget_foldl_smod_range4 {} m (fun _ => ⟨0, 0, now⟩) p

/-- The comparators have tripped: VCORE is open, TRIP latched, the trip counted. -/
def State.tripped (s : State) : State := { s with
  thm := { s.thm with trip := true }, gear := { s.gear with slews := openSlews s.now s.gear.slews }
  mgmt := { s.mgmt with odo := { s.mgmt.odo with trips := s.mgmt.odo.trips + 1 } } }

/-- The code of THERMAL_TRIP names the diode (Table 14-5). -/
def tripCode (p : Pav) (d : Fin 16) : Word := 0x70020000#32 + BitVec.ofNat 32 (256 * p.val + d.val)

theorem faultCode_trip (p : Pav) (d : Fin 16) : faultCode 0x7 0x002 (BitVec.ofNat 16 (256 * p.val + d.val)) = tripCode p d := by
  revert p d
  decide

/-- What the active warden makes of a trip (R300). -/
def State.tripTold (s : State) (p : Pav) (d : Fin 16) : State :=
  alertEvents (stopAll (writeFault (tripCode p d) 0 (BitVec.ofNat 3 p.val) 0xFF none s.tripped))

theorem exec_thermalTrip_told (s : State) (p : Pav) (d : Fin 16) (hc : s.ctl = true) (ht : s.thm.trip = false) :
    exec (.thermalTrip p d) s = .next (s.tripTold p d) := by
  have hon : s.boot.supply = .on := by
    have hclocked := clocked_of_ctl s hc
    simp only [State.clocked, Bool.and_eq_true, decide_eq_true_iff] at hclocked
    exact hclocked.1
  have hc' : s.tripped.ctl = true := hc
  rw [State.tripTold, ← faultCode_trip]
  exact congrArg Host.Outcome.next ((if_pos (by rw [hon, ht]; rfl)).trans (if_pos hc'))

/-- A trip before the wardens run (R419). -/
theorem exec_thermalTrip_untold (s : State) (p : Pav) (d : Fin 16) (hv : s.boot.supply ≠ .off) (hc : s.ctl = false)
    (ht : s.thm.trip = false) : exec (.thermalTrip p d) s = .next (alertMessages s.tripped) := by
  have hc' : ¬ s.tripped.ctl = true := ne_true_of_eq_false hc
  exact congrArg Host.Outcome.next ((if_pos (by rw [ht, decide_eq_true hv]; rfl)).trans (if_neg hc'))

theorem tripTold_thm (s : State) (p : Pav) (d : Fin 16) : (s.tripTold p d).thm = { s.thm with trip := true } := by
  rw [State.tripTold, alertEvents_thm, stopAll, writeFault_thm]
  rfl

theorem tripTold_gear (s : State) (p : Pav) (d : Fin 16) :
    (s.tripTold p d).gear = { s.gear with slews := openSlews s.now s.gear.slews } := by
  rw [State.tripTold, alertEvents_gear, stopAll, writeFault_gear]
  rfl

theorem tripTold_trips (s : State) (p : Pav) (d : Fin 16) : (s.tripTold p d).mgmt.odo.trips = s.mgmt.odo.trips + 1 := by
  rw [State.tripTold, alertEvents_odo, stopAll, writeFault_odo]
  rfl

/-- Of the trip's own changes the fault record looks at none. -/
theorem tripTold_frc (s : State) (p : Pav) (d : Fin 16) :
    (s.tripTold p d).frc = (writeFault (tripCode p d) 0 (BitVec.ofNat 3 p.val) 0xFF none s).frc := by
  rw [State.tripTold, alertEvents_frc, stopAll, writeFault_frc, writeFault_frc]
  rfl

theorem stopAll_allot (s : State) (n : Nat) (a : AllotSt) (h : s.allot n = some a) : (stopAll s).allot n = some a.fault := by
  rw [stopAll, State.allot, Laws.sfind_smap, ← State.allot, h]
  rfl

theorem tripTold_allot (s : State) (p : Pav) (d : Fin 16) (n : Nat) (a : AllotSt) (h : s.allot n = some a) :
    (s.tripTold p d).allot n = some a.fault := by
  rw [State.tripTold, State.allot, alertEvents_allots]
  refine stopAll_allot _ n a ?_
  rw [State.allot, writeFault_allots]
  exact h

theorem tripTold_frame (s : State) (p : Pav) (d : Fin 16) : s.tripTold p d =
    { s with thm := (s.tripTold p d).thm, gear := { s.gear with slews := (s.tripTold p d).gear.slews }, frc := (s.tripTold p d).frc
             allots := (s.tripTold p d).allots, mgmt := (s.tripTold p d).mgmt, out := (s.tripTold p d).out
             ports := (s.tripTold p d).ports, evtSeen := (s.tripTold p d).evtSeen, evtMsg := (s.tripTold p d).evtMsg } := by
  rw [tripTold_gear, tripTold_thm, State.tripTold, alertEvents_frame, stopAll, writeFault_frame]
  rfl

/-! ### The order of the fault store (R388) -/

/-- Two records in a row take two places. -/
theorem slotOf_succ_ne (q : Word) : slotOf (q + 1) ≠ slotOf q := by
  have hq := q.isLt
  have h1 : (1 : Word).toNat = 1 := rfl
  simp only [slotOf, BitVec.add_sub_cancel, BitVec.toNat_sub, h1]
  omega

theorem settle_none (r : FaultRec) (recs : Sparse FaultRec) (q : Word) :
    settle r recs q 0 = sput {} recs (slotOf q) { r with seq := q } := rfl

/-- A record that does not rank ahead of the one before it stands after it. -/
theorem settle_after (r : FaultRec) (recs : Sparse FaultRec) (q : Word)
    (h : (sget {} recs (slotOf q)).rank ≤ r.rank) :
    settle r recs (q + 1) 1 = sput {} recs (slotOf (q + 1)) { r with seq := q + 1 } := by
  rw [settle, BitVec.add_sub_cancel]
  exact if_neg (Nat.not_lt.mpr h)

/-- A record that ranks ahead of the one before it changes places with it. -/
theorem settle_ahead (r : FaultRec) (recs : Sparse FaultRec) (q : Word) (h : r.rank < (sget {} recs (slotOf q)).rank) :
    settle r recs (q + 1) 1 =
      sput {} (sput {} recs (slotOf (q + 1)) { sget {} recs (slotOf q) with seq := q + 1 }) (slotOf q) { r with seq := q } := by
  rw [settle, BitVec.add_sub_cancel]
  exact if_pos h

/-- Both places are read as they were written. -/
theorem sget_settle_ahead (r : FaultRec) (recs : Sparse FaultRec) (q : Word) (h : r.rank < (sget {} recs (slotOf q)).rank) (i : Nat) :
    sget {} (settle r recs (q + 1) 1) i = if i = slotOf (q + 1) then { sget {} recs (slotOf q) with seq := q + 1 }
      else if i = slotOf q then { r with seq := q } else sget {} recs i := by
  rw [settle_ahead r recs q h, Laws.sget_sput, Laws.sget_sput]
  by_cases hi : i = slotOf (q + 1)
  · rw [if_pos hi, if_neg (hi ▸ slotOf_succ_ne q), if_pos hi]
  · rw [if_neg hi, if_neg hi]

end Sys2Proof.Machine

namespace Sys2Proof.Proofs

open Sys2Proof Sys2Proof.Machine

/-- Settles O12: VIN_LOW and TRIP are bits 5 and 0 of HST_EVT, and a record of the tick of the one before changes places with it where
it ranks ahead. -/
theorem alarmCommands : Obligations.AlarmCommands := by
  unfold Obligations.AlarmCommands
  refine ⟨fun s hc => ?_, fun s hc => ?_, fun s p d hc ht => ?_, fun s p d hv hc ht => ?_, fun s p d ht => ?_,
    fun s code slice die array entry => ?_⟩
  · have hcause : bit (evtBits (alertEvents { s with pwr := { s.pwr with vinLow := true } })) 5 = true := by
      rw [alertEvents_evtBits, evtBits_vinLow]
    exact ⟨_, congrArg Host.Outcome.next (if_pos hc), alertLow_of_cause _ 5 hcause, hcause, rfl⟩
  · refine ⟨_, congrArg Host.Outcome.next (if_pos hc), ?_, rfl⟩
    rw [alertEvents_evtBits, evtBits_vinLow]
  · refine ⟨_, exec_thermalTrip_told s p d hc ht, tripTold_thm s p d, ?_, tripTold_trips s p d, fun q => ?_, tripTold_frc s p d,
      tripTold_allot s p d, tripTold_frame s p d⟩
    · refine alertLow_of_cause _ 0 ?_
      rw [evtBits_trip, tripTold_thm]
    · rw [tripTold_gear]
      exact openSlews_slew s.now s.gear.slews q
  · exact ⟨_, exec_thermalTrip_untold s p d hv hc ht, rfl, rfl, rfl, fun q => openSlews_slew s.now s.gear.slews q, rfl⟩
  · exact congrArg Host.Outcome.next (if_neg (by simp [ht]))
  · intro new old f
    have hf : f = { s.frc with seq := s.frc.seq + 1, tickAt := s.now, inTick := s.ofTick s.now + 1,
                               recs := settle new s.frc.recs (s.frc.seq + 1) (s.ofTick s.now) } := writeFault_frc ..
    rw [hf]
    refine ⟨rfl, fun h i => ?_, fun h hahead i => ?_⟩
    · have hsettle : settle new s.frc.recs (s.frc.seq + 1) (s.ofTick s.now) = sput {} s.frc.recs (slotOf (s.frc.seq + 1)) new := by
        rcases h with h | ⟨h, hrank⟩
        · rw [h, settle_none]
        · rw [h, settle_after _ _ _ hrank]
      rw [hsettle, Laws.sget_sput]
    · rw [h]
      exact sget_settle_ahead new s.frc.recs s.frc.seq hahead i

end Sys2Proof.Proofs
end

section
/-! SUPPORT. The roll call (10_power_and_cooling, R268, R281 to R283). -/

namespace Sys2Proof.Machine

/-! ### The messages (R281, Table 10-5) -/

/-- A little-endian field holds its number modulo its size. -/
theorem leNat_leBytes (n v : Nat) : leNat (leBytes n v) = v % 256 ^ n := by
  induction n generalizing v with
  | zero => rw [pow_zero, Nat.mod_one]; rfl
  | succ n ih =>
    have hbyte : (BitVec.ofNat 8 v).toNat = v % 256 := BitVec.toNat_ofNat v 8
    rw [leBytes, leNat, ih, hbyte, pow_succ, mul_comm (256 ^ n) 256, Nat.mod_mul]

/-- What a ROLL_CALL message holds: the low half of the lap, the own rank, the permitted gear and the variant. -/
theorem rollPayload_fields (s : State) (p : Peloton) : (rollPayload s p).length = 32 ∧
    bytesAt (rollPayload s p) 0 4 = leBytes 4 (s.cad.lap.setWidth 32).toNat ∧ bytesAt (rollPayload s p) 4 2 = leBytes 2 p.rank ∧
    byteAt (rollPayload s p) 6 = s.pwr.permitted.setWidth 8 ∧ byteAt (rollPayload s p) 8 = p.variant := ⟨rfl, rfl, rfl, rfl, rfl⟩

theorem injectAt_frame (mover : Option Nat) (t : Time) (h station : Nat) (p : Packet) (s : State) :
    ∃ st l, injectAt mover t h station p s = { s with stations := st, live := l } := by
  unfold injectAt
  split
  · exact ⟨_, _, rfl⟩
  · split <;> exact ⟨_, _, rfl⟩

/-- Packets that enter the fabric change stations and live counters alone. -/
theorem sendRollCall_frame (p : Peloton) (s : State) : ∃ st l, sendRollCall p s = { s with stations := st, live := l } := by
  refine List.foldlRecOn (motive := fun t : State => ∃ st l, t = { s with stations := st, live := l }) _ _ ⟨_, _, rfl⟩
    fun t ht e _ => ?_
  obtain ⟨st, l, rfl⟩ := ht
  by_cases hown : e.2 = p.rank
  · exact ⟨st, l, if_pos hown⟩
  · obtain ⟨st', l', h⟩ := injectAt_frame none _ _ 19 _ { s with stations := st, live := l }
    exact ⟨st', l', (if_neg hown).trans h⟩

theorem sendRollCalls_frame (ps : List Peloton) (s : State) :
    ∃ st l, ps.foldl (fun s p => sendRollCall p s) s = { s with stations := st, live := l } := by
  refine List.foldlRecOn (motive := fun t : State => ∃ st l, t = { s with stations := st, live := l }) ps _ ⟨_, _, rfl⟩
    fun t ht p _ => ?_
  obtain ⟨st, l, rfl⟩ := ht
  exact sendRollCall_frame p _

/-- The permitted gear sampled. -/
def State.rollSampled (s : State) : State :=
  { s with gear := { s.gear with sampled := s.pwr.permitted, sampledLap := some s.cad.lap, msgs := [] } }

theorem atTick_of_eq (s : State) (n : Nat) (ht : s.timed = true) (h : s.cad.tick.toNat = n) : s.atTick n = true := by
  rw [State.atTick, ht, decide_eq_true h]
  rfl

theorem atTick_of_ne (s : State) (n : Nat) (h : s.cad.tick.toNat ≠ n) : s.atTick n = false := by
  rw [State.atTick, decide_eq_false h, Bool.and_false]

theorem exec_rollCallSample_due (s : State) (hc : s.ctl = true) (ht : s.timed = true) (h : s.cad.tick = 65472) :
    exec .rollCallSample s = .next (s.pelotons.foldl (fun s p => sendRollCall p s) s.rollSampled) :=
  congrArg Host.Outcome.next (if_pos (by rw [hc, atTick_of_eq s _ ht (by rw [h]; rfl)]; rfl))

/-! ### The decision (R282) -/

/-- The lowest incomplete job slice, with one more peloton looked at. -/
def laterIncomplete (s : State) (best : Option (BitVec 12 × Nat)) (p : Peloton) : Option (BitVec 12 × Nat) :=
  match missingRank s p, best with
  | none, b => b
  | some r, none => some (p.slice, r)
  | some r, some (sl, q) => if p.slice.toNat < sl.toNat then some (p.slice, r) else some (sl, q)

theorem firstIncomplete_eq (s : State) : firstIncomplete s = s.pelotons.foldl (laterIncomplete s) none := rfl

theorem laterIncomplete_isSome (s : State) (best : Option (BitVec 12 × Nat)) (p : Peloton) :
    (laterIncomplete s best p).isSome = true ↔ best.isSome = true ∨ missingRank s p ≠ none := by
  unfold laterIncomplete
  cases missingRank s p with
  | none => simp
  | some r =>
    cases best with
    | none => simp
    | some b =>
      dsimp only
      split <;> simp

/-- A roll call is incomplete where some peloton misses a member. -/
theorem firstIncomplete_isSome (s : State) : (firstIncomplete s).isSome = true ↔ ∃ p ∈ s.pelotons, missingRank s p ≠ none := by
  have hfold : ∀ (l : List Peloton) (best : Option (BitVec 12 × Nat)), (l.foldl (laterIncomplete s) best).isSome = true ↔
      best.isSome = true ∨ ∃ p ∈ l, missingRank s p ≠ none := by
    intro l
    induction l with
    | nil => simp
    | cons p l ih =>
      intro best
      rw [List.foldl_cons, ih, laterIncomplete_isSome, or_assoc, List.exists_mem_cons_iff]
  rw [firstIncomplete_eq, hfold]
  simp

theorem decideGear_alone (s : State) (h : s.pelotons = []) : decideGear s = offeredAtMost s.offered (aloneGear s) := by
  rw [decideGear, h]

theorem decideGear_one (s : State) (p : Peloton) (h : s.pelotons = [p]) :
    decideGear s = offeredAtMost s.offered (pelotonGear s p) := by
  rw [decideGear, h]
  rfl

/-! ### What follows from it (R268, R283) -/

/-- Two states that differ in the slews of VCORE alone. -/
def SlewsOnly (s t : State) : Prop := ∃ w, t = { s with gear := { s.gear with slews := w } }

theorem SlewsOnly.foldl {α : Type} (f : State → α → State) (h : ∀ s x, SlewsOnly s (f s x)) (l : List α) (s : State) :
    SlewsOnly s (l.foldl f s) := by
  refine List.foldlRecOn (motive := SlewsOnly s) l f ⟨s.gear.slews, rfl⟩ fun t ht x _ => ?_
  obtain ⟨w, rfl⟩ := ht
  obtain ⟨w', h'⟩ := h { s with gear := { s.gear with slews := w } } x
  exact ⟨w', h'⟩

theorem slewTo_slewsOnly (p : Nat) (mv : Rat) (t : Time) (s : State) : SlewsOnly s (slewTo p mv t s) := by
  unfold slewTo
  split
  · exact ⟨s.gear.slews, rfl⟩
  · exact ⟨_, rfl⟩

theorem slewBack_slewsOnly (s : State) : SlewsOnly s (slewBack s) := by
  refine SlewsOnly.foldl _ (fun s p => ?_) (List.range 4) s
  split
  · exact slewTo_slewsOnly _ _ _ _
  · exact ⟨s.gear.slews, rfl⟩

/-- An idle PLL programmed for a gear, which unlocks it. -/
def Pll.programmedFor (g : Nat) (x : Pll) : Pll := { x with idleLock := false, ratio := BitVec.ofNat 5 (cptOf g) }

/-- The PLLs once the idle ones are programmed for a gear; those that are programmed for it stay as they are. -/
def State.pllsFor (s : State) (g : Nat) : Sparse Pll :=
  if s.gear.programmed.toNat = g then s.plls
  else (List.range 4).foldl (fun m p => smod {} m p (Pll.programmedFor g)) s.plls

theorem pllsFor_pll (s : State) (g : Nat) (p : Pav) : sget {} (s.pllsFor g) p.val =
    if s.gear.programmed.toNat = g then s.pll p.val else (s.pll p.val).programmedFor g := by
  unfold State.pllsFor
  split
  · rfl
  · rw [sget_foldl_smod_range4, State.pll]

/-- The idle PLLs programmed for a gear, and a shift due. -/
def State.idleProgrammed (s : State) (g : Nat) : State :=
  { s with plls := s.pllsFor g, gear := { s.gear with programmed := BitVec.ofNat 3 g, shiftDue := true } }

/-- An upshift whose PLL is locked slews VCORE of its pavilion (R268). -/
def slewLocked (g : Nat) (up : Bool) (s : State) (p : Nat) : State :=
  if up && (s.pll p).idleLock then slewTo p (coreMv g) (later 1 s.now) s else s

theorem programIdle_eq (g : Nat) (s : State) : programIdle g s =
    (List.range 4).foldl (slewLocked g (decide (s.gear.gear.toNat < g))) (s.idleProgrammed g) := by
  unfold programIdle State.idleProgrammed State.pllsFor
  by_cases h : s.gear.programmed.toNat = g
  · have hg : BitVec.ofNat 3 g = s.gear.programmed := by rw [← h, BitVec.ofNat_toNat, BitVec.setWidth_eq]
    simp only [if_pos h, hg]
    rfl
  · simp only [if_neg h, foldl_modPll]
    rfl

theorem programIdle_slewsOnly (g : Nat) (s : State) : SlewsOnly (s.idleProgrammed g) (programIdle g s) := by
  rw [programIdle_eq]
  refine SlewsOnly.foldl _ (fun s p => ?_) (List.range 4) _
  unfold slewLocked
  split
  · exact slewTo_slewsOnly _ _ _ _
  · exact ⟨s.gear.slews, rfl⟩

/-- The registers of the roll call once it is decided. -/
def State.rollDecided (s : State) (lap : BitVec 40) : State := { s with gear := { s.gear with
  decided := BitVec.ofNat 3 (decideGear s), rcLap := lap.setWidth 32, rcIncomplete := (firstIncomplete s).isSome
  rcMissRank := match firstIncomplete s with | some (_, r) => BitVec.ofNat 11 r | none => 0x7FF
  rcJob := (firstIncomplete s).map (·.1), rcIgnored := BitVec.ofNat 5 (min 31 s.gear.ignored)
  rcReceived := BitVec.ofNat 11 (min 2047 s.gear.msgs.length), msgs := [], ignored := 0 } }

/-- VCORE goes back where the decision is no upshift (R268). -/
def State.rollSlewed (s : State) (lap : BitVec 40) : State :=
  if decideGear s ≤ s.gear.gear.toNat then slewBack (s.rollDecided lap) else s.rollDecided lap

theorem takeDecision_eq (lap : BitVec 40) (s : State) : takeDecision lap s = if decideGear s = s.gear.gear.toNat
    then { s.rollSlewed lap with gear := { (s.rollSlewed lap).gear with shiftDue := false } }
    else programIdle (decideGear s) (s.rollSlewed lap) := by
  have hgear : (s.rollSlewed lap).gear.gear = s.gear.gear := by
    unfold State.rollSlewed
    split
    · obtain ⟨w, h⟩ := slewBack_slewsOnly (s.rollDecided lap)
      rw [h]
      rfl
    · rfl
  rw [← hgear]
  rfl

theorem rollSlewed_slewsOnly (s : State) (lap : BitVec 40) : SlewsOnly (s.rollDecided lap) (s.rollSlewed lap) := by
  unfold State.rollSlewed
  split
  · exact slewBack_slewsOnly _
  · exact ⟨s.gear.slews, rfl⟩

/-- A decision for the gear in force leaves the PLLs and lets no shift take place. -/
theorem takeDecision_same (lap : BitVec 40) (s : State) (h : decideGear s = s.gear.gear.toNat) : SlewsOnly
    { s with gear := { (s.rollDecided lap).gear with shiftDue := false } } (takeDecision lap s) := by
  obtain ⟨w, hslewed⟩ := rollSlewed_slewsOnly s lap
  rw [takeDecision_eq, if_pos h, hslewed]
  exact ⟨w, rfl⟩

/-- A decision for another gear programs the idle PLLs for it (R283). -/
theorem takeDecision_other (lap : BitVec 40) (s : State) (h : decideGear s ≠ s.gear.gear.toNat) : SlewsOnly
    { s with plls := s.pllsFor (decideGear s), gear := { (s.rollDecided lap).gear with
      programmed := BitVec.ofNat 3 (decideGear s), shiftDue := true } } (takeDecision lap s) := by
  obtain ⟨w, hslewed⟩ := rollSlewed_slewsOnly s lap
  obtain ⟨w', hprog⟩ := programIdle_slewsOnly (decideGear s) (s.rollSlewed lap)
  rw [takeDecision_eq, if_neg h, hprog, hslewed]
  exact ⟨w', rfl⟩

theorem exec_rollCallDecision_due (s : State) (hc : s.ctl = true) (ht : s.timed = true) (h : s.cad.tick = 16384)
    (h8 : s.boot.step = 8) (hl : s.gear.sampledLap = some (s.cad.lap - 1)) :
    exec .rollCallDecision s = .next (takeDecision (s.cad.lap - 1) s) :=
  congrArg Host.Outcome.next (if_pos (by
    rw [hc, atTick_of_eq s _ ht (by rw [h]; rfl), decide_eq_true h8, decide_eq_true hl]; rfl))

end Sys2Proof.Machine

namespace Sys2Proof.Proofs

open Sys2Proof Sys2Proof.Machine

/-- Settles O13: the messages change stations and counters alone; a decision is its registers, then the idle PLLs where the gear
changes, and VCORE. -/
theorem rollCallCommands : Obligations.RollCallCommands := by
  unfold Obligations.RollCallCommands
  refine ⟨fun s hc ht h => ?_, fun s p => ?_, fun s h => ?_, fun s hc ht h h8 hl => ?_, fun s h => ?_, decideGear_alone,
    fun s p g hp hg => ?_⟩
  · obtain ⟨st, l, hsent⟩ := sendRollCalls_frame s.pelotons s.rollSampled
    have hgear : (s.pelotons.foldl (fun s p => sendRollCall p s) s.rollSampled).gear = s.rollSampled.gear := by rw [hsent]
    refine ⟨_, exec_rollCallSample_due s hc ht h, hgear, ?_, fun hnone => ?_, ?_, ?_, ?_⟩
    · rw [hgear]
      rfl
    · rw [hgear, hnone]
      rfl
    all_goals
      rw [hsent]
      rfl
  · obtain ⟨hlength, hlap, hrank, hgear, hvariant⟩ := rollPayload_fields s p
    rw [hlap, hrank, hgear, leNat_leBytes, leNat_leBytes, BitVec.toNat_setWidth, BitVec.toNat_setWidth]
    have hpermitted := s.pwr.permitted.isLt
    exact ⟨hlength, Nat.mod_mod _ _, rfl, Nat.mod_eq_of_lt (by omega), hvariant⟩
  · have hne : s.cad.tick.toNat ≠ 65472 := fun hn => h (BitVec.eq_of_toNat_eq hn)
    exact congrArg Host.Outcome.next (if_neg (by rw [atTick_of_ne s _ hne, Bool.and_false]; decide))
  · refine ⟨_, exec_rollCallDecision_due s hc ht h h8 hl, ?_⟩
    by_cases hsame : decideGear s = s.gear.gear.toNat
    · obtain ⟨w, htaken⟩ := takeDecision_same (s.cad.lap - 1) s hsame
      rw [htaken, if_pos hsame]
      exact ⟨rfl, rfl, rfl, rfl, rfl, by simp [hsame], firstIncomplete_isSome s, rfl, fun p => (if_pos (Or.inl hsame)).symm, rfl, rfl⟩
    · obtain ⟨w, htaken⟩ := takeDecision_other (s.cad.lap - 1) s hsame
      rw [htaken, if_neg hsame]
      refine ⟨rfl, rfl, rfl, rfl, rfl, by simp [hsame], firstIncomplete_isSome s, rfl, fun p => ?_, rfl, rfl⟩
      exact (pllsFor_pll s _ p).trans (if_congr (or_iff_right hsame).symm rfl rfl)
  · refine congrArg Host.Outcome.next (if_neg ?_)
    rcases h with h | h | h
    · have hne : s.cad.tick.toNat ≠ 16384 := fun hn => h (BitVec.eq_of_toNat_eq hn)
      simp [atTick_of_ne s _ hne]
    · rw [decide_eq_false h]
      simp
    · rw [decide_eq_false h]
      simp
  · rw [decideGear_one s p hp, pelotonGear, hg]
    exact congrArg (offeredAtMost s.offered) (if_congr Option.isSome_iff_ne_none rfl rfl)

end Sys2Proof.Proofs
end

section
/-! SUPPORT. Power loss and power-up (10_power_and_cooling, R265, R296, R298; 14_bringup_and_recovery, R378, R388, R393, R394). -/

namespace Sys2Proof.Machine

/-! ### Spokes that are down (R206) -/

/-- Number k of a table of spokes reads as DOWN, and no step that leaves out default entries brings another entry of it to light. -/
def DownAt (k : Nat) (m : Sparse SpokeSt) : Prop := sfind m k = none ∨ sget {} m k ≠ {} ∧ (sget {} m k).state = 0

theorem DownAt.state {k : Nat} {m : Sparse SpokeSt} (h : DownAt k m) : (sget {} m k).state = 0 := by
  rcases h with h | ⟨-, h⟩
  · rw [sget, h]
    rfl
  · exact h

theorem sfind_sput_other {α : Type} [DecidableEq α] (d : α) (m : Sparse α) (j k : Nat) (v : α) (h : k ≠ j) :
    sfind (sput d m j v) k = sfind m k := by
  unfold sput
  split
  · rw [Laws.sfind_sdel, if_neg h]
  · rw [Laws.sfind_sset, if_neg h]

theorem downAt_fallen (k : Nat) (m : Sparse SpokeSt) : DownAt k (smod {} m k (·.fallen 0)) := by
  by_cases h : (sget {} m k).fallen 0 = {}
  · refine Or.inl ?_
    rw [smod, sput, if_pos h, Laws.sfind_sdel, if_pos rfl]
  · refine Or.inr ?_
    rw [Laws.sget_smod_same]
    exact ⟨h, rfl⟩

theorem DownAt.fall {k : Nat} {m : Sparse SpokeSt} (h : DownAt k m) (j : Nat) : DownAt k (smod {} m j (·.fallen 0)) := by
  by_cases hj : k = j
  · subst hj
    exact downAt_fallen k m
  · unfold DownAt
    rw [smod, sfind_sput_other _ _ _ _ _ hj, sget, sfind_sput_other _ _ _ _ _ hj]
    exact h

/-- An abandoned credit book leaves no entry at its default that was not. -/
theorem eq_default_of_unowed (j : Nat) (x : SpokeSt) (h : x.unowed j = {}) : x = {} := by
  have hingress : x.ingress = [] := List.map_eq_nil_iff.mp (congrArg SpokeSt.ingress h)
  have hctl : x.ctl = [] := List.map_eq_nil_iff.mp (congrArg SpokeSt.ctl h)
  have hsame : x.unowed j = x := by
    have hi : x.ingress.map (Queued.unowed j) = x.ingress := by rw [hingress]; rfl
    have hc : x.ctl.map (Queued.unowed j) = x.ctl := by rw [hctl]; rfl
    rw [SpokeSt.unowed, hi, hc]
  rw [← hsame, h]

theorem DownAt.unowed {k : Nat} {m : Sparse SpokeSt} (h : DownAt k m) (j : Nat) : DownAt k (smapD {} (SpokeSt.unowed j) m) := by
  rcases h with h | ⟨hne, hdown⟩
  · refine Or.inl ((Laws.sfind_none_iff _ k).mpr fun e he => ?_)
    obtain ⟨e', he', rfl⟩ := List.mem_map.mp (List.mem_filter.mp he).1
    exact (Laws.sfind_none_iff m k).mp h e' he'
  · cases hv : sfind m k with
    | none =>
      rw [sget, hv] at hne
      exact absurd rfl hne
    | some v =>
      rw [sget, hv, Option.getD_some] at hne hdown
      have hv' : v.unowed j ≠ {} := fun h => hne (eq_default_of_unowed j v h)
      refine Or.inr ?_
      rw [sget_smapD_of_ne _ _ m k v hv hv']
      exact ⟨hv', hdown⟩

theorem spokeFall_spokes (k : Nat) (dest : BitVec 3) (s : State) :
    (spokeFall k dest s).spokes = smapD {} (SpokeSt.unowed k) (smod {} s.spokes k (·.fallen dest)) := by
  rw [spokeFall_eq]

/-- The spokes of a list fall one after another. -/
def fallAll (l : List Nat) (s : State) : State := l.foldl (fun s k => spokeFall k 0 s) s

theorem fallAll_down (l : List Nat) (s : State) (k : Nat) (h : k ∈ l) : ((fallAll l s).spk k).state = 0 := by
  refine DownAt.state (foldl_establishes _ (fun t : State => DownAt k t.spokes) (fun _ => True) k (fun _ _ _ _ => trivial)
    (fun t _ => ?_) (fun t j ht => ?_) l h s trivial)
  · rw [spokeFall_spokes]
    exact (downAt_fallen k t.spokes).unowed k
  · rw [spokeFall_spokes]
    exact (ht.fall j).unowed j

theorem fallAll_frame (l : List Nat) (s : State) : fallAll l s = { s with
    spokes := (fallAll l s).spokes, stations := (fallAll l s).stations, live := (fallAll l s).live, out := (fallAll l s).out
    cad := (fallAll l s).cad } := by
  refine List.foldlRecOn (motive := fun t : State => t = { s with
    spokes := t.spokes, stations := t.stations, live := t.live, out := t.out, cad := t.cad }) l _ rfl fun t ht k _ => ?_
  rw [spokeFall_eq, ht]

/-! ### The links at a save (R296) -/

/-- A host link that is down. -/
def PortSt.linkDown (x : PortSt) : PortSt := { x with linkUp := false }

theorem dropLinks_eq (s : State) :
    dropLinks s = ((fallAll (List.range 36) s).modPort 0 PortSt.linkDown).modPort 1 PortSt.linkDown := rfl

theorem dropLinks_spk (s : State) (k : Spoke) : ((dropLinks s).spk k.val).state = 0 := by
  rw [dropLinks_eq, State.spk, State.modPort_spokes, State.modPort_spokes]
  exact fallAll_down (List.range 36) s k.val (List.mem_range.mpr k.isLt)

theorem dropLinks_port (s : State) (p : Port) : (dropLinks s).port p = (s.port p).linkDown := by
  have hport : (fallAll (List.range 36) s).port p = s.port p := by rw [State.port, fallAll_frame, State.port]
  rw [dropLinks_eq, State.modPort_port, State.modPort_port, State.modPort_port, ← hport]
  fin_cases p <;> rfl

theorem dropLinks_frame (s : State) : dropLinks s = { s with
    cad := (dropLinks s).cad, ports := (dropLinks s).ports, spokes := (dropLinks s).spokes, stations := (dropLinks s).stations
    live := (dropLinks s).live, out := (dropLinks s).out } := by
  rw [dropLinks_eq, State.modPort, State.modPort, fallAll_frame]

/-! ### The hold-up save (R296, R298, R335) -/

/-- The power loss is recorded, every timetable has stopped, and SAVED is set. -/
def State.powerLost (s : State) (vin : BitVec 16) : State :=
  let u := stopAll (writeFault (0x70010000#32 + vin.setWidth 32) 0 7 0xFF none s)
  { u with frc := { u.frc with saved := true } }

theorem powerLost_frame (s : State) (vin : BitVec 16) : s.powerLost vin = { s with
    frc := (s.powerLost vin).frc, mgmt := (s.powerLost vin).mgmt, out := (s.powerLost vin).out
    allots := (s.powerLost vin).allots } := by
  unfold State.powerLost stopAll
  rw [writeFault_frame]

theorem powerLost_allot (s : State) (vin : BitVec 16) (n : Nat) (a : AllotSt) (h : s.allot n = some a) :
    (s.powerLost vin).allot n = some a.fault := by
  refine stopAll_allot _ n a ?_
  rw [State.allot, writeFault_allots]
  exact h

/-- What a save holds, before its HMAC (Table 10-7). -/
def State.saveRecord (s : State) : Save := {
  recs := s.frc.recs, seq := s.frc.seq, events := s.mgmt.events, odo := { s.mgmt.odo with saves := s.mgmt.odo.saves + 1 }
  pwr := s.pwr, at_ := s.now, pages := 0, commit := false }

/-- The save with its HMAC under the flash key (R335). -/
def State.sealedSave (s : State) : Save := { s.saveRecord with mac := flashMac s.lodge.prk s.saveRecord.bytes }

/-- The HMAC stands outside the bytes that it covers. -/
theorem sealedSave_eq (s : State) : s.sealedSave = { s.saveRecord with mac := flashMac s.lodge.prk s.sealedSave.bytes } := rfl

/-- The links are down, and the save has begun. -/
def State.saveBegun (s : State) : State := { dropLinks s with
  flash := s.flash.beginSave s.sealedSave, boot := { s.boot with supply := .saved }, gear := { s.gear with slews := [] }
  upd := { s.upd with busy := [] } }

theorem saveBegun_frame (s : State) : s.saveBegun = { s with
    cad := s.saveBegun.cad, ports := s.saveBegun.ports, spokes := s.saveBegun.spokes, stations := s.saveBegun.stations
    live := s.saveBegun.live, out := s.saveBegun.out, flash := s.flash.beginSave s.sealedSave
    boot := { s.boot with supply := .saved }, gear := { s.gear with slews := [] }, upd := { s.upd with busy := [] } } := by
  unfold State.saveBegun
  rw [dropLinks_frame]

theorem saveBegun_spk (s : State) (k : Spoke) : (s.saveBegun.spk k.val).state = 0 := by
  have hspokes : s.saveBegun.spokes = (dropLinks s).spokes := by rw [State.saveBegun]
  rw [State.spk, hspokes, ← State.spk, dropLinks_spk]

theorem saveBegun_port (s : State) (p : Port) : s.saveBegun.port p = (s.port p).linkDown := by
  have hports : s.saveBegun.ports = (dropLinks s).ports := by rw [State.saveBegun]
  rw [State.port, hports, ← State.port, dropLinks_port]

/-- Of the power loss's own changes the save takes in the fault store and the events. -/
theorem powerLost_sealedSave (s : State) (vin : BitVec 16) : (s.powerLost vin).sealedSave = {
    recs := (s.powerLost vin).frc.recs, seq := (s.powerLost vin).frc.seq, events := (s.powerLost vin).mgmt.events
    odo := { s.mgmt.odo with saves := s.mgmt.odo.saves + 1 }, pwr := s.pwr, at_ := s.now, pages := 0, commit := false
    mac := flashMac s.lodge.prk (s.powerLost vin).sealedSave.bytes } := by
  have hodo : (s.powerLost vin).mgmt.odo = s.mgmt.odo := writeFault_odo ..
  have hpwr : (s.powerLost vin).pwr = s.pwr := by rw [powerLost_frame]
  have hnow : (s.powerLost vin).now = s.now := by rw [powerLost_frame]; rfl
  have hlodge : (s.powerLost vin).lodge = s.lodge := by rw [powerLost_frame]
  rw [← hodo, ← hpwr, ← hnow, ← hlodge]
  exact sealedSave_eq _

/-- The code of POWER_LOSS gives the voltage (Table 14-5). -/
theorem faultCode_powerLoss (vin : BitVec 16) : faultCode 0x7 0x001 vin = 0x70010000#32 + vin.setWidth 32 := by
  have hcause : (0x7 : BitVec 4) ++ (0x001 : BitVec 12) = 0x7001#16 := rfl
  have hvin := vin.isLt
  refine BitVec.eq_of_toNat_eq ?_
  rw [faultCode, hcause, BitVec.toNat_append, ← Nat.shiftLeft_add_eq_or_of_lt hvin, BitVec.toNat_add, BitVec.toNat_setWidth]
  simp only [BitVec.toNat_ofNat, Nat.shiftLeft_eq]
  omega

theorem exec_holdupSave_due (s : State) (vin : BitVec 16) (hc : s.ctl = true) :
    exec (.holdupSave vin) s = .next (s.powerLost vin).saveBegun := by
  rw [exec, execHoldupSave, if_pos hc, faultCode_powerLoss]
  extract_lets stopped frc lost odo saves sv dropped gear boot
  have hdropped : dropped = dropLinks (s.powerLost vin) := congrArg dropLinks rfl
  clear_value dropped
  have hflash : dropped.flash = (s.powerLost vin).flash := by rw [hdropped, dropLinks_frame]
  have hlodge : dropped.lodge = (s.powerLost vin).lodge := by rw [hdropped, dropLinks_frame]
  have hboot : dropped.boot = (s.powerLost vin).boot := by rw [hdropped, dropLinks_frame]
  have hgear : dropped.gear = (s.powerLost vin).gear := by rw [hdropped, dropLinks_frame]
  have hupd : dropped.upd = (s.powerLost vin).upd := by rw [hdropped, dropLinks_frame]
  rw [State.saveBegun, State.sealedSave, ← hdropped, ← hflash, ← hlodge, ← hboot, ← hgear, ← hupd]
  rfl

theorem alertLow_of_saved (s : State) (h : s.frc.saved = true) : alertLow s = true := by
  simp [alertLow, h]

/-! ### The pages of the save (R296, R370) -/

theorem exec_savePageDone_of (s : State) (sv : Save) (h : s.flash.save = some sv) : exec .savePageDone s = .next (
    if s.boot.supply = .saved ∧ s.cad.stopped = false then
      if sv.pages < 23 then { s with flash := s.flash.setSave (some { sv with pages := sv.pages + 1 }) }
      else if sv.commit then s
      else { s with flash := ((s.flash.setSave (some { sv with commit := true })).eraseOther).writeOdo s.lodge.prk sv.odo
                    mgmt := { s.mgmt with odo := sv.odo, inv := sv.odo } }
    else s) := by
  rw [exec, execSavePageDone, h]

/-- With CADREF lost the save goes no further (R41). -/
theorem exec_savePageDone_stopped (s : State) (h : s.cad.stopped = true) : exec .savePageDone s = .next s := by
  cases hs : s.flash.save with
  | none => rw [exec, execSavePageDone, hs]
  | some sv => rw [exec_savePageDone_of s sv hs, if_neg (by simp [h])]

/-! ### Power-up (R265, R388, R419) -/

/-- A committed save that verifies, and that no boot has restored or reported, gives the fault store back (R388). -/
theorem restoreFaults_restores (s : State) (sv : Save) (hs : s.flash.save = some sv) (hv : sv.verifies s.flash.prk = true)
    (ht : sv.told = false) (hr : sv.restored = false) : restoreFaults s = { s with
      frc := { recs := sv.recs, seq := sv.seq, restored := true }
      flash := s.flash.setSave (some { sv with restored := true }) } := by
  rw [restoreFaults, hs]
  refine (if_pos (by rw [hv, ht, hr]; rfl)).trans ?_
  rw [Flash.markRestored, hs]
  rfl

theorem restoreFaults_keeps (s : State)
    (h : ∀ sv, s.flash.save = some sv → sv.verifies s.flash.prk = false ∨ sv.told = true ∨ sv.restored = true) :
    restoreFaults s = s := by
  unfold restoreFaults
  split
  next sv hs =>
    refine if_neg ?_
    rcases h sv hs with h | h | h <;> simp [h]
  next => rfl

theorem restoreFaults_frame (s : State) : restoreFaults s = { s with
    frc := (restoreFaults s).frc, flash := (restoreFaults s).flash } := by
  unfold restoreFaults
  split
  next =>
    split <;> rfl
  next => rfl

/-- The slot strap is sampled. -/
def State.strapped (s : State) (slot : BitVec 2) : State :=
  { s with boot := { s.boot with slot := slot }, self := { s.self with slot := slot } }

theorem exec_powerGood_due (s : State) (slot : BitVec 2) (h : s.boot.supply = .aux) :
    exec (.powerGood slot) s = .next (enterS0 (restoreFaults (s.strapped slot))) := congrArg Host.Outcome.next (if_pos h)

end Sys2Proof.Machine

namespace Sys2Proof.Proofs

open Sys2Proof Sys2Proof.Machine

/-- Settles O14: a save is the power loss, the fall of the links and the record with its HMAC; power-up samples the slot, restores the
fault store and enters S0. -/
theorem supplyCommands : Obligations.SupplyCommands := by
  unfold Obligations.SupplyCommands
  refine ⟨⟨fun s vin hc => ?_, exec_savePageDone_stopped, fun s sv hs hsup hstop hp => ?_, fun s sv hs hsup hstop hp hcommit => ?_,
    fun s => ⟨_, rfl, rfl, rfl, rfl⟩⟩, fun s h => ?_, fun s slot h => ?_, fun s h => ?_, fun s hot h => ?_, fun s hon hstep => ?_⟩
  · refine ⟨_, exec_holdupSave_due s vin hc, ?_⟩
    have hfrc : (s.powerLost vin).saveBegun.frc =
        { (writeFault (0x70010000#32 + vin.setWidth 32) 0 7 0xFF none s).frc with saved := true } := by
      rw [saveBegun_frame]
      rfl
    refine ⟨?_, ?_, alertLow_of_saved _ (by rw [hfrc]), hfrc, fun n a ha => ?_, ⟨(s.powerLost vin).sealedSave, ?_, ?_⟩,
      fun p => ?_, saveBegun_spk _, ?_⟩
    · rw [saveBegun_frame, powerLost_frame]
    · rw [State.ddrPwrEn, saveBegun_frame]
      rfl
    · rw [State.allot, saveBegun_frame]
      exact powerLost_allot s vin n a ha
    · rw [saveBegun_frame, powerLost_frame]
    · rw [saveBegun_frame]
      exact powerLost_sealedSave s vin
    · rw [saveBegun_port, powerLost_frame]
      rfl
    · rw [saveBegun_frame, powerLost_frame]
      exact ⟨rfl, rfl, rfl, rfl, rfl, rfl, rfl⟩
  · rw [exec_savePageDone_of s sv hs, if_pos ⟨hsup, hstop⟩, if_pos hp]
  · rw [exec_savePageDone_of s sv hs, if_pos ⟨hsup, hstop⟩, if_neg (Nat.not_lt.mpr hp), if_neg (by rw [hcommit]; decide)]
  · exact congrArg Host.Outcome.next (if_pos h)
  · refine ⟨_, exec_powerGood_due s slot h, rfl, fun sv hs hv ht hr => ?_, fun hnone => ?_, ?_⟩
    · rw [restoreFaults_restores (s.strapped slot) sv hs hv ht hr]
      exact ⟨rfl, rfl⟩
    · rw [restoreFaults_keeps (s.strapped slot) hnone]
      exact ⟨rfl, rfl⟩
    · rw [restoreFaults_frame]
      rfl
  · exact congrArg Host.Outcome.next (if_neg h)
  · exact congrArg Host.Outcome.next (if_pos h)
  · exact congrArg Host.Outcome.next (if_pos ⟨hon, hstep⟩)

end Sys2Proof.Proofs
end

section
/-! SUPPORT. The bounds of a state's queues, and what keeps them: one lemma an operation, in the order of the model's files. Most
operations neither loosen nor tighten a bound, a full queue discarding what comes, so that the bounds hold after one exactly where
they held before it. -/

namespace Sys2Proof.Machine

/-! ### The parts that hold the queues -/

/-- The two save slots of the flash. -/
def Flash.saves (f : Flash) : Option Save × Option Save := (f.save0, f.save1)

/-- The saves of two slots hold no more events than the queue they were taken from. -/
def SavesFit (x : Option Save × Option Save) : Prop := ∀ v, x.1 = some v ∨ x.2 = some v → v.events.length ≤ 256

/-- No ring holds more completions than it has pending slots (R323). -/
def RingsFit (rings : Sparse Ring) : Prop := ∀ r : Nat, (sget {} rings r).pend.length ≤ 1024

/-- No more sessions than the lodge holds, nor more keys than a session does (R344, R346). -/
def SessionsFit (l : List Session) : Prop := l.length ≤ 16 ∧ ∀ x ∈ l, x.keys.length ≤ 64

/-- What a state's bounds say of the parts that hold its queues. -/
def Fit (events : List Event) (saves : Option Save × Option Save) (rings : Sparse Ring) (sessions : List Session) : Prop :=
  events.length ≤ 256 ∧ SavesFit saves ∧ RingsFit rings ∧ SessionsFit sessions

@[simp] theorem fit_eta (s : State) : Fit s.mgmt.events s.flash.saves s.rings s.lodge.sessions ↔ s.bounded := Iff.rfl

@[simp] theorem bounded_mk (cad plls gear pwr ramps rests thm acc hold boot frc steward ports sgrpSel strobes rings allots images nextImage
   load dying zeroing bankWrites bridges arrays movers trns chunkCrcs hbms ddrs capGib self spokes ownMarks stations ringAt rte
   lodge mgmt flash upd mem scr wslots stage upset live latched evtSeen evtMsg out fresh pending) :
   State.bounded ⟨cad, plls, gear, pwr, ramps, rests, thm, acc, hold, boot, frc, steward, ports, sgrpSel, strobes, rings, allots, images,
     nextImage, load, dying, zeroing, bankWrites, bridges, arrays, movers, trns, chunkCrcs, hbms, ddrs, capGib, self, spokes, ownMarks,
     stations, ringAt, rte, lodge, mgmt, flash, upd, mem, scr, wslots, stage, upset, live, latched, evtSeen, evtMsg, out, fresh,
     pending⟩ ↔ Fit mgmt.events flash.saves rings lodge.sessions := Iff.rfl

/-- Whichever branch is taken. -/
@[simp] theorem bounded_ite (c : Prop) {_ : Decidable c} (s t : State) :
    (if c then s else t).bounded ↔ if c then s.bounded else t.bounded := by
  rw [apply_ite State.bounded]

/-- A fold of steps that keep the bounds as they are keeps them. -/
@[simp] theorem bounded_foldl {α : Type} (f : State → α → State) (h : ∀ s x, (f s x).bounded ↔ s.bounded) (l : List α) (s : State) :
    (l.foldl f s).bounded ↔ s.bounded := by
  induction l generalizing s with
  | nil => rfl
  | cons x l ih => rw [List.foldl_cons, ih, h]

/-- The same of a fold that carries something beside the state. -/
@[simp] theorem bounded_foldl_fst {α β : Type} (f : State × β → α → State × β) (h : ∀ r x, (f r x).1.bounded ↔ r.1.bounded)
    (l : List α) (r : State × β) :
    (l.foldl f r).1.bounded ↔ r.1.bounded := by
  induction l generalizing r with
  | nil => rfl
  | cons x l ih => rw [List.foldl_cons, ih, h]

/-- The state that a pair holds, where the pair is known. -/
theorem bounded_of_eq {α : Type} {r : State × α} {t : State} {x : α} (h : r = (t, x)) : t.bounded ↔ r.1.bounded := by rw [h]

/-! ### The flash -/

@[simp] theorem saves_mk (leaseLaps lapseCap confAlways settingsMac odo0 odo1 odoNext save0 save1 lastSave active floor floorMac bank0
    bank1 repair endorsement activating) : Flash.saves ⟨leaseLaps, lapseCap, confAlways, settingsMac, odo0, odo1, odoNext, save0, save1,
      lastSave, active, floor, floorMac, bank0, bank1, repair, endorsement, activating⟩ = (save0, save1) := rfl

@[simp] theorem saves_eta (f : Flash) : (f.save0, f.save1) = f.saves := rfl

@[simp] theorem Flash.modBank_saves (n : Bool) (g : Bank → Bank) (f : Flash) : (f.modBank n g).saves = f.saves := by
  unfold Flash.modBank
  split <;> rfl

@[simp] theorem Flash.sealSettings_saves (prk : List Byte) (f : Flash) : (f.sealSettings prk).saves = f.saves := rfl

@[simp] theorem defaultSettings_saves (f : Flash) : (defaultSettings f).saves = f.saves := rfl

@[simp] theorem Flash.readSettings_saves (prk : List Byte) (f : Flash) : (f.readSettings prk).saves = f.saves := by
  unfold Flash.readSettings
  split <;> rfl

@[simp] theorem Flash.setFloor_saves (prk : List Byte) (v : Word) (f : Flash) : (f.setFloor prk v).saves = f.saves := rfl

@[simp] theorem Flash.writeOdo_saves (prk : List Byte) (o : Odo) (f : Flash) : (f.writeOdo prk o).saves = f.saves := by
  unfold Flash.writeOdo
  split <;> rfl

/-! ### The queues -/

/-- A change of a ring that keeps its pending entries within their slots, as far as they were. -/
theorem State.modRing_bounded_of_length (s : State) (r : Nat) (f : Ring → Ring) (h : ∀ g,
    (f g).pend.length ≤ 1024 ↔ g.pend.length ≤ 1024) :
    (s.modRing r f).bounded ↔ s.bounded := by
  have hr : RingsFit (smod {} s.rings r f) ↔ RingsFit s.rings := by
    refine forall_congr' fun j => ?_
    rw [Laws.sget_smod]
    split
    next hj => rw [h, hj]
    next => rfl
  simp only [State.modRing, bounded_mk, Fit, hr]
  rfl

@[simp] theorem State.modRing_bounded (s : State) (r : Nat) (f : Ring → Ring) (h : ∀ g, (f g).pend = g.pend) :
    (s.modRing r f).bounded ↔ s.bounded :=
  s.modRing_bounded_of_length r f fun g => by rw [h]

@[simp] theorem Ring.setCtl_pend (data : Word) (g : Ring) : (g.setCtl data).pend = g.pend := rfl

@[simp] theorem ringField_pend (o : Nat) (data : Word) (g : Ring) : (ringField o data g).pend = g.pend := by
  unfold ringField
  split
  · rfl
  · split
    · split <;> rfl
    all_goals rfl

/-- A freed ring reads as at reset, with nothing pending. -/
theorem RingsFit.sdel {m : Sparse Ring} (h : RingsFit m) (k : Nat) : RingsFit (sdel m k) := by
  intro j
  rw [sget, Laws.sfind_sdel]
  split
  · exact Nat.zero_le _
  · exact h j

/-- A full queue discards a completion (R323). -/
@[simp] theorem complete_bounded (r : Nat) (c : Completion) (s : State) : (complete r c s).bounded ↔ s.bounded := by
  refine s.modRing_bounded_of_length r _ fun g => ?_
  have hslots : (if c.kind = 0x01 then 1008 else 1024) ≤ 1024 := by split <;> decide
  by_cases hroom : g.pend.length < (if c.kind = 0x01 then 1008 else 1024)
  · rw [if_pos hroom, List.length_append, List.length_singleton]
    omega
  · rw [if_neg hroom]

/-- A state whose event queue is another one. -/
theorem bounded_of_events {s t : State} (hq : Fit t.mgmt.events s.flash.saves s.rings s.lodge.sessions ↔ t.bounded)
    (he : t.mgmt.events.length ≤ 256 ↔ s.mgmt.events.length ≤ 256) :
    t.bounded ↔ s.bounded := by
  rw [← hq, ← fit_eta s, Fit, Fit, he]

@[simp] theorem pushEvent_events (type : BitVec 16) (flags : Byte) (t : Time) (code : Word) (ctx : BitVec 64) (s : State) :
    (pushEvent type flags t code ctx s).mgmt.events.length = s.mgmt.events.length + 1 := by
  simp [pushEvent]

/-- A full queue discards an event, which it counts (R368). -/
@[simp] theorem queueEventAt_bounded (t : Time) (type : BitVec 16) (flags : Byte) (code : Word) (ctx : BitVec 64) (s : State) :
    (queueEventAt t type flags code ctx s).bounded ↔ s.bounded := by
  unfold queueEventAt
  dsimp only
  split
  · split
    · exact bounded_of_events Iff.rfl (by rw [pushEvent_events]; omega)
    · rfl
  · split
    · refine bounded_of_events Iff.rfl ?_
      simp only [pushEvent_events]
      omega
    · rfl

/-! ### Ops -/

@[simp] theorem State.modPort_bounded (s : State) (p : Port) (f : PortSt → PortSt) : (s.modPort p f).bounded ↔ s.bounded := by
  simp [State.modPort]

@[simp] theorem countNs_bounded (p : Port) (s : State) : (countNs p s).bounded ↔ s.bounded := by simp [countNs]

@[simp] theorem hostWrite_bounded (p : Port) (f : State → State) (s : State) (h : ∀ s, (f s).bounded ↔ s.bounded) :
    (hostWrite p f s).bounded ↔ s.bounded := by
  simp [hostWrite, h]

@[simp] theorem stewardWrite_bounded (p : Port) (f : State → State) (s : State) (h : ∀ s, (f s).bounded ↔ s.bounded) :
    (stewardWrite p f s).bounded ↔ s.bounded := by
  simp [stewardWrite, h]

@[simp] theorem State.modAllot_bounded (s : State) (n : Nat) (f : AllotSt → AllotSt) : (s.modAllot n f).bounded ↔ s.bounded := by
  simp [State.modAllot]

@[simp] theorem State.modArr_bounded (s : State) (x : Nat) (f : ArrSt → ArrSt) : (s.modArr x f).bounded ↔ s.bounded := by
  simp [State.modArr]

@[simp] theorem State.modMover_bounded (s : State) (m : Nat) (f : MoverSt → MoverSt) : (s.modMover m f).bounded ↔ s.bounded := by
  simp [State.modMover]

@[simp] theorem State.modTrn_bounded (s : State) (t : Nat) (f : TrnSt → TrnSt) : (s.modTrn t f).bounded ↔ s.bounded := by
  simp [State.modTrn]

@[simp] theorem State.modHbm_bounded (s : State) (i : Nat) (f : Hbm → Hbm) : (s.modHbm i f).bounded ↔ s.bounded := by
  simp [State.modHbm]

@[simp] theorem State.modDdr_bounded (s : State) (i : Nat) (f : Ddr → Ddr) : (s.modDdr i f).bounded ↔ s.bounded := by
  simp [State.modDdr]

@[simp] theorem State.modSpk_bounded (s : State) (k : Nat) (f : SpokeSt → SpokeSt) : (s.modSpk k f).bounded ↔ s.bounded := by
  simp [State.modSpk]

@[simp] theorem State.modStation_bounded (s : State) (i : Nat) (f : Station → Station) :
    (s.modStation i f).bounded ↔ s.bounded := by
  simp [State.modStation]

@[simp] theorem State.modStrobe_bounded (s : State) (g : Nat) (f : Strobe → Strobe) : (s.modStrobe g f).bounded ↔ s.bounded := by
  simp [State.modStrobe]

@[simp] theorem State.modPll_bounded (s : State) (p : Nat) (f : Pll → Pll) : (s.modPll p f).bounded ↔ s.bounded := by
  simp [State.modPll]

@[simp] theorem State.modRamp_bounded (s : State) (g : Nat) (f : Ramp → Ramp) : (s.modRamp g f).bounded ↔ s.bounded := by
  simp [State.modRamp]

@[simp] theorem State.modUnit_bounded (s : State) (i : Nat) (f : UnitSt → UnitSt) : (s.modUnit i f).bounded ↔ s.bounded := by
  simp [State.modUnit]

@[simp] theorem State.modRest_bounded (s : State) (p : Nat) (f : Rb 2 → Rb 2) : (s.modRest p f).bounded ↔ s.bounded := by
  simp [State.modRest]

@[simp] theorem State.emit_bounded (s : State) (o : Out) : (s.emit o).bounded ↔ s.bounded := by simp [State.emit]

@[simp] theorem State.bump_bounded (s : State) (k : Nat) (n : Nat) : (s.bump k n).bounded ↔ s.bounded := by simp [State.bump]

@[simp] theorem queueEvent_bounded (type : BitVec 16) (flags : Byte) (code : Word) (ctx : BitVec 64) (s : State) :
    (queueEvent type flags code ctx s).bounded ↔ s.bounded := by
  simp [queueEvent]

@[simp] theorem writeFaultAt_bounded (t : Time) (code : Word) (slice : BitVec 12) (die : BitVec 3) (array : Byte) (entry : Option
    (BitVec 24)) (s : State) :
    (writeFaultAt t code slice die array entry s).bounded ↔ s.bounded := by
  simp [writeFaultAt]

@[simp] theorem writeFault_bounded (code : Word) (slice : BitVec 12) (die : BitVec 3) (array : Byte) (entry : Option (BitVec 24))
 (s : State) :
    (writeFault code slice die array entry s).bounded ↔ s.bounded := by
  simp [writeFault]

@[simp] theorem stopAllot_bounded (n : Nat) (s : State) : (stopAllot n s).bounded ↔ s.bounded := by simp [stopAllot]

@[simp] theorem stopAll_bounded (s : State) : (stopAll s).bounded ↔ s.bounded := by simp [stopAll]

@[simp] theorem allotFault_bounded (n : Nat) (code : Word) (die : BitVec 3) (array : Byte) (entry : Option (BitVec 24))
 (s : State) :
    (allotFault n code die array entry s).bounded ↔ s.bounded := by
  simp [allotFault]

@[simp] theorem commandDone_bounded (p : Port) (tag : Word) (status : Byte) (detail : Word) (head : BitVec 16) (s : State) :
    (commandDone p tag status detail head s).bounded ↔ s.bounded := by
  simp [commandDone]

/-! ### Counters -/

@[simp] theorem bumpSlice_bounded (slice : BitVec 12) (k : Nat) (dir : Nat) (s : State) :
    (bumpSlice slice k dir s).bounded ↔ s.bounded := by
  simp [bumpSlice]

/-! ### Flags -/

@[simp] theorem alertMessages_bounded (s : State) : (alertMessages s).bounded ↔ s.bounded := by simp [alertMessages]

@[simp] theorem alertEvents_bounded (s : State) : (alertEvents s).bounded ↔ s.bounded := by simp [alertEvents, alertEvent]

/-! ### Power -/

@[simp] theorem recompute_bounded (s : State) : (recompute s).bounded ↔ s.bounded := by simp [recompute]

@[simp] theorem setBrake_bounded (l : Nat) (s : State) : (setBrake l s).bounded ↔ s.bounded := by simp [setBrake]

@[simp] theorem writeHostCap_bounded (gear : BitVec 3) (cap : BitVec 16) (s : State) :
    (writeHostCap gear cap s).bounded ↔ s.bounded := by
  simp [writeHostCap]

@[simp] theorem renewLease_bounded (s : State) : (renewLease s).bounded ↔ s.bounded := by simp [renewLease]

@[simp] theorem takeSample_bounded (x : PowerSample) (s : State) : (takeSample x s).bounded ↔ s.bounded := by
  simp [takeSample, hotStacks]

@[simp] theorem startRamps_bounded (f : State → State) (s : State) (h : ∀ s, (f s).bounded ↔ s.bounded) :
    (startRamps f s).bounded ↔ s.bounded := by
  simp [startRamps, h]

@[simp] theorem retarget_bounded (groups : BitVec 16) (f : Nat → Nat) (s : State) : (retarget groups f s).bounded ↔ s.bounded := by
  simp [retarget]

@[simp] theorem moveAll_bounded (f : Time → Time) (at_ : Time) (s : State) : (moveAll f at_ s).bounded ↔ s.bounded := by
  simp [moveAll]

@[simp] theorem openCore_bounded (s : State) : (openCore s).bounded ↔ s.bounded := by simp [openCore]

/-! ### Store -/

@[simp] theorem applyNoise_bounded (noise : List Noise) (s : State) : (applyNoise noise s).bounded ↔ s.bounded := by
  simp [applyNoise]

@[simp] theorem noteUe_bounded (st : Nat) (w : Nat) (tag : Bool) (s : State) : (noteUe st w tag s).bounded ↔ s.bounded := by
  simp [noteUe]

@[simp] theorem readWord_bounded (st w : Nat) (s : State) : (readWord st w s).1.bounded ↔ s.bounded := by
  obtain ⟨_, _, _, _, h⟩ := Laws.readWord_frame st w s
  rw [h]; rfl

@[simp] theorem readWords_bounded (st : Nat) (ws : List Nat) (s : State) : (readWords st ws s).1.bounded ↔ s.bounded := by
  refine bounded_foldl_fst _ (fun r w => ?_) ws _
  dsimp only
  split
  · rfl
  · split <;> simp

@[simp] theorem portDecode_bounded (p : FabricPort) (err : List Byte) (b : List Byte) (s : State) :
    (portDecode p err b s).1.bounded ↔ s.bounded := by
  unfold portDecode
  split <;> simp

@[simp] theorem carry_bounded (dies : List Nat) (path : List PathNoise) (k : Nat) (b : List Byte) (s : State) :
    (carry dies path k b s).state.bounded ↔ s.bounded := by
  obtain ⟨_, _, h⟩ := Laws.carry_frame dies path k b s
  rw [h]; rfl

@[simp] theorem clearUpsets_bounded (st : Nat) (a : Nat) (n : Nat) (s : State) : (clearUpsets st a n s).bounded ↔ s.bounded := by
  simp [clearUpsets]

/-! ### Array -/

@[simp] theorem arrayFault_bounded (n : Nat) (x : Nat) (code : Word) (entry : BitVec 24) (s : State) :
    (arrayFault n x code entry s).bounded ↔ s.bounded := by
  simp [arrayFault]

@[simp] theorem actWord_bounded (x : Nat) (a : AllotSt) (i : Issue) (places : List (BitVec 17)) (path : List PathNoise) (k : Nat)
 (s : State) :
    (actWord x a i places path k s).state.bounded ↔ s.bounded := by
  unfold actWord
  split
  · rfl
  · dsimp only
    split
    · split <;> rename_i h <;> simp [bounded_of_eq h]
    · simp

@[simp] theorem gather_bounded (x : Nat) (a : AllotSt) (i : Issue) (places : List (BitVec 17)) (path : List PathNoise) (n : Nat)
 (s : State) :
    (gather x a i places path n s).state.bounded ↔ s.bounded := by
  refine List.foldlRecOn (motive := fun c : Carried => c.state.bounded ↔ s.bounded) _ _ Iff.rfl fun c hc k _ => ?_
  split
  · exact hc
  · simp [hc]

@[simp] theorem enter_bounded (n x : Nat) (c : ArrCfg) (i : Issue) (v : List Byte) (s : State) :
    (enter n x c i v s).bounded ↔ s.bounded := by
  unfold enter
  dsimp only
  split <;> simp

@[simp] theorem takeVector_bounded (n x : Nat) (al : AllotSt) (c : ArrCfg) (i : Issue) (places : List (BitVec 17))
    (path : List PathNoise) (s : State) :
    (takeVector n x al c i places path s).bounded ↔ s.bounded := by
  unfold takeVector
  dsimp only
  split <;> simp

/-! ### Cadence -/

@[simp] theorem markError_bounded (s : State) : (markError s).bounded ↔ s.bounded := by simp [markError]

@[simp] theorem syncWrite_bounded (mode : BitVec 2) (spoke : BitVec 6) (arm : Bool) (s : State) :
    (syncWrite mode spoke arm s).bounded ↔ s.bounded := by
  simp [syncWrite]

@[simp] theorem adopt_bounded (k : Nat) (lap : BitVec 40) (synced : Bool) (s : State) :
    (adopt k lap synced s).bounded ↔ s.bounded := by
  simp [adopt]

@[simp] theorem compareBeacon_bounded (k : Nat) (lap : BitVec 40) (synced : Bool) (s : State) :
    (compareBeacon k lap synced s).bounded ↔ s.bounded := by
  simp [compareBeacon]

/-! ### Crypto -/

@[simp] theorem takeRandom_bounded (s : State) : (takeRandom s).1.bounded ↔ s.bounded := by simp [takeRandom]

/-! ### Mailbox -/

@[simp] theorem modMailbox_bounded (p : Port) (f : Mailbox → Mailbox) (s : State) : (modMailbox p f s).bounded ↔ s.bounded := by
  simp [modMailbox]

@[simp] theorem answer_bounded (p : Port) (status : BitVec 8) (response : List Byte) (s : State) :
    (answer p status response s).bounded ↔ s.bounded := by
  simp [answer]

@[simp] theorem popRequest_bounded (s : State) : (popRequest s).bounded ↔ s.bounded := by simp [popRequest]

@[simp] theorem answerOneBad_bounded (s : State) : (answerOneBad s).bounded ↔ s.bounded := by
  unfold answerOneBad
  split <;> simp

@[simp] theorem answerBad_bounded (s : State) : (answerBad s).bounded ↔ s.bounded := by simp [answerBad]

/-! ### Turnstile -/

@[simp] theorem countTrn_bounded (t : Nat) (k : Nat) (s : State) : (countTrn t k s).bounded ↔ s.bounded := by simp [countTrn]

@[simp] theorem overcount_bounded (t : Nat) (s : State) : (overcount t s).bounded ↔ s.bounded := by
  unfold overcount
  split <;> simp

@[simp] theorem completionTest_bounded (t : Nat) (was : Option Nat) (s : State) : (completionTest t was s).bounded ↔ s.bounded := by
  simp [completionTest]

@[simp] theorem increment_bounded (t n : Nat) (src : BitVec 18) (s : State) : (increment t n src s).bounded ↔ s.bounded := by
  unfold increment
  dsimp only
  split_ifs
  · rfl
  · simp
  · simp [secondInTick]
  · simp [addIncrement]
  · split <;> simp [addIncrement]

@[simp] theorem resetTrns_bounded (n : Nat) (s : State) : (resetTrns n s).bounded ↔ s.bounded := by simp [resetTrns]

/-! ### Fabric -/

@[simp] theorem injectAt_bounded (mover : Option Nat) (t : Time) (h station : Nat) (p : Packet) (s : State) :
    (injectAt mover t h station p s).bounded ↔ s.bounded := by
  unfold injectAt
  split
  · simp [enterRing]
  · split <;> simp [enterRing]

@[simp] theorem inject_bounded (mover : Option Nat) (h : Nat) (station : Nat) (p : Packet) (s : State) :
    (inject mover h station p s).bounded ↔ s.bounded := by
  simp [inject]

/-! ### Timetable -/

@[simp] theorem clearEntries_bounded (n : Nat) (s : State) : (clearEntries n s).bounded ↔ s.bounded := by simp [clearEntries]

@[simp] theorem readEntry_bounded (n : Nat) (d : Due) (s : State) : (readEntry n d s).1.bounded ↔ s.bounded := by
  unfold readEntry
  split <;> simp

theorem fire_bounded (n : Nat) (f : Due → State → Option State) (s : State) (h : ∀ d t u, f d t = some u →
    (u.bounded ↔ t.bounded)) :
    (fire n f s).bounded ↔ s.bounded := by
  unfold fire
  split
  · rfl
  · split
    · rename_i hr
      split
      · rfl
      · rename_i hf
        simp [h _ _ _ hf, bounded_of_eq hr, passEntry]
    · rename_i hr
      split
      · simp [bounded_of_eq hr]
      · rfl

@[simp] theorem shadowWord_bounded (a : AllotSt) (path : List PathNoise) (c : CfgSec) (k w : Nat) (s : State) :
    (shadowWord a path c k w s).1.bounded ↔ s.bounded := by
  unfold shadowWord
  split <;> rename_i h <;> simp [bounded_of_eq h]

@[simp] theorem readSecs_bounded (a : AllotSt) (path : List PathNoise) (l : List CfgSec) (s : State) :
    (readSecs a path l s).state.bounded ↔ s.bounded := by
  refine List.foldlRecOn (motive := fun x : ShadowRead => x.state.bounded ↔ s.bounded) l _ Iff.rfl fun x hx c _ => ?_
  split
  · exact hx
  · refine (bounded_foldl_fst _ (fun r e => ?_) _ _).trans hx
    dsimp only
    split
    · rfl
    · split <;> rename_i h <;> simp [bounded_of_eq h]

@[simp] theorem shadowFault_bounded (n : Nat) (a : AllotSt) (entry : Option (BitVec 24)) (bad : CfgSec × Nat × Word) (s : State) :
    (shadowFault n a entry bad s).bounded ↔ s.bounded := by
  simp [shadowFault]

@[simp] theorem startShadow_bounded (n phase : Nat) (entry : Option (BitVec 24)) (t : Time) (s : State) :
    (startShadow n phase entry t s).bounded ↔ s.bounded := by
  unfold startShadow
  split
  · rfl
  · dsimp only
    split <;> simp

@[simp] theorem swapbackLoad_bounded (n : Nat) (t : Time) (s : State) : (swapbackLoad n t s).bounded ↔ s.bounded := by
  unfold swapbackLoad
  split
  · rfl
  · split
    · rfl
    · split <;> simp

@[simp] theorem rearm_bounded (a : AllotSt) (s : State) : (rearm a s).bounded ↔ s.bounded := by
  unfold rearm
  split <;> simp

@[simp] theorem swapPlanes_bounded (n : Nat) (new : Plane) (s : State) : (swapPlanes n new s).bounded ↔ s.bounded := by
  unfold swapPlanes
  dsimp only
  split <;> simp

@[simp] theorem endRun_bounded (n : Nat) (r : Run) (p : RunPos) (s : State) : (endRun n r p s).bounded ↔ s.bounded := by
  simp [endRun]

@[simp] theorem endPhase_bounded (n : Nat) (next : Byte) (r : Run) (p : RunPos) (s : State) :
    (endPhase n next r p s).bounded ↔ s.bounded := by
  simp [endPhase]

@[simp] theorem runDone_bounded (n : Nat) (r : Run) (status : Byte) (detail : Nat) (s : State) :
    (runDone n r status detail s).bounded ↔ s.bounded := by
  simp [runDone]

@[simp] theorem beginRun_bounded (n : Nat) (s : State) : (beginRun n s).bounded ↔ s.bounded := by
  unfold beginRun
  split
  · rfl
  · split
    · rfl
    · split <;> simp [startRun]

@[simp] theorem startsOf_bounded (n : Nat) (s : State) : (startsOf s n).bounded ↔ s.bounded := by
  unfold startsOf
  split <;> simp [startAllot]

/-! ### Mover -/

@[simp] theorem moverFault_bounded (n : Nat) (m : Nat) (code : Word) (entry : BitVec 24) (s : State) :
    (moverFault n m code entry s).bounded ↔ s.bounded := by
  simp [moverFault]

@[simp] theorem startMover_bounded (n : Nat) (m : Nat) (ix : BitVec 9) (entry : BitVec 24) (s : State) :
    (startMover n m ix entry s).bounded ↔ s.bounded := by
  unfold startMover
  split <;> simp [overrun]

@[simp] theorem modXfer_bounded (m : Nat) (f : Xfer → Xfer) (s : State) : (modXfer m f s).bounded ↔ s.bounded := by simp [modXfer]

@[simp] theorem movedWord_bounded (m : Nat) (held : List Byte) (s : State) : (movedWord m held s).bounded ↔ s.bounded := by
  simp [movedWord]

@[simp] theorem sendWord_bounded (x : Transfer) (b : List Byte) (s : State) : (sendWord x b s).bounded ↔ s.bounded := by
  unfold sendWord
  split <;> simp

@[simp] theorem fetchWord_bounded (x : Transfer) (src : Place) (k : Nat) (host : List Byte) (s : State) :
    (fetchWord x src k host s).state.bounded ↔ s.bounded := by
  unfold fetchWord
  split
  · split
    · dsimp only
      rename_i h
      split <;> simp [Got.state, bounded_of_eq h]
    · rename_i h
      simp [Got.state, bounded_of_eq h]
  · rfl
  · rfl

@[simp] theorem getWord_bounded (x : Transfer) (s : State) : (getWord x s).state.bounded ↔ s.bounded := by
  unfold getWord
  split
  · rfl
  · simp

@[simp] theorem slotConflict_bounded (n : Nat) (m : Nat) (x : Nat) (t : Xfer) (s : State) :
    (slotConflict n m x t s).bounded ↔ s.bounded := by
  simp [slotConflict]

@[simp] theorem hostAccess_bounded (n : Nat) (m : Nat) (t : Xfer) (s : State) : (hostAccess n m t s).bounded ↔ s.bounded := by
  simp [hostAccess]

@[simp] theorem failHostAccesses_bounded (p : Port) (s : State) : (failHostAccesses p s).bounded ↔ s.bounded := by
  refine bounded_foldl _ (fun s m => ?_) _ s
  split <;> simp

@[simp] theorem sourceFault_bounded (n : Nat) (src : TransferSource) (code : Word) (s : State) :
    (sourceFault n src code s).bounded ↔ s.bounded := by
  cases src with
  | mover m =>
    rw [sourceFault]
    split <;> simp
  | array x => simp [sourceFault]

/-! ### Collective -/

@[simp] theorem modPlan_bounded (n : Nat) (plan : Nat) (f : PlanRun → PlanRun) (s : State) :
    (modPlan n plan f s).bounded ↔ s.bounded := by
  simp [modPlan]

@[simp] theorem ghWord_bounded (gh : Nat) (path : List PathNoise) (k st w : Nat) (s : State) :
    (ghWord gh path k st w s).1.bounded ↔ s.bounded := by
  unfold ghWord
  split <;> rename_i h <;> simp [bounded_of_eq h]

@[simp] theorem readBuf_bounded (gh : Nat) (path : List PathNoise) (k : Nat) (a : AllotSt) (id : BitVec 16) (off n : Nat)
 (s : State) :
    (readBuf gh path k a id off n s).1.bounded ↔ s.bounded := by
  unfold readBuf
  split
  · rfl
  · refine bounded_foldl_fst _ (fun r e => ?_) _ _
    dsimp only
    split
    · rfl
    · split <;> rename_i h <;> simp [bounded_of_eq h]

@[simp] theorem planFault_bounded (n : Nat) (plan : Nat) (gh : Nat) (entry : BitVec 24) (code : Word) (s : State) :
    (planFault n plan gh entry code s).bounded ↔ s.bounded := by
  simp [planFault]

@[simp] theorem readSlots_bounded (h : Nat) (path : List PathNoise) (a : AllotSt) (i : StageInfo) (seg : Nat) (s : State) :
    (readSlots h path a i seg s).1.bounded ↔ s.bounded := by
  refine bounded_foldl_fst _ (fun r k => ?_) _ _
  dsimp only
  split
  · rfl
  · split <;> rename_i h <;> simp [bounded_of_eq h]

/-! ### Gears -/

@[simp] theorem slewTo_bounded (p : Nat) (mv : Rat) (t : Time) (s : State) : (slewTo p mv t s).bounded ↔ s.bounded := by
  simp [slewTo]

@[simp] theorem shiftGear_bounded (s : State) : (shiftGear s).bounded ↔ s.bounded := by simp [shiftGear, fillRestart]

/-! ### RollCall -/

@[simp] theorem sendRollCall_bounded (p : Peloton) (s : State) : (sendRollCall p s).bounded ↔ s.bounded := by simp [sendRollCall]

@[simp] theorem programIdle_bounded (g : Nat) (s : State) : (programIdle g s).bounded ↔ s.bounded := by simp [programIdle]

@[simp] theorem slewBack_bounded (s : State) : (slewBack s).bounded ↔ s.bounded := by simp [slewBack]

@[simp] theorem takeDecision_bounded (lap : BitVec 40) (s : State) : (takeDecision lap s).bounded ↔ s.bounded := by
  simp [takeDecision]

/-! ### Packets -/

@[simp] theorem giveBack_bounded (q : Queued) (s : State) : (giveBack q s).bounded ↔ s.bounded := by
  unfold giveBack
  split <;> simp

@[simp] theorem dropAt_bounded (k : Nat) (q : Queued) (s : State) : (dropAt k q s).bounded ↔ s.bounded := by simp [dropAt]

@[simp] theorem spokeFall_bounded (k : Nat) (dest : BitVec 3) (s : State) : (spokeFall k dest s).bounded ↔ s.bounded := by
  simp [spokeFall, dropMismatch, abandonBook]

@[simp] theorem noteChunk_bounded (n : Nat) (a : AllotSt) (p : Packet) (s : State) : (noteChunk n a p s).1.bounded ↔ s.bounded := by
  unfold noteChunk
  split <;> simp

@[simp] theorem discard_bounded (k : Nat) (p : Packet) (cause : Nat) (headerFailed : Bool) (s : State) :
    (discard k p cause headerFailed s).bounded ↔ s.bounded := by
  simp [discard]

@[simp] theorem freeNow_bounded (k : Nat) (p : Packet) (s : State) : (freeNow k p s).bounded ↔ s.bounded := by simp [freeNow]

@[simp] theorem intoIngress_bounded (k : Nat) (p : Packet) (q : Queued) (s : State) :
    (intoIngress k p q s).bounded ↔ s.bounded := by
  simp [intoIngress]

@[simp] theorem forward_bounded (k : Nat) (p : Packet) (s : State) : (forward k p s).bounded ↔ s.bounded := by
  unfold forward
  dsimp only
  split <;> simp

@[simp] theorem acceptPacket_bounded (k : Nat) (p : Packet) (s : State) : (acceptPacket k p s).bounded ↔ s.bounded := by
  unfold acceptPacket
  dsimp only
  split
  · simp
  · split
    · simp
    · split
      · simp
      · split
        · split <;> simp
        · simp

@[simp] theorem ringEnter_bounded (g j : Nat) (s : State) : (ringEnter g j s).bounded ↔ s.bounded := by
  unfold ringEnter
  split
  · rfl
  · split
    · rfl
    · split <;> simp

/-! ### Reset -/

@[simp] theorem requeue_bounded (l : List Event) (s : State) : (requeue l s).bounded ↔ s.bounded := by simp [requeue]

@[simp] theorem readOdo_bounded (s : State) : (readOdo s).bounded ↔ s.bounded := by simp [readOdo]

@[simp] theorem enterS0_bounded (s : State) : (enterS0 s).bounded ↔ s.bounded := by simp [enterS0]

@[simp] theorem beginAllotReset_bounded (p : Port) (n : Nat) (s : State) : (beginAllotReset p n s).bounded ↔ s.bounded := by
  unfold beginAllotReset
  split <;> simp

@[simp] theorem dropLinks_bounded (s : State) : (dropLinks s).bounded ↔ s.bounded := by simp [dropLinks]

/-! ### LinkKey -/

@[simp] theorem modKey_bounded (k : Nat) (f : LinkKey → LinkKey) (s : State) : (modKey k f s).bounded ↔ s.bounded := by
  simp [modKey]

@[simp] theorem sendKeyMsg_bounded (k : Nat) (msg : Byte) (body : List Byte) (s : State) :
    (sendKeyMsg k msg body s).bounded ↔ s.bounded := by
  simp [sendKeyMsg]

@[simp] theorem startKeying_bounded (k : Nat) (s : State) : (startKeying k s).bounded ↔ s.bounded := by simp [startKeying]

@[simp] theorem endAttempt_bounded (k : Nat) (s : State) : (endAttempt k s).bounded ↔ s.bounded := by simp [endAttempt]

@[simp] theorem abortKeying_bounded (k : Nat) (s : State) : (abortKeying k s).bounded ↔ s.bounded := by simp [abortKeying]

theorem takeMsg_bounded {k : Nat} {msg : Byte} {s t : State} {b : List Byte} (h : takeMsg k msg s = some (b, t)) :
    t.bounded ↔ s.bounded := by
  unfold takeMsg at h
  split at h
  · cases h
  · split at h <;> cases h
    simp

theorem takeThis_bounded {k : Nat} {msg : Byte} {b : List Byte} {s t : State} (h : takeThis k msg b s = some t) :
    t.bounded ↔ s.bounded := by
  unfold takeThis at h
  split at h
  · cases h
  · split at h <;> cases h
    exact takeMsg_bounded ‹_›

/-! ### Spoke -/

@[simp] theorem writeSelf_bounded (data : Word) (s : State) : (writeSelf data s).bounded ↔ s.bounded := by simp [writeSelf]

@[simp] theorem startTraining_bounded (k : Nat) (s : State) : (startTraining k s).bounded ↔ s.bounded := by simp [startTraining]

@[simp] theorem upIfReady_bounded (k : Nat) (s : State) : (upIfReady k s).bounded ↔ s.bounded := by simp [upIfReady, spokeUp]

@[simp] theorem recordAcked_bounded (k : Nat) (s : State) : (recordAcked k s).bounded ↔ s.bounded := by simp [recordAcked]

@[simp] theorem applyPlan_bounded (keep : BitVec 36) (s : State) : (applyPlan keep s).bounded ↔ s.bounded := by
  simp [applyPlan, setOutcome]

@[simp] theorem writePlanCtl_bounded (recheck : Bool) (open_ : Bool) (s : State) :
    (writePlanCtl recheck open_ s).bounded ↔ s.bounded := by
  simp [writePlanCtl]

/-! ### Boot -/

@[simp] theorem bootFail_bounded (code : Word) (die : BitVec 3) (array : Byte) (s : State) :
    (bootFail code die array s).bounded ↔ s.bounded :=
  writeFault_bounded code 0 die array none s

@[simp] theorem bootDone_bounded (s : State) : (bootDone s).bounded ↔ s.bounded := by simp [bootDone]

@[simp] theorem stepMs_bounded (ms : BitVec 16) (s : State) : (stepMs ms s).bounded ↔ s.bounded := by simp [stepMs]

@[simp] theorem cleanSectors_bounded (bank : Bool) (s : State) : (cleanSectors bank s).bounded ↔ s.bounded := by
  have hf : ∀ (l : List Nat) (f : Flash), (l.foldl (fun f i => f.modBank bank (Bank.erase i)) f).saves = f.saves := fun l f =>
    List.foldlRecOn (motive := fun g : Flash => g.saves = f.saves) l _ rfl fun g hg i _ => by simpa using hg
  simp [cleanSectors, apply_ite Flash.saves, hf]

@[simp] theorem activationAtS2_bounded (booted : Bool) (s : State) : (activationAtS2 booted s).bounded ↔ s.bounded := by
  simp [activationAtS2, apply_ite Flash.saves]

@[simp] theorem s3Done_bounded (s : State) : (s3Done s).bounded ↔ s.bounded := by
  unfold s3Done
  dsimp only
  split
  · simp
  · split <;> simp

@[simp] theorem makeCredential_bounded (s : State) : (makeCredential s).bounded ↔ s.bounded := by simp [makeCredential]

@[simp] theorem startArrays_bounded (s : State) : (startArrays s).bounded ↔ s.bounded := by simp [startArrays]

@[simp] theorem katPll_bounded (u : KatUnit) (g5 : Bool) (s : State) : (katPll u g5 s).bounded ↔ s.bounded := by
  unfold katPll
  split <;> simp

@[simp] theorem finishActivation_bounded (s : State) : (finishActivation s).bounded ↔ s.bounded := by simp [finishActivation]

@[simp] theorem endKats_bounded (s : State) : (endKats s).bounded ↔ s.bounded := by simp [endKats]

@[simp] theorem timedOut_bounded (ms : BitVec 16) (s : State) : (timedOut ms s).bounded ↔ s.bounded := by simp [timedOut]

@[simp] theorem enterStep_bounded (n : Nat) (s : State) : (enterStep n s).bounded ↔ s.bounded := by
  unfold enterStep
  split
  · exact makeCredential_bounded s
  · exact startArrays_bounded s
  · exact applyPlan_bounded 0 s
  all_goals rfl

@[simp] theorem advance_bounded (n : Nat) (s : State) : (advance n s).bounded ↔ s.bounded := by simp [advance]

/-! ### Ports -/

@[simp] theorem sendMsi_bounded (p : Port) (vector : BitVec 11) (s : State) : (sendMsi p vector s).bounded ↔ s.bounded := by
  simp [sendMsi]

@[simp] theorem disableRing_bounded (r : Nat) (s : State) : (disableRing r s).bounded ↔ s.bounded := by simp [disableRing]

@[simp] theorem disableRings_bounded (p : Port) (s : State) : (disableRings p s).bounded ↔ s.bounded := by simp [disableRings]

@[simp] theorem resetPort_bounded (p : Port) (s : State) : (resetPort p s).bounded ↔ s.bounded := by simp [resetPort]

@[simp] theorem guarded_bounded (p : Port) (f : State → State) (s : State) (h : ∀ s, (f s).bounded ↔ s.bounded) :
    (guarded p f s).bounded ↔ s.bounded := by
  unfold guarded
  split <;> simp [h, tdiError]

@[simp] theorem giveSteward_bounded (p : Port) (s : State) : (giveSteward p s).bounded ↔ s.bounded := by simp [giveSteward]

@[simp] theorem claimSteward_bounded (p : Port) (s : State) : (claimSteward p s).bounded ↔ s.bounded := by simp [claimSteward]

@[simp] theorem applyStrobe_bounded (g : Nat) (t : Time) (s : State) : (applyStrobe g t s).bounded ↔ s.bounded := by
  simp [applyStrobe, strobeHold, strobeSched, strobeRest]

@[simp] theorem strobeWrite_bounded (g : Nat) (f : State → State) (s : State) (h : ∀ s, (f s).bounded ↔ s.bounded) :
    (strobeWrite g f s).bounded ↔ s.bounded := by
  simp [strobeWrite, h]

@[simp] theorem owesStrobe_bounded (g : Nat) (s : State) : (owesStrobe g s).bounded ↔ s.bounded := by simp [owesStrobe]

@[simp] theorem beginCycle_bounded (s : State) : (beginCycle s).bounded ↔ s.bounded := by simp [beginCycle, applyDue]

@[simp] theorem armStrobe_bounded (g : Nat) (s : State) : (armStrobe g s).bounded ↔ s.bounded := by simp [armStrobe]

@[simp] theorem cancelStrobe_bounded (g : Nat) (s : State) : (cancelStrobe g s).bounded ↔ s.bounded := by simp [cancelStrobe]

/-! ### Rings -/

/-- A write of RING_CTL where it only writes the other fields. -/
@[simp] theorem modRing_setCtl_bounded (s : State) (r : Nat) (data : Word) : (s.modRing r (Ring.setCtl data)).bounded ↔ s.bounded :=
  s.modRing_bounded r _ (Ring.setCtl_pend data)

@[simp] theorem enableRing_bounded (p : Port) (r : Nat) (data : Word) (s : State) :
    (enableRing p r data s).bounded ↔ s.bounded := by
  unfold enableRing
  split
  · refine guarded_bounded p _ s fun t => ?_
    split_ifs <;> simp
  · rfl

@[simp] theorem clearRing_bounded (p : Port) (r : Nat) (data : Word) (s : State) : (clearRing p r data s).bounded ↔ s.bounded := by
  unfold clearRing
  split
  · refine guarded_bounded p _ s fun t => ?_
    split <;> simp
  · rfl

@[simp] theorem ringMessage_bounded (p : Port) (r : Nat) (s : State) : (ringMessage p r s).bounded ↔ s.bounded := by
  simp [ringMessage]

/-! ### Load -/

@[simp] theorem refuseLoad_bounded (p : Port) (tag : Word) (addr : BitVec 64) (head : BitVec 16) (r : Refuse) (s : State) :
    (refuseLoad p tag addr head r s).bounded ↔ s.bounded := by
  simp [refuseLoad]

@[simp] theorem actLoad_bounded (p : Port) (b : List Byte) (head : BitVec 16) (s : State) :
    (actLoad p b head s).bounded ↔ s.bounded := by
  unfold actLoad
  split
  · simp
  · dsimp only
    split
    · simp
    · split <;> simp

@[simp] theorem claimRun_bounded (g : Img) (n : Nat) (r : Nat × Nat × Nat) (s : State) :
    (claimRun g n r s).bounded ↔ s.bounded := by
  simp [claimRun]

@[simp] theorem claimStrobes_bounded (g : Img) (a : Nat) (n : Nat) (s : State) : (claimStrobes g a n s).bounded ↔ s.bounded := by
  simp [claimStrobes]

@[simp] theorem commitRoutes_bounded (image : Nat) (start : Option (BitVec 40)) (g : Img) (s : State) :
    (commitRoutes image start g s).bounded ↔ s.bounded := by
  simp [commitRoutes]

/-! ### Commands -/

theorem onAllots_bounded (p : Port) (b : List Byte) (head : BitVec 16) (dirt : List (Nat × Nat)) (bad : BitVec 16)
    (f : List Nat → State → State) (s : State) (h : ∀ l, (f l s).bounded ↔ s.bounded) :
    (onAllots p b head dirt bad f s).bounded ↔ s.bounded := by
  unfold onAllots
  split
  · simp
  · simp [h]

@[simp] theorem actStart_bounded (p : Port) (b : List Byte) (head : BitVec 16) (s : State) :
    (actStart p b head s).bounded ↔ s.bounded := by
  refine onAllots_bounded p b head _ _ _ s fun l => ?_
  dsimp only
  split <;> simp

@[simp] theorem cancelSwitch_bounded (image : Nat) (s : State) : (cancelSwitch image s).bounded ↔ s.bounded := by
  simp [cancelSwitch]

@[simp] theorem dropImage_bounded (image : Nat) (s : State) : (dropImage image s).bounded ↔ s.bounded := by simp [dropImage]

@[simp] theorem moveAllots_bounded (to_ : Port) (l : List Nat) (s : State) : (moveAllots to_ l s).bounded ↔ s.bounded := by
  simp [moveAllots]

@[simp] theorem actGive_bounded (p : Port) (b : List Byte) (head : BitVec 16) (s : State) :
    (actGive p b head s).bounded ↔ s.bounded :=
  onAllots_bounded p b head _ _ _ s fun l => by simp

@[simp] theorem actTake_bounded (p : Port) (b : List Byte) (head : BitVec 16) (s : State) :
    (actTake p b head s).bounded ↔ s.bounded :=
  onAllots_bounded p b head _ _ _ s fun l => by simp

@[simp] theorem actRun_bounded (n : Nat) (b : List Byte) (head : BitVec 16) (s : State) :
    (actRun n b head s).bounded ↔ s.bounded := by
  unfold actRun
  split
  · rfl
  · dsimp only
    split
    · simp
    · split
      · simp
      · split <;> simp

/-! ### Pair -/

@[simp] theorem setActive_bounded (r : Nat) (g : Bool) (s : State) : (setActive r g s).bounded ↔ s.bounded := by
  unfold setActive
  split <;> simp

@[simp] theorem failUnit_bounded (r : Nat) (g : Bool) (src : BitVec 4) (s : State) : (failUnit r g src s).bounded ↔ s.bounded := by
  simp [failUnit]

@[simp] theorem notePair_bounded (d : BitVec 16) (s : State) : (notePair d s).bounded ↔ s.bounded := by simp [notePair]

@[simp] theorem losePair_bounded (r : Nat) (g : Bool) (src : BitVec 4) (s : State) : (losePair r g src s).bounded ↔ s.bounded := by
  have hlost := (queueEvent_bounded 0x0005 0 ((pairDetail r src g).setWidth 32) 0 _).trans <|
    (writeFault_bounded (faultCode 0x9 0x002 (pairDetail r src g)) 0 (if g then 5 else 4) 0xFF none _).trans <|
    (notePair_bounded (pairDetail r src g) _).trans (failUnit_bounded r g src s)
  unfold losePair
  dsimp only
  split
  · rw [openCore_bounded, stopAll_bounded]
    exact hlost
  · rw [stopAll_bounded]
    exact hlost

@[simp] theorem unitError_bounded (r : Nat) (g : Bool) (src : BitVec 4) (s : State) :
    (unitError r g src s).bounded ↔ s.bounded := by
  simp [unitError, failover]

/-! ### Scrub -/

@[simp] theorem scrub_bounded (w : Nat) (s : State) : (scrub w s).bounded ↔ s.bounded := by
  unfold scrub
  split <;> rename_i h <;> simp [bounded_of_eq h]

/-- The length of a channel's walk is taken as any number: the kernel must not multiply it out. -/
@[simp] theorem scrubNext_bounded (u : ScrubUnit) (s : State) : (scrubNext u s).bounded ↔ s.bounded := by
  unfold scrubNext
  obtain ⟨n, hn⟩ : ∃ n, n = s.capGib.toNat * 2 ^ 25 := ⟨_, rfl⟩
  rw [← hn]
  split <;> simp

@[simp] theorem scrubLap_bounded (s : State) : (scrubLap s).bounded ↔ s.bounded := by
  simp only [scrubLap, bounded_mk, fit_eta]
  rw [bounded_foldl]
  intro t u
  rw [bounded_foldl]
  exact fun t _ => scrubNext_bounded u t

/-! ### Lap -/

@[simp] theorem updateOdo_bounded (prk : List Byte) (s : State) : (updateOdo prk s).bounded ↔ s.bounded := by simp [updateOdo]

@[simp] theorem deferSwitch_bounded (s : State) : (deferSwitch s).bounded ↔ s.bounded := by
  unfold deferSwitch
  split <;> simp

/-! ### Lodge -/

@[simp] theorem makeReport_bounded (p : Port) (req : List Byte) (s : State) : (makeReport p req s).2.2.bounded ↔ s.bounded := by
  unfold makeReport
  split_ifs <;> simp

@[simp] theorem giveCredential_bounded (req : List Byte) (s : State) : (giveCredential req s).2.2.bounded ↔ s.bounded := by
  unfold giveCredential
  split_ifs <;> rfl

@[simp] theorem spdmSend_bounded (p : Port) (a : Answered) : (spdmSend p a).bounded ↔ a.2.2.bounded := Iff.rfl

@[simp] theorem spdmError_bounded (s : State) : (spdmError s).2.2.bounded ↔ s.bounded := by simp [spdmError]

@[simp] theorem spdmSigned_bounded (code : Byte) (data : List Byte) (s : State) :
    (spdmSigned code data s).2.2.bounded ↔ s.bounded := by
  simp [spdmSigned]

@[simp] theorem modSpdm_bounded (p : Port) (f : Spdm → Spdm) (s : State) : (modSpdm p f s).bounded ↔ s.bounded := by simp [modSpdm]

@[simp] theorem spdmFinish_bounded (p : Port) (mac : List Byte) (s : State) : (spdmFinish p mac s).2.2.bounded ↔ s.bounded := by
  unfold spdmFinish
  split
  · simp
  · split <;> simp

@[simp] theorem ideProgram_bounded (p : Port) (stream : Fin 2) (key : List Byte) (s : State) :
    (ideProgram p stream key s).2.2.bounded ↔ s.bounded := by
  unfold ideProgram
  split <;> simp

@[simp] theorem moveTdi_bounded (p : Port) (src : Tdi) (dst : Tdi) (code : Byte) (s : State) :
    (moveTdi p src dst code s).2.2.bounded ↔ s.bounded := by
  unfold moveTdi
  split <;> simp

@[simp] theorem spdmAnswer_bounded (p : Port) (inside : Bool) (req : SpdmRequest) (s : State) :
    (spdmAnswer p inside req s).2.2.bounded ↔ s.bounded := by
  cases req with
  | measurement i nonce =>
    unfold spdmAnswer
    dsimp only
    split <;> simp
  | finish mac => cases inside <;> simp [spdmAnswer]
  | endSession => cases inside <;> simp [spdmAnswer]
  | ideKeys stream key => cases inside <;> simp [spdmAnswer]
  | _ => simp [spdmAnswer, spdmExchange]

@[simp] theorem spdmSecured_bounded (p : Port) (record : List Byte) (s : State) : (spdmSecured p record s).bounded ↔ s.bounded := by
  unfold spdmSecured
  dsimp only
  split <;> simp

/-! ### Window -/

@[simp] theorem writeWin_bounded (p : Port) (n : Nat) (data : Word) (s : State) : (writeWin p n data s).bounded ↔ s.bounded := by
  unfold writeWin
  split <;> simp

@[simp] theorem writeSched_bounded (p : Port) (n : Nat) (data : Word) (s : State) :
    (writeSched p n data s).bounded ↔ s.bounded := by
  unfold writeSched
  split <;> simp

@[simp] theorem hostRead_bounded (p : Port) (path : List PathNoise) (k w : Nat) (s : State) :
    (hostRead p path k w s).1.bounded ↔ s.bounded := by
  unfold hostRead
  split <;> rename_i h <;> simp [bounded_of_eq h]

@[simp] theorem readSlice_bounded (p : Port) (path : List PathNoise) (k : Nat) (e : Nat × Nat) (s : State) :
    (readSlice p path k e s).1.bounded ↔ s.bounded := by
  unfold readSlice
  split <;> simp

/-! ### Mgmt -/

@[simp] theorem aonCcc_bounded (f : State → State) (s : State) (h : ∀ s, (f s).bounded ↔ s.bounded) :
    (aonCcc f s).bounded ↔ s.bounded := by
  simp [aonCcc, h]

@[simp] theorem ccc_bounded (f : State → State) (s : State) (h : ∀ s, (f s).bounded ↔ s.bounded) :
    (ccc f s).bounded ↔ s.bounded := by
  simp [ccc, h]

@[simp] theorem cccData_bounded (b : List Byte) (s : State) : (cccData b s).bounded ↔ s.bounded := by simp [cccData]

@[simp] theorem transfer_bounded (f : State → State) (s : State) (h : ∀ s, (f s).bounded ↔ s.bounded) :
    (transfer f s).bounded ↔ s.bounded := by
  simp [transfer, h]

@[simp] theorem reply_bounded (type : Byte) (cmd : Byte) (cc : Byte) (data : List Byte) (s : State) :
    (reply type cmd cc data s).bounded ↔ s.bounded := by
  simp [reply]

@[simp] theorem pldm_bounded (type : Byte) (cmd : Byte) (f : State → State) (s : State) (h : ∀ s, (f s).bounded ↔ s.bounded) :
    (pldm type cmd f s).bounded ↔ s.bounded := by
  simp [pldm, h]

@[simp] theorem control_bounded (cmd : Byte) (cc : Byte) (data : List Byte) (s : State) :
    (control cmd cc data s).bounded ↔ s.bounded := by
  simp [control]

@[simp] theorem announce_bounded (s : State) : (announce s).bounded ↔ s.bounded := by simp [announce]

@[simp] theorem dropAddress_bounded (s : State) : (dropAddress s).bounded ↔ s.bounded := by simp [dropAddress]

@[simp] theorem setEffecter_bounded (cmd : Byte) (ok : Bool) (f : State → State) (s : State) (h : ∀ s, (f s).bounded ↔ s.bounded) :
    (setEffecter cmd ok f s).bounded ↔ s.bounded := by
  simp [setEffecter, h]

@[simp] theorem queueSetting_bounded (id : BitVec 8) (v : BitVec 16) (s : State) : (queueSetting id v s).bounded ↔ s.bounded := by
  simp [queueSetting]

theorem writeSettings_bounded (f : Flash → Flash) (s : State) (h : ∀ x, (f x).saves = x.saves) :
    (writeSettings f s).bounded ↔ s.bounded := by
  simp [writeSettings, h]

@[simp] theorem applySetting_bounded (id : BitVec 8) (v : BitVec 16) (s : State) : (applySetting id v s).bounded ↔ s.bounded := by
  unfold applySetting
  split
  · exact writeSettings_bounded _ s fun _ => rfl
  · split
    · dsimp only
      split
      · exact (recompute_bounded _).trans (writeSettings_bounded _ s fun _ => rfl)
      · exact writeSettings_bounded _ s fun _ => rfl
    · exact writeSettings_bounded _ s fun _ => rfl

/-! ### Update -/

@[simp] theorem modUpd_bounded (f : Upd → Upd) (s : State) : (modUpd f s).bounded ↔ s.bounded := by simp [modUpd]

@[simp] theorem modSpare_bounded (f : Bank → Bank) (s : State) : (modSpare f s).bounded ↔ s.bounded := by simp [modSpare]

@[simp] theorem beginPiece_bounded (s : State) : (beginPiece s).bounded ↔ s.bounded := by
  unfold beginPiece
  split <;> simp

@[simp] theorem takePiece_bounded (tray : Bool) (i : Nat) (b : List Byte) (s : State) :
    (takePiece tray i b s).1.bounded ↔ s.bounded := by
  unfold takePiece
  dsimp only
  split_ifs <;> simp

@[simp] theorem afterPiece_bounded (tray : Bool) (i : Nat) (s : State) : (afterPiece tray i s).bounded ↔ s.bounded := by
  unfold afterPiece
  split <;> simp [updateEvent, openUpd, headerCheck, tableCheck]

@[simp] theorem reportVerified_bounded (s : State) : (reportVerified s).bounded ↔ s.bounded := by simp [reportVerified]

@[simp] theorem askNext_bounded (s : State) : (askNext s).bounded ↔ s.bounded := by
  unfold askNext
  split
  · split
    · simp
    · dsimp only
      split <;> simp
  · rfl

@[simp] theorem closeUpd_bounded (result : BitVec 4) (s : State) : (closeUpd result s).bounded ↔ s.bounded := by simp [closeUpd]

@[simp] theorem dropSector_bounded (i : Nat) (s : State) : (dropSector i s).bounded ↔ s.bounded := by simp [dropSector]

@[simp] theorem submitWindow_bounded (piece : BitVec 15) (s : State) : (submitWindow piece s).bounded ↔ s.bounded := by
  simp [submitWindow]

@[simp] theorem armUpd_bounded (s : State) : (armUpd s).bounded ↔ s.bounded := by simp [armUpd]

@[simp] theorem cancelUpd_bounded (s : State) : (cancelUpd s).bounded ↔ s.bounded := by simp [cancelUpd]

@[simp] theorem agentData_bounded (i : Nat) (data : List Byte) (s : State) : (agentData i data s).bounded ↔ s.bounded := by
  simp [agentData]

/-! ### Registers -/

@[simp] theorem writeSpace_bounded (p : Port) (space : Nat) (w : Nat) (v : Word) (s : State) :
    (writeSpace p space w v s).bounded ↔ s.bounded := by
  unfold writeSpace
  split <;> simp [mailboxControl, writeMailbox]

@[simp] theorem indirect_bounded (p : Port) (write : Option Word) (s : State) : (indirect p write s).bounded ↔ s.bounded := by
  unfold indirect
  split <;> simp

@[simp] theorem writeSgrpSel_bounded (data : Word) (s : State) : (writeSgrpSel data s).bounded ↔ s.bounded := by simp [writeSgrpSel]

@[simp] theorem writeStrobe_bounded (g : Nat) (o : Nat) (data : Word) (s : State) :
    (writeStrobe g o data s).bounded ↔ s.bounded := by
  unfold writeStrobe
  split <;> simp [writeStrobeCtl]

@[simp] theorem writeRing_bounded (p : Port) (r : Nat) (o : Nat) (data : Word) (s : State) :
    (writeRing p r o data s).bounded ↔ s.bounded := by
  have hfield : ∀ t : State, (if o < 0x10 then t.modRing r (ringField o data) else t).bounded ↔ t.bounded := fun t => by
    split <;> simp
  simp only [writeRing, bounded_ite, enableRing_bounded, clearRing_bounded, guarded_bounded p _ s hfield, ite_self]

@[simp] theorem writeCad_bounded (o : Nat) (data : Word) (s : State) : (writeCad o data s).bounded ↔ s.bounded := by
  unfold writeCad
  split <;> simp

@[simp] theorem writeSched'_bounded (data : Word) (s : State) : (writeSched' data s).bounded ↔ s.bounded := by simp [writeSched']

@[simp] theorem writePwr_bounded (o : Nat) (data : Word) (s : State) : (writePwr o data s).bounded ↔ s.bounded := by
  unfold writePwr
  split <;> simp

@[simp] theorem writeUpd_bounded (o : Nat) (data : Word) (s : State) : (writeUpd o data s).bounded ↔ s.bounded := by
  simp [writeUpd, writeActCtl, writePieceCtl]

@[simp] theorem writeHold_bounded (h : Nat) (data : Word) (s : State) : (writeHold h data s).bounded ↔ s.bounded := by
  simp [writeHold]

@[simp] theorem writeRest_bounded (p : Nat) (data : Word) (s : State) : (writeRest p data s).bounded ↔ s.bounded := by
  simp [writeRest]

/-- Where a place has a write, the write keeps the bounds. -/
def KeepsBounds (x : Option (Word → State → State)) : Prop := ∀ f ∈ x, ∀ v s, (f v s).bounded ↔ s.bounded

theorem KeepsBounds.ite {c : Prop} {_ : Decidable c} {f : Word → State → State} {x : Option (Word → State → State)}
    (hf : ∀ v s, (f v s).bounded ↔ s.bounded) (hx : KeepsBounds x) : KeepsBounds (if c then some f else x) := by
  split
  · rintro _ ⟨⟩
    exact hf
  · exact hx

theorem globalWrite_bounded (o : Nat) : KeepsBounds (globalWrite o) := by
  refine .ite writeSgrpSel_bounded <| .ite (writeStrobe_bounded _ _) <| .ite (writeCad_bounded _) <| .ite (writePwr_bounded _) <|
    .ite (fun v s => advance_bounded _ s) <| .ite (writeUpd_bounded _) <| .ite (writeHold_bounded 0) <| .ite (writeHold_bounded 1) <|
    .ite (writeRest_bounded 0) <| .ite (writeRest_bounded 1) <| .ite (writeRest_bounded 2) <| .ite (writeRest_bounded 3) ?_
  exact fun _ h => nomatch h

@[simp] theorem regWrite_bounded (p : Port) (o : Nat) (v : Word) (s : State) : (regWrite p o v s).bounded ↔ s.bounded := by
  unfold regWrite
  split
  next h => exact stewardWrite_bounded p _ s (globalWrite_bounded o _ h v)
  next => split <;> simp [writeSteward, writeEvtEn, releaseMsi, writeMsix, portWrite]

end Sys2Proof.Machine
end

section
/-! SUPPORT. The operations that make a queue shorter or put another in its place, and those that write the stores: each keeps the
bounds. -/

namespace Sys2Proof.Machine

/-! ### Words and zeroing -/

@[simp] theorem State.setByte_bounded (s : State) (st a : Nat) (b : Byte) : (s.setByte st a b).bounded ↔ s.bounded := by
  unfold State.setByte
  split <;> rfl

@[simp] theorem State.setBytes_bounded (s : State) (st a : Nat) (b : List Byte) : (s.setBytes st a b).bounded ↔ s.bounded :=
  bounded_foldl _ (fun s _ => s.setByte_bounded st _ _) _ s

@[simp] theorem writeWord_bounded (st w : Nat) (b : List Byte) (s : State) : (writeWord st w b s).bounded ↔ s.bounded :=
  s.setBytes_bounded st (32 * w) (fit 32 b)

@[simp] theorem bankWrite_bounded (rank : Nat) (cycle : BitVec 4) (w : Nat) (b : List Byte) (s : State) :
    (bankWrite rank cycle w b s).bounded ↔ s.bounded := by
  simp [bankWrite]

@[simp] theorem hubWrite_bounded (st w : Nat) (b : List Byte) (s : State) : (hubWrite st w b s).bounded ↔ s.bounded := by
  simp [hubWrite]

@[simp] theorem zeroGroup_bounded (g : Nat) (s : State) : (zeroGroup g s).bounded ↔ s.bounded := by simp [zeroGroup]

@[simp] theorem zeroArray_bounded (x : Nat) (s : State) : (zeroArray x s).bounded ↔ s.bounded := by simp [zeroArray]

@[simp] theorem zeroStage_bounded (g off n : Nat) (s : State) : (zeroStage g off n s).bounded ↔ s.bounded := by simp [zeroStage]

@[simp] theorem zeroAllot_bounded (a : AllotSt) (s : State) : (zeroAllot a s).bounded ↔ s.bounded := by simp [zeroAllot]

@[simp] theorem allotBoundary_bounded (n : Nat) (s : State) : (allotBoundary n s).bounded ↔ s.bounded := by
  unfold allotBoundary
  split
  · rfl
  · split <;> simp

@[simp] theorem openLap_bounded (s : State) : (openLap s).bounded ↔ s.bounded := by simp [openLap, holdStep, drainEnd]

@[simp] theorem s6Done_bounded (s : State) : (s6Done s).bounded ↔ s.bounded := by simp [s6Done, zeroAll]

/-! ### The staging window -/

@[simp] theorem hostPut_bounded (p : Port) (path : List PathNoise) (k w : Nat) (b : List Byte) (s : State) :
    (hostPut p path k w b s).bounded ↔ s.bounded := by
  simp [hostPut]

@[simp] theorem hostWord_bounded (p : Port) (path : List PathNoise) (a : Nat) (data : List Byte) (s : State) (k w : Nat) :
    (hostWord p path a data s k w).bounded ↔ s.bounded := by
  unfold hostWord
  dsimp only
  split
  · simp
  · split <;> rename_i hr <;> simp [bounded_of_eq hr]

@[simp] theorem writeSlice_bounded (p : Port) (path : List PathNoise) (k : Nat) (data : List Byte) (s : State) (offset : Nat) :
    (writeSlice p path k data s offset).bounded ↔ s.bounded := by
  unfold writeSlice
  split
  · rfl
  · exact bounded_foldl _ (fun s x => hostWord_bounded p path _ data s _ _) _ s

/-! ### The outputs of arrays -/

@[simp] theorem putOutput_bounded (x bank place : Nat) (cycle : BitVec 4) (path : List PathNoise) (out : List Byte) (s : State) :
    (putOutput x bank place cycle path out s).1.bounded ↔ s.bounded := by
  refine bounded_foldl_fst _ (fun r e => ?_) _ _
  dsimp only
  split
  · rfl
  · split <;> simp

@[simp] theorem putOutputs_bounded (n x : Nat) (al : AllotSt) (places : List (BitVec 17)) (cycle : BitVec 4)
    (path : List PathNoise) (entry : BitVec 24) (out : List Byte) (s : State) :
    (putOutputs n x al places cycle path entry out s).bounded ↔ s.bounded := by
  unfold putOutputs
  dsimp only
  split <;> [rw [arrayFault_bounded]; skip]
  all_goals
    refine bounded_foldl_fst _ (fun r e => ?_) _ _
    split <;> simp

/-! ### The words of a mover -/

/-- The state that a write of a word leaves, where it leaves one, meets the bounds. -/
def Put.Bounded : Put → Prop
  | .ok s => s.bounded
  | .conflict _ => True
  | .fault s _ => s.bounded

/-- The state that a transferred word leaves meets the bounds. -/
def Step1.Bounded : Step1 → Prop
  | .ok s => s.bounded
  | .conflict s _ => s.bounded
  | .fault s _ => s.bounded

theorem putSlot_bounded (x : Transfer) (a : Nat) (slot : Bool) (off : Nat) (b : List Byte) (s : State) (h : s.bounded) :
    (putSlot x a slot off b s).Bounded := by
  unfold putSlot
  split
  · trivial
  · dsimp only
    split
    · simp [Put.Bounded, h]
    · trivial

theorem putWord_bounded (x : Transfer) (k addr : Nat) (b : List Byte) (s : State) (h : s.bounded) :
    (putWord x k addr b s).Bounded := by
  unfold putWord
  dsimp only
  split
  · exact h
  · simp [Put.Bounded, h]
  · simp [Put.Bounded, h]
  · exact putSlot_bounded x _ _ _ _ _ (by simp [h])
  · simp [Put.Bounded, h]
  · simp [Put.Bounded, h]

theorem putWords_bounded (x : Transfer) (k : Nat) (l : List (Nat × List Byte)) (s : State) (h : s.bounded) :
    (putWords x k l s).Bounded := by
  refine List.foldlRecOn (motive := Put.Bounded) _ _ h fun r hr e _ => ?_
  cases r with
  | ok t => exact putWord_bounded x _ _ _ t hr
  | conflict y => exact hr
  | fault t code => exact hr

/-- The words that a transfer puts, and what it notes after them. -/
theorem putWords_step_bounded (x : Transfer) (k : Nat) (l : List (Nat × List Byte)) (f : State → State) (s : State)
    (h : s.bounded) (hf : ∀ t, (f t).bounded ↔ t.bounded) :
    ((putWords x k l s).step s f).Bounded := by
  have hp := putWords_bounded x k l s h
  generalize putWords x k l s = r at hp ⊢
  cases r with
  | ok t => exact (hf t).2 hp
  | conflict y => exact h
  | fault t code => exact hp

theorem reduceWord_bounded (x : Transfer) (b : List Byte) (s : State) (h : s.bounded) : (reduceWord x b s).Bounded := by
  have hf := fetchWord_bounded x (x.place (x.dstAddr x.t.moved)) (x.t.desc.total + x.t.moved) (x.host.drop 32) s
  unfold reduceWord
  dsimp only
  split <;> rename_i hr <;> rw [hr] at hf
  · exact hf.2 h
  · exact putWords_step_bounded x _ _ _ _ (hf.2 h) fun t => by simp

theorem decWord_bounded (x : Transfer) (b : List Byte) (s : State) (h : s.bounded) : (decWord x b s).Bounded := by
  unfold decWord
  dsimp only
  split
  · split
    · exact h
    · exact putWords_step_bounded x _ _ _ s h fun t => by simp
  · simp [Step1.Bounded, h]

theorem crcWord_bounded (x : Transfer) (b : List Byte) (s : State) (h : s.bounded) : (crcWord x b s).Bounded := by
  unfold crcWord
  dsimp only
  split_ifs <;> exact putWords_step_bounded x _ _ _ s h fun t => by simp [badChunk]

theorem sealWord_bounded (x : Transfer) (b : List Byte) (s : State) (h : s.bounded) : (sealWord x b s).Bounded := by
  unfold sealWord
  dsimp only
  split
  · exact putWords_step_bounded x _ _ _ s h fun t => by simp
  · simp [Step1.Bounded, h]

theorem transferWord_bounded (x : Transfer) (s : State) (h : s.bounded) : (transferWord x s).Bounded := by
  have hg := getWord_bounded x s
  unfold transferWord
  dsimp only
  split
  · exact h
  · split <;> rename_i hr <;> rw [hr] at hg
    · exact hg.2 h
    · have ht := hg.2 h
      split_ifs
      · exact reduceWord_bounded x _ _ ht
      · exact decWord_bounded x _ _ ht
      · exact crcWord_bounded x _ _ ht
      · exact sealWord_bounded x _ _ ht
      · exact putWords_step_bounded x _ _ _ _ ht fun t => by simp

/-! ### Collectives and packets -/

@[simp] theorem writeBuf_bounded (gh : Nat) (path : List PathNoise) (k : Nat) (a : AllotSt) (id : BitVec 16) (off : Nat)
    (l : List Byte) (s : State) :
    (writeBuf gh path k a id off l s).1.bounded ↔ s.bounded := by
  unfold writeBuf
  split
  · rfl
  · refine bounded_foldl_fst _ (fun r e => ?_) _ _
    dsimp only
    split
    · rfl
    · split <;> simp

@[simp] theorem SegSend.share_bounded (x : SegSend) (g k : Nat) (s : State) : (x.share g k s).1.bounded ↔ s.bounded := by
  unfold SegSend.share
  dsimp only
  split
  · split <;> rename_i hr <;> rw [bounded_of_eq hr] <;> simp
  · rw [bounded_foldl] <;> simp [sendRun]

theorem SegSend.engine_bounded (x : SegSend) (s : State) (g : Nat) : (x.engine s g).bounded ↔ s.bounded := by
  unfold SegSend.engine
  split <;> rename_i hr <;> [rw [planFault_bounded, bounded_of_eq hr]; rw [bounded_of_eq hr]]
  all_goals
    refine bounded_foldl_fst _ (fun r k => ?_) _ _
    dsimp only
    split <;> simp

@[simp] theorem sendSegment_bounded (x : SegSend) (s : State) : (sendSegment x s).bounded ↔ s.bounded :=
  bounded_foldl _ (SegSend.engine_bounded x) _ s

@[simp] theorem deliver_bounded (g : Nat) (path : List PathNoise) (withheld : Bool) (p : Packet) (s : State) :
    (deliver g path withheld p s).bounded ↔ s.bounded := by
  unfold deliver
  split
  · split
    · rfl
    · split <;> rename_i hr
      · simp [bounded_of_eq hr]
      · dsimp only
        split_ifs <;> simp [bounded_of_eq hr, packetIncrement]
  · split <;> simp [rollReceive, packetIncrement]

@[simp] theorem deliverQueued_bounded (g : Nat) (path : List PathNoise) (q : Queued) (s : State) :
    (deliverQueued g path q s).bounded ↔ s.bounded := by
  unfold deliverQueued
  split
  · split <;> simp
  · simp

@[simp] theorem deliverOwn_bounded (g : Nat) (path : List PathNoise) (p : Packet) (s : State) :
    (deliverOwn g path p s).bounded ↔ s.bounded := by
  unfold deliverOwn
  dsimp only
  split_ifs <;> simp

@[simp] theorem leaveRing_bounded (g : Nat) (path : List PathNoise) (q : Queued) (s : State) :
    (leaveRing g path q s).bounded ↔ s.bounded := by
  unfold leaveRing
  split_ifs <;> simp [enqueue]

theorem ringMove_bounded {g j : Nat} {path : List PathNoise} {s t : State} (ht : ringMove g j path s = some t) :
    t.bounded ↔ s.bounded := by
  unfold ringMove at ht
  split at ht
  · cases ht
  · dsimp only at ht
    split_ifs at ht <;> cases ht <;> simp

/-! ### Queues that get shorter or are replaced -/

section

variable {s : State} (h : s.bounded)
include h

/-- Other saves within the bound. -/
theorem State.bounded.withSaves {x : Option Save × Option Save} (hx : SavesFit x) :
    Fit s.mgmt.events x s.rings s.lodge.sessions := by
  obtain ⟨hevents, -, hrest⟩ := h
  exact ⟨hevents, hx, hrest⟩

/-- Other rings within the bound. -/
theorem State.bounded.withRings {m : Sparse Ring} (hm : RingsFit m) : Fit s.mgmt.events s.flash.saves m s.lodge.sessions := by
  obtain ⟨hevents, hsaves, -, hsessions⟩ := h
  exact ⟨hevents, hsaves, hm, hsessions⟩

/-- Other sessions within the bound. -/
theorem State.bounded.withSessions {l : List Session} (hl : SessionsFit l) : Fit s.mgmt.events s.flash.saves s.rings l := by
  obtain ⟨hevents, hsaves, hrings, -⟩ := h
  exact ⟨hevents, hsaves, hrings, hl⟩

/-- An event queue that is no longer. -/
theorem State.bounded.withEvents {l : List Event} (hl : l.length ≤ s.mgmt.events.length) :
    Fit l s.flash.saves s.rings s.lodge.sessions := by
  obtain ⟨hevents, hrest⟩ := h
  exact ⟨hl.trans hevents, hrest⟩

theorem State.bounded.ringsFit : RingsFit s.rings := h.2.2.1

/-- A ring whose pending entries become ones within its slots. -/
theorem State.bounded.modRing {r : Nat} {f : Ring → Ring} (hf : (f (s.ring r)).pend.length ≤ 1024) : (s.modRing r f).bounded := by
  refine h.withRings (m := smod {} s.rings r f) fun j => ?_
  rw [Laws.sget_smod]
  split
  · exact hf
  · exact h.ringsFit j

theorem State.bounded.sessionsFit : SessionsFit s.lodge.sessions := h.2.2.2

theorem State.bounded.savesFit : SavesFit s.flash.saves := h.2.1

end

/-! ### The save slots -/

section

variable {f : Flash} (h : SavesFit f.saves)
include h

theorem SavesFit.save {v : Save} (hv : f.save = some v) : v.events.length ≤ 256 := by
  unfold Flash.save at hv
  split at hv
  · exact h v (.inr hv)
  · exact h v (.inl hv)

theorem SavesFit.setSave {v : Option Save} (hv : ∀ x, v = some x → x.events.length ≤ 256) : SavesFit (f.setSave v).saves := by
  unfold Flash.setSave
  split
  · exact fun x hx => hx.elim (fun h0 => h x (.inl h0)) (hv x)
  · exact fun x hx => hx.elim (hv x) (fun h1 => h x (.inr h1))

theorem SavesFit.beginSave {v : Save} (hv : v.events.length ≤ 256) : SavesFit (f.beginSave v).saves :=
  SavesFit.setSave (f := { f with lastSave := !f.lastSave }) h fun x hx => by
    cases hx
    exact hv

theorem SavesFit.dropSave : SavesFit f.dropSave.saves := by
  show SavesFit (f.setSave none).saves
  exact h.setSave fun _ hx => nomatch hx

theorem SavesFit.markRestored : SavesFit f.markRestored.saves := by
  refine h.setSave fun x hx => ?_
  obtain ⟨v, hv, rfl⟩ := Option.map_eq_some_iff.1 hx
  exact h.save (v := v) hv

theorem SavesFit.eraseOther : SavesFit f.eraseOther.saves := by
  unfold Flash.eraseOther
  split
  · exact fun x hx => hx.elim nofun (fun h1 => h x (.inr h1))
  · exact fun x hx => hx.elim (fun h0 => h x (.inl h0)) nofun

end

/-! ### Resets and boots -/

@[simp] theorem moduleReset_bounded (s : State) (h : s.bounded) : (moduleReset s).bounded := by
  refine ⟨Nat.zero_le _, ?_, fun _ => Nat.zero_le _, Nat.zero_le _, nofun⟩
  show SavesFit (Flash.saves (if s.boot.supply = .saved then s.flash.markRestored else s.flash))
  split
  · exact h.savesFit.markRestored
  · exact h.savesFit

@[simp] theorem activate_bounded (s : State) (h : s.bounded) : (activate s).bounded := moduleReset_bounded _ (by simp [h])

theorem activation_bounded (s : State) (h : s.bounded) : (activation s).1.bounded := by
  unfold activation
  split_ifs <;> simp [h, activationRefused]

theorem replayEvents_bounded (l : List Event) (code : Word) (s : State) (h : s.bounded) : (replayEvents l code s).bounded := by
  simp only [replayEvents, requeue_bounded, queueEvent_bounded, bounded_mk]
  exact h.withEvents (Nat.zero_le _)

@[simp] theorem tellSave_bounded (s : State) (h : s.bounded) : (tellSave s).bounded := by
  unfold tellSave
  split
  · exact h
  · rename_i v hv
    have hdrop := h.withSaves h.savesFit.dropSave
    split_ifs
    · exact h
    · refine replayEvents_bounded v.events 1 _ (h.withSaves (h.savesFit.setSave fun x hx => ?_))
      cases hx
      exact h.savesFit.save (v := v) hv
    · exact hdrop
    · exact replayEvents_bounded [] 0 _ hdrop

@[simp] theorem restoreFaults_bounded (s : State) (h : s.bounded) : (restoreFaults s).bounded := by
  unfold restoreFaults
  split
  · split
    · exact h.withSaves h.savesFit.markRestored
    · exact h
  · exact h

@[simp] theorem s2Done_bounded (s : State) (h : s.bounded) : (s2Done s).bounded := by
  unfold s2Done
  dsimp only
  split
  · split
    · simp [h, loadSettings]
    · exact (bootFail_bounded _ 6 0xFF s).2 h
  · exact (bootFail_bounded _ 6 0xFF s).2 h

@[simp] theorem endStep_bounded (ms : BitVec 16) (s : State) (h : s.bounded) : (endStep ms s).bounded := by
  unfold endStep
  dsimp only
  split <;> simp [h, s0Done, s1End, bridgesUp]

/-! ### Allotments -/

@[simp] theorem quietAllot_bounded (n : Nat) (s : State) (h : s.bounded) : (quietAllot n s).bounded := by
  rw [quietAllot, State.modAllot_bounded]
  exact h.withRings (h.ringsFit.sdel _)

@[simp] theorem freeAllot_bounded (n : Nat) (s : State) (h : s.bounded) : (freeAllot n s).bounded := by
  unfold freeAllot
  split
  · exact h
  · rename_i a _
    rw [dropImage_bounded]
    have hz : (forgetParts a (zeroAllot a s)).bounded := (zeroAllot_bounded a s).2 h
    have hramps := (startRamps_bounded (fun s => { s with
      ramps := (setBits a.groups).foldl (fun m g => smod {} m g (fun r => { r with target := 0 })) s.ramps }) _ fun _ => Iff.rfl).2 hz
    exact hramps.withRings (hramps.ringsFit.sdel _)

@[simp] theorem releaseOne_bounded (p : Port) (tag : Word) (head mask : BitVec 16) (s : State) (n : Nat) (h : s.bounded) :
    (releaseOne p tag head mask s n).bounded := by
  unfold releaseOne
  split
  · exact h
  · dsimp only
    split
    · exact freeAllot_bounded n _ h
    · exact quietAllot_bounded n _ h

/-- A fold of steps that keep the bounds keeps them. -/
theorem bounded_foldl_of {α : Type} (f : State → α → State) (hf : ∀ s x, s.bounded → (f s x).bounded) (l : List α) (s : State)
    (h : s.bounded) :
    (l.foldl f s).bounded :=
  List.foldlRecOn (motive := fun s : State => s.bounded) l f h fun s hs x _ => hf s x hs

@[simp] theorem actRelease_bounded (p : Port) (b : List Byte) (head : BitVec 16) (s : State) (h : s.bounded) :
    (actRelease p b head s).bounded := by
  unfold actRelease onAllots
  split
  · simp [h]
  · dsimp only
    split_ifs
    · simp [h]
    · simp [h]
    · simp [h]
    · exact bounded_foldl_of _ (fun s n => releaseOne_bounded p _ head _ s n) _ s h

@[simp] theorem actEntry_bounded (r : Nat) (b : List Byte) (head : BitVec 16) (s : State) (h : s.bounded) :
    (actEntry r b head s).bounded := by
  unfold actEntry
  split
  · simp [h]
  · dsimp only
    split <;> simp [h]

theorem Ring.advance_pend (g : Ring) : g.advance.pend = g.pend := rfl

@[simp] theorem countEntries_bounded (r : Nat) (l : List (List Byte)) (s : State) (h : s.bounded) :
    (countEntries r l s).bounded := by
  induction l generalizing s with
  | nil => exact h
  | cons b t ih =>
    rw [countEntries]
    split
    · exact ih _ (actEntry_bounded r b _ _ ((s.modRing_bounded r _ Ring.advance_pend).2 h))
    · exact h

@[simp] theorem copySect_bounded (s : State) (e : Sect × Nat) : (copySect s e).bounded ↔ s.bounded :=
  bounded_foldl _ (fun s _ => writeWord_bounded 0 _ _ s) _ s

@[simp] theorem commitOne_bounded (port : Bool) (image : Nat) (start : Option (BitVec 40)) (x : Option Session) (g : Img)
 (s : State) (e : Nat × Nat × AllotRec) (h : s.bounded) :
    (commitOne port image start x g s e).bounded := by
  have hr : (takeRandom s).1.bounded := (takeRandom_bounded s).2 h
  simp only [commitOne, startShadow_bounded, claimStrobes_bounded, clearEntries_bounded]
  rw [bounded_foldl _ fun s q => claimRun_bounded g _ q s, bounded_foldl _ copySect_bounded]
  exact hr.withRings (hr.ringsFit.sdel _)

@[simp] theorem commitImage_bounded (ld : LoadSt) (g : Img) (s : State) (h : s.bounded) : (commitImage ld g s).bounded := by
  simp only [commitImage, commandDone_bounded, State.emit_bounded, commitRoutes_bounded]
  exact bounded_foldl_of _ (fun s e => commitOne_bounded _ _ _ _ g s _) _ _ h

@[simp] theorem endLoad_bounded (ld : LoadSt) (image : List Byte) (s : State) (h : s.bounded) : (endLoad ld image s).bounded := by
  unfold endLoad
  split
  · simp [h]
  · simp [h]

/-! ### Sessions -/

/-- The lodge serves a request, which keeps the bounds. -/
theorem serve_bounded (p : Port) (op : Nat) (f : List Byte → State → Answer) (s : State) (h : s.bounded)
    (hf : ∀ b s, s.bounded → (f b s).2.2.bounded) : (serve p op f s).bounded := by
  have hbad := (answerBad_bounded s).2 h
  unfold serve
  dsimp only
  split
  · rw [answerBad_bounded, answer_bounded]
    exact hf _ _ ((popRequest_bounded _).2 hbad)
  · exact hbad

/-- The lodge opens no more than 16 sessions (R344). -/
theorem openSession_bounded (p : Port) (req : List Byte) (s : State) (h : s.bounded) : (openSession p req s).2.2.bounded := by
  unfold openSession
  dsimp only
  split_ifs with _ _ hfull
  · exact h
  · exact h
  · exact h
  · split
    · exact h
    · split_ifs
      · exact h
      · obtain ⟨hcount, hkeys⟩ := h.sessionsFit
        refine h.withSessions ⟨?_, fun x hx => ?_⟩
        · rw [Bool.or_eq_true, not_or, decide_eq_true_iff, Nat.not_le] at hfull
          rw [List.length_append, List.length_singleton]
          exact hfull.2
        · rcases List.mem_append.1 hx with hx | hx
          · exact hkeys x hx
          · rw [List.mem_singleton.1 hx]
            exact Nat.zero_le _

/-- A session that holds no more keys than it may takes the place of what it was. -/
theorem putSession_bounded (x : Session) (s : State) (h : s.bounded) (hx : x.keys.length ≤ 64) : (putSession x s).bounded := by
  obtain ⟨hcount, hkeys⟩ := h.sessionsFit
  refine h.withSessions (l := s.lodge.sessions.map _) ⟨by rwa [List.length_map], fun y hy => ?_⟩
  obtain ⟨z, hz, rfl⟩ := List.mem_map.1 hy
  split
  · exact hx
  · exact hkeys z hz

theorem sessionMsg_bounded (n : Nat) (f : Session → List Byte → State → Answer) (req : List Byte) (s : State) (h : s.bounded)
    (hf : ∀ x b s, s.bounded → x.keys.length ≤ 64 → (f x b s).2.2.bounded) :
    (sessionMsg n f req s).2.2.bounded := by
  unfold sessionMsg
  split
  · exact h
  · split
    · exact h
    · rename_i x hx
      split
      · exact h
      · exact hf _ _ s h (h.sessionsFit.2 x (List.mem_of_find?_eq_some hx))

/-- A session takes no more than 64 keys (R346). -/
theorem holdKey_bounded (x : Session) (plain : List Byte) (s : State) (h : s.bounded) (hx : x.keys.length ≤ 64) :
    (holdKey x plain s).2.2.bounded := by
  unfold holdKey
  dsimp only
  split
  · exact putSession_bounded x s h hx
  · rename_i hroom
    refine putSession_bounded _ s h ?_
    rw [List.length_append, List.length_singleton]
    omega

theorem sendTelemetry_bounded (x : Session) (b : List Byte) (s : State) (h : s.bounded) (hx : x.keys.length ≤ 64) :
    (sendTelemetry x b s).2.2.bounded := putSession_bounded _ s h hx

theorem endSession_bounded (x : Session) (b : List Byte) (s : State) (h : s.bounded) : (endSession x b s).2.2.bounded := by
  obtain ⟨hcount, hkeys⟩ := h.sessionsFit
  exact h.withSessions ⟨(List.length_filter_le _ _).trans hcount, fun y hy => hkeys y (List.mem_filter.1 hy).1⟩

/-! ### Events -/

/-- An acknowledged record leaves the queue (R367). -/
theorem acknowledge_events (ack : Option (BitVec 32)) (m : Mgmt) : (acknowledge ack m).events.length ≤ m.events.length := by
  unfold acknowledge
  split
  · rename_i he
    split
    · rw [he]
      exact Nat.le_succ _
    · exact Nat.le_refl _
  · exact Nat.le_refl _

end Sys2Proof.Machine
end

section
/-! PROOF. No step exceeds the bound of a queue: what each command answers. -/

namespace Sys2Proof.Machine

/-- Where a command answers a next state, that state meets the bounds. -/
def NextBounded (r : Res) : Prop := ∀ t, r = .next t → t.bounded

@[simp] theorem nextBounded_next (s : State) : NextBounded (.next s) ↔ s.bounded :=
  ⟨fun h => h s rfl, fun h t e => by cases e; exact h⟩

@[simp] theorem nextBounded_fault (f : Fault) : NextBounded (.fault f) := fun _ e => by cases e

@[simp] theorem nextBounded_refused (r : Refusal) : NextBounded (.refused r) := fun _ e => by cases e

@[simp] theorem nextBounded_ite (c : Prop) [Decidable c] (r q : Res) :
    NextBounded (if c then r else q) = if c then NextBounded r else NextBounded q := apply_ite NextBounded c r q

/-! ### Power -/

@[simp] theorem execRestRampStart_bounded (a : Allot) (s : State) (h : s.bounded) : NextBounded (execRestRampStart a s) := by
  unfold execRestRampStart
  split <;> simp [h]

@[simp] theorem execRunRampStart_bounded (a : Allot) (s : State) (h : s.bounded) : NextBounded (execRunRampStart a s) := by
  unfold execRunRampStart
  split <;> simp [h]

@[simp] theorem execHoldBegin_bounded (s : State) (h : s.bounded) : NextBounded (execHoldBegin s) := by
  simp only [execHoldBegin, nextBounded_next]
  split_ifs
  · simp [h]
  · exact h
  · split
    · split <;> simp [h, fallRamps, beginHold, unrelease]
    · simp [h, fallRamps, beginHold]
  · exact h

/-! ### Array -/

@[simp] theorem execVectorAdmit_bounded (x : ArrayIx) (places : List (BitVec 17)) (way : Passage) (s : State) (h : s.bounded) :
    NextBounded (execVectorAdmit x places way s) := by
  unfold execVectorAdmit
  split <;> simp [h]

@[simp] theorem execVectorResultReady_bounded (r : VectorResult) (s : State) (h : s.bounded) :
    NextBounded (execVectorResultReady r s) := by
  simp only [execVectorResultReady, nextBounded_next]
  split
  · split <;> simp [h, edgeRun]
  · exact h

/-! ### Turnstile -/

@[simp] theorem execTurnstileDeadline_bounded (t : Trn) (s : State) (h : s.bounded) : NextBounded (execTurnstileDeadline t s) := by
  unfold execTurnstileDeadline
  split <;> simp [h, missTrn]

/-! ### Timetable -/

@[simp] theorem execUnitStart_bounded (a : Allot) (noise : List (Nat × List Byte)) (s : State) (h : s.bounded) :
    NextBounded (execUnitStart a noise s) := by
  simp only [execUnitStart, nextBounded_next]
  split
  · exact h
  · split
    · split
      · exact h
      · split <;> simp [h, applyEntryNoise]
    · exact h

/-- A command of the timetable whose entry keeps the bounds as they are. -/
theorem nextBounded_fire (n : Nat) (f : Due → State → Option State) (s : State) (h : s.bounded) (hf : ∀ d t u, f d t = some u →
    (u.bounded ↔ t.bounded)) :
    NextBounded (.next (fire n f s)) := by
  rw [nextBounded_next, fire_bounded n f s hf]
  exact h

@[simp] theorem execTtIssue_bounded (a : Allot) (s : State) (h : s.bounded) : NextBounded (execTtIssue a s) := by
  refine nextBounded_fire _ _ s h fun d t u hu => ?_
  split at hu <;> cases hu
  simp

@[simp] theorem execTtStrobe_bounded (a : Allot) (s : State) (h : s.bounded) : NextBounded (execTtStrobe a s) := by
  refine nextBounded_fire _ _ s h fun d t u hu => ?_
  split at hu <;> cases hu
  simp

@[simp] theorem execTtComplete_bounded (a : Allot) (s : State) (h : s.bounded) : NextBounded (execTtComplete a s) := by
  refine nextBounded_fire _ _ s h fun d t u hu => ?_
  split at hu <;> cases hu
  simp

@[simp] theorem execTtTrnArm_bounded (a : Allot) (s : State) (h : s.bounded) : NextBounded (execTtTrnArm a s) := by
  refine nextBounded_fire _ _ s h fun d t u hu => ?_
  split at hu <;> cases hu
  simp [armTrn]

@[simp] theorem execShadowLoadDone_bounded (a : Allot) (way : Passage) (s : State) (h : s.bounded) :
    NextBounded (execShadowLoadDone a way s) := by
  simp only [execShadowLoadDone, nextBounded_next]
  split
  · exact h
  · split
    · exact h
    · split
      · split <;> simp [h]
      · exact h

@[simp] theorem execTtShadow_bounded (a : Allot) (s : State) (h : s.bounded) : NextBounded (execTtShadow a s) := by
  refine nextBounded_fire _ _ s h fun d t u hu => ?_
  split at hu <;> cases hu
  simp

@[simp] theorem execPlaneSwap_bounded (a : Allot) (s : State) (h : s.bounded) : NextBounded (execPlaneSwap a s) := by
  simp only [execPlaneSwap, nextBounded_next]
  split
  · exact h
  · split
    · exact h
    · split_ifs
      · simp [h, planeLate]
      · exact h
      · simp [h]
      · split <;> simp [h]
      · exact h

@[simp] theorem execTtPhaseEnd_bounded (a : Allot) (s : State) (h : s.bounded) : NextBounded (execTtPhaseEnd a s) := by
  unfold execTtPhaseEnd
  split
  · simpa using h
  · split
    · split
      · simpa using h
      · split
        · refine nextBounded_fire _ _ s h fun d t u hu => ?_
          split at hu <;> cases hu
          simp
        · simp [h]
    · simpa using h

@[simp] theorem execAllotmentStartLap_bounded (a : Allot) (s : State) (h : s.bounded) :
    NextBounded (execAllotmentStartLap a s) := by
  unfold execAllotmentStartLap
  split <;> simp [h]

@[simp] theorem execRunStart_bounded (a : Allot) (s : State) (h : s.bounded) : NextBounded (execRunStart a s) := by
  simp only [execRunStart, nextBounded_next]
  split
  · exact h
  · split <;> simp [h]

/-! ### Mover -/

@[simp] theorem execTtMove_bounded (a : Allot) (s : State) (h : s.bounded) : NextBounded (execTtMove a s) := by
  refine nextBounded_fire _ _ s h fun d t u hu => ?_
  split at hu <;> cases hu
  simp

@[simp] theorem execMoverWordTransfer_bounded (m : MoverIx) (host : List Byte) (word : WordPassage) (s : State) (h : s.bounded) :
    NextBounded (execMoverWordTransfer m host word s) := by
  simp only [execMoverWordTransfer, nextBounded_next]
  split
  · split
    · exact h
    · rename_i n t _ _ _ a _
      split_ifs
      · simp [h]
      · have ht := transferWord_bounded ⟨n, a, m.val, t, host, word.path, word.cycle⟩ (applyNoise word.noise s) (by simp [h])
        split <;> rename_i hr <;> rw [hr] at ht
        · exact ht
        · rw [moverFault_bounded]
          exact ht
        · rw [slotConflict_bounded]
          exact ht
      · exact h
  · exact h

@[simp] theorem execHostAccessTimeout_bounded (m : MoverIx) (s : State) (h : s.bounded) :
    NextBounded (execHostAccessTimeout m s) := by
  unfold execHostAccessTimeout
  split <;> simp [h]

@[simp] theorem execPergolaTransferArrive_bounded (at_ : FabricPort) (src : TransferSource) (word : ArrivingWord) (s : State)
    (h : s.bounded) :
    NextBounded (execPergolaTransferArrive at_ src word s) := by
  simp only [execPergolaTransferArrive, nextBounded_next]
  split
  · exact h
  · split_ifs
    · exact h
    · simp [h]
    · split <;> rename_i hr <;> simp [bounded_of_eq hr, h]

@[simp] theorem execDescriptorComplete_bounded (m : MoverIx) (s : State) (h : s.bounded) :
    NextBounded (execDescriptorComplete m s) := by
  unfold execDescriptorComplete
  split <;> simp [h, promote]

/-! ### Collective -/

@[simp] theorem execTtCollective_bounded (a : Allot) (s : State) (h : s.bounded) : NextBounded (execTtCollective a s) := by
  refine nextBounded_fire _ _ s h fun d t u hu => ?_
  split at hu <;> cases hu
  simp

@[simp] theorem execSegmentSendStart_bounded (a : Allot) (plan : Fin 256) (stage : Fin 4) (seg : Fin 256) (way : Passage)
 (s : State) (h : s.bounded) :
    NextBounded (execSegmentSendStart a plan stage seg way s) := by
  simp only [execSegmentSendStart, nextBounded_next]
  split
  · exact h
  · split
    · split
      · split <;> simp [h]
      · exact h
    · exact h

@[simp] theorem execSegmentCompletionStep_bounded (a : Allot) (plan : Fin 256) (stage : Fin 4) (seg : Fin 256) (way : Passage)
 (s : State) (h : s.bounded) :
    NextBounded (execSegmentCompletionStep a plan stage seg way s) := by
  simp only [execSegmentCompletionStep, nextBounded_next]
  split
  · exact h
  · split
    · split
      · split
        · split <;> rename_i hr <;> simp [bounded_of_eq hr, h]
        · simp [h]
      · exact h
    · exact h

@[simp] theorem execSegmentReductionDone_bounded (a : Allot) (plan : Fin 256) (stage : Fin 4) (out : SegmentOut) (s : State)
    (h : s.bounded) :
    NextBounded (execSegmentReductionDone a plan stage out s) := by
  simp only [execSegmentReductionDone, nextBounded_next]
  split
  · exact h
  · split
    · split
      · exact h
      · split
        · split <;> rename_i hw
          · simp only [planFault_bounded, modPlan_bounded, bounded_of_eq hw]
            simp [h]
          · simp only [State.bump_bounded, modPlan_bounded, bounded_of_eq hw]
            simp [h]
        · exact h
    · exact h

/-! ### Gears -/

@[simp] theorem execPllLockCheck_bounded (s : State) (h : s.bounded) : NextBounded (execPllLockCheck s) := by
  simp only [execPllLockCheck, nextBounded_next]
  split
  · split <;> simp [h]
  · exact h

/-! ### Packets -/

@[simp] theorem execPacketSend_bounded (k : Spoke) (s : State) (h : s.bounded) : NextBounded (execPacketSend k s) := by
  simp only [execPacketSend, nextBounded_next]
  split
  · split
    · split <;> simp [h, depart]
    · split
      · simp [h, depart]
      · split <;> simp [h, depart]
    · simp [h, depart]
    · exact h
  · exact h

@[simp] theorem execEgressLate_bounded (k : Spoke) (s : State) (h : s.bounded) : NextBounded (execEgressLate k s) := by
  simp only [execEgressLate, nextBounded_next]
  split
  · split
    · simp [h]
    · split <;> simp [h]
  · exact h

@[simp] theorem execPacketReceive_bounded (k : Spoke) (pkt : Packet) (rx : RxState) (s : State) (h : s.bounded) :
    NextBounded (execPacketReceive k pkt rx s) := by
  simp only [execPacketReceive, nextBounded_next]
  split_ifs
  · simp [h]
  · simp [h]
  · simp [h]
  · split <;> simp [h, authDiscard]
  · exact h

@[simp] theorem execTransitRingHop_bounded (g : Gh) (hop : RingHop) (s : State) (h : s.bounded) :
    NextBounded (execTransitRingHop g hop s) := by
  simp only [execTransitRingHop, nextBounded_next]
  split
  · split
    · exact (ringMove_bounded ‹_›).2 h
    · simp [h]
  · exact h

@[simp] theorem execRoutingSwitch_bounded (s : State) (h : s.bounded) : NextBounded (execRoutingSwitch s) := by
  unfold execRoutingSwitch
  split <;> simp [h]

/-! ### Reset -/

@[simp] theorem execBootReset_bounded (p : Port) (key : BitVec 16) (s : State) (h : s.bounded) :
    NextBounded (execBootReset p key s) := by
  simp only [execBootReset, nextBounded_next]
  split_ifs <;> simp [h]

@[simp] theorem execAllotResetQuiesced_bounded (a : Allot) (s : State) (h : s.bounded) :
    NextBounded (execAllotResetQuiesced a s) := by
  unfold execAllotResetQuiesced
  split <;> simp [h]

@[simp] theorem execAllotResetDone_bounded (a : Allot) (s : State) (h : s.bounded) : NextBounded (execAllotResetDone a s) := by
  unfold execAllotResetDone
  split <;> simp [h]

@[simp] theorem execSavePageDone_bounded (s : State) (h : s.bounded) : NextBounded (execSavePageDone s) := by
  simp only [execSavePageDone, nextBounded_next]
  split
  · exact h
  · rename_i sv hsv
    have hsaves (x : Save) (hx : x.events = sv.events) : SavesFit (s.flash.setSave (some x)).saves :=
      h.savesFit.setSave fun y hy => by
        cases hy
        rw [hx]
        exact h.savesFit.save hsv
    split_ifs
    · exact h.withSaves (hsaves { sv with pages := sv.pages + 1 } rfl)
    · exact h
    · simpa using h.withSaves (hsaves { sv with commit := true } rfl).eraseOther
    · exact h

/-! ### LinkKey -/

@[simp] theorem execLinkKeyCred_bounded (k : Spoke) (cred : List Byte) (s : State) (h : s.bounded) :
    NextBounded (execLinkKeyCred k cred s) := by
  simp only [execLinkKeyCred, nextBounded_next]
  split
  · exact h
  · rename_i ht
    simp [takeThis_bounded ht, h]

@[simp] theorem execLinkKeyEncap_bounded (k : Spoke) (ct : List Byte) (s : State) (h : s.bounded) :
    NextBounded (execLinkKeyEncap k ct s) := by
  simp only [execLinkKeyEncap, nextBounded_next]
  split
  · exact h
  · rename_i ht
    simp [takeThis_bounded ht, h]

@[simp] theorem execLinkKeyConfirm_bounded (k : Spoke) (mac : List Byte) (s : State) (h : s.bounded) :
    NextBounded (execLinkKeyConfirm k mac s) := by
  simp only [execLinkKeyConfirm, nextBounded_next]
  split
  · exact h
  · rename_i ht
    simp [takeThis_bounded ht, h]

@[simp] theorem execLinkKeyAbort_bounded (k : Spoke) (s : State) (h : s.bounded) : NextBounded (execLinkKeyAbort k s) := by
  simp only [execLinkKeyAbort, nextBounded_next]
  split
  · exact h
  · rename_i ht
    simp [takeMsg_bounded ht, h]

@[simp] theorem execLinkEpochAdvance_bounded (k : Spoke) (d : Direction) (s : State) (h : s.bounded) :
    NextBounded (execLinkEpochAdvance k d s) := by
  simp only [execLinkEpochAdvance, nextBounded_next]
  split
  · cases d <;> simp [h]
  · exact h

/-! ### Boot -/

@[simp] theorem execMemoryTrainingDone_bounded (r : TrainResult) (s : State) (h : s.bounded) :
    NextBounded (execMemoryTrainingDone r s) := by
  simp only [execMemoryTrainingDone, nextBounded_next]
  split
  · cases r <;> simp [h, trainStack]
  · exact h

@[simp] theorem execKnownAnswerRunDone_bounded (u : KatUnit) (g5 : Bool) (crc expected : BitVec 64) (s : State) (h : s.bounded) :
    NextBounded (execKnownAnswerRunDone u g5 crc expected s) := by
  simp only [execKnownAnswerRunDone, nextBounded_next]
  cases katArray u <;> simp [h]

@[simp] theorem execBootStepDone_bounded (n : BitVec 4) (ms : BitVec 16) (s : State) (h : s.bounded) :
    NextBounded (execBootStepDone n ms s) := by
  simp only [execBootStepDone, nextBounded_next]
  split_ifs <;> simp [h]

/-! ### Ports -/

@[simp] theorem execArmedStrobeDue_bounded (g : Sgrp) (s : State) (h : s.bounded) : NextBounded (execArmedStrobeDue g s) := by
  unfold execArmedStrobeDue
  split <;> simp [h]

/-! ### Rings -/

@[simp] theorem execRingPoll_bounded (r : RingIx) (s : State) (h : s.bounded) : NextBounded (execRingPoll r s) := by
  unfold execRingPoll
  split <;> simp [h]

@[simp] theorem execCompletionWrite_bounded (r : RingIx) (s : State) (h : s.bounded) : NextBounded (execCompletionWrite r s) := by
  simp only [execCompletionWrite, nextBounded_next]
  split
  · rename_i c rest _ hpend
    split
    · have hlen := h.ringsFit r.val
      rw [← State.ring, hpend, List.length_cons] at hlen
      rw [ringMessage_bounded]
      exact State.bounded.modRing (s := s.emit _) ((State.emit_bounded s _).2 h) (Nat.le_of_succ_le hlen)
    · exact h
  · exact h

@[simp] theorem execInterruptHoldoffEnd_bounded (r : RingIx) (s : State) (h : s.bounded) :
    NextBounded (execInterruptHoldoffEnd r s) := by
  simp only [execInterruptHoldoffEnd, nextBounded_next]
  split
  · split <;> simp [h]
  · exact h

/-! ### Load -/

theorem portCommand_bounded (p : Port) (opc : Byte) (f : State → State) (entry : List Byte) (s : State) (h : s.bounded) (hf :
    (f s).bounded) :
    NextBounded (portCommand p opc f entry s) := by
  unfold portCommand
  split <;> simp [h, hf]

@[simp] theorem execLoadLayout_bounded (p : Port) (entry : List Byte) (s : State) (h : s.bounded) :
    NextBounded (execLoadLayout p entry s) :=
  portCommand_bounded p _ _ entry s h (by simp [h])

@[simp] theorem execLoadReadDone_bounded (image : List Byte) (s : State) (h : s.bounded) :
    NextBounded (execLoadReadDone image s) := by
  unfold execLoadReadDone
  split
  · simp [h]
  · split_ifs <;> simp [h]

/-! ### Commands -/

@[simp] theorem execStart_bounded (p : Port) (entry : List Byte) (s : State) (h : s.bounded) : NextBounded (execStart p entry s) :=
  portCommand_bounded p _ _ entry s h (by simp [h])

@[simp] theorem execRelease_bounded (p : Port) (entry : List Byte) (s : State) (h : s.bounded) :
    NextBounded (execRelease p entry s) :=
  portCommand_bounded p _ _ entry s h (by simp [h])

@[simp] theorem execReleaseKeyRemoval_bounded (a : Allot) (s : State) (h : s.bounded) :
    NextBounded (execReleaseKeyRemoval a s) := by
  simp only [execReleaseKeyRemoval, nextBounded_next]
  split
  · exact h
  · simp [h, releaseDone]

@[simp] theorem execGive_bounded (p : Port) (entry : List Byte) (s : State) (h : s.bounded) : NextBounded (execGive p entry s) :=
  portCommand_bounded p _ _ entry s h (by simp [h])

@[simp] theorem execTake_bounded (p : Port) (entry : List Byte) (s : State) (h : s.bounded) : NextBounded (execTake p entry s) :=
  portCommand_bounded p _ _ entry s h (by simp [h])

@[simp] theorem execSubmissionFetch_bounded (r : RingIx) (cqHead : BitVec 32) (entries : List (List Byte)) (s : State)
    (h : s.bounded) :
    NextBounded (execSubmissionFetch r cqHead entries s) := by
  unfold execSubmissionFetch
  split
  · simp
  · rw [nextBounded_next]
    split <;> simp [h]

/-! ### Lap -/

theorem afterActivation_bounded (r : State × Bool) (h : r.1.bounded) : (afterActivation r).bounded := by
  unfold afterActivation
  split <;> simp [h]

@[simp] theorem execLapBoundary_bounded (mark : Bool) (m : LapMeasure) (s : State) (h : s.bounded) :
    NextBounded (execLapBoundary mark m s) := by
  rw [execLapBoundary, nextBounded_next]
  split
  · refine afterActivation_bounded _ (activation_bounded _ ?_)
    simp [h, latchCounters, ceilings, calibrate, leaseStep, takeBack, odoLap, boundaryMark, newLap, freshAcc, closeLap, sameEdge]
  · exact h

/-! ### Lodge -/

@[simp] theorem execSpdmMessage_bounded (p : Port) (req : SpdmRequest) (s : State) (h : s.bounded) :
    NextBounded (execSpdmMessage p req s) := by
  unfold execSpdmMessage
  split <;> simp [h]

/-! ### Window -/

@[simp] theorem execStagingWindowRead_bounded (p : Port) (offset : BitVec 28) (bytes : BitVec 13) (way : Passage) (s : State)
    (h : s.bounded) :
    NextBounded (execStagingWindowRead p offset bytes way s) := by
  simp only [execStagingWindowRead, nextBounded_next]
  split
  · rw [State.emit_bounded]
    exact List.foldlRecOn (motive := fun r : State × List Byte × Bool => r.1.bounded) _ _ (by simp [h])
      fun r hr e _ => by simp [hr]
  · exact h

@[simp] theorem execStagingWindowWrite_bounded (p : Port) (offset : BitVec 28) (data : List Byte) (way : Passage) (s : State)
    (h : s.bounded) :
    NextBounded (execStagingWindowWrite p offset data way s) := by
  simp only [execStagingWindowWrite, nextBounded_next]
  split
  · rw [bounded_foldl _ fun s e => writeSlice_bounded p _ _ _ s _]
    simp [h]
  · exact h

/-! ### Mgmt -/

@[simp] theorem execModreset_bounded (data : List Byte) (s : State) (h : s.bounded) : NextBounded (execModreset data s) := by
  simp only [execModreset, aonCcc, nextBounded_next]
  split_ifs <;> simp [h]

@[simp] theorem execSetEndpointId_bounded (write : List Byte) (s : State) (h : s.bounded) :
    NextBounded (execSetEndpointId write s) := by
  rw [execSetEndpointId, nextBounded_next, transfer_bounded _ s fun s => by split <;> simp]
  exact h

@[simp] theorem execGetPldmVersion_bounded (query : PldmQuery) (s : State) (h : s.bounded) :
    NextBounded (execGetPldmVersion query s) := by
  unfold execGetPldmVersion
  split <;> simp [h]

@[simp] theorem execGetPldmCommands_bounded (type : BitVec 8) (s : State) (h : s.bounded) :
    NextBounded (execGetPldmCommands type s) := by
  unfold execGetPldmCommands
  split <;> simp [h]

@[simp] theorem execGetSensorReading_bounded (id : BitVec 16) (s : State) (h : s.bounded) :
    NextBounded (execGetSensorReading id s) := by
  rw [execGetSensorReading, nextBounded_next, pldm_bounded _ _ _ s fun s => by split <;> simp]
  exact h

@[simp] theorem execGetStateSensorReadings_bounded (id : BitVec 16) (s : State) (h : s.bounded) :
    NextBounded (execGetStateSensorReadings id s) := by
  rw [execGetStateSensorReadings, nextBounded_next, pldm_bounded _ _ _ s fun s => by split <;> simp]
  exact h

@[simp] theorem execGetNumericEffecterValue_bounded (id : BitVec 16) (s : State) (h : s.bounded) :
    NextBounded (execGetNumericEffecterValue id s) := by
  rw [execGetNumericEffecterValue, nextBounded_next, pldm_bounded _ _ _ s fun s => by split <;> simp]
  exact h

@[simp] theorem execSettingRecordCommit_bounded (s : State) (h : s.bounded) : NextBounded (execSettingRecordCommit s) := by
  unfold execSettingRecordCommit
  split <;> simp [h]

@[simp] theorem execModuleResetEffecter_bounded (st : BitVec 8) (s : State) (h : s.bounded) :
    NextBounded (execModuleResetEffecter st s) := by
  simp only [execModuleResetEffecter, setEffecter, pldm, transfer, nextBounded_next]
  split_ifs <;> simp [h]

@[simp] theorem execPollForPlatformEventMessage_bounded (ack : Option (BitVec 32)) (s : State) (h : s.bounded) :
    NextBounded (execPollForPlatformEventMessage ack s) := by
  have hack := h.withEvents (acknowledge_events ack s.mgmt)
  simp only [execPollForPlatformEventMessage, pldm, transfer, nextBounded_next]
  split_ifs
  · exact h
  · split <;> simpa using hack
  · simp [h]
  · simp [h]
  · exact h

/-! ### Update -/

@[simp] theorem execPieceProgramDone_bounded (readBack : Option (List Byte)) (s : State) (h : s.bounded) :
    NextBounded (execPieceProgramDone readBack s) := by
  unfold execPieceProgramDone
  split <;> simp [h, askAfter]

@[simp] theorem execBundleVerifyDone_bounded (changed : List (BitVec 15 × List Byte)) (s : State) (h : s.bounded) :
    NextBounded (execBundleVerifyDone changed s) := by
  unfold execBundleVerifyDone
  split <;> simp [h]

/-! ### Registers -/

@[simp] theorem execRegisterWrite_bounded (p : Port) (offset : BitVec 26) (data : Word) (s : State) (h : s.bounded) :
    NextBounded (execRegisterWrite p offset data s) := by
  unfold execRegisterWrite
  dsimp only
  split <;> simp [h]

/-! ### Supply and sessions -/

@[simp] theorem State.powerLost_bounded (s : State) (vin : BitVec 16) : (s.powerLost vin).bounded ↔ s.bounded :=
  (stopAll_bounded _).trans (writeFault_bounded _ 0 7 0xFF none s)

/-- The record of a save takes the event queue as it stands (R298). -/
theorem State.saveBegun_bounded (s : State) (h : s.bounded) : s.saveBegun.bounded := by
  rw [saveBegun_frame]
  exact h.withSaves (h.savesFit.beginSave h.1)

@[simp] theorem execHoldupSave_bounded (vin : BitVec 16) (s : State) (h : s.bounded) : NextBounded (execHoldupSave vin s) := by
  by_cases hc : s.ctl = true
  · rw [show execHoldupSave vin s = _ from exec_holdupSave_due s vin hc, nextBounded_next]
    exact State.saveBegun_bounded _ ((s.powerLost_bounded vin).2 h)
  · rw [execHoldupSave, if_neg hc, nextBounded_next]
    exact h

@[simp] theorem execUndervoltageLockout_bounded (s : State) (h : s.bounded) : NextBounded (execUndervoltageLockout s) := by
  rw [execUndervoltageLockout, nextBounded_next]
  exact ⟨Nat.zero_le _, h.savesFit, fun _ => Nat.zero_le _, Nat.zero_le _, nofun⟩

@[simp] theorem execGetReport_bounded (p : Port) (s : State) (h : s.bounded) : NextBounded (execGetReport p s) :=
  (nextBounded_next _).2 (serve_bounded p 1 _ s h fun b s hs => (makeReport_bounded p b s).2 hs)

@[simp] theorem execOpenSession_bounded (p : Port) (s : State) (h : s.bounded) : NextBounded (execOpenSession p s) :=
  (nextBounded_next _).2 (serve_bounded p 2 _ s h (openSession_bounded p))

@[simp] theorem execReleaseKey_bounded (p : Port) (s : State) (h : s.bounded) : NextBounded (execReleaseKey p s) :=
  (nextBounded_next _).2 (serve_bounded p 3 _ s h fun b s hs => sessionMsg_bounded 88 _ b s hs holdKey_bounded)

@[simp] theorem execGetTelemetry_bounded (p : Port) (s : State) (h : s.bounded) : NextBounded (execGetTelemetry p s) :=
  (nextBounded_next _).2 (serve_bounded p 4 _ s h fun b s hs => sessionMsg_bounded 0 _ b s hs sendTelemetry_bounded)

@[simp] theorem execCloseSession_bounded (p : Port) (s : State) (h : s.bounded) : NextBounded (execCloseSession p s) :=
  (nextBounded_next _).2 (serve_bounded p 5 _ s h fun b s hs => sessionMsg_bounded 0 _ b s hs fun x b s hs _ => endSession_bounded x b s hs)

@[simp] theorem execGetCredential_bounded (p : Port) (s : State) (h : s.bounded) : NextBounded (execGetCredential p s) :=
  (nextBounded_next _).2 (serve_bounded p 6 _ s h fun b s hs => (giveCredential_bounded b s).2 hs)

@[simp] theorem execEntropy_bounded (test : BitVec 16) (s : State) (h : s.bounded) : NextBounded (execEntropy test s) := by
  have hdead : (writeFault (faultCode 0x8 0x003 test) 0 6 0xFF none { s with lodge := { s.lodge with entropyDead := true } }).bounded :=
    (writeFault_bounded _ 0 6 0xFF none _).2 h
  simp only [execEntropy, nextBounded_next]
  split_ifs
  · exact hdead
  · exact hdead
  · exact h

/-! ### The step -/

/-- Every command keeps the bounds: its arm of exec is one call of its meaning. The meanings named here guard operations whose lemmas
stand above; the others have a lemma of their own. -/
theorem exec_bounded (c : Instr) (s : State) (h : s.bounded) : NextBounded (exec c s) := by
  cases c <;> simp [exec, h, execBrakeLevelEval, execHostCapWrite, execLeaseRenew, execPowerSample, execRampStep, execRecoveryRampStep,
    execBrakeReleaseSample, execHoldRelease, execVinLowDetect, execVinLowClear, execThermalTrip, execMisplacedLapMark,
    execCadrefStop, execSyncArmSet, execSyncArmAdopt, execSyncCancel, execLapBeaconSend, execLapBeaconReceive,
    execIdlePllLock, execGearShift, execRollCallSample, execRollCallDecision, execRailOffElapsed, execTripWaitEnd,
    execAllotReset, execBankZeroingDone, execVauxStart, execPowerGood, execLinkKeyStepTimeout, execLinkKeyRetry,
    execSpkSelfWrite, execSpokeTrainingStart, execFarEndSignal, execEqualisationComplete, execAlignMeasurementDone,
    execTrainingAttemptTimeout, execLossOfSignal, execIdentityRecordSend, execIdentityRecordReceive, execIdentityAckReceive,
    execLinkWordReceive, execPlanOpen, execPlanClose, execRecheck, execStepTimeout, execBootAdvance, execEventMessage,
    execPortReset, execPcieLinkUp, execStewardGive, execStewardClaim, execStrobeApply, execStrobeArm, execStrobeCancel,
    execRingEnable, execRingDisable, execRun, execUnitErrorSignal, execUnitResyncDone, execScrubWord, execFirstLapMark,
    execStopInterface, execStagingWindowMap, execAllotSchedWrite, execOdometerUpdate, execIbiRepeat, execI3cTargetReset,
    execRstdaa, execEntdaa, execGetpid, execGetbcr, execGetdcr, execGetstatus, execGetmwl, execGetmrl, execSetmwl, execSetmrl,
    execEnec, execDisec, execGetmodstat, execGetEndpointId, execGetMctpVersionSupport, execGetMessageTypeSupport, execGetTid,
    execSetTid, execGetPldmTypes, execGetPdrRepositoryInfo, execGetPdr, execGetStateEffecterStates, execTrayCap,
    execTrayGearMax, execLeaseRenewal, execLeaseLaps, execLapseCap, execConfAlways, execEventMessageBufferSize,
    execGetFruRecordTableMetadata, execGetFruRecordTable, execPieceSubmit, execUpdArm, execUpdCancel,
    execQueryDeviceIdentifiers, execGetFirmwareParameters, execRequestUpdate, execPassComponentTable, execUpdateComponent,
    execRequestFirmwareData, execActivateFirmware, execGetStatus, execCancelUpdateComponent, execCancelUpdate,
    execIndirectDataAccess]

/-- Every step keeps the bounds: the command at the front runs, or one CADREF cycle passes. -/
theorem step_bounded (s : State) (h : s.bounded) : NextBounded (step s) := by
  cases hp : s.pending with
  | nil => simp [step_idle s hp, h, takeStarts, shiftPoint, endTick, countTick, idleCycle]
  | cons c rest =>
    rw [step_command s c rest hp]
    exact exec_bounded c _ h

end Sys2Proof.Machine

namespace Sys2Proof.Proofs

open Sys2Proof Sys2Proof.Machine

/-- Settles O59: a full queue discards what comes, so that most operations keep each bound as it is; those that replace a queue put one
within its bound in its place. -/
theorem queuesStayBounded : Obligations.QueuesStayBounded := by
  unfold Obligations.QueuesStayBounded
  intro s t h ht
  exact step_bounded s h t ht

end Sys2Proof.Proofs

end

section
/-! SUPPORT. Completion entries and their messages: what COMPLETION_WRITE, a held-off message and an event message come to. -/

namespace Sys2Proof.Machine

/-- No holdoff stands against a message of a ring (R325). -/
def Ring.messageFree (g : Ring) (now : Time) : Bool := match g.lastMsg with
  | none => true
  | some u => decide (g.holdoff = 0) || decide (u.toNat + g.holdoff.toNat ≤ now.toNat)

theorem Ring.messageFree_iff (g : Ring) (now : Time) : g.messageFree now = true ↔
    g.lastMsg = none ∨ g.holdoff = 0 ∨ ∃ t, g.lastMsg = some t ∧ t.toNat + g.holdoff.toNat ≤ now.toNat := by
  unfold Ring.messageFree
  cases g.lastMsg <;> simp

/-- The message on a vector, unless it is masked. -/
def msiOut (p : Port) (v : BitVec 11) (e : Msix) : List Out :=
  if e.masked then [] else [.msi (decide (p.val = 1)) v (e.addrHi ++ e.addrLo) e.data]

theorem sendMsi_unmasked (p : Port) (v : BitVec 11) (s : State) (h : (sget {} (s.port p).msix v.toNat).masked = false) :
    sendMsi p v s = { s with out := s.out ++ [.msi (decide (p.val = 1)) v
      ((sget {} (s.port p).msix v.toNat).addrHi ++ (sget {} (s.port p).msix v.toNat).addrLo)
      (sget {} (s.port p).msix v.toNat).data] } := by
  rw [sendMsi, if_neg (ne_true_of_eq_false h)]
  rfl

theorem sendMsi_masked (p : Port) (v : BitVec 11) (s : State) (h : (sget {} (s.port p).msix v.toNat).masked = true) :
    sendMsi p v s = s.modPort p (fun x =>
      { x with msix := smod {} x.msix v.toNat (fun e => { e with pending := true }) }) := by
  rw [sendMsi, if_pos h]

theorem sendMsi_out (p : Port) (v : BitVec 11) (s : State) :
    (sendMsi p v s).out = s.out ++ msiOut p v (sget {} (s.port p).msix v.toNat) := by
  unfold msiOut
  cases h : (sget {} (s.port p).msix v.toNat).masked
  · rw [sendMsi_unmasked p v s h, if_neg Bool.false_ne_true]
  · rw [sendMsi_masked p v s h, if_pos rfl, List.append_nil, State.modPort_out]

theorem sendMsi_port (p : Port) (v : BitVec 11) (s : State) :
    (sendMsi p v s).port p = if (sget {} (s.port p).msix v.toNat).masked then
      { s.port p with msix := smod {} (s.port p).msix v.toNat (fun e => { e with pending := true }) } else s.port p := by
  cases h : (sget {} (s.port p).msix v.toNat).masked
  · rw [sendMsi_unmasked p v s h, if_neg Bool.false_ne_true]
    rfl
  · rw [sendMsi_masked p v s h, if_pos rfl, State.modPort_port_same]

theorem sendMsi_frame (p : Port) (v : BitVec 11) (s : State) :
    sendMsi p v s = { s with ports := (sendMsi p v s).ports, out := (sendMsi p v s).out } := by
  unfold sendMsi
  dsimp only
  split_ifs <;> rfl

theorem sendMsi_ports (p : Port) (v : BitVec 11) (s : State) (h : (sget {} (s.port p).msix v.toNat).masked = false) :
    (sendMsi p v s).ports = s.ports := by
  rw [sendMsi_unmasked p v s h]

theorem sendMsi_ring (p : Port) (v : BitVec 11) (s : State) (q : Nat) : (sendMsi p v s).ring q = s.ring q := by
  rw [sendMsi_frame]
  rfl

theorem sendMsi_port_other (p q : Port) (v : BitVec 11) (s : State) (h : q ≠ p) : (sendMsi p v s).port q = s.port q := by
  cases hm : (sget {} (s.port p).msix v.toNat).masked
  · rw [sendMsi_unmasked p v s hm]
    rfl
  · rw [sendMsi_masked p v s hm, State.modPort_port, if_neg h]

/-! ### The message of a ring (R325) -/

theorem ringMessage_free (p : Port) (r : Nat) (s : State) (h : (s.ring r).messageFree s.now = true) :
    ringMessage p r s = sendMsi p (s.ring r).vector (s.modRing r (fun g => { g with lastMsg := some s.now, owed := false })) :=
  if_pos h

theorem ringMessage_held (p : Port) (r : Nat) (s : State) (h : (s.ring r).messageFree s.now = false) :
    ringMessage p r s = s.modRing r (fun g => { g with owed := true }) :=
  if_neg (by rw [Bool.not_eq_true]; exact h)

/-- A ring whose message has gone out, or is owed. -/
def Ring.messaged (g : Ring) (now : Time) : Ring :=
  { g with lastMsg := if g.messageFree now then some now else g.lastMsg, owed := !g.messageFree now }

theorem Ring.messaged_free (g : Ring) (now : Time) (h : g.messageFree now = true) :
    g.messaged now = { g with lastMsg := some now, owed := false } := by
  simp only [Ring.messaged, h, if_true, Bool.not_true]

theorem Ring.messaged_held (g : Ring) (now : Time) (h : g.messageFree now = false) : g.messaged now = { g with owed := true } := by
  simp only [Ring.messaged, h, Bool.false_eq_true, if_false, Bool.not_false]

theorem ringMessage_ring (p : Port) (r : Nat) (s : State) : (ringMessage p r s).ring r = (s.ring r).messaged s.now := by
  unfold Ring.messaged
  cases h : (s.ring r).messageFree s.now
  · rw [ringMessage_held p r s h, State.modRing_ring_same]
    rfl
  · rw [ringMessage_free p r s h, sendMsi_ring, State.modRing_ring_same]
    rfl

theorem ringMessage_ring_other (p : Port) (r q : Nat) (s : State) (hq : q ≠ r) : (ringMessage p r s).ring q = s.ring q := by
  cases h : (s.ring r).messageFree s.now
  · rw [ringMessage_held p r s h, State.modRing_ring, if_neg hq]
  · rw [ringMessage_free p r s h, sendMsi_ring, State.modRing_ring, if_neg hq]

theorem ringMessage_port_other (p q : Port) (r : Nat) (s : State) (hq : q ≠ p) : (ringMessage p r s).port q = s.port q := by
  cases h : (s.ring r).messageFree s.now
  · rw [ringMessage_held p r s h]
    rfl
  · rw [ringMessage_free p r s h, sendMsi_port_other _ _ _ _ hq]
    rfl

theorem ringMessage_frame (p : Port) (r : Nat) (s : State) : ringMessage p r s =
    { s with rings := (ringMessage p r s).rings, ports := (ringMessage p r s).ports, out := (ringMessage p r s).out } := by
  cases h : (s.ring r).messageFree s.now
  · rw [ringMessage_held p r s h]
    rfl
  · rw [ringMessage_free p r s h, sendMsi_frame]
    rfl

theorem ringMessage_out (p : Port) (r : Nat) (s : State) : (ringMessage p r s).out = s.out ++
    if (s.ring r).messageFree s.now then msiOut p (s.ring r).vector (sget {} (s.port p).msix (s.ring r).vector.toNat) else [] := by
  cases h : (s.ring r).messageFree s.now
  · rw [ringMessage_held p r s h, if_neg Bool.false_ne_true, List.append_nil, State.modRing_out]
  · rw [ringMessage_free p r s h, sendMsi_out, if_pos rfl]
    rfl

theorem ringMessage_port (p : Port) (r : Nat) (s : State) : (ringMessage p r s).port p =
    if (s.ring r).messageFree s.now && (sget {} (s.port p).msix (s.ring r).vector.toNat).masked then
      { s.port p with msix := smod {} (s.port p).msix (s.ring r).vector.toNat (fun e => { e with pending := true }) }
    else s.port p := by
  cases h : (s.ring r).messageFree s.now
  · rw [ringMessage_held p r s h]
    rfl
  · rw [ringMessage_free p r s h, sendMsi_port]
    rfl

theorem ringMessage_pending (p : Port) (r : Nat) (s : State) (h : (s.ring r).messageFree s.now = true)
    (hm : (sget {} (s.port p).msix (s.ring r).vector.toNat).masked = true) :
    (sget {} ((ringMessage p r s).port p).msix (s.ring r).vector.toNat).pending = true := by
  rw [ringMessage_port, if_pos (Bool.and_eq_true_iff.mpr ⟨h, hm⟩)]
  simp only [Laws.sget_smod_same]

theorem ringMessage_ports (p : Port) (r : Nat) (s : State)
    (h : (s.ring r).messageFree s.now = false ∨ (sget {} (s.port p).msix (s.ring r).vector.toNat).masked = false) :
    (ringMessage p r s).ports = s.ports := by
  cases hf : (s.ring r).messageFree s.now
  · rw [ringMessage_held p r s hf, State.modRing_ports]
  · have hm := h.resolve_left (by simp [hf])
    rw [ringMessage_free p r s hf]
    exact sendMsi_ports _ _ _ hm

/-! ### COMPLETION_WRITE (R322) -/

/-- A ring whose oldest pending entry has been written at its tail. -/
def Ring.wrote (rest : List Completion) (g : Ring) : Ring :=
  { g with pend := rest, cqTail := BitVec.ofNat 16 ((g.cqTail.toNat + 1) % g.n),
           cqPhase := if (g.cqTail.toNat + 1) % g.n = 0 then !g.cqPhase else g.cqPhase, lostFlag := false }

/-- The write of a completion entry at a ring's tail, through a port. -/
def Ring.entryOut (p : Port) (c : Completion) (g : Ring) : Out :=
  .hostWrite (decide (p.val = 1)) ((g.cqHi ++ g.cqLo ++ (0 : BitVec 12)) + BitVec.ofNat 64 (32 * g.cqTail.toNat))
    (completionBytes c g.sqHead g.cqPhase g.lostFlag)

/-- The state with the entry written, before its message. -/
def State.wroteEntry (s : State) (p : Port) (r : Nat) (c : Completion) (rest : List Completion) : State :=
  (s.emit ((s.ring r).entryOut p c)).modRing r (Ring.wrote rest)

theorem State.wroteEntry_ring (s : State) (p : Port) (r : Nat) (c : Completion) (rest : List Completion) :
    (s.wroteEntry p r c rest).ring r = (s.ring r).wrote rest :=
  State.modRing_ring_same _ _ _

theorem State.wroteEntry_ring_other (s : State) (p : Port) (r q : Nat) (c : Completion) (rest : List Completion) (h : q ≠ r) :
    (s.wroteEntry p r c rest).ring q = s.ring q := by
  rw [State.wroteEntry, State.modRing_ring, if_neg h]
  rfl

theorem exec_completionWrite (s : State) (r : RingIx) (p : Port) (c : Completion) (rest : List Completion) (hc : s.clocked = true)
    (hp : s.ringPort r.val = some p) (hs : s.ringServed r.val = true) (hq : (s.ring r.val).pend = c :: rest)
    (hr : (s.ring r.val).room = true) :
    exec (.completionWrite r) s = .next (ringMessage p r.val (s.wroteEntry p r.val c rest)) := by
  rw [exec, execCompletionWrite]
  simp only [hp, hq, hc, hs, hr, Bool.and_self, if_true]
  rfl

theorem exec_completionWrite_full (s : State) (r : RingIx) (h : (s.ring r.val).room = false) :
    exec (.completionWrite r) s = .next s := by
  rw [exec, execCompletionWrite]
  cases s.ringPort r.val <;> cases (s.ring r.val).pend <;> simp [h]

theorem exec_completionWrite_none (s : State) (r : RingIx) (h : (s.ring r.val).pend = []) :
    exec (.completionWrite r) s = .next s := by
  rw [exec, execCompletionWrite]
  simp [h]

/-! ### Messages that were owed (R325, R326) -/

theorem exec_interruptHoldoffEnd (s : State) (r : RingIx) (p : Port) (u : Time) (ht : s.timed = true)
    (hp : s.ringPort r.val = some p) (hl : (s.port p).linkUp = true) (ho : (s.ring r.val).owed = true)
    (hm : (s.ring r.val).lastMsg = some u) (hu : u.toNat + (s.ring r.val).holdoff.toNat ≤ s.now.toNat) :
    exec (.interruptHoldoffEnd r) s = .next (sendMsi p (s.ring r.val).vector
      (s.modRing r.val (fun g => { g with lastMsg := some s.now, owed := false }))) := by
  rw [exec, execInterruptHoldoffEnd]
  simp [hp, hm, ht, ho, hl, hu]

theorem exec_interruptHoldoffEnd_idle (s : State) (r : RingIx) (h : (s.ring r.val).owed = false) :
    exec (.interruptHoldoffEnd r) s = .next s := by
  rw [exec, execInterruptHoldoffEnd]
  cases s.ringPort r.val <;> cases (s.ring r.val).lastMsg <;> simp [h]

theorem exec_eventMessage (s : State) (p : Port) (hc : s.clocked = true) (hl : (s.port p).linkUp = true)
    (hd : (s.port p).evtDue = true) :
    exec (.eventMessage p) s = .next (sendMsi p (s.port p).evtVec (s.modPort p (fun x => { x with evtDue := false }))) := by
  rw [exec, execEventMessage]
  simp [hc, hl, hd]

theorem exec_eventMessage_idle (s : State) (p : Port) (h : (s.port p).evtDue = false) : exec (.eventMessage p) s = .next s := by
  rw [exec, execEventMessage]
  simp [h]

end Sys2Proof.Machine

namespace Sys2Proof.Proofs

open Sys2Proof Sys2Proof.Machine

/-- Settles O22, by what a written entry and its message each change. -/
theorem completionCommands : Obligations.CompletionCommands := by
  refine ⟨?_, exec_completionWrite_full, exec_interruptHoldoffEnd, exec_interruptHoldoffEnd_idle, exec_eventMessage,
    exec_eventMessage_idle, fun s p v => ⟨sendMsi_unmasked p v s, sendMsi_masked p v s⟩⟩
  intro s r p c rest hc hp hs hq hr g e free next
  refine ⟨_, exec_completionWrite s r p c rest hc hp hs hq hr, ?_, ?_, ?_, fun q h => ?_, fun q h => ?_, ?_⟩
  · rw [ringMessage_ring, State.wroteEntry_ring]
    rfl
  · rw [ringMessage_out, State.wroteEntry_ring]
    change (s.out ++ [_]) ++ (if free = true then msiOut p g.vector e else []) = _
    rw [List.append_assoc]
    cases free <;> cases h : e.masked <;> simp [msiOut, h] <;> rfl
  · rw [ringMessage_port, State.wroteEntry_ring]
    rfl
  · rw [ringMessage_port_other _ _ _ _ h]
    rfl
  · rw [ringMessage_ring_other _ _ _ _ h, State.wroteEntry_ring_other _ _ _ _ _ _ h]
  · rw [ringMessage_frame]
    rfl

/-- Settles O55, by what a written entry and its message each change. -/
theorem completionOrder : Obligations.CompletionOrder := by
  refine ⟨?_, exec_completionWrite_none, fun r => by simp [State.ring, State.reset, sget]⟩
  intro s r p c rest hc hp hs hq g used next free
  refine ⟨fun hroom => ?_, fun hfull => exec_completionWrite_full s r (decide_eq_false (not_lt.mpr hfull))⟩
  have hfree : ((g.wrote rest).messageFree s.now = true) ↔ free := g.messageFree_iff s.now
  have hring : (ringMessage p r.val (s.wroteEntry p r.val c rest)).ring r.val = (g.wrote rest).messaged s.now := by
    rw [ringMessage_ring, State.wroteEntry_ring]
    rfl
  have hports := ringMessage_ports p r.val (s.wroteEntry p r.val c rest)
  have hpending := ringMessage_pending p r.val (s.wroteEntry p r.val c rest)
  rw [State.wroteEntry_ring] at hports hpending
  refine ⟨_, if (g.wrote rest).messageFree s.now then msiOut p g.vector (sget {} (s.port p).msix g.vector.toNat) else [],
    exec_completionWrite s r p c rest hc hp hs hq (decide_eq_true hroom), ?_, fun q h => ?_, ?_, fun hf => ?_, fun hf => ?_, ?_⟩
  · rw [hring]
    rfl
  · rw [ringMessage_ring_other _ _ _ _ (Fin.val_ne_of_ne h), State.wroteEntry_ring_other _ _ _ _ _ _ (Fin.val_ne_of_ne h)]
  · rw [ringMessage_out, State.wroteEntry_ring]
    exact List.append_assoc _ [_] _
  · have hf' := hfree.mpr hf
    rw [hring, Ring.messaged_free _ _ hf', if_pos hf']
    exact ⟨rfl, rfl, fun he => ⟨if_pos he, hpending hf' he⟩,
      fun he => ⟨if_neg (ne_true_of_eq_false he), hports (Or.inr he)⟩⟩
  · have hf' : (g.wrote rest).messageFree s.now = false := Bool.eq_false_iff.mpr fun h => hf (hfree.mp h)
    rw [hring, Ring.messaged_held _ _ hf', if_neg (ne_true_of_eq_false hf')]
    exact ⟨rfl, rfl, rfl, hports (Or.inl hf')⟩
  · rw [ringMessage_frame]
    rfl

end Sys2Proof.Proofs
end

section
/-! SUPPORT. Rings that are enabled, disabled and polled, and ports that are linked, reset and given the steward role. -/

namespace Sys2Proof.Machine

theorem State.modPort_ring (s : State) (p : Port) (f : PortSt → PortSt) (r : Nat) : (s.modPort p f).ring r = s.ring r := rfl

theorem State.emit_ring (s : State) (o : Out) (r : Nat) : (s.emit o).ring r = s.ring r := rfl

/-! ### Disabled rings (R319, R327) -/

/-- A ring that takes no entry and waits for no read. -/
def Ring.disabled (g : Ring) : Ring := { g with enable := false, reading := false }

theorem disableRing_ring (r q : Nat) (s : State) :
    (disableRing r s).ring q = if q = r then (s.ring q).disabled else s.ring q := by
  rw [disableRing, State.modRing_ring]
  split_ifs with h
  · rw [h, Ring.disabled]
  · rfl

theorem disableAll_ring (l : List Nat) (q : Nat) (s : State) : (l.foldl (fun s n => disableRing (2 + n) s) s).ring q =
    if ∃ n ∈ l, q = 2 + n then (s.ring q).disabled else s.ring q := by
  induction l generalizing s with
  | nil => simp
  | cons n l ih =>
    rw [List.foldl_cons, ih, disableRing_ring]
    by_cases hn : q = 2 + n
    · simp [hn, Ring.disabled]
    · simp [hn]

theorem disableAll_frame (l : List Nat) (s : State) : l.foldl (fun s n => disableRing (2 + n) s) s =
    { s with rings := (l.foldl (fun s n => disableRing (2 + n) s) s).rings } := by
  induction l generalizing s with
  | nil => rfl
  | cons n l ih =>
    rw [List.foldl_cons, ih]
    rfl

theorem disableRings_ring_own (p : Port) (s : State) : ((disableRings p s).ring p.val).enable = false := by
  rw [disableRings, disableAll_ring, disableRing_ring, if_pos rfl]
  split_ifs <;> rfl

theorem disableRings_ring_owned (p : Port) (s : State) (n : Nat) (h : n ∈ s.owned p) :
    ((disableRings p s).ring (2 + n)).enable = false := by
  rw [disableRings, disableAll_ring, if_pos ⟨n, h, rfl⟩, Ring.disabled]

theorem disableRings_frame (p : Port) (s : State) : disableRings p s = { s with rings := (disableRings p s).rings } := by
  rw [disableRings, disableAll_frame]
  rfl

theorem disableRings_port (p q : Port) (s : State) : (disableRings p s).port q = s.port q := by
  rw [disableRings_frame]
  rfl

/-! ### The TDI (R355) -/

theorem tdiError_tdi (p : Port) (s : State) : ((tdiError p s).port p).tdi = .error := by
  rw [tdiError, disableRings_port, State.modPort_port_same]

theorem guarded_closed (p : Port) (f : State → State) (s : State) (h : (s.port p).tdi = .run ∨ (s.port p).tdi = .locked) :
    guarded p f s = tdiError p (f s) := by
  unfold guarded
  rcases h with h | h <;> rw [h]

theorem guarded_closed_ring (p : Port) (f : State → State) (s : State) (h : (s.port p).tdi = .run ∨ (s.port p).tdi = .locked) :
    ((guarded p f s).port p).tdi = .error ∧ ((guarded p f s).ring p.val).enable = false := by
  rw [guarded_closed p f s h]
  exact ⟨tdiError_tdi p _, disableRings_ring_own p _⟩

/-! ### RING_ENABLE, RING_DISABLE and RING_POLL (R319, R321) -/

theorem exec_ringEnable (p : Port) (r : RingIx) (d : Word) (s : State) (h : s.hears p = true) :
    exec (.ringEnable p r d) s = .next (enableRing p r.val d s) := by
  rw [exec, execRingEnable, hostWrite_on _ _ _ h]

theorem exec_ringDisable (p : Port) (r : RingIx) (d : Word) (s : State) (h : s.hears p = true) :
    exec (.ringDisable p r d) s = .next (clearRing p r.val d s) := by
  rw [exec, execRingDisable, hostWrite_on _ _ _ h]

section

variable (p : Port) (r : Nat) (d : Word) (s : State) (h : s.reaches p r = true)

include h

theorem enableRing_unlocked (ht : (s.port p).tdi = .unlocked) (he : (s.ring r).enable = false) :
    enableRing p r d s = s.modRing r (fun g => { g.setCtl d with
      enable := true, sqHead := 0, cqTail := 0, sqPhase := true, cqPhase := true, cqHead := 0, lost := 0, reading := false }) := by
  rw [enableRing, if_pos h, guarded_open _ _ _ (by simp [ht]) (by simp [ht]), if_neg (ne_true_of_eq_false he),
    if_neg (by simp [ht])]

theorem enableRing_enabled (ht : (s.port p).tdi = .unlocked) (he : (s.ring r).enable = true) : enableRing p r d s = s := by
  rw [enableRing, if_pos h, guarded_open _ _ _ (by simp [ht]) (by simp [ht]), if_pos he]

theorem enableRing_error (ht : (s.port p).tdi = .error) (he : (s.ring r).enable = false) :
    enableRing p r d s = s.modRing r (Ring.setCtl d) := by
  rw [enableRing, if_pos h, guarded_open _ _ _ (by simp [ht]) (by simp [ht]), if_neg (ne_true_of_eq_false he), if_pos ht]

theorem clearRing_enabled (ht : (s.port p).tdi = .unlocked) (he : (s.ring r).enable = true) :
    clearRing p r d s = disableRing r s := by
  rw [clearRing, if_pos h, guarded_open _ _ _ (by simp [ht]) (by simp [ht]), if_pos he]

theorem clearRing_disabled (ht : (s.port p).tdi = .unlocked) (he : (s.ring r).enable = false) :
    clearRing p r d s = s.modRing r (Ring.setCtl d) := by
  rw [clearRing, if_pos h, guarded_open _ _ _ (by simp [ht]) (by simp [ht]), if_neg (ne_true_of_eq_false he)]

theorem enableRing_closed (ht : (s.port p).tdi = .run ∨ (s.port p).tdi = .locked) :
    ((enableRing p r d s).port p).tdi = .error ∧ ((enableRing p r d s).ring p.val).enable = false := by
  rw [enableRing, if_pos h]
  exact guarded_closed_ring p _ s ht

theorem clearRing_closed (ht : (s.port p).tdi = .run ∨ (s.port p).tdi = .locked) :
    ((clearRing p r d s).port p).tdi = .error ∧ ((clearRing p r d s).ring p.val).enable = false := by
  rw [clearRing, if_pos h]
  exact guarded_closed_ring p _ s ht

end

theorem enableRing_unreached (p : Port) (r : Nat) (d : Word) (s : State) (h : s.reaches p r = false) :
    enableRing p r d s = s :=
  if_neg (ne_true_of_eq_false h)

theorem clearRing_unreached (p : Port) (r : Nat) (d : Word) (s : State) (h : s.reaches p r = false) : clearRing p r d s = s :=
  if_neg (ne_true_of_eq_false h)

theorem exec_ringPoll (s : State) (r : RingIx) (p : Port) (ht : s.timed = true) (hp : s.ringPort r.val = some p)
    (hs : s.ringServed r.val = true) (hr : (s.ring r.val).reading = false) (hx : s.ringResets r.val = false)
    (hl : (s.ring r.val).pend.length ≤ 1008) (hm : s.now.toNat % max 1 (s.pollPeriod r.val) = 0) :
    exec (.ringPoll r) s =
      .next ((s.modRing r.val (fun g => { g with reading := true })).emit (s.pollRead p r.val)) := by
  rw [exec, execRingPoll]
  simp [hp, ht, hs, hr, hx, hl, hm]

/-! ### Links, resets and the steward role (R303, R310, R327) -/

theorem linkForm_iff (w : BitVec 4) (v : BitVec 3) :
    linkForm w v = true ↔ w ∈ [1#4, 2#4, 4#4, 8#4] ∧ 1 ≤ v.toNat ∧ v.toNat ≤ 6 := by
  revert w v
  decide

theorem exec_pcieLinkUp (s : State) (p : Port) (w : BitVec 4) (v : BitVec 3) (perst : Bool) (hr : s.linksRun = true)
    (hf : linkForm w v = true) : exec (.pcieLinkUp p w ⟨v, perst⟩) s = .next (
      if perst then s.modPort p (fun x =>
        { x with linkUp := true, perst := false, width := w, speed := v, downLaps := 0, downLap := false })
      else s.modPort p (fun x => { x with perst := true })) := by
  rw [exec, execPcieLinkUp]
  simp [hr, hf]

theorem exec_pcieLinkUp_early (s : State) (p : Port) (w : BitVec 4) (v : LinkTrained) (hr : s.linksRun = false) :
    exec (.pcieLinkUp p w v) s = .next s := by
  rw [exec, execPcieLinkUp]
  simp [hr]

/-- A port's link at a reset of the port (R327, R425). -/
def PortSt.fell (c : PortResetCause) (x : PortSt) : PortSt :=
  { x with linkUp := x.linkUp && !downCause c, downLap := if downCause c && x.linkUp then false else x.downLap
           perst := match c with | .perst => true | _ => x.perst }

theorem exec_portReset (p : Port) (c : PortResetCause) (s : State) (h : s.boot.supply = .on) :
    exec (.portReset p c) s = .next ((resetPort p s).modPort p (PortSt.fell c)) := by
  rw [exec, execPortReset, if_pos h]
  rfl

/-- What the failed accesses of a port's movers leave unchanged. -/
theorem failHostAccesses_hostSide (p : Port) (s : State) :
    (failHostAccesses p s).rings = s.rings ∧ (failHostAccesses p s).ports = s.ports := by
  unfold failHostAccesses
  induction List.range 80 generalizing s with
  | nil => exact ⟨rfl, rfl⟩
  | cons m l ih =>
    obtain ⟨hr, hp⟩ := ih (match s.moverOwner m, (s.mover m).active with
      | some n, some t =>
        if t.desc.usesHost && (match s.allot n with | some a => portOf a.port == p | none => false) then hostAccess n m t s else s
      | _, _ => s)
    rw [List.foldl_cons]
    refine ⟨hr.trans ?_, hp.trans ?_⟩ <;> split
    · split_ifs
      · rw [hostAccess, moverFault_frame]
      · rfl
    · rfl
    · split_ifs
      · rw [hostAccess, moverFault_frame]
      · rfl
    · rfl

/-- What a port loses at a reset of it (R327). -/
def PortSt.cleared (x : PortSt) : PortSt :=
  { x with msix := [], evtVec := 0, evtEn := 0, evtDue := false, indSpace := 0, indInc := false, indErr := false, indWord := 0 }

theorem resetPort_eq (p : Port) (s : State) :
    resetPort p s = (failHostAccesses p (disableRings p s)).modPort p PortSt.cleared := rfl

theorem resetPort_rings (p : Port) (s : State) : (resetPort p s).rings = (disableRings p s).rings := by
  rw [resetPort_eq, State.modPort_rings, (failHostAccesses_hostSide p _).1]

theorem resetPort_ring (p : Port) (q : Nat) (s : State) : (resetPort p s).ring q = (disableRings p s).ring q := by
  rw [State.ring, resetPort_rings, State.ring]

theorem resetPort_port (p q : Port) (s : State) :
    (resetPort p s).port q = if q = p then (s.port p).cleared else s.port q := by
  have h : ∀ q, (failHostAccesses p (disableRings p s)).port q = s.port q := fun q => by
    rw [← disableRings_port p q s, State.port, State.port, (failHostAccesses_hostSide p _).2]
  rw [resetPort_eq, State.modPort_port, h, h]

theorem PortSt.fell_cleared (c : PortResetCause) (x : PortSt) : x.cleared.fell c = { x with
    msix := [], evtEn := 0, evtVec := 0, evtDue := false, indSpace := 0, indInc := false, indErr := false, indWord := 0
    linkUp := x.linkUp && !(decide (c = .linkDown) || decide (c = .perst))
    downLap := if (c = .linkDown ∨ c = .perst) ∧ x.linkUp then false else x.downLap
    perst := if c = .perst then true else x.perst } := by
  cases c <;> simp [PortSt.fell, PortSt.cleared, downCause]

theorem exec_stewardGive (p : Port) (s : State) (h : s.hears p = true) (hs : s.isSteward p = true) :
    exec (.stewardGive p) s = .next (giveSteward p s) := by
  rw [exec, execStewardGive, stewardWrite_on _ _ _ h hs]

theorem exec_stewardGive_other (p : Port) (s : State) (h : s.hears p = true) (hs : s.isSteward p = false) :
    exec (.stewardGive p) s = .next (countNs p s) := by
  rw [exec, execStewardGive, stewardWrite_other _ _ _ h hs]

theorem claimSteward_taken (p : Port) (s : State) (hs : s.isSteward p = false) (hd : 954 ≤ (s.port (other p)).downLaps.toNat) :
    claimSteward p s = { s with steward := decide (p.val = 1) } :=
  if_pos (by simp [hs, hd])

theorem claimSteward_ignored (p : Port) (s : State) (h : s.isSteward p = true ∨ (s.port (other p)).downLaps.toNat < 954) :
    claimSteward p s = s := by
  refine if_neg fun hc => ?_
  obtain ⟨hs, hd⟩ := Bool.and_eq_true_iff.mp hc
  rcases h with h | h
  · simp [h] at hs
  · exact absurd (of_decide_eq_true hd) (by omega)

end Sys2Proof.Machine

namespace Sys2Proof.Proofs

open Sys2Proof Sys2Proof.Machine

/-- Settles O21, by the state of the TDI and of the ring that a write finds. -/
theorem ringCommands : Obligations.RingCommands := by
  refine ⟨fun s p r d h hr ht => ⟨fun he => ?_, fun he => ?_, fun he => ?_, fun he => ?_⟩, fun s p r d h hr ht he => ?_,
    fun s p r d h hr => ⟨?_, ?_⟩, fun s p r d h hr ht => ⟨⟨_, exec_ringEnable p r d s h, enableRing_closed p _ d s hr ht⟩,
      _, exec_ringDisable p r d s h, clearRing_closed p _ d s hr ht⟩, fun s r p ht hp hs hr hx hl hm =>
      ⟨_, exec_ringPoll s r p ht hp hs hr hx hl hm, ?_, rfl, fun q hq => ?_, rfl⟩⟩
  · rw [exec_ringEnable p r d s h, enableRing_unlocked p _ d s hr ht he]
    rfl
  · rw [exec_ringEnable p r d s h, enableRing_enabled p _ d s hr ht he]
  · rw [exec_ringDisable p r d s h, clearRing_enabled p _ d s hr ht he]
    rfl
  · rw [exec_ringDisable p r d s h, clearRing_disabled p _ d s hr ht he]
    rfl
  · rw [exec_ringEnable p r d s h, enableRing_error p _ d s hr ht he]
    rfl
  · rw [exec_ringEnable p r d s h, enableRing_unreached p _ d s hr]
  · rw [exec_ringDisable p r d s h, clearRing_unreached p _ d s hr]
  · rw [State.emit_ring, State.modRing_ring_same]
  · rw [State.emit_ring, State.modRing_ring, if_neg hq]

/-- Settles O19, by what a reset of a port changes on the host's side and what the steward role turns on. -/
theorem portCommands : Obligations.PortCommands := by
  refine ⟨fun s p w v hr hw h1 h6 => ?_, exec_pcieLinkUp_early, fun s p c hs => ?_, fun s p h hs => exec_stewardGive p s h hs,
    fun s p h hs => exec_stewardGive_other p s h hs, fun s p h hs hd => ?_, fun s p h => ?_⟩
  · have hf := (linkForm_iff w v).mpr ⟨hw, h1, h6⟩
    exact ⟨exec_pcieLinkUp s p w v true hr hf, exec_pcieLinkUp s p w v false hr hf⟩
  · refine ⟨_, exec_portReset p c s hs, ?_, fun n hn => ?_, ?_, fun q hq => ?_, ?_⟩
    · rw [State.modPort_ring, resetPort_ring, disableRings_ring_own]
    · rw [State.modPort_ring, resetPort_ring, disableRings_ring_owned p s n hn]
    · rw [State.modPort_port_same, resetPort_port, if_pos rfl, PortSt.fell_cleared]
    · rw [State.modPort_port, if_neg hq, resetPort_port, if_neg hq]
    · rw [State.modPort_rings, resetPort_rings, ← disableRings_frame, resetPort_eq]
      generalize failHostAccesses p (disableRings p s) = t
      rfl
  · rw [exec, execStewardClaim, hostWrite_on _ _ _ h, claimSteward_taken p s hs hd]
  · rw [exec, execStewardClaim, hostWrite, claimSteward_ignored p s h, ite_self]

end Sys2Proof.Proofs
end

section
/-! SUPPORT. The steward's advance of the boot: when it is taken, and what entering a step does at once. -/

namespace Sys2Proof.Machine

/-! ### What entering a step does (Table 14-1) -/

theorem makeCredential_frame (s : State) :
    makeCredential s = { s with lodge := (makeCredential s).lodge, fresh := (makeCredential s).fresh } := by
  unfold makeCredential
  split_ifs <;> rfl

theorem makeCredential_noIdentity (s : State) (h : s.boot.identity = false) : makeCredential s = s :=
  if_neg (ne_true_of_eq_false h)

/-- The PLLs of a pavilion as S6 is entered (R386). -/
def katPlls : Pll := { active := false, activeLock := true, idleLock := true, ratio := BitVec.ofNat 5 (cptOf 5) }

theorem startArrays_pll (s : State) (q : Pav) : (startArrays s).pll q.val = katPlls := by
  change (((((s.modPll 0 fun _ => katPlls).modPll 1 fun _ => katPlls).modPll 2 fun _ => katPlls).modPll 3
    fun _ => katPlls).pll q.val) = katPlls
  simp only [State.modPll_pll]
  fin_cases q <;> rfl

theorem applyPlan_frame (keep : BitVec 36) (s : State) : applyPlan keep s =
    { s with spokes := (applyPlan keep s).spokes, stations := (applyPlan keep s).stations } := by
  rw [applyPlan_eq, planFold_frame]

theorem enterStep_low (n : Nat) (s : State) (h : n ≤ 4) : enterStep n s = s := by
  interval_cases n <;> rfl

/-- The boot record as a step is entered: only S8 is done at once. -/
theorem enterStep_boot (n : Nat) (s : State) :
    (enterStep n s).boot = { s.boot with state := if n = 8 then 1 else s.boot.state } := by
  unfold enterStep
  split
  · rw [makeCredential_frame]
    rfl
  · rfl
  · rw [applyPlan_frame]
    rfl
  · rfl
  case h_5 h => rw [if_neg h]

theorem enterStep_kept (n : Nat) (s : State) : (enterStep n s).mem = s.mem ∧ (enterStep n s).flash = s.flash ∧
    (enterStep n s).allots = s.allots ∧ (enterStep n s).frc = s.frc := by
  unfold enterStep
  split
  · rw [makeCredential_frame]
    exact ⟨rfl, rfl, rfl, rfl⟩
  · exact ⟨rfl, rfl, rfl, rfl⟩
  · rw [applyPlan_frame]
    exact ⟨rfl, rfl, rfl, rfl⟩
  · exact ⟨rfl, rfl, rfl, rfl⟩
  · exact ⟨rfl, rfl, rfl, rfl⟩

/-! ### BOOT_ADVANCE (R378) -/

theorem stepReady_iff (n : Nat) (s : State) : stepReady n s = true ↔
    (n = 5 → s.self.set = true) ∧ (n = 7 → s.self.plan ≠ []) ∧
      (n = 8 → s.cad.synced = true ∧ s.cad.mismatch = 0) := by
  unfold stepReady
  split <;> simp_all

/-- The state in which a step has just become the running one. -/
def State.running (s : State) (n : BitVec 4) : State :=
  { s with boot := { s.boot with step := n, state := 0, refused := false, ms := 0 } }

theorem advance_taken (n : BitVec 4) (s : State) (h1 : s.boot.state = 1) (hn : n.toNat = s.boot.step.toNat + 1) (h8 : n.toNat ≤ 8)
    (hr : stepReady n.toNat s = true) : advance n.toNat s = enterStep n.toNat (s.running n) := by
  rw [advance, if_pos ⟨h1, hn, h8, hr⟩, BitVec.ofNat_toNat, BitVec.setWidth_eq]
  rfl

theorem advance_refused (n : BitVec 4) (s : State)
    (h : s.boot.state ≠ 1 ∨ n.toNat ≠ s.boot.step.toNat + 1 ∨ 8 < n.toNat ∨ stepReady n.toNat s = false) :
    advance n.toNat s = { s with boot := { s.boot with refused := true } } := by
  refine if_neg fun ⟨h1, hn, h8, hr⟩ => ?_
  rcases h with h | h | h | h
  · exact h h1
  · exact h hn
  · omega
  · rw [hr] at h
    exact Bool.noConfusion h

end Sys2Proof.Machine

namespace Sys2Proof.Proofs

open Sys2Proof Sys2Proof.Machine

/-- Settles O15, by the step that is entered and by which precondition fails. -/
theorem bootAdvanceCommand : Obligations.BootAdvanceCommand := by
  have hnum : ∀ (n : BitVec 4) (k : Nat), k < 16 → (n.toNat = k ↔ n = BitVec.ofNat 4 k) := fun n k hk => by
    rw [BitVec.toNat_eq, BitVec.toNat_ofNat, Nat.mod_eq_of_lt hk]
  refine ⟨fun s p n h hs h1 hn h8 h5 h7 hc => ?_, fun s p n h hs hbad => ?_, fun s p n h hs => ?_⟩
  · have hready : stepReady n.toNat s = true := (stepReady_iff _ s).mpr
      ⟨fun e => h5 ((hnum n 5 (by decide)).mp e), fun e => h7 ((hnum n 7 (by decide)).mp e),
        fun e => hc ((hnum n 8 (by decide)).mp e)⟩
    have hboot := enterStep_boot n.toNat (s.running n)
    obtain ⟨hmem, hflash, hallots, hfrc⟩ := enterStep_kept n.toNat (s.running n)
    refine ⟨enterStep n.toNat (s.running n), ?_, ?_, ?_, ?_, ?_, ?_, ?_, fun hlow => enterStep_low _ _ hlow, ?_, rfl, hmem,
      hflash, hallots, hfrc⟩
    · rw [exec, execBootAdvance, stewardWrite_on _ _ _ h hs, advance_taken n s h1 hn h8 hready]
    · rw [hboot]
      rfl
    · rw [hboot]
      rfl
    · rw [hboot]
      rfl
    · rw [hboot]
      simp only [hnum n 8 (by decide)]
      rfl
    · rintro rfl
      rfl
    · rintro rfl
      exact ⟨rfl, rfl, rfl, startArrays_pll _⟩
    · rintro rfl hid
      exact makeCredential_noIdentity _ hid
  · rw [exec, execBootAdvance, stewardWrite_on _ _ _ h hs, advance_refused]
    rcases hbad with hb | hb | hb | hb
    · exact Or.inl hb
    · exact Or.inr (Or.inl hb)
    · exact Or.inr (Or.inr (Or.inl hb))
    · refine Or.inr (Or.inr (Or.inr (Bool.eq_false_iff.mpr fun hr => ?_)))
      obtain ⟨h5, h7, hc⟩ := (stepReady_iff _ s).mp hr
      rcases hb with ⟨rfl, hb⟩ | ⟨rfl, hb⟩ | ⟨rfl, hb⟩
      · simp [h5 rfl] at hb
      · exact h7 rfl hb
      · obtain ⟨hy, hm⟩ := hc rfl
        simp [hy, hm] at hb
  · rw [exec, execBootAdvance, stewardWrite_other _ _ _ h hs]

end Sys2Proof.Proofs
end

section
/-! SUPPORT. GIVE and TAKE (R311): the allotments of a mask move to a port, and the command is answered. -/

namespace Sys2Proof.Machine

/-! ### Completions on another ring -/

theorem complete_ring_other (r q : Nat) (c : Completion) (s : State) (h : q ≠ r) : (complete r c s).ring q = s.ring q := by
  rw [complete, State.modRing_ring, if_neg h]

theorem complete_ring_congr (r q : Nat) (c : Completion) (s t : State) (h : s.ring q = t.ring q) :
    (complete r c s).ring q = (complete r c t).ring q := by
  by_cases hq : q = r
  · subst hq
    rw [complete, complete, State.modRing_ring_same, State.modRing_ring_same, h]
  · rw [complete_ring_other r q c s hq, complete_ring_other r q c t hq, h]

/-! ### Allotments that move -/

theorem moveAllots_allot (to_ : Port) (l : List Nat) (s : State) (n : Nat) : (moveAllots to_ l s).allot n =
    (s.allot n).map (fun x => if n ∈ l then { x with port := decide (to_.val = 1) } else x) := by
  unfold moveAllots
  induction l generalizing s with
  | nil => simp
  | cons m l ih =>
    rw [List.foldl_cons, ih]
    change ((s.modAllot m fun a => { a with port := decide (to_.val = 1) }).allot n).map _ = _
    rw [State.modAllot_allot]
    by_cases hn : n = m
    · subst hn
      simp only [if_true, Option.map_map, List.mem_cons, true_or]
      refine congrArg (fun f => (s.allot n).map f) (funext fun x => ?_)
      simp only [Function.comp_apply, ite_self]
    · simp only [hn, if_false, List.mem_cons, false_or]

theorem moveAllots_ring (to_ : Port) (l : List Nat) (s : State) (q : Nat) : (moveAllots to_ l s).ring q =
    if ∃ n ∈ l, q = 2 + n then { s.ring q with enable := false, reading := false } else s.ring q := by
  unfold moveAllots
  induction l generalizing s with
  | nil => simp
  | cons n l ih =>
    rw [List.foldl_cons, ih, disableRing, State.modRing_ring]
    by_cases hn : q = 2 + n
    · subst hn
      simp [State.ring, State.modAllot]
    · simp [hn, State.ring, State.modAllot]

theorem moveAllots_frame (to_ : Port) (l : List Nat) (s : State) : moveAllots to_ l s =
    { s with allots := (moveAllots to_ l s).allots, rings := (moveAllots to_ l s).rings } := by
  unfold moveAllots
  induction l generalizing s with
  | nil => rfl
  | cons n l ih =>
    rw [List.foldl_cons, ih]
    rfl

/-! ### The commands -/

section

variable (s : State) (p : Port) (b : List Byte) (head : BitVec 16)
  (hdirt : entryDirt b [(1, 3), (0x0A, 6), (0x10, 0x2F)] = none)

include hdirt

theorem actGive_moved (hown : s.notOwned p (entryAllots b) = 0) (hl : (s.port (other p)).linkUp = true)
    (he : (s.ring (other p).val).enable = true) : actGive p b head s =
    commandDone p (entryTag b) 0x00 0 head (moveAllots (other p) (setBits (entryAllots b)) s) := by
  rw [actGive, onAllots_named p b head _ _ _ s hdirt hown]
  simp only [hl, he, Bool.and_self, if_true]

theorem actGive_refused (hown : s.notOwned p (entryAllots b) = 0)
    (h : (s.port (other p)).linkUp = false ∨ (s.ring (other p).val).enable = false) : actGive p b head s =
    commandDone p (entryTag b) 0x06 ((s.port (other p)).downLaps.setWidth 32) head s := by
  rw [actGive, onAllots_named p b head _ _ _ s hdirt hown]
  rcases h with h | h <;> simp only [h, Bool.and_false, Bool.false_and, Bool.false_eq_true, if_false]

theorem actTake_moved (hown : s.notOther p (entryAllots b) = 0) (hd : 954 ≤ (s.port (other p)).downLaps.toNat) :
    actTake p b head s = commandDone p (entryTag b) 0x00 0 head (moveAllots p (setBits (entryAllots b)) s) := by
  rw [actTake, onAllots_named p b head _ _ _ s hdirt hown, if_pos hd]

theorem actTake_refused (hown : s.notOther p (entryAllots b) = 0) (hd : (s.port (other p)).downLaps.toNat < 954) :
    actTake p b head s = commandDone p (entryTag b) 0x06 ((s.port (other p)).downLaps.setWidth 32) head s := by
  rw [actTake, onAllots_named p b head _ _ _ s hdirt hown, if_neg (not_le.mpr hd)]

end

/-- What a command that moves the allotments of a mask to a port leaves, once it is answered. -/
structure MovedTo (q : Port) (m : BitVec 16) (answered : State → State) (s t : State) : Prop where
  allot : ∀ n, t.allot n = (s.allot n).map (fun x => if m.getLsbD n then { x with port := decide (q.val = 1) } else x)
  disabled : ∀ n, m.getLsbD n → t.ring (2 + n) = { s.ring (2 + n) with enable := false, reading := false }
  others : ∀ n, m.getLsbD n = false → t.ring (2 + n) = s.ring (2 + n)
  ring0 : t.ring 0 = (answered s).ring 0
  ring1 : t.ring 1 = (answered s).ring 1
  frame : t = { s with allots := t.allots, rings := t.rings }

theorem moveAllots_answered (p q : Port) (m : BitVec 16) (tag : Word) (head : BitVec 16) (s : State) :
    MovedTo q m (commandDone p tag 0x00 0 head) s (commandDone p tag 0x00 0 head (moveAllots q (setBits m) s)) := by
  have hnow : (moveAllots q (setBits m) s).now = s.now := by
    rw [moveAllots_frame]
    rfl
  have hport : ∀ r, (∀ n, r ≠ 2 + n) → (moveAllots q (setBits m) s).ring r = s.ring r := fun r h => by
    rw [moveAllots_ring, if_neg (fun ⟨n, _, e⟩ => h n e)]
  have hother : ∀ n, 2 + n ≠ p.val := fun n => by omega
  have hmem : ∀ n, (∃ k ∈ setBits m, 2 + n = 2 + k) ↔ m.getLsbD n = true := fun n => by
    simp [mem_setBits_iff]
  unfold commandDone
  rw [hnow]
  refine ⟨fun n => ?_, fun n hn => ?_, fun n hn => ?_, ?_, ?_, ?_⟩
  · refine (moveAllots_allot q (setBits m) s n).trans ?_
    simp only [mem_setBits_iff]
  · rw [complete_ring_other _ _ _ _ (hother n), moveAllots_ring, if_pos ((hmem n).mpr hn)]
  · rw [complete_ring_other _ _ _ _ (hother n), moveAllots_ring, if_neg (fun h => by simp [(hmem n).mp h] at hn)]
  · exact complete_ring_congr _ _ _ _ _ (hport 0 fun n => by omega)
  · exact complete_ring_congr _ _ _ _ _ (hport 1 fun n => by omega)
  · rw [complete_frame, moveAllots_frame]

end Sys2Proof.Machine

namespace Sys2Proof.Proofs

open Sys2Proof Sys2Proof.Machine

/-- Settles O28, by moving the named allotments one after another. -/
theorem giveTakeCommands : Obligations.GiveTakeCommands := by
  intro s p b ht hr hl hdirt done moved
  have hmoved : ∀ (q : Port) (t : State),
      MovedTo q (entryAllots b) (commandDone p (entryTag b) 0x00 0 (s.ring p.val).sqHead) s t → moved q t :=
    fun q t ⟨ha, hd, ho, h0, h1, hf⟩ => ⟨ha, hd, ho, h0, h1, hf⟩
  refine ⟨fun ho hown => ⟨fun hlink hen => ⟨_, ?_, hmoved _ _ (moveAllots_answered p (other p) _ _ _ s)⟩, fun h => ?_⟩,
    fun ho hown => ⟨fun hd => ⟨_, ?_, hmoved _ _ (moveAllots_answered p p _ _ _ s)⟩, fun hd => ?_⟩⟩
  · rw [exec, execGive, portCommand_on p _ _ b s ht hr hl ho, actGive_moved s p b _ hdirt hown hlink hen]
  · rw [exec, execGive, portCommand_on p _ _ b s ht hr hl ho, actGive_refused s p b _ hdirt hown h]
    rfl
  · rw [exec, execTake, portCommand_on p _ _ b s ht hr hl ho, actTake_moved s p b _ hdirt hown hd]
  · rw [exec, execTake, portCommand_on p _ _ b s ht hr hl ho, actTake_refused s p b _ hdirt hown hd]
    rfl

end Sys2Proof.Proofs
end

section
/-! SUPPORT. A RUN entry after a thermal trip (R295), for an allotment that is not itself marked stopped. -/

namespace Sys2Proof.Machine

/-- After a thermal trip a RUN entry is answered RUN_REFUSED with detail 6, whatever its allotment (R295, Table 11-4). -/
theorem actRun_tripped (n : Nat) (b : List Byte) (head : BitVec 16) (s : State) (x : AllotSt) (hx : s.loaded n = some x)
    (ho : byteAt b 0 = 0x01) (hd : entryDirt b [(3, 1), (0x38, 7)] = none) (ht : s.thm.trip = true) :
    actRun n b head s = runDone n (parseRunEntry b head s.now) 0x05 6 s := by
  have hrefused : runRefused s x (parseRunEntry b head s.now) = some 6 := if_pos (by rw [ht, Bool.or_true])
  simp only [actRun, hx, hd, hrefused]
  rw [if_neg (not_not.mpr ho)]

theorem runDone_allots (n : Nat) (r : Run) (status : Byte) (detail : Nat) (s : State) :
    (runDone n r status detail s).allots = s.allots := rfl

end Sys2Proof.Machine

namespace Sys2Proof.Proofs

open Sys2Proof Sys2Proof.Machine

/-- A started allotment with a run, phase 0 in front and nothing that has stopped it. -/
def unstoppedAllot : AllotSt :=
  { started := true, run := some ⟨0, 0, 0, 0, 0, [], 0, 0⟩, front := some ⟨0, [], [], [], []⟩ }

/-- A module that has tripped, with allotment 0 of H0, its image and its ring. -/
def trippedModule : State :=
  { cad := { aligned := true }, thm := { trip := true }, ports := [(0, { linkUp := true })], rings := [(2, { enable := true })]
    allots := [(0, unstoppedAllot)], images := [(0, { phases := 1, rosters := [[0]] })] }

/-- A RUN entry of phase 0 and regroup variant 0, with START 0. -/
def runPhase0 : List Byte := 0x01 :: List.replicate 63 0

theorem trippedModule_exec : exec (.run 0 runPhase0) trippedModule =
    .next (runDone 0 (parseRunEntry runPhase0 0 trippedModule.now) 0x05 6 trippedModule) := by
  rw [exec, execRun, if_neg (by decide), if_pos (by decide)]
  exact congrArg Host.Outcome.next (actRun_tripped 0 runPhase0 0 trippedModule unstoppedAllot rfl rfl (by decide) rfl)

/-- Refutes O23: its clause on a RUN that becomes the pending run does not ask that the module has not tripped, and in
`trippedModule` the entry is refused. -/
theorem not_submissionCommands : ¬ Obligations.SubmissionCommands := by
  unfold Obligations.SubmissionCommands
  rintro ⟨-, hrun, -⟩
  obtain ⟨-, hpending⟩ := hrun trippedModule 0 unstoppedAllot runPhase0 rfl rfl (by decide) rfl rfl (by decide) rfl rfl
    (by decide)
  have htaken := hpending rfl rfl (by decide) (by decide) (by decide) ⟨0, by decide, by decide⟩ (by decide) (by decide)
  rw [trippedModule_exec] at htaken
  have hallots := congrArg State.allots (Host.Outcome.next.inj htaken)
  rw [runDone_allots] at hallots
  exact absurd hallots (by decide)

end Sys2Proof.Proofs
end

section
/-! SUPPORT. The module at reset: the forms that its stores and queues have. -/

namespace Sys2Proof.Machine

theorem State.reset_ring (r : Nat) : State.reset.ring r = {} := rfl

theorem State.reset_bounded : State.reset.bounded :=
  ⟨by decide, fun v h => (by rcases h with h | h <;> cases h),
    fun r => by rw [State.reset_ring]; decide, by decide, fun x h => absurd h List.not_mem_nil⟩

end Sys2Proof.Machine

namespace Sys2Proof.Proofs

open Sys2Proof Sys2Proof.Machine

/-- Settles O53: the stores and the queues are empty at reset. -/
theorem resetKeepsInvariants : Obligations.ResetKeepsInvariants :=
  ⟨by decide, State.reset_bounded, rfl⟩

end Sys2Proof.Proofs
end

section
/-! SUPPORT. The staging window (R307, R436): what its maps and schedules write, what an access reads slice by slice, and which
bytes it writes. -/

namespace Sys2Proof.Machine

/-! ### Pages (R307, R316, R351) -/

theorem writeWin_page (s : State) (p : Port) (n : Nat) (x : AllotSt) (d : Word) (hx : s.page p n = some x)
    (ht : (s.port p).tdi = .unlocked) : writeWin p n d s =
    if s.confidential x = false ∧ (bit d 31 → x.covers (winAddr (fld d 0 24))) then
      s.modAllot n (fun x => { x with winEn := bit d 31, winBase := fld d 0 24 })
    else s := by
  simp only [writeWin, hx]
  rw [guarded_open _ _ _ (by simp [ht]) (by simp [ht])]
  cases s.confidential x <;> cases bit d 31 <;> cases x.covers (winAddr (fld d 0 24)) <;> simp

theorem writeSched_page (s : State) (p : Port) (n : Nat) (x : AllotSt) (d : Word) (hx : s.page p n = some x) :
    writeSched p n d s =
    if (fld d 16 4 = x.sgrp ∨ s.ownsGroup n (fld d 16 4).toNat) ∧ 1 ≤ (fld d 0 13).toNat ∧ (fld d 0 13).toNat ≤ 4096 then
      s.modAllot n (fun x => { x with sgrp := fld d 16 4, poll := x.poll.write s.now (fld d 0 13) })
    else s := by
  have hpos : (fld d 0 13 = 0) ↔ ¬ 1 ≤ (fld d 0 13).toNat := by
    rw [BitVec.toNat_eq]
    simp
  simp only [writeSched, hx, hpos]
  by_cases hg : fld d 16 4 = x.sgrp ∨ s.ownsGroup n (fld d 16 4).toNat = true
  · have hng : ¬ (fld d 16 4 ≠ x.sgrp ∧ s.ownsGroup n (fld d 16 4).toNat = false) := by
      rintro ⟨h1, h2⟩
      rcases hg with h | h
      · exact h1 h
      · simp [h] at h2
    by_cases hr : 1 ≤ (fld d 0 13).toNat ∧ (fld d 0 13).toNat ≤ 4096
    · rw [if_neg (fun h => h.elim hng (by omega)), if_pos ⟨hg, hr⟩]
    · rw [if_pos (Or.inr (by omega)), if_neg (fun h => hr h.2)]
  · have hng : fld d 16 4 ≠ x.sgrp ∧ s.ownsGroup n (fld d 16 4).toNat = false :=
      ⟨fun h => hg (Or.inl h), Bool.eq_false_iff.mpr fun h => hg (Or.inr h)⟩
    rw [if_pos (Or.inl hng), if_neg (fun h => hg h.1)]

theorem writeWin_none (s : State) (p : Port) (n : Nat) (d : Word) (h : s.page p n = none) : writeWin p n d s = s := by
  simp only [writeWin, h]

theorem writeSched_none (s : State) (p : Port) (n : Nat) (d : Word) (h : s.page p n = none) : writeSched p n d s = s := by
  simp only [writeSched, h]

/-! ### Reads of a clean memory -/

theorem bytesAt_bytes (s : State) (st a m i n : Nat) (h : i + n ≤ m) :
    bytesAt (s.bytes st a m) i n = s.bytes st (a + i) n := by
  unfold bytesAt State.bytes
  refine List.map_congr_left fun j hj => ?_
  have hj' := List.mem_range.mp hj
  simp [byteAt, show i + j < m by omega, Nat.add_assoc]

/-- The words that an access touches hold its bytes from the place of the first one in its word on. -/
theorem State.wordsOf_bytesAt (s : State) (a n : Nat) :
    bytesAt ((wordsOf a n).flatMap (fun w => s.bytes 0 (32 * w) 32)) (a % 32) n = s.bytes 0 a n := by
  unfold wordsOf
  split_ifs with hn
  · subst hn
    rfl
  · rw [s.words_bytes, bytesAt_bytes s 0 _ _ _ _ (by omega), Nat.div_add_mod]

theorem hostRead_clean (p : Port) (k w : Nat) (s : State) (h : s.clean 0) :
    hostRead p [] k w s = (s, s.bytes 0 (32 * w) 32, false) := by
  rw [hostRead, Laws.readWord_clean 0 w s (h w)]
  rfl

/-- Reads none of which is poisoned gather what each of them reads. -/
theorem foldl_unpoisoned {α : Type} (s : State) (v : α → List Byte)
    (f : State × List Byte × Bool → α → State × List Byte × Bool)
    (h : ∀ b e, f (s, b, false) e = (s, b ++ v e, false)) (l : List α) (b : List Byte) :
    l.foldl f (s, b, false) = (s, b ++ l.flatMap v, false) := by
  induction l generalizing b with
  | nil => simp
  | cons e l ih => rw [List.foldl_cons, h, ih, List.flatMap_cons, List.append_assoc]

/-- What a slice of the window reads as. -/
def State.sliceBytes (s : State) (p : Port) (e : Nat × Nat) : List Byte := match s.window p e.1 with
  | none => List.replicate e.2 0
  | some a => s.bytes 0 a e.2

/-- One word of a read of a slice whose first word is word k. -/
def readStep (p : Port) (k : Nat) (x : State × List Byte × Bool) (e : Nat × Nat) : State × List Byte × Bool :=
  let r := hostRead p [] (k + e.2) e.1 x.1
  (r.1, x.2.1 ++ r.2.1, x.2.2 || r.2.2)

theorem readSlice_unmapped (p : Port) (k : Nat) (e : Nat × Nat) (s : State) (h : s.window p e.1 = none) :
    readSlice p [] k e s = (s, List.replicate e.2 0, false) := by
  simp only [readSlice, h]

theorem readSlice_mapped (p : Port) (k : Nat) (e : Nat × Nat) (s : State) (a : Nat) (h : s.window p e.1 = some a) :
    readSlice p [] k e s =
      (((wordsOf a e.2).zipIdx.foldl (readStep p k) (s, [], false)).1,
        bytesAt ((wordsOf a e.2).zipIdx.foldl (readStep p k) (s, [], false)).2.1 (a % 32) e.2,
        ((wordsOf a e.2).zipIdx.foldl (readStep p k) (s, [], false)).2.2) := by
  simp only [readSlice, h]
  rfl

theorem readSlice_clean (p : Port) (k : Nat) (e : Nat × Nat) (s : State) (h : s.clean 0) :
    readSlice p [] k e s = (s, s.sliceBytes p e, false) := by
  unfold State.sliceBytes
  cases hw : s.window p e.1 with
  | none => exact readSlice_unmapped p k e s hw
  | some a =>
    have hstep : ∀ (b : List Byte) (e : Nat × Nat), readStep p k (s, b, false) e = (s, b ++ s.bytes 0 (32 * e.1) 32, false) :=
      fun b e => by rw [readStep, hostRead_clean p _ _ s h, Bool.or_self]
    have hwords : (wordsOf a e.2).zipIdx.flatMap (fun e => s.bytes 0 (32 * e.1) 32) =
        (wordsOf a e.2).flatMap (fun w => s.bytes 0 (32 * w) 32) := by
      conv_rhs => rw [← List.zipIdx_map_fst 0 (wordsOf a e.2), List.flatMap_map]
    rw [readSlice_mapped p k e s a hw, foldl_unpoisoned s _ _ hstep, hwords, List.nil_append, State.wordsOf_bytesAt]

/-- One slice of a read that begins at an offset. -/
def sliceStep (p : Port) (o : BitVec 28) (x : State × List Byte × Bool) (e : Nat × Nat) : State × List Byte × Bool :=
  let r := readSlice p [] (wordFrom o e.1) e x.1
  (r.1, x.2.1 ++ r.2.1, x.2.2 || r.2.2)

/-- The answer to a read of n bytes. -/
def readAnswer (p : Port) (n : Nat) (x : State × List Byte × Bool) : State :=
  x.1.emit (.readData (decide (p.val = 1)) (if x.2.2 then List.replicate n 0 else x.2.1) x.2.2)

theorem exec_stagingWindowRead (s : State) (p : Port) (o : BitVec 28) (n : BitVec 13) (hh : s.hears p = true) :
    exec (.stagingWindowRead p o n ⟨[], []⟩) s =
      .next (readAnswer p n.toNat ((slices o.toNat n.toNat).foldl (sliceStep p o) (s, [], false))) := by
  rw [exec, execStagingWindowRead, if_pos hh]
  rfl

theorem exec_stagingWindowRead_clean (s : State) (p : Port) (o : BitVec 28) (n : BitVec 13) (hh : s.hears p = true)
    (hc : s.clean 0) : exec (.stagingWindowRead p o n ⟨[], []⟩) s = .next (s.emit (.readData (decide (p.val = 1))
      ((slices o.toNat n.toNat).flatMap (s.sliceBytes p)) false)) := by
  have hstep : ∀ (b : List Byte) (e : Nat × Nat), sliceStep p o (s, b, false) e = (s, b ++ s.sliceBytes p e, false) :=
    fun b e => by rw [sliceStep, readSlice_clean p _ _ s hc, Bool.or_self]
  rw [exec_stagingWindowRead s p o n hh, foldl_unpoisoned s _ _ hstep]
  rfl

/-! ### A read that meets an uncorrectable word (R436) -/

/-- What a state keeps while words are read from it: reads count, and change nothing else. -/
def OnlyCounts (s t : State) : Prop := t = { s with mgmt := t.mgmt, hbms := t.hbms, ddrs := t.ddrs, live := t.live }

theorem OnlyCounts.refl (s : State) : OnlyCounts s s := rfl

theorem OnlyCounts.trans {s t u : State} (h : OnlyCounts s t) (h' : OnlyCounts t u) : OnlyCounts s u := by
  unfold OnlyCounts at *
  rw [h', h]

theorem OnlyCounts.upset {s t : State} (h : OnlyCounts s t) : t.upset = s.upset := by
  rw [h]

theorem hostRead_onlyCounts (p : Port) (k w : Nat) (s : State) : OnlyCounts s (hostRead p [] k w s).1 := by
  obtain ⟨o, h, d, l, hf⟩ := Laws.readWord_frame 0 w s
  have hcounts : OnlyCounts s (readWord 0 w s).1 := by
    rw [hf]
    rfl
  unfold hostRead
  split
  case h_1 t b heq =>
    rw [heq] at hcounts
    exact hcounts
  case h_2 t r _ heq =>
    rw [heq] at hcounts
    exact hcounts

theorem readWord_uncorrectable (w : Nat) (s : State) (hu : sget [] s.upset (upsetKey 0 w) ≠ [])
    (hd : trellisDecode ((sget [] s.upset (upsetKey 0 w)).take 36) = .uncorrectable) : (readWord 0 w s).2 = .ue := by
  have he : (sget [] s.upset (upsetKey 0 w)).isEmpty = false := by
    rw [List.isEmpty_eq_false_iff]
    exact hu
  simp only [readWord, he, hd, Bool.false_eq_true, if_false]

theorem hostRead_poisoned (p : Port) (k w : Nat) (s : State) (hu : sget [] s.upset (upsetKey 0 w) ≠ [])
    (hd : trellisDecode ((sget [] s.upset (upsetKey 0 w)).take 36) = .uncorrectable) : (hostRead p [] k w s).2.2 = true := by
  have hue := readWord_uncorrectable w s hu hd
  unfold hostRead
  split
  case h_1 t b heq =>
    rw [heq] at hue
    exact Rd.noConfusion hue
  case h_2 => rfl

/-- Reads one of which is poisoned are poisoned, and only count. -/
theorem readSteps_poisoned (p : Port) (k w : Nat) (l : List (Nat × Nat)) (x : State × List Byte × Bool)
    (hu : sget [] x.1.upset (upsetKey 0 w) ≠ [])
    (hd : trellisDecode ((sget [] x.1.upset (upsetKey 0 w)).take 36) = .uncorrectable)
    (hw : w ∈ l.map Prod.fst ∨ x.2.2 = true) :
    OnlyCounts x.1 (l.foldl (readStep p k) x).1 ∧ (l.foldl (readStep p k) x).2.2 = true := by
  induction l generalizing x with
  | nil => exact ⟨OnlyCounts.refl _, hw.resolve_left List.not_mem_nil⟩
  | cons e l ih =>
    have hcounts : OnlyCounts x.1 (readStep p k x e).1 := hostRead_onlyCounts p _ _ _
    have hw' : w ∈ l.map Prod.fst ∨ (readStep p k x e).2.2 = true := by
      rcases hw with hw | hb
      · rcases List.mem_cons.mp hw with rfl | hw
        · exact Or.inr (by rw [readStep, hostRead_poisoned p _ _ _ hu hd, Bool.or_true])
        · exact Or.inl hw
      · exact Or.inr (by rw [readStep, hb, Bool.true_or])
    obtain ⟨hc, hb⟩ := ih (readStep p k x e) (by rw [hcounts.upset]; exact hu) (by rw [hcounts.upset]; exact hd) hw'
    exact ⟨hcounts.trans hc, hb⟩

/-- A slice with an uncorrectable word is poisoned. -/
theorem readSlice_poisoned (p : Port) (k : Nat) (e : Nat × Nat) (s : State) (a w : Nat) (h : s.window p e.1 = some a)
    (hw : w ∈ wordsOf a e.2) (hu : sget [] s.upset (upsetKey 0 w) ≠ [])
    (hd : trellisDecode ((sget [] s.upset (upsetKey 0 w)).take 36) = .uncorrectable) :
    OnlyCounts s (readSlice p [] k e s).1 ∧ (readSlice p [] k e s).2.2 = true := by
  rw [readSlice_mapped p k e s a h]
  exact readSteps_poisoned p k w _ (s, [], false) hu hd (Or.inl (by rw [List.zipIdx_map_fst]; exact hw))

theorem slices_within (o n : Nat) (h : o % 2 ^ 24 + n ≤ 2 ^ 24) : slices o n = [(o, n)] := by
  have hmin : min n (2 ^ 24 - o % 2 ^ 24) = n := by omega
  rw [slices, hmin, if_neg (lt_irrefl n)]

/-! ### Writes to a clean memory -/

/-- A write that changes the bytes that f lists and no other byte, and leaves every word as clean as it was. -/
structure Writes (s t : State) (f : Nat → Option Byte) : Prop where
  byte : ∀ x, t.byte 0 x = (f x).getD (s.byte 0 x)
  frame : t = { s with mem := t.mem, upset := t.upset }
  upset : ∀ k, sget [] t.upset k = sget [] s.upset k

theorem Writes.refl (s : State) (f : Nat → Option Byte) (hf : ∀ x, f x = none) : Writes s s f :=
  ⟨fun x => by rw [hf, Option.getD_none], rfl, fun _ => rfl⟩

theorem Writes.trans {s t u : State} {f g : Nat → Option Byte} (h : Writes s t f) (h' : Writes t u g) :
    Writes s u (fun x => (g x).or (f x)) where
  byte x := by
    rw [h'.byte, h.byte]
    cases g x <;> rfl
  frame := by rw [h'.frame, h.frame]
  upset k := (h'.upset k).trans (h.upset k)

theorem Writes.congr {s t : State} {f g : Nat → Option Byte} (h : Writes s t f) (hf : ∀ x, f x = g x) : Writes s t g := by
  rw [← funext hf]
  exact h

theorem Writes.clean {s t : State} {f : Nat → Option Byte} (h : Writes s t f) (hc : s.clean 0) : t.clean 0 := fun w =>
  (h.upset _).trans (hc w)

/-- Writes one after another: of several that write a byte, the last one's value stands. -/
theorem foldl_writes {α : Type} (s : State) (step : State → α → State) (f : α → Nat → Option Byte)
    (l : List α) (h : ∀ t g, ∀ e ∈ l, Writes s t g → Writes t (step t e) (f e)) :
    Writes s (l.foldl step s) (fun x => (l.filterMap (f · x)).getLast?) := by
  induction l using List.reverseRecOn with
  | nil => exact Writes.refl s _ fun _ => rfl
  | append_singleton l e ih =>
    have hl := ih fun t g e' he' => h t g e' (List.mem_append_left _ he')
    rw [List.foldl_concat]
    refine (hl.trans (h _ _ e (List.mem_append_right _ (List.mem_singleton_self e)) hl)).congr fun x => ?_
    rw [List.filterMap_append, List.getLast?_append]
    cases hf : f e x <;> simp [hf]

theorem setBytes_mem_frame (s : State) (a : Nat) (b : List Byte) :
    s.setBytes 0 a b = { s with mem := (s.setBytes 0 a b).mem } := by
  unfold State.setBytes
  induction b.zipIdx generalizing s with
  | nil => rfl
  | cons e l ih =>
    rw [List.foldl_cons, ih]
    rfl

/-- A whole word written to a clean memory. -/
theorem writeWord_writes (w : Nat) (b : List Byte) (s : State) (hc : s.clean 0) (hb : b.length = 32) :
    Writes s (writeWord 0 w b s) (fun x => if 32 * w ≤ x ∧ x < 32 * w + 32 then some (byteAt b (x - 32 * w)) else none) where
  byte x := by
    rw [Laws.writeWord_byte 0 w 0 x b s hb]
    simp only [true_and]
    split_ifs <;> rfl
  frame := by
    rw [writeWord, setBytes_mem_frame]
  upset k := by
    rw [Laws.writeWord_upset]
    split_ifs with h
    · rw [h, hc w]
    · rfl

/-! ### Bytes of byte strings -/

theorem State.length_bytes (s : State) (st a n : Nat) : (s.bytes st a n).length = n := by
  rw [State.bytes, List.length_map, List.length_range]

theorem byteAt_bytes (s : State) (st a n i : Nat) (h : i < n) : byteAt (s.bytes st a n) i = s.byte st (a + i) := by
  simp [byteAt, State.bytes, h]

theorem byteAt_append (l m : List Byte) (i : Nat) :
    byteAt (l ++ m) i = if i < l.length then byteAt l i else byteAt m (i - l.length) := by
  simp only [byteAt, List.getD_eq_getElem?_getD]
  split_ifs with h
  · rw [List.getElem?_append_left h]
  · rw [List.getElem?_append_right (not_lt.mp h)]

theorem byteAt_take (l : List Byte) (n i : Nat) (h : i < n) : byteAt (l.take n) i = byteAt l i := by
  simp only [byteAt, List.getD_eq_getElem?_getD, List.getElem?_take, if_pos h]

theorem byteAt_drop (l : List Byte) (n i : Nat) : byteAt (l.drop n) i = byteAt l (n + i) := by
  simp only [byteAt, List.getD_eq_getElem?_getD, List.getElem?_drop]

/-! ### The words of a write -/

/-- The bytes of a write from address a on. -/
def dataByte (a : Nat) (data : List Byte) (x : Nat) : Option Byte :=
  if a ≤ x ∧ x < a + data.length then some (byteAt data (x - a)) else none

theorem wordPart_length (a : Nat) (data : List Byte) (w : Nat) : (wordPart a data w).2.length =
    min (a + data.length) (32 * w + 32) - max a (32 * w) := by
  simp only [wordPart, List.length_take, List.length_drop]
  omega

theorem byteAt_wordPart (a : Nat) (data : List Byte) (w j : Nat) (h : j < (wordPart a data w).2.length) :
    byteAt (wordPart a data w).2 j = byteAt data (max a (32 * w) - a + j) := by
  rw [wordPart_length] at h
  rw [wordPart, byteAt_take _ _ _ h, byteAt_drop]

/-- What a host write makes of word w, where it stood as b. -/
def mergedWord (a : Nat) (data : List Byte) (w : Nat) (b : List Byte) : List Byte :=
  b.take (wordPart a data w).1 ++ (wordPart a data w).2 ++ b.drop ((wordPart a data w).1 + (wordPart a data w).2.length)

theorem hostWord_clean (p : Port) (a : Nat) (data : List Byte) (s : State) (k w : Nat) (hc : s.clean 0)
    (hlo : a < 32 * w + 32) (hhi : 32 * w < a + data.length) :
    hostWord p [] a data s k w = writeWord 0 w (mergedWord a data w (s.bytes 0 (32 * w) 32)) s := by
  unfold hostWord
  simp only [hostRead_clean p k w s hc]
  split_ifs with h
  · have hoff : (wordPart a data w).1 = 0 := by
      rw [wordPart_length] at h
      simp only [wordPart]
      omega
    rw [mergedWord, hoff, h, List.take_zero, List.nil_append, List.drop_eq_nil_of_le (State.length_bytes s 0 _ 32).le,
      List.append_nil]
    rfl
  · rfl

section

variable (a : Nat) (data : List Byte) (w : Nat) (s : State) (hlo : a < 32 * w + 32) (hhi : 32 * w < a + data.length)

include hlo hhi

theorem mergedWord_length : (mergedWord a data w (s.bytes 0 (32 * w) 32)).length = 32 := by
  simp only [mergedWord, List.length_append, List.length_take, List.length_drop, State.length_bytes, wordPart_length]
  simp only [wordPart]
  omega

theorem byteAt_mergedWord (x : Nat) (h1 : 32 * w ≤ x) (h2 : x < 32 * w + 32) :
    byteAt (mergedWord a data w (s.bytes 0 (32 * w) 32)) (x - 32 * w) = (dataByte a data x).getD (s.byte 0 x) := by
  have hoff : (wordPart a data w).1 = max a (32 * w) - 32 * w := rfl
  have hlen := wordPart_length a data w
  have hfirst : ((s.bytes 0 (32 * w) 32).take (wordPart a data w).1).length = (wordPart a data w).1 := by
    rw [List.length_take, State.length_bytes]
    omega
  have hold : s.byte 0 (32 * w + (x - 32 * w)) = s.byte 0 x := by rw [Nat.add_sub_cancel' h1]
  rw [mergedWord, List.append_assoc, byteAt_append, byteAt_append, hfirst]
  unfold dataByte
  by_cases hbefore : x < a
  · rw [if_pos (by omega), byteAt_take _ _ _ (by omega), byteAt_bytes _ _ _ _ _ (by omega), if_neg (by omega), hold,
      Option.getD_none]
  · by_cases hin : x < a + data.length
    · rw [if_neg (by omega), if_pos (by omega), byteAt_wordPart _ _ _ _ (by omega), if_pos (by omega), Option.getD_some]
      exact congrArg (byteAt data) (by omega)
    · rw [if_neg (by omega), if_neg (by omega), byteAt_drop, byteAt_bytes _ _ _ _ _ (by omega), if_neg (by omega), ← hold,
        Option.getD_none]
      exact congrArg (s.byte 0) (by omega)

/-- One word of a host write writes the bytes that fall into it. -/
theorem hostWord_writes (p : Port) (k : Nat) (hc : s.clean 0) : Writes s (hostWord p [] a data s k w)
    (fun x => if 32 * w ≤ x ∧ x < 32 * w + 32 then dataByte a data x else none) := by
  rw [hostWord_clean p a data s k w hc hlo hhi]
  have hw := writeWord_writes w _ s hc (mergedWord_length a data w s hlo hhi)
  refine ⟨fun x => ?_, hw.frame, hw.upset⟩
  rw [hw.byte]
  split_ifs with h
  · exact byteAt_mergedWord a data w s hlo hhi x h.1 h.2
  · rfl

end

theorem wordsOf_touched (a n w : Nat) (h : w ∈ wordsOf a n) : a < 32 * w + 32 ∧ 32 * w < a + n := by
  unfold wordsOf at h
  split_ifs at h with hn
  · exact absurd h List.not_mem_nil
  · obtain ⟨i, hi, rfl⟩ := List.mem_map.mp h
    have hi' := List.mem_range.mp hi
    omega

theorem wordOf_mem (a n x : Nat) (h : a ≤ x ∧ x < a + n) : x / 32 ∈ wordsOf a n := by
  rw [wordsOf, if_neg (by omega)]
  exact List.mem_map.mpr ⟨x / 32 - a / 32, List.mem_range.mpr (by omega), by omega⟩

theorem getLast?_of_all {α : Type} (l : List α) (v : α) (hne : l ≠ []) (h : ∀ y ∈ l, y = v) : l.getLast? = some v := by
  rw [List.getLast?_eq_some_getLast hne, h _ (List.getLast_mem hne)]

/-- Of the words of a write just the one that holds a byte writes it. -/
theorem dataByte_words (a : Nat) (data : List Byte) (x : Nat) :
    ((wordsOf a data.length).zipIdx.filterMap (fun e =>
      if 32 * e.1 ≤ x ∧ x < 32 * e.1 + 32 then dataByte a data x else none)).getLast? = dataByte a data x := by
  cases hv : dataByte a data x with
  | none => simp
  | some v =>
    have hin : a ≤ x ∧ x < a + data.length := by
      by_contra hout
      rw [dataByte, if_neg hout] at hv
      exact nomatch hv
    have hmem := wordOf_mem a data.length x hin
    rw [← List.zipIdx_map_fst 0 (wordsOf a data.length)] at hmem
    obtain ⟨e, he, hword⟩ := List.mem_map.mp hmem
    have hv' : v ∈ (wordsOf a data.length).zipIdx.filterMap
        (fun e => if 32 * e.1 ≤ x ∧ x < 32 * e.1 + 32 then some v else none) :=
      List.mem_filterMap.mpr ⟨e, he, if_pos (by omega)⟩
    refine getLast?_of_all _ v (List.ne_nil_of_mem hv') fun y hy => ?_
    obtain ⟨e, -, hy⟩ := List.mem_filterMap.mp hy
    split_ifs at hy
    exact (Option.some.inj hy).symm

/-! ### The slices of a write -/

theorem writeSlice_unmapped (p : Port) (k : Nat) (data : List Byte) (s : State) (o : Nat) (h : s.window p o = none) :
    writeSlice p [] k data s o = s := by
  simp only [writeSlice, h]

theorem writeSlice_mapped (p : Port) (k : Nat) (data : List Byte) (s : State) (o a : Nat) (h : s.window p o = some a)
    (hc : s.clean 0) : Writes s (writeSlice p [] k data s o) (dataByte a data) := by
  simp only [writeSlice, h]
  refine (foldl_writes s _ (fun e x => if 32 * e.1 ≤ x ∧ x < 32 * e.1 + 32 then dataByte a data x else none) _
    fun t g e he ht => ?_).congr (dataByte_words a data)
  have hmem : e.1 ∈ wordsOf a data.length := by
    rw [← List.zipIdx_map_fst 0 (wordsOf a data.length)]
    exact List.mem_map_of_mem he
  obtain ⟨hlo, hhi⟩ := wordsOf_touched a data.length e.1 hmem
  exact hostWord_writes a data e.1 t hlo hhi p (k + e.2) (ht.clean hc)

/-- The bytes that the part of a write in one slice writes, for an access that begins at offset o. -/
def State.sliceWrites (s : State) (p : Port) (o : Nat) (data : List Byte) (e : Nat × Nat) (x : Nat) : Option Byte :=
  match s.window p e.1 with
  | none => none
  | some a => if a ≤ x ∧ x < a + e.2 then some (byteAt data (e.1 - o + (x - a))) else none

theorem dataByte_bytesAt (a : Nat) (data : List Byte) (i n x : Nat) : dataByte a (bytesAt data i n) x =
    if a ≤ x ∧ x < a + n then some (byteAt data (i + (x - a))) else none := by
  have hlen : (bytesAt data i n).length = n := by rw [bytesAt, List.length_map, List.length_range]
  rw [dataByte, hlen]
  split_ifs with h
  · have hj : x - a < n := by omega
    refine congrArg some ?_
    rw [byteAt, bytesAt]
    simp [hj]
  · rfl

theorem writeSlice_writes (p : Port) (k o : Nat) (data : List Byte) (s : State) (e : Nat × Nat) (hc : s.clean 0) :
    Writes s (writeSlice p [] k (bytesAt data (e.1 - o) e.2) s e.1) (s.sliceWrites p o data e) := by
  unfold State.sliceWrites
  cases h : s.window p e.1 with
  | none =>
    rw [writeSlice_unmapped p k _ s e.1 h]
    exact Writes.refl s _ fun _ => rfl
  | some a => exact (writeSlice_mapped p k _ s e.1 a h hc).congr (dataByte_bytesAt a data _ e.2)

theorem Writes.sliceWrites {s t : State} {f : Nat → Option Byte} (h : Writes s t f) (p : Port) (o : Nat) (data : List Byte)
    (e : Nat × Nat) : t.sliceWrites p o data e = s.sliceWrites p o data e := by
  rw [h.frame]
  rfl

/-- One slice of a write that begins at an offset. -/
def writeStep (p : Port) (o : BitVec 28) (data : List Byte) (t : State) (e : Nat × Nat) : State :=
  writeSlice p [] (wordFrom o e.1) (bytesAt data (e.1 - o.toNat) e.2) t e.1

theorem exec_stagingWindowWrite (s : State) (p : Port) (o : BitVec 28) (data : List Byte) (hh : s.hears p = true)
    (hc : s.clean 0) : ∃ t, exec (.stagingWindowWrite p o data ⟨[], []⟩) s = .next t ∧
      Writes s t (fun x => ((slices o.toNat data.length).filterMap (s.sliceWrites p o.toNat data · x)).getLast?) := by
  refine ⟨(slices o.toNat data.length).foldl (writeStep p o data) s, ?_,
    foldl_writes s _ (s.sliceWrites p o.toNat data) _ fun t g e _ ht => ?_⟩
  · rw [exec, execStagingWindowWrite, if_pos hh]
    rfl
  rw [← ht.sliceWrites]
  exact writeSlice_writes p _ _ data t e (ht.clean hc)

end Sys2Proof.Machine

namespace Sys2Proof.Proofs

open Sys2Proof Sys2Proof.Machine

/-- Settles O29, by the slices of an access, and the words of each. -/
theorem stagingWindowCommands : Obligations.StagingWindowCommands := by
  refine ⟨fun s p a x d hh hx ht => ?_, fun s p a x d hh hx => ?_, fun s p a d hx => ⟨?_, ?_⟩, fun s p o n hh hc => ?_,
    fun s p o n a w hh ha hn hw hu hd => ?_, fun s p o data hh hc => ?_⟩
  · rw [exec, execStagingWindowMap, hostWrite_on _ _ _ hh, writeWin_page s p a.val x d hx ht]
  · rw [exec, execAllotSchedWrite, hostWrite_on _ _ _ hh, writeSched_page s p a.val x d hx]
  · rw [exec, execStagingWindowMap, hostWrite, writeWin_none s p a.val d hx, ite_self]
  · rw [exec, execAllotSchedWrite, hostWrite, writeSched_none s p a.val d hx, ite_self]
  · exact exec_stagingWindowRead_clean s p o n hh hc
  · obtain ⟨hcounts, hbad⟩ := readSlice_poisoned p (wordFrom o o.toNat) (o.toNat, n.toNat) s a w ha hw hu hd
    have hread := exec_stagingWindowRead s p o n hh
    rw [slices_within _ _ hn, List.foldl_cons, List.foldl_nil, sliceStep, hbad, readAnswer] at hread
    refine ⟨_, hread, ?_, ?_⟩
    · rw [hcounts]
      rfl
    · rw [hcounts]
      rfl
  · obtain ⟨t, ht, hw⟩ := exec_stagingWindowWrite s p o data hh hc
    exact ⟨t, ht, hw.byte, hw.frame, hw.upset⟩

end Sys2Proof.Proofs
end

section
/-! SUPPORT. The registers of a module right after a reset, block by block: which of them do not read 0. -/

namespace Sys2Proof.Machine

/-! ### Fields of a zero register -/

@[simp] theorem put32_zero (n lo : Nat) : put32 (0#n) lo = 0#32 := by
  rw [put32, BitVec.setWidth_zero, BitVec.zero_shiftLeft]

@[simp] theorem flag_false (i : Nat) : flag false i = 0#32 := put32_zero 1 i

theorem byteAt_nil (i : Nat) : byteAt [] i = 0 := rfl

theorem le_nil (w i n : Nat) : le w [] i n = 0#w := by
  have hzero : ∀ n, leNat (List.replicate n (0 : Byte)) = 0 := fun n => by
    induction n with
    | zero => rfl
    | succ n ih => rw [List.replicate_succ, leNat, ih]; rfl
  have hbytes : bytesAt [] i n = List.replicate n 0 := by
    simp only [bytesAt, byteAt_nil, List.map_const', List.length_range]
  rw [le, hbytes, hzero]

/-! ### The numbered parts at reset -/

theorem State.reset_count (k : Nat) : State.reset.count k = 0#32 := rfl
theorem State.reset_mover (m : Nat) : State.reset.mover m = {} := rfl
theorem State.reset_ddr (c : Nat) : State.reset.ddr c = {} := rfl
theorem State.reset_hbm (i : Nat) : State.reset.hbm i = {} := rfl
theorem State.reset_spk (k : Nat) : State.reset.spk k = {} := rfl
theorem State.reset_trn (k : Nat) : State.reset.trn k = {} := rfl
theorem State.reset_strobe (g : Nat) : State.reset.strobe g = {} := rfl
theorem State.reset_allot (n : Nat) : State.reset.allot n = none := rfl
theorem State.reset_groupOwner (g : Nat) : State.reset.groupOwner g = none := rfl

theorem State.reset_moverOwner (m : Nat) : State.reset.moverOwner m = none := by
  unfold State.moverOwner
  split_ifs <;> rfl

theorem State.reset_groupExists (g : Nat) : State.reset.groupExists g = false := by
  rw [State.groupExists, regionWord, show State.reset.boot.repair = [] from rfl, le_nil, bit, BitVec.getLsbD_zero]

/-! ### Their registers -/

theorem movReg_reset (m o : Nat) : movReg State.reset m o = 0#32 := by
  unfold movReg
  split <;> simp [State.reset_mover, State.reset_moverOwner, State.hidden, State.reset_count, ownedBy]

theorem ddrReg_reset (c o : Nat) : ddrReg State.reset c o = 0#32 := by
  unfold ddrReg
  split <;> simp [State.reset_ddr, State.reset_count, ueReg]

theorem hbmReg_reset (i o : Nat) : hbmReg State.reset i o = 0#32 := by
  have hsites : popSites State.reset.boot.variant.toNat = [] := rfl
  unfold hbmReg
  split <;> simp [hsites, State.reset_hbm, State.reset_count, ueReg]

theorem spkReg_reset (k o : Nat) (h : o ≠ 0) : spkReg State.reset k o = 0#32 := by
  unfold spkReg
  rw [if_neg h]
  simp [State.reset_spk, State.reset_count, le_nil]

theorem sitePos_reset (g i : Nat) : sitePos (regionWord State.reset.boot.repair g) i = none := by
  have hoff : bit (regionWord State.reset.boot.repair g) 31 = false := State.reset_groupExists g
  rw [sitePos, hoff]
  rfl

theorem arrReg_reset (p st o : Nat) : arrReg State.reset p st o = 0#32 := by
  simp only [arrReg, sitePos_reset]
  rfl

theorem ringReg_reset (r o : Nat) : ringReg State.reset r o = 0#32 := by
  unfold ringReg
  split <;> simp [State.reset_ring, State.reset_allot]

theorem strobeReg_reset (g o : Nat) : strobeReg State.reset g o = if o = 0 then 0x100000#32 else 0#32 := by
  unfold strobeReg
  split <;> simp_all [State.reset_strobe]

/-! ### Blocks -/

theorem pageReg_reset (p : Port) (n o : Nat) : pageReg State.reset p n o = 0#32 := rfl

theorem trnReg_reset (o : Nat) : trnReg State.reset o = 0#32 := by
  unfold trnReg
  split_ifs
  · split <;> simp [State.reset_trn, fld]
  · simp only [State.reset_trn]
    split <;> simp [fld]
  · simp [State.reset_trn]
  · simp [State.reset_trn]
  · rfl

theorem rteReg_reset (o : Nat) : rteReg State.reset o = 0#32 := by
  unfold rteReg
  split_ifs <;> rfl

/-- The registers of a gatehouse, but the status of its spokes, which names the spoke. -/
theorem ghReg_reset (h o : Nat) (hs : ¬(0x60000 ≤ o ∧ o < 0x61200 ∧ o % 256 = 0)) : ghReg State.reset h o = 0#32 := by
  have hspk : (if 0x60000 ≤ o ∧ o < 0x61200 then spkReg State.reset (18 * h + (o - 0x60000) / 256) (o % 256)
      else 0#32) = 0#32 := by
    split_ifs
    · exact spkReg_reset _ _ (by omega)
    · rfl
  have hhold : (put32 (if h = 0 then State.reset.self.hold0.buf else State.reset.self.hold1.buf) 0) = 0#32 := by
    split_ifs <;> rfl
  have hall : ((List.range 8).all fun c => (State.reset.ddr c).trained) = false := rfl
  simp [ghReg, movReg_reset, ddrReg_reset, State.reset_count, hall, hhold, hspk]

/-- The registers of a pavilion, but its spares, its level of rest and its bridges. -/
theorem pavReg_reset (p o : Nat) (h : ¬(0x20000 ≤ o ∧ o < 0x20008) ∧ o ≠ 0x2000C) : pavReg State.reset p o = 0#32 := by
  obtain ⟨hmap, hrest⟩ := h
  have hb : o ≠ 0x20000 := by omega
  have hs : o ≠ 0x20004 := by omega
  have hz : State.reset.zeroing = [] := rfl
  simp [pavReg, arrReg_reset, movReg_reset, hbmReg_reset, State.reset_count, hb, hs, hrest, State.reset_groupExists,
    State.reset_groupOwner, ownedBy, hz]

theorem idReg_reset_record (p : Port) (o : Nat) (h : 0x800 ≤ o ∧ o < 0xC00) : idReg State.reset p o = 0#32 := by
  unfold idReg
  rw [if_neg (by omega), if_pos h]
  dsimp only
  split <;> simp [State.reset, sget, fld]

/-! ### Where a block lies (Table 11-1) -/

section

variable (s : State) (p : Port) (off : Nat)

theorem regRead_id (h : off < 0x1000) : s.regRead p off = idReg s p (off / 4 * 4) := by
  unfold State.regRead
  rw [if_pos (by omega)]

theorem regRead_hst (h : 0x1000 ≤ off ∧ off < 0x2000) : s.regRead p off = hstReg s p (off / 4 * 4) := by
  unfold State.regRead
  rw [if_neg (by omega), if_pos (by omega)]

theorem regRead_hst_ring (h : 0x1100 ≤ off ∧ off < 0x1120) : s.regRead p off = ringReg s p.val (off / 4 * 4 - 0x1100) := by
  rw [regRead_hst s p off (by omega), hstReg]
  iterate 6 rw [if_neg (by omega)]
  rw [if_pos (by omega)]

theorem regRead_hst_strobe (h : 0x1200 ≤ off ∧ off < 0x1300) :
    s.regRead p off = strobeReg s ((off / 4 * 4 - 0x1200) / 16) (off / 4 * 4 % 16) := by
  rw [regRead_hst s p off (by omega), hstReg]
  iterate 7 rw [if_neg (by omega)]
  rw [if_pos (by omega)]

theorem regRead_global (h : 0x4000 ≤ off ∧ off < 0x40000) : s.regRead p off = globalReg s (off / 4 * 4) := by
  unfold State.regRead
  iterate 4 rw [if_neg (by omega)]
  rw [if_pos (by omega)]

theorem regRead_window (h : 0x8000 ≤ off ∧ off < 0x9000) :
    s.regRead p off = sget 0 s.upd.window ((off / 4 * 4 - 0x8000) / 4) := by
  rw [regRead_global s p off (by omega), globalReg]
  iterate 13 rw [if_neg (by omega)]
  rw [if_pos (by omega)]

theorem regRead_inventory (h : 0x6100 ≤ off ∧ off < 0x6200) :
    s.regRead p off = if s.fwUp then le 32 s.inventory (off / 4 * 4 - 0x6100) 4 else 0 := by
  rw [regRead_global s p off (by omega), globalReg]
  iterate 9 rw [if_neg (by omega)]
  rw [if_pos (by omega)]

theorem regRead_gh (h : 0x100000 ≤ off ∧ off < 0x300000) :
    s.regRead p off = ghReg s (off / 4 * 4 / 0x100000 - 1) (off / 4 * 4 % 0x100000) := by
  unfold State.regRead
  iterate 7 rw [if_neg (by omega)]
  rw [if_pos (by omega)]

theorem regRead_pav (h : 0x400000 ≤ off ∧ off < 0x800000) :
    s.regRead p off = pavReg s (off / 4 * 4 / 0x100000 - 4) (off / 4 * 4 % 0x100000) := by
  unfold State.regRead
  iterate 9 rw [if_neg (by omega)]
  rw [if_pos (by omega)]

theorem regRead_trn (h : 0x800000 ≤ off ∧ off < 0x840000) : s.regRead p off = trnReg s (off / 4 * 4 - 0x800000) := by
  unfold State.regRead
  iterate 10 rw [if_neg (by omega)]
  rw [if_pos (by omega)]

theorem regRead_rte (h : 0xA00000 ≤ off ∧ off < 0xA50000) : s.regRead p off = rteReg s (off / 4 * 4 - 0xA00000) := by
  unfold State.regRead
  iterate 12 rw [if_neg (by omega)]
  rw [if_pos (by omega)]

theorem regRead_page (h : 0x3000000 ≤ off ∧ off < 0x3100000) :
    s.regRead p off = pageReg s p ((off / 4 * 4 - 0x3000000) / 0x10000) (off / 4 * 4 % 0x10000) := by
  unfold State.regRead
  iterate 13 rw [if_neg (by omega)]
  rw [if_pos (by omega)]

end

/-! ### What a block reads right after a reset -/

section

variable (p : Port) (off : Nat)

theorem reset_record (h : 0x800 ≤ off ∧ off < 0xC00) : State.reset.regRead p off = 0 := by
  rw [regRead_id _ _ _ (by omega)]
  exact idReg_reset_record p _ (by omega)

theorem reset_portRing (h : 0x1100 ≤ off ∧ off < 0x1120) : State.reset.regRead p off = 0 := by
  rw [regRead_hst_ring _ _ _ h]
  exact ringReg_reset _ _

theorem reset_strobeGroup (h : 0x1200 ≤ off ∧ off < 0x1300) :
    State.reset.regRead p off = if off / 4 * 4 % 16 = 0 then 0x100000 else 0 := by
  rw [regRead_hst_strobe _ _ _ h]
  exact strobeReg_reset _ _

theorem reset_inventory (h : 0x6100 ≤ off ∧ off < 0x6200) : State.reset.regRead p off = 0 := by
  rw [regRead_inventory _ _ _ h]
  rfl

theorem reset_window (h : 0x8000 ≤ off ∧ off < 0x9000) : State.reset.regRead p off = 0 := by
  rw [regRead_window _ _ _ h]
  rfl

theorem reset_gh (h : (0x100000 ≤ off ∧ off < 0x300000) ∧
    ¬(0x60000 ≤ off % 0x100000 ∧ off % 0x100000 < 0x61200 ∧ off % 256 < 4)) : State.reset.regRead p off = 0 := by
  rw [regRead_gh _ _ _ h.1]
  exact ghReg_reset _ _ (by omega)

theorem reset_pav (h : (0x400000 ≤ off ∧ off < 0x800000) ∧ ¬(0x20000 ≤ off % 0x100000 ∧ off % 0x100000 < 0x20008) ∧
    ¬(0x2000C ≤ off % 0x100000 ∧ off % 0x100000 < 0x20010)) : State.reset.regRead p off = 0 := by
  rw [regRead_pav _ _ _ h.1]
  exact pavReg_reset _ _ ⟨by omega, by omega⟩

theorem reset_trn (h : 0x800000 ≤ off ∧ off < 0x840000) : State.reset.regRead p off = 0 := by
  rw [regRead_trn _ _ _ h]
  exact trnReg_reset _

theorem reset_rte (h : 0xA00000 ≤ off ∧ off < 0xA50000) : State.reset.regRead p off = 0 := by
  rw [regRead_rte _ _ _ h]
  exact rteReg_reset _

theorem reset_page (h : 0x3000000 ≤ off ∧ off < 0x3100000) : State.reset.regRead p off = 0 := by
  rw [regRead_page _ _ _ h]
  exact pageReg_reset _ _ _

end

end Sys2Proof.Machine

namespace Sys2Proof.Proofs

open Sys2Proof Sys2Proof.Machine

/-- Settles O52, block by block; the registers that stand alone are read one by one. -/
theorem resetRegisters : Obligations.ResetRegisters := by
  unfold Obligations.ResetRegisters
  refine ⟨by decide +kernel, by decide +kernel, by decide +kernel, by decide +kernel, fun p => ?_, fun g => ?_, fun k => ?_,
    fun p j hj => ?_, fun a j hj => ?_, fun k j hj => ?_, fun i j hj => ?_, fun x j hj => ?_, fun g => ?_, fun w => ?_, fun w => ?_,
    by decide +kernel, by decide +kernel, by decide +kernel, by decide +kernel, by decide +kernel⟩
  · refine ⟨reset_pav 0 _ (by omega), reset_pav 0 _ (by omega),
      fun x k => ⟨reset_pav 0 _ (by omega), reset_pav 0 _ (by omega)⟩,
      fun k => reset_pav 0 _ (by omega), fun m j hj => reset_pav 0 _ ?_, fun i j hj => reset_pav 0 _ ?_, ?_⟩
    · simp only [List.mem_cons, List.not_mem_nil, or_false] at hj
      omega
    · simp only [List.mem_cons, List.not_mem_nil, or_false] at hj
      omega
    · revert p
      decide +kernel
  · refine ⟨fun j hj => reset_gh 0 _ ?_, fun k => reset_gh 0 _ (by omega), fun m j hj => reset_gh 0 _ ?_,
      fun c j hj => reset_gh 0 _ ?_⟩
    all_goals
      simp only [List.mem_cons, List.not_mem_nil, or_false] at hj
      omega
  · refine ⟨fun j hj => reset_gh 0 _ ?_, fun n => reset_gh 0 _ (by omega), fun n => reset_gh 0 _ (by omega)⟩
    simp only [List.mem_cons, List.not_mem_nil, or_false] at hj
    omega
  · simp only [List.mem_cons, List.not_mem_nil, or_false] at hj
    exact reset_portRing p _ (by omega)
  · simp only [List.mem_cons, List.not_mem_nil, or_false] at hj
    exact reset_page 0 _ (by omega)
  · simp only [List.mem_cons, List.not_mem_nil, or_false] at hj
    exact ⟨reset_trn 0 _ (by omega), reset_trn 0 _ (by omega), reset_trn 0 _ (by omega)⟩
  · simp only [List.mem_cons, List.not_mem_nil, or_false] at hj
    exact ⟨reset_rte 0 _ (by omega), fun e => reset_rte 0 _ (by omega)⟩
  · simp only [List.mem_cons, List.not_mem_nil, or_false] at hj
    exact reset_record 0 _ (by omega)
  · refine ⟨?_, ?_, ?_⟩ <;> rw [reset_strobeGroup _ _ (by omega)]
    · exact if_pos (by omega)
    · exact if_neg (by omega)
    · exact if_neg (by omega)
  · exact reset_window 0 _ (by omega)
  · exact reset_inventory 0 _ (by omega)

end Sys2Proof.Proofs
end
